-- ==== Sys2Proof/Word.lean ====
section
/-!
DEFINITION. The word types of the WDP-4872: bytes, records, channel masks, times, function and stall numbers, and the
canonical form of an addressed memory.
-/

namespace Sys2Proof

/-- A byte of host memory, DRAM or scratchpad. -/
abbrev Byte := BitVec 8

/-- The native 72-bit record; bit 71 is its most significant bit (R10). -/
abbrev Rec := BitVec 72

/-- One bit per probe channel, bit c is channel c. -/
abbrev ChanMask := BitVec 48

/-- System time in ticks; bits [63:8] stride, [7:5] sample, [4:0] fine position (R6). -/
abbrev Time := BitVec 64

/-- A dword of a register, ring entry or result. -/
abbrev Dword := BitVec 32

/-- A PCIe function: 0 the physical function, n virtual function n (R346). -/
abbrev Fn := Fin 64

/-- A stall; stall n belongs to function n (R346). -/
abbrev Stall := Fin 64

/-- A 64-byte submission entry, dword 0 first (R406). -/
abbrev SqEntry := Vector Dword 16

/-- An addressed memory: its listed bytes, addresses strictly rising, none equal to what an unlisted byte reads as. -/
abbrev Memory := List Host.Cell

/-- The submission entry of zeros. -/
def zeroEntry : SqEntry := Vector.replicate 16 0

/-- Bits [hi:lo] of a word as a number (R8). -/
def bits {n : Nat} (w : BitVec n) (hi lo : Nat) : Nat := (w.toNat / 2 ^ lo) % 2 ^ (hi - lo + 1)

/-- Bit i of a word (R8). -/
def bit {n : Nat} (w : BitVec n) (i : Nat) : Bool := w.getLsbD i

end Sys2Proof
end

