-- ==== Sys2Proof/Syntax.lean ====
section
/-!
DEFINITION. The commands of the WDP-4872 as a block: what comes from outside the digital block, as operands, and one
constructor of `Instr` per row of the opcode table.
-/

namespace Sys2Proof

/-- What an SRAM word read inside a command turns out to be (R404). -/
inductive Ecc where
  | clean
  | corrected
  | uncorrectable
  deriving DecidableEq, Repr

/-- What the words that a turn of the Groom and the command it takes read turn out to be: the Groom's bank, the stall's context, and the
secure bank, should the command read it (R404). -/
structure TakeEcc where
  bank : Ecc := .clean
  context : Ecc := .clean
  secure : Ecc := .clean
  deriving DecidableEq, Repr

/-- The byte enables of a write that lets a completion ring take what waits, and what the waiting entries that it takes read as, oldest first;
those beyond the list read clean (R398, R404). -/
structure RingBytes where
  be : BitVec 4
  ecc : List Ecc := []
  deriving DecidableEq, Repr

/-- A bit-view write at port B of a scratchpad: whether the other port writes the same word in this cycle, and what the word reads as before
the change (R401, R404). -/
structure PortB where
  collide : Bool := false
  ecc : Ecc := .clean
  deriving DecidableEq, Repr

/-- A configuration write of the host to a function: D3hot or D0, Relaxed Ordering Enable, Max_Read_Request_Size as its code (128 << code
bytes; the physical function's acts for all), and what the entries that wait read as once the ring may take them (R374, R377, R380, R404). -/
structure PmWrite where
  d3 : Bool
  relaxed : Bool := false
  maxRead : Fin 6 := 2
  ecc : List Ecc := []
  deriving DecidableEq, Repr

/-- What the host sets with VF Enable: ARI Capable Hierarchy and a System Page Size of 4 KiB << page (R378, R379). -/
structure VfControl where
  ari : Bool
  page : Fin 20 := 0
  deriving DecidableEq, Repr

/-- A sample of the die: the readings of the eight sensors and VDD_CORE in mV (R416, R463, R524). -/
structure DieIn where
  sensors : Vector (BitVec 16) 8
  vdd : BitVec 16 := 750
  deriving DecidableEq, Repr

/-- What the receivers of a link show: the lanes that have alignment, and once all have it the outcome of the ILAS or of the
extended-multiblock alignment (R287). -/
structure Alignment where
  lanes : BitVec 8
  ilas : Option Bool := none
  deriving DecidableEq, Repr

/-- A command by its tag, and where the work of a flash or tile job has come to (R413). -/
structure JobAt where
  tag : BitVec 16
  done : Nat := 0
  deriving DecidableEq, Repr

/-- What a read of host memory brings: the bytes, or a failure by R381. -/
inductive HostData where
  | bytes (l : List Byte)
  | failed
  deriving DecidableEq, Repr

/-- The read of host memory that an answer belongs to: a fetch of a function's submission ring, or a numbered read. -/
inductive ReadRef where
  | ring (f : Fn)
  | job (id : Nat)
  deriving DecidableEq, Repr

/-- What the balls of the channels that become live show against VTT and the thresholds (R47). -/
structure SeedIn where
  /-- Ball above VTT. -/
  above : ChanMask
  /-- Ball strictly between the thresholds. -/
  inside : ChanMask
  deriving DecidableEq, Repr

/-- What the 48 comparators, interpolators and TRIG_IN deliver in one stride (R18, R39, R48, R581). A channel's delay of R50 and R51 comes
after it; its least value is one stride less 256 ticks, so the balls' instants are those of the stride that follows (log entry 254). -/
structure StrideIn where
  /-- Bit s of channel c: the ball is above the upper threshold at the end of sample s. -/
  up : Vector (BitVec 8) 48
  /-- Bit s of channel c: the ball is below the lower threshold at the end of sample s. -/
  down : Vector (BitVec 8) 48
  /-- Bits 5s + 4 to 5s of channel c: the tick within sample s of the crossing in it, 0 where there is none. -/
  fine : Vector (BitVec 40) 48
  /-- Bit s of channel c: the ball is above the upper threshold at some moment of sample s. -/
  overs : Vector (BitVec 8) 48
  /-- Bit s of channel c: the ball is below the lower threshold at some moment of sample s. -/
  unders : Vector (BitVec 8) 48
  /-- Bit s of channel c: the ball is at or beyond a threshold at some moment of sample s. -/
  out : Vector (BitVec 8) 48
  /-- TRIG_IN at the end of each sample of the current stride (R161). -/
  trigIn : BitVec 8
  /-- What the balls show at the start of the stride, for channels that become live then (R47). -/
  seed : SeedIn
  deriving DecidableEq, Repr

/-- An edge of a Trot clock channel within the stride: its sample and fine position, and whether it is rising (R104). -/
structure TrotEdge where
  sample : Fin 8
  fine : BitVec 5
  rising : Bool
  deriving DecidableEq, Repr

/-- What a tile's calibration measures of its eight channels: path delays in ticks, comparator offsets and threshold-DAC gains (R62). -/
structure CalMeas where
  delay : List Int
  offset : List Int
  gain : List Int
  deriving DecidableEq, Repr

/-- The temperature a DRAM component reports: at most 85 °C, above it, or above the operating range (R256). -/
inductive CompTemp where
  | normal
  | above85
  | beyond
  deriving DecidableEq, Repr

/-- What names a running rate-limit interval: the event code, the key within the code, and the recipient (R454). -/
structure RateKey where
  code : BitVec 16
  sub : Nat
  fn : Fn
  deriving DecidableEq, Repr

/-- What wakes the device from Dormant: the PCIe receiver, or a Quera port (R509). -/
inductive WakeSrc where
  | pcie
  | quera (p : Fin 4)
  deriving DecidableEq, Repr

/-- What starts a boot: VDD_AON becoming valid, the release of RESET#, or a warm reset (R530). -/
inductive BootWhy where
  | powerOn
  | resetReleased
  | warm
  deriving DecidableEq, Repr

/-- What boot training finds of one lane: the fastest grade it trains at (none: not even 4800), and the unclaimed repair
resources of its 20 bank-group and component pairs (R277, R279). -/
structure LaneTrain where
  speed : Option (Fin 3)
  spares : List Nat
  deriving DecidableEq, Repr

/-- Blocks that a Quera port has received, as they stand on the line, sync header in the highest two bits: the 58 bits received before them
(the newest in bit 0), and the block of a message's second half with the one before it; none where that is not of type 0xD2 (R474, R475,
R477). -/
structure Received where
  before : BitVec 58
  first : Option (BitVec 66)
  second : BitVec 66
  deriving DecidableEq, Repr

/-- What the wake from Dormant finds: the chains' seed, and what the entries that wait in each function's store read as (R404, R509). -/
structure WakeIn where
  seed : SeedIn
  ecc : List (Fn × List Ecc) := []
  deriving DecidableEq, Repr

/-- The outcome of a boot step, by step (R531). -/
inductive BootOut where
  /-- Step 1: whether the crystal runs. -/
  | aon (crystal : Bool)
  /-- Step 2: whether every fuse row reads. -/
  | fuses (good : Bool)
  /-- Step 3: whether the flash is readable. -/
  | loader (readable : Bool)
  /-- Step 4: whether slots A and B read back as the images written, of the form of R543 and with a valid signature (R544). -/
  | verify (a b : Bool)
  /-- Step 5: whether the self-test passes and the ready signal comes. -/
  | groom (ok : Bool)
  /-- Step 6: the counts of a fast gate of REFA and of REFB, 0 where there is no edge, and whether the sample PLL locks (R70, R71). -/
  | pll (a b : Nat) (lock : Bool)
  /-- Step 7: tiles that pass a fresh calibration, and what it measures of each tile. -/
  | calibrate (pass : BitVec 6) (meas : Vector CalMeas 6)
  /-- Step 8: what training finds of each lane, and the soft-repaired rows for which no hard resource is left, and the rows that
  failed in training, each as lane times 2^21 plus row (R274, R277). -/
  | dram (lanes : Vector LaneTrain 4) (noHard badRows : List Nat)
  /-- Step 9: responses whose CRC fails. -/
  | rom (bad : BitVec 24)
  /-- Step 10: whether the ports came to life. -/
  | quera (ok : Bool)
  /-- Step 11: whether the endpoint is ready, with the negotiated speed and width. -/
  | pcie (ok : Bool) (speed width : Nat)
  /-- Step 12. -/
  | ready (ok : Bool)
  deriving DecidableEq, Repr

/-- How the flash work of `firmware_update` ends (R446, R546): whole with the verdict on the image's signature (R544), a read-back mismatch, or an operation beyond its limit. -/
inductive UpdateOut where
  | whole (signed : Bool)
  | mismatch
  | timeout
  deriving DecidableEq, Repr

/-- How far the flash has come with the oldest operation at a thermal trip: nothing of it is in the flash, its record, or its commit as well; a
program begun finishes inside the flash (R529, R537). -/
inductive FlashAt where
  | nothing
  | recorded
  | committed
  deriving DecidableEq, Repr

/-- A point of a `lifecycle` at work (R551): the credential's verdict and the wipe's, step 2 reached, or the end. -/
inductive LifeOut where
  /-- Whether the blob's signature holds, and how the secure bank read (R550). -/
  | credential (ok : Bool) (ecc : Ecc)
  /-- Step 2: the lifecycle slot is programmed. -/
  | programmed
  /-- Steps 3 to 6. -/
  | finished
  deriving DecidableEq, Repr

/-- The commands of the block: one constructor per row of the opcode table. -/
inductive Instr where
  /-- IDENTIFY: `identify` of the command in hand (R415). -/
  | identify
  /-- GET_HEALTH: `get_health` of the command in hand (R416). -/
  | getHealth
  /-- ATTEST: `attest` of the command in hand (R417). -/
  | attest
  /-- STALL_CREATE: `stall_create` of the command in hand (R349). -/
  | stallCreate
  /-- STALL_DESTROY: `stall_destroy` of the command in hand (R418). -/
  | stallDestroy
  /-- STALL_RESET: `stall_reset` of the command in hand (R418). -/
  | stallReset
  /-- STALL_GRANT: `stall_grant` of the command in hand (R355). -/
  | stallGrant
  /-- STALL_REVOKE: `stall_revoke` of the command in hand (R357). -/
  | stallRevoke
  /-- PROBE_CONFIG: `probe_config` of the command in hand; `seed` is what the balls show if channels become live (R421, R47). -/
  | probeConfig (seed : SeedIn)
  /-- PROBE_QUERY: `probe_query` of the command in hand (R422). -/
  | probeQuery
  /-- LATCH_CLEAR: `latch_clear` of the command in hand (R423). -/
  | latchClear
  /-- SLUICE_CONFIG_CHAIN: `sluice_config` operation 0 of the command in hand (R290). -/
  | sluiceConfigChain
  /-- SLUICE_CONFIG_LINK: `sluice_config` operation 1 of the command in hand (R284). -/
  | sluiceConfigLink
  /-- DC_FREEZE: `dc_control` freeze of the command in hand (R302). -/
  | dcFreeze
  /-- DC_THAW: `dc_control` thaw of the command in hand (R302). -/
  | dcThaw
  /-- DC_RESET: `dc_control` reset of the command in hand (R302). -/
  | dcReset
  /-- SLUICE_SYNC: `sluice_sync` of the command in hand (R425). -/
  | sluiceSync
  /-- COURSE_LOAD: `course_load` of the command in hand: the checks before the read, then the read (R180). -/
  | courseLoad
  /-- COURSE_QUERY: `course_query` of the command in hand (R427). -/
  | courseQuery
  /-- CAPTURE_ARM: `capture_arm` of the command in hand (R208). -/
  | captureArm
  /-- CAPTURE_STOP: `capture_stop` of the command in hand (R430). -/
  | captureStop
  /-- CAPTURE_FORCE: `capture_force` of the command in hand (R184). -/
  | captureForce
  /-- CAPTURE_MARK: `capture_mark` of the command in hand (R432). -/
  | captureMark
  /-- UPLOAD: `upload` of the command in hand: the checks before the list read, then the read (R433). -/
  | upload
  /-- UPLOAD_CANCEL: `upload_cancel` of the command in hand (R436). -/
  | uploadCancel
  /-- REFERENCE_LOAD: `reference_load` of the command in hand: the checks before the read, then the read (R437). -/
  | referenceLoad
  /-- REFERENCE_SELECT: `reference_select` of the command in hand (R438). -/
  | referenceSelect
  /-- CALIBRATE: `calibrate` of the command in hand (R439). -/
  | calibrate
  /-- SELFTEST: `selftest` test 0 of the command in hand (R440). -/
  | selftest
  /-- RETRY_LANES: `selftest` test 1 of the command in hand (R440). -/
  | retryLanes
  /-- QUERA_CONFIG: `quera_config` of the command in hand (R441). -/
  | queraConfig
  /-- QUERA_STATUS: `quera_status` of the command in hand (R442). -/
  | queraStatus
  /-- CROSS_TRIGGER_ROUTE: `cross_trigger_route` of the command in hand (R443). -/
  | crossTriggerRoute
  /-- POWER_STATE_DORMANT: `power_state` target 0 of the command in hand (R444). -/
  | powerStateDormant
  /-- POWER_STATE_DIKEWATCH: `power_state` target 1 of the command in hand (R444). -/
  | powerStateDikewatch
  /-- POWER_STATE_READY: `power_state` target 2 of the command in hand (R444). -/
  | powerStateReady
  /-- POWER_STATE_RUN: `power_state` target 3 of the command in hand (R444). -/
  | powerStateRun
  /-- PANEL_CONFIG_KEYS: `panel_config` with `set_keys` alone of the command in hand (R445). -/
  | panelConfigKeys
  /-- PANEL_CONFIG_LEDS: `panel_config` with `set_leds` of the command in hand (R445). -/
  | panelConfigLeds
  /-- FIRMWARE_UPDATE: `firmware_update` of the command in hand (R446). -/
  | firmwareUpdate
  /-- LIFECYCLE: `lifecycle` of the command in hand (R447). -/
  | lifecycle
  /-- JOURNAL_READ: `journal_read` of the command in hand; `readOk` says whether the flash read succeeded (R448). -/
  | journalRead (readOk : Bool)
  /-- UNKNOWN_OPCODE: a command in hand whose opcode is not served (R407). -/
  | unknownOpcode
  /-- GROOM_TAKE_COMMAND: the Groom's turn for function f, whose next slot holds `entry` (R394). -/
  | groomTakeCommand (f : Fn) (entry : SqEntry) (ecc : TakeEcc)
  /-- HOST_READ_COMPLETE: a read of host memory completes (R381). -/
  | hostReadComplete (r : ReadRef) (data : HostData)
  /-- HOST_READ_TIMEOUT: a read of host memory times out (R381). -/
  | hostReadTimeout (r : ReadRef)
  /-- SQ_TAIL_DOORBELL: a dword write whose alias is `SQ.TAIL` (R393). -/
  | sqTailDoorbell (f : Fn) (off : BitVec 12) (val : Dword) (be : BitVec 4)
  /-- CQ_HEAD_DOORBELL: a dword write whose alias is `CQ.HEAD` (R398). -/
  | cqHeadDoorbell (f : Fn) (off : BitVec 12) (val : Dword) (be : BitVec 4) (ecc : List Ecc)
  /-- SQ_ENABLE: a write of `WIN.CONTROL` that sets `sq_enable` (R395). -/
  | sqEnable (f : Fn) (off : BitVec 12) (val : Dword) (be : BitVec 4)
  /-- SQ_DISABLE: a write of `WIN.CONTROL` that clears `sq_enable` (R395). -/
  | sqDisable (f : Fn) (off : BitVec 12) (val : Dword) (be : BitVec 4)
  /-- CQ_ENABLE: a write of `WIN.CONTROL` that sets `cq_enable` (R398). -/
  | cqEnable (f : Fn) (off : BitVec 12) (val : Dword) (be : RingBytes)
  /-- CQ_DISABLE: a write of `WIN.CONTROL` that clears `cq_enable` (R398). -/
  | cqDisable (f : Fn) (off : BitVec 12) (val : Dword) (be : BitVec 4)
  /-- WIN_CONTROL_LOCK: a write of `WIN.CONTROL` with `lock` 1 (R390). -/
  | winControlLock (f : Fn) (off : BitVec 12) (val : Dword) (be : BitVec 4)
  /-- FAULT_LEAVE: a write of `WIN.CONTROL` with both enables 0 to a function in Fault (R389). -/
  | faultLeave (f : Fn) (off : BitVec 12) (val : Dword) (be : BitVec 4)
  /-- ERR_STATUS_CLEAR: a write of `ERR.STATUS` (R391). -/
  | errStatusClear (f : Fn) (off : BitVec 12) (val : Dword) (be : BitVec 4)
  /-- REGISTER_WRITE: a dword write to any offset of the window (R387). -/
  | registerWrite (f : Fn) (off : BitVec 12) (val : Dword) (be : BitVec 4)
  /-- SCRATCH_WRITE: a write of one word through a plain scratch view (R401). -/
  | scratchWrite (f : Fn) (off : BitVec 16) (data : BitVec 64) (be : BitVec 8) (collide : Bool)
  /-- SCRATCH_BIT_SET: a write of one word through the bit-set view (R401). -/
  | scratchBitSet (f : Fn) (off : BitVec 16) (data : BitVec 64) (be : BitVec 8) (port : PortB)
  /-- SCRATCH_BIT_CLEAR: a write of one word through the bit-clear view (R401). -/
  | scratchBitClear (f : Fn) (off : BitVec 16) (data : BitVec 64) (be : BitVec 8) (port : PortB)
  /-- MSIX_VECTOR_UNMASK: the host's control of the vectors; messages that nothing masks any longer are sent (R382). -/
  | msixVectorUnmask (f : Fn) (off : BitVec 32) (val : Dword) (be : BitVec 4) (enable fnMask : Option Bool)
  /-- MSIX_HOLDOFF_EXPIRY: `holdoff` of a source passes (R383). -/
  | msixHoldoffExpiry (f : Fn) (event : Bool)
  /-- FUNCTION_LEVEL_RESET: function-level reset (R12). -/
  | functionLevelReset (f : Fn)
  /-- VF_DISABLE: VF Enable cleared (n = 0), or NumVFs lowered to n (R365). -/
  | vfDisable (n : Fin 64)
  /-- D_STATE_CHANGE: the host writes the power management state of f and its Device Control (R374, R377, R380). -/
  | dStateChange (f : Fn) (w : PmWrite)
  /-- PERST: PERST# asserted: PCIe fundamental reset (R530). -/
  | perst
  /-- STALL_RESET_RELEASE: step 8 of the reset sequence of a stall (R367). -/
  | stallResetRelease (st : Stall)
  /-- COURSE_STRIDE: one stride of a stall: its samples, and its engine over them (R149). -/
  | courseStride (st : Stall) (inp : StrideIn)
  /-- COURSE_TIMER_LIMIT: a timer reaches its limit (R158). -/
  | courseTimerLimit (st : Stall) (n : Fin 32)
  /-- COURSE_COUNTER_COMPARE: a counter term follows its count (R157). -/
  | courseCounterCompare (st : Stall) (n : Fin 32)
  /-- STORE_ON_DEFERRED: a deferred store on takes effect (R225). -/
  | storeOnDeferred (st : Stall)
  /-- TRIG_OUT_PULSE_END: a TRIG_OUT pulse ends (R166). -/
  | trigOutPulseEnd (st : Stall)
  /-- HOOFBEAT: Canter: a hoofbeat of team t for the stride (R101). -/
  | hoofbeat (t : Fin 8)
  /-- TROT_CLOCK_EDGE: Trot: a selected edge of the clock channel (R104). -/
  | trotClockEdge (st : Stall) (edge : TrotEdge)
  /-- WALK_PERIOD_END: Walk: the period ends (R106). -/
  | walkPeriodEnd (st : Stall)
  /-- GALLOP_DENSE_BLOCK: Gallop: the dense block is complete (R126). -/
  | gallopDenseBlock (st : Stall)
  /-- KEYFRAME: a keyframe anchor falls due (R121). -/
  | keyframe (st : Stall)
  /-- POST_TRIGGER_FILL_END: the post-trigger fill reaches its last stride (R195). -/
  | postTriggerFillEnd (st : Stall)
  /-- GALLOP_FURLONG_CLOSE: Gallop: the closing furlong is complete (R131). -/
  | gallopFurlongClose (st : Stall)
  /-- SEGMENT_CLOSED: R220 is met for the oldest segment waiting (R220). -/
  | segmentClosed (st : Stall) (seed : SeedIn)
  /-- SEGMENT_OPEN: the next segment opens (R199). -/
  | segmentOpen (st : Stall) (seed : SeedIn)
  /-- LATCH_EXCURSION: a sample has the ball beyond a threshold (R42). -/
  | latchExcursion (c : Fin 48) (above : Bool) (sample : Fin 8)
  /-- DWELL_MET: the band dwell is met by the residence whose first sample is `first` (R44). -/
  | dwellMet (c : Fin 48) (first : Time)
  /-- OPEN_CHECK_END: the open check ends (R45). -/
  | openCheckEnd (c : Fin 48) (undriven : Bool)
  /-- POD_PLUG: a plug is recognised, with the time of R55 (R57). -/
  | podPlug (p : Fin 6) (t : Time)
  /-- POD_PWR_SETTLED: 2 ms after Pp_PWR came on (R57). -/
  | podPwrSettled (p : Fin 6)
  /-- POD_DESCRIPTOR_READ: the descriptor read ends; none when the EEPROM did not acknowledge (R53). -/
  | podDescriptorRead (p : Fin 6) (bytes : Option (List Byte)) (seed : SeedIn)
  /-- POD_UNPLUG: an unplug is recognised, with the time of R55 (R56). -/
  | podUnplug (p : Fin 6) (t : Time)
  /-- POD_OVERCURRENT: the pod has drawn more than the limit for 100 µs since t (R33). -/
  | podOvercurrent (p : Fin 6) (t : Time)
  /-- SPUR_PRESS: a press of the spur button is recognised (R59). -/
  | spurPress (p : Fin 6) (t : Time)
  /-- KEY_PRESS: a press of a front-panel key is recognised (R517). -/
  | keyPress (k : Fin 8) (t : Time)
  /-- LED_BLINK_TOGGLE: half a blink period passes (R519). -/
  | ledBlinkToggle
  /-- CALIBRATE_TILE_DONE: a tile's calibration ends (R62). -/
  | calibrateTileDone (p : Fin 6) (pass : Bool) (meas : CalMeas)
  /-- SELFTEST_DONE: a channel test ends (R440). -/
  | selftestDone (f : Fn) (tag : BitVec 16) (failed : ChanMask) (checks : BitVec 4)
  /-- SHADOW_CYCLE: the shadow comparator of a tile completes a cycle (R63). -/
  | shadowCycle (p : Fin 6) (corr : List (Int × Int))
  /-- CALIBRATION_DRIFT_PENDING: a pending correction above 2 ticks is 1 s old (R64). -/
  | calibrationDriftPending (c : Fin 48)
  /-- TILE_SENSOR_SAMPLE: the tile sensors are sampled (R65). -/
  | tileSensorSample (temps : Vector (BitVec 16) 6) (supplies : Vector Int 6)
  /-- TILE_SPREAD_RESTORED: both tile limits have been met again for 100 ms (R65). -/
  | tileSpreadRestored
  /-- LONG_GATE_END: a long gate ends, of REFB when b, else of REFA (R71). -/
  | longGateEnd (b : Bool) (count : Nat)
  /-- FAST_GATE_END: a fast gate ends (R71). -/
  | fastGateEnd (b : Bool) (count : Nat)
  /-- REFERENCE_LOSS: no edge of the reference for 40 ns (R72). -/
  | referenceLoss (b : Bool)
  /-- HOLDOVER_60S: 60 s of holdover have passed (R75). -/
  | holdover60s
  /-- PLL_LOCK_LOSS: the sample PLL loses lock (R84). -/
  | pllLockLoss
  /-- RELOCK_DONE: the relock ends (R85). -/
  | relockDone
  /-- AON_CLOCK_LOSS: no always-on edge (R92). -/
  | aonClockLoss
  /-- AON_CLOCK_RESTORED: the crystal has run again for 1 s (R92). -/
  | aonClockRestored
  /-- SYSREF_EDGE: a SYSREF edge, stamped to the sample (R93). -/
  | sysrefEdge (t : Time)
  /-- SYNC_EDGE: an accepted SYNC edge, stamped to the sample (R95). -/
  | syncEdge (t : Time)
  /-- SYNC_INSTANT: the oldest sync instant Y is reached (R293). -/
  | syncInstant
  /-- JESD_FRAME: a frame or multiblock is released (R288). -/
  | jesdFrame (l : Fin 2) (err : Bool) (samples : List (BitVec 16))
  /-- LINK_UP: a link aligns: the lanes aligned so far, and the outcome of the last stage of the alignment once it is over (R287, R314). -/
  | linkUp (l : Fin 2) (seen : Alignment)
  /-- LINK_LOST: a link is lost (R287). -/
  | linkLost (l : Fin 2) (aligned : BitVec 8)
  /-- CHAIN_OUTPUT: a chain delivers its next output (R304). -/
  | chainOutput (n : Fin 8)
  /-- DETECTOR_OUTPUT: a detector window or cycle delivers its output (R306). -/
  | detectorOutput (n : Fin 8)
  /-- CYCLE_END: the cycle source of a chain ends a cycle (R308). -/
  | cycleEnd (n : Fin 8) (t : Time)
  /-- DC_FREEZE_HOLD_EXPIRY: the autofreeze hold passes (R302). -/
  | dcFreezeHoldExpiry (n : Fin 8)
  /-- LANE_WRITE_ISSUE: the oldest block of a slice enters its bank queue (R218). -/
  | laneWriteIssue (l : Fin 4) (ecc : Ecc)
  /-- DRAM_SCHEDULE: one scheduling slot of a lane (R248). -/
  | dramSchedule (l : Fin 4)
  /-- WRITE_ACK: a write is acknowledged (R266). -/
  | writeAck (l : Fin 4) (id : Nat)
  /-- DRAM_READ_DATA: the data of the oldest read returns, its beats with some bits flipped, those of record 0 first; beats not listed come as
  they were written (R243, R269). -/
  | dramReadData (l : Fin 4) (flips : List (BitVec 80))
  /-- LANE_FAULT: a lane has issued no write for the limit of R217 (R217). -/
  | laneFault (l : Fin 4)
  /-- DRAM_REFRESH: a refresh falls due (R255). -/
  | dramRefresh (l : Fin 4)
  /-- MR4_READ: the component temperatures are read (R256). -/
  | mr4Read (l : Fin 4) (temps : Vector CompTemp 5)
  /-- NR_TABLE_CLEAR: the activate table is cleared (R259). -/
  | nrTableClear (l : Fin 4)
  /-- NEIGHBOUR_REFRESH: the neighbours of the oldest due row are refreshed (R261). -/
  | neighbourRefresh (l : Fin 4)
  /-- DQS_OSC_CHECK: the DQS oscillator is read; the delay has moved by `drift` unit intervals since the last reading (R263). -/
  | dqsOscCheck (l : Fin 4) (drift : Rat)
  /-- ALERT_N_FALL: ALERT_n falls (R267). -/
  | alertNFall (l : Fin 4)
  /-- ALERT_N_RISE: ALERT_n rises (R267). -/
  | alertNRise (l : Fin 4)
  /-- LANE_DEMOTE: an unstable lane is demoted; `passed` is the grade it trains at, if any (R275). -/
  | laneDemote (l : Fin 4) (passed : Option (BitVec 2))
  /-- SOFT_REPAIR: the oldest queued soft repair starts (R272). -/
  | softRepair
  /-- SOFT_REPAIR_END: the running soft repair ends; the bits that came flipped in the beats of each block of the row as the repair read them, the
block of column burst 0 first, of which those left out are clean (R243, R272). -/
  | softRepairEnd (flips : List (List (BitVec 80)))
  /-- SCRUB_STEP: the patrol scrub visits its next block; its request entered P3 `ago` ticks before this stride (R251, R270). -/
  | scrubStep (l : Fin 4) (ago : BitVec 8)
  /-- WIPE_PARCEL_DONE: the last block of a parcel in the wipe queue is acknowledged (R371). -/
  | wipeParcelDone (p : Fin 4096)
  /-- COMPRESSOR_CHUNK_DONE: a compressor finishes its chunk as one DEFLATE block, its bits in stream order (R318, R324). -/
  | compressorChunkDone (k : Fin 4) (block : List Bool) (ecc : Ecc)
  /-- UPLOAD_CHUNK_READ: the blocks of the stall's next chunk have been read (R323). -/
  | uploadChunkRead (st : Stall)
  /-- DECOMPRESSOR_BALE_DONE: a decompressor finishes a bale (R331). -/
  | decompressorBaleDone (d : Fin 2) (ecc : Ecc)
  /-- PLAYBACK_TIMED_START: the timed start of a stall falls due (R336). -/
  | playbackTimedStart (st : Stall)
  /-- PLAYBACK_STAGING_REFILL: reference blocks arrive in the staging slice (R340). -/
  | playbackStagingRefill (st : Stall) (ecc : Ecc)
  /-- PLAYBACK_END: the reference has been compared to its end (R341). -/
  | playbackEnd (st : Stall)
  /-- PLAYBACK_UNDERRUN: the staging slice runs empty (R341). -/
  | playbackUnderrun (st : Stall)
  /-- EVENT_RATE_INTERVAL_END: a rate-limit interval ends (R454). -/
  | eventRateIntervalEnd (key : RateKey)
  /-- QUERA_TIMING_SEND: a timing request is sent, which falls due at a tick (R484). -/
  | queraTimingSend (p : Fin 4) (due : Time)
  /-- QUERA_TIMING_REQUEST: a timing request arrives at T2 and is answered by what can leave from a tick on (R484). -/
  | queraTimingRequest (p : Fin 4) (rx : Received) (t2 : Time) (ready : Time)
  /-- QUERA_TIMING_RESPONSE: a timing response arrives (R484). -/
  | queraTimingResponse (p : Fin 4) (rx : Received) (t4 : Time)
  /-- QUERA_TIME_STEP: the waiting time step is made (R486). -/
  | queraTimeStep
  /-- QUERA_TOPOLOGY_SEND: a topology message is sent (R476). -/
  | queraTopologySend (p : Fin 4)
  /-- QUERA_TOPOLOGY_MSG: a topology message arrives (R482). -/
  | queraTopologyMsg (p : Fin 4) (rx : Received)
  /-- QUERA_IDENTIFY_SEND: an identify message is sent (R476). -/
  | queraIdentifySend (p : Fin 4)
  /-- QUERA_IDENTIFY_MSG: an identify message arrives (R481). -/
  | queraIdentifyMsg (p : Fin 4) (rx : Received)
  /-- QUERA_CENSUS_MSG: a census message arrives (R480). -/
  | queraCensusMsg (p : Fin 4) (rx : Received)
  /-- QUERA_CROSS_TRIGGER_MSG: a cross-trigger message arrives (R493). -/
  | queraCrossTriggerMsg (p : Fin 4) (rx : Received)
  /-- QUERA_PORT_UP: a port comes up (R479). -/
  | queraPortUp (p : Fin 4)
  /-- QUERA_PORT_DOWN: a port goes down (R477). -/
  | queraPortDown (p : Fin 4)
  /-- SHED_STAGE_ENTER: a supply stage is entered (R520). -/
  | shedStageEnter (n : Fin 5) (src : BitVec 4) (mv : BitVec 16)
  /-- SHED_STAGE_LEAVE: the supply falls to stage n, the leaving conditions of those above having held for 1 ms (R520, R522). -/
  | shedStageLeave (n : Fin 4 := 0) (mv : BitVec 16 := 750)
  /-- STAGE4_BEGIN: stage 4 begins (R238). -/
  | stage4Begin
  /-- TJ_SAMPLE: the die is sampled (R463, R524). -/
  | tjSample (q : DieIn)
  /-- THERMAL_STAGE_LEAVE: the thermal stage is left (R525). -/
  | thermalStageLeave
  /-- THERMAL_TRIP: the trip comparator fires, the flash being where `fl` says (R463, R529). -/
  | thermalTrip (fl : FlashAt := .nothing) (mv : BitVec 16 := 750)
  /-- POWER_TRANSITION_DONE: a power transition ends (R505). -/
  | powerTransitionDone (bad : BitVec 4)
  /-- DIKEWATCH_SAMPLE: a stride of the watch (R511). -/
  | dikewatchSample (inp : StrideIn)
  /-- DIKEWATCH_WAKE_DONE: the wake from Dikewatch ends (R514). -/
  | dikewatchWakeDone (ecc : Ecc) (lost : List Nat) (bad : BitVec 4) (seed : SeedIn)
  /-- DORMANT_WAKE: the device wakes from Dormant (R509). -/
  | dormantWake (src : WakeSrc) (cycles : Nat) (w : WakeIn)
  /-- BOOT_START: a boot starts (R530). -/
  | bootStart (why : BootWhy)
  /-- BOOT_STEP_DONE: the running boot step ends (R531). -/
  | bootStepDone (out : BootOut)
  /-- BOOT_STEP_TIMEOUT: the running boot step passes its limit (R531). -/
  | bootStepTimeout
  /-- FIRMWARE_UPDATE_DONE: the flash work of `firmware_update` ends (R546). -/
  | firmwareUpdateDone (verdict : UpdateOut)
  /-- LIFECYCLE_DONE: the work of `lifecycle` ends (R551). -/
  | lifecycleDone (verdict : LifeOut)
  /-- TAMPER_ASSERT: a TAMPER input asserts (R552). -/
  | tamperAssert (which : Bool)
  /-- GLITCH_DETECT: the glitch detector fires (R552). -/
  | glitchDetect
  /-- SECURE_WIPE_DONE: the wipe of the secure bank ends (R553). -/
  | secureWipeDone (ok : Bool)
  /-- VF_ENABLE: the host sets VF Enable with NumVFs n (R378, R379). -/
  | vfEnable (n : Fin 64) (c : VfControl)
  /-- PROGRESS_ENTRY_DUE: a progress entry falls due (R413). -/
  | progressEntryDue (f : Fn) (job : JobAt)
  /-- FLASH_WRITE_DONE: the oldest flash work ends (R537). -/
  | flashWriteDone (ok : Bool)
  /-- POWER_STATE_TIMEOUT: Run is not reached within its limit (R505). -/
  | powerStateTimeout
  /-- EVENT_RECORD_LEAVES_QUEUE: the oldest event record leaves the queue (R136). -/
  | eventRecordLeavesQueue
  /-- RESET_ASSERT: RESET# asserted (R559). -/
  | resetAssert
  /-- POWER_LOSS: the supplies fail (R560). -/
  | powerLoss
  /-- KEY_RELEASE: a release of a front-panel key is recognised (R517). -/
  | keyRelease (k : Fin 8)
  /-- SPUR_RELEASE: a release of the spur button is recognised (R59). -/
  | spurRelease (p : Fin 6)
  deriving DecidableEq, Repr

end Sys2Proof
end

