-- ==== Sys2Proof/Config.lean ====
section
/-!
DEFINITION. What an implementation fixes and the spec does not give: opaque constants, so that no proof can see a value of
them. Each is applied to what it depends on; the assumption log names every one.
-/

namespace Sys2Proof

/-- The n-th value the spec leaves open, where it depends on nothing the spec names (log entry 8). -/
opaque Config.freeValue : Nat → BitVec 64

/-- The phase trim's interpolator: a sample from a trim that is not 0 and the nine inputs about it, newest first (R294 gives its delay and
not its coefficients). -/
opaque Config.trimmed : Int → List Int → Int

/-- Which of the 24-bit corrections within R296's bound the CIC uses for an R that is no power of two. -/
opaque Config.cicGain : Nat → Nat

/-- The 18-bit coefficients of a FIR response's taps, to the middle one (R297 gives shapes and edges and not the coefficients). -/
opaque Config.firCoef : Nat → Nat → BitVec 18

/-- The binary point of a response's coefficients (R297 does not give it). -/
opaque Config.firPoint : Nat → Nat

/-- The resampler's coefficients: the phase of 1024, and the place among the 16 conditioned samples, oldest first (R305 bounds the response
and does not give the prototype). -/
opaque Config.rsCoef : Nat → Nat → Rat

/-- The check columns of the record bits in the SECDED(80,72) code, which R243 bounds and does not give. -/
opaque Config.checkColumn : Nat → BitVec 8

/-- Whether a value between two integers is rounded up where the spec names no rounding (R303). -/
opaque Config.roundsUp : Rat → Bool

/-- The ECDSA P-384 signature of the device's attestation key of a slot over a digest (96 bytes); it depends on the fused secret,
the slot, and on what the signer draws. -/
opaque Config.sign : Nat → List Byte → List Byte

/-- The mask ROM's content, of which the attestation report holds the digest (R547). -/
opaque Config.rom : List Byte

/-- A channel's state in a sample of a reference whose `stored_teams` no row of R127 gives (log entry 252). -/
opaque Config.oddSample : Nat → Nat → Bool

/-- The length in samples of a reference whose `stored_teams` no row of R127 gives, from that count and its dense blocks (log entry 252). -/
opaque Config.oddLength : Nat → Nat → Nat

end Sys2Proof
end

