-- ==== Sys2Proof/Machine/State.lean ====
section
/-!
DEFINITION. The state of the WDP-4872: every register, ring, store, queue, counter, mode and pin the spec gives the device, as
plain data, with the queue of waiting commands; its reset; and the reasons a command may stop.
-/

namespace Sys2Proof.Machine

/-- The reference in use (R80). -/
inductive RefSel where
  | none
  | refA
  | refB
  deriving DecidableEq, Repr

/-- The order of preference among the references (R69). -/
inductive RefMode where
  | localRef
  | link
  | linkOnly
  deriving DecidableEq, Repr

/-- A sync instant waiting: Y and the chains it applies to (R95, R96). -/
structure SyncReq where
  y : Time
  chains : BitVec 8
  deriving DecidableEq, Repr

/-- A Quera message that waits on a port: a timing response with T2, from which its turnaround is counted as it leaves (R478, R484; log entry
310). -/
structure QOut where
  msg : BitVec 112
  since : Option Time := .none
  /-- The tick before which it does not leave (R484). -/
  after : Option Time := .none
  deriving DecidableEq, Repr

/-- What a handed-off command waits for (R366). -/
inductive Work where
  | none
  | read
  | upload
  | load
  | calibrate
  | test
  | flash
  | update
  | lifecycle
  | stop
  | mark
  | cancel
  | repair
  | power
  deriving DecidableEq, Repr

/-- What a read of host memory is for (R381). -/
inductive ReadFor where
  | image
  | sgl
  | bales
  | blob
  | firmware
  deriving DecidableEq, Repr

/-- The gaits, in the order of their codes (R98, R428). -/
inductive Gait where
  | gallop
  | canter
  | trot
  | walk
  deriving DecidableEq, Repr

/-- Where a running arm stands: first segment not open, a segment open, the close decided, or in re-arm (R199, R347). -/
inductive CapPhase where
  | armed
  | running
  | closing
  | rearm
  deriving DecidableEq, Repr

/-- The states of a stall with one capture state for armed and capturing each (R347). -/
inductive StallSt where
  | absent
  | idle
  | armed
  | capturing
  | resetting
  deriving DecidableEq, Repr

/-- What a pod port does after a recognised plug (R57). -/
inductive PodPhase where
  | idle
  | settling
  | reading
  deriving DecidableEq, Repr

/-- Whose block a DRAM write carries: a data or header block of a segment of a stall (by the number the model gives it), a wiped
parcel, or reference data. -/
inductive WrOwner where
  | data (st : Stall) (uid : Nat)
  | header (st : Stall) (uid : Nat)
  | wipe (parcel : Nat)
  | load (st : Stall)
  | scrub
  deriving DecidableEq, Repr

/-- Who asked for a DRAM read: the upload of a function's tag (with the place of the block in its chunk), a playback (with the
number of the dense block), or the patrol scrub. -/
inductive RdOwner where
  | upload (f : Fn) (tag : BitVec 16) (k : Nat)
  | play (st : Stall) (k : Nat)
  | scrub
  deriving DecidableEq, Repr

/-- Which part of a freeboard slice holds a block (R211). -/
inductive FbPart where
  | credit
  | event
  | header
  | ring
  deriving DecidableEq, Repr

/-- The boot's phase (R530, R542, R559). -/
inductive BootPhase where
  | inReset
  | booting
  | ready
  | halted
  deriving DecidableEq, Repr

/-- The power states (R504), and off before a boot has reached Run. -/
inductive PowerSt where
  | dormant
  | dikewatch
  | ready
  | run
  | off
  deriving DecidableEq, Repr

/-- The kinds of a completion-ring entry (R397). -/
inductive EntryKind where
  | completion
  | event
  | progress
  deriving DecidableEq, Repr

/-- A 32-byte entry of the completion ring, its phase left out (R397). -/
structure CqEntry where
  /-- Kind. -/
  kind : EntryKind
  /-- Status of a completion, class of an event. -/
  status : BitVec 8
  /-- Tag of a completion or progress entry, code of an event. -/
  code : BitVec 16
  /-- Stall of dword 1. -/
  stall : BitVec 8
  /-- Generation of dword 1. -/
  gen : BitVec 16
  /-- Tick time. -/
  time : Time
  /-- Payload dwords 4 to 7. -/
  p4 : Dword := 0
  p5 : Dword := 0
  p6 : Dword := 0
  p7 : Dword := 0
  /-- The completion of a command whose tag another outstanding command bears: it frees no tag (R400). -/
  dup : Bool := false
  deriving DecidableEq, Repr

/-- A running rate-limit interval, with the happenings merged in it (R454). -/
structure RateEntry where
  /-- What it limits. -/
  key : RateKey
  /-- When it started, in ticks. -/
  since : Time
  /-- Its length, in ticks. -/
  interval : Time
  /-- Happenings since the event that started it. -/
  count : Nat
  /-- The event of the newest of them, a copy for each recipient, its count field still 0. -/
  newest : List (Fn × CqEntry)
  deriving DecidableEq, Repr

/-- The attributes of a memory request (R380). -/
structure Attrs where
  /-- Relaxed Ordering. -/
  relaxed : Bool := false
  /-- No Snoop. -/
  noSnoop : Bool := false
  deriving DecidableEq, Repr

/-- What leaves the device: the model's transcript (log entry 7). -/
inductive Output where
  /-- A memory write with the requester of a function and its attributes (R346, R380). -/
  | hostWrite (f : Fn) (addr : BitVec 64) (data : List Byte) (attrs : Attrs)
  /-- An MSI-X message (R380, R382). -/
  | msix (f : Fn) (vector : Fin 8) (addr : BitVec 64) (data : Dword) (attrs : Attrs)
  /-- A memory read request (R380, R381). -/
  | hostRead (f : Fn) (id : Nat) (addr : BitVec 64) (len : Nat) (attrs : Attrs)
  /-- A Quera message on a port, and its two blocks as they leave: the sync header and the scrambled payload (R474, R475). -/
  | quera (p : Fin 4) (msg : BitVec 112) (first second : BitVec 66)
  /-- An idle block on a Quera port (R474). -/
  | queraIdle (p : Fin 4) (block : BitVec 66)
  deriving DecidableEq, Repr

/-- A channel setting at reset (R36). -/
def settingReset : BitVec 64 := 0x0A8297D7

/-- A link setting at reset (R283). -/
def linkReset : BitVec 128 := 0x200000

/-- A chain setting at reset (R289). -/
def chainReset : BitVec 256 := 0x10000010000000000000002000000000

/-- The default descriptor (R53). -/
def defaultDescriptor : List Byte :=
  [87, 80, 1, 64, 0, 0, 0, 0, 0, 0, 1, 8,
   0, 1, 0, 1, 0, 1, 0, 1, 0, 1, 0, 1, 0, 1, 0, 1,
   0, 0, 0, 0, 0, 0, 0, 0, 0, 0, 0, 0, 0, 0, 0, 0,
   0, 1, 2, 3, 4, 5, 6, 7, 0, 0, 0, 0, 0, 0, 0, 0, 0, 0, 39, 104]

/-- One monitored 100 MHz reference. -/
structure RefMon where
  /-- Usable in the order of preference (R70,R80). -/
  qualified : Bool := false
  /-- Consecutive long gates within 30 ppm, counted up to 10 (R70). -/
  within30 : Nat := 0
  /-- Consecutive long gates within 25 ppm, counted up to 10 (R72). -/
  within25 : Nat := 0
  /-- Offset of the last long gate, 1/256 ppm, saturating (R71,R80). -/
  offset : Int := 0
  /-- Offset of the last long gate that passed the 50 ppm check (R74). -/
  passOffset : Int := 0
  /-- One fast gate within the limit has been seen since the last loss (boot step 6) (R70). -/
  gateOk : Bool := false
  deriving DecidableEq, Repr

/-- System time, references and clocks (chapter 3). -/
structure Timebase where
  /-- System time at the start of the current stride; bits [7:0] are 0 (R6,R87). -/
  now : BitVec 64 := 0
  /-- System time runs (R80). -/
  timeValid : Bool := false
  /-- Carried across Dormant by the estimate (R80,R89). -/
  timeEstimated : Bool := false
  /-- Free running (R78,R80,R488). -/
  freeRunning : Bool := false
  /-- Derived clocks on the bypass oscillator (R80,R85). -/
  bypass : Bool := false
  /-- DPLL in holdover (R74,R80). -/
  holdover : Bool := false
  /-- Selected reference beyond 30 ppm (R72,R80). -/
  warn : Bool := false
  /-- Always-on crystal lost (R80,R92). -/
  aonFault : Bool := false
  /-- A SYSREF edge broke the check (R80,R93). -/
  sysrefError : Bool := false
  /-- Reference in use (R80). -/
  selected : RefSel := .none
  /-- Order of preference (R69). -/
  refMode : RefMode := .localRef
  /-- REFA (R70-R72). -/
  refA : RefMon := {}
  /-- REFB (R70-R72). -/
  refB : RefMon := {}
  /-- Frequency held in holdover, 1/256 ppm (R74). -/
  heldOffset : Int := 0
  /-- Holdover steers to the always-on clock (R75). -/
  aonSteered : Bool := false
  /-- Long and fast gates run (R71,R92). -/
  gatesRun : Bool := true
  /-- Sync instants Y waiting (R95,R96,R293). -/
  syncPending : List SyncReq := []
  /-- The SYSREF ball delay has been measured (R93,R439). -/
  sysrefDelayMeasured : Bool := false
  /-- Ticks still to be steered (R486). -/
  steer : Int := 0
  /-- Part of a tick already steered, in units of 2.56e-12 tick (R486). -/
  steerFine : Int := 0
  /-- Offset of the timebase frequency that steers, in units of 1e-14 (R77,R486). -/
  steerRate : Int := 0
  deriving DecidableEq, Repr

/-- One function's register window, rings and MSI-X (chapter 12). -/
structure FnState where
  /-- WIN.CONTROL.lock (R390,R391). -/
  lock : Bool := false
  /-- WIN.CONTROL.par as last written (R387,R391). -/
  winPar : Bool := false
  /-- WIN.CONTROL.cq_enable (R391,R398). -/
  cqEnable : Bool := false
  /-- WIN.CONTROL.sq_enable (R391,R395). -/
  sqEnable : Bool := false
  /-- SQ.BASE_LO, par included (R391). -/
  sqBaseLo : BitVec 32 := 0
  /-- SQ.BASE_HI, par included (R391). -/
  sqBaseHi : BitVec 32 := 0
  /-- SQ.SIZE, par included (R391). -/
  sqSize : BitVec 32 := 0
  /-- SQ.TAIL, par included (R391,R393). -/
  sqTail : BitVec 32 := 0
  /-- SQ.HEAD.index (R391,R394). -/
  sqHead : BitVec 12 := 0
  /-- CQ.BASE_LO, par included (R391). -/
  cqBaseLo : BitVec 32 := 0
  /-- CQ.BASE_HI, par included (R391). -/
  cqBaseHi : BitVec 32 := 0
  /-- CQ.SIZE, par included (R391). -/
  cqSize : BitVec 32 := 0
  /-- CQ.HEAD, par included (R391,R398). -/
  cqHead : BitVec 32 := 0
  /-- CQ.IRQ: fault_vector 2, event_vector 1 (R391). -/
  cqIrq : BitVec 32 := 0x20000010
  /-- ERR.STATUS bits [8:0] (R391). -/
  errStatus : BitVec 9 := 0
  /-- ERR.PARITY_COUNT (R391). -/
  parityCount : BitVec 32 := 0
  /-- ERR.ACCESS_LOG (R391). -/
  accessLog : BitVec 32 := 0
  /-- ERR.COLLISION_COUNT (R391). -/
  collisionCount : BitVec 32 := 0
  /-- ERR.LOCKED_COUNT (R391). -/
  lockedCount : BitVec 32 := 0
  /-- ERR.DROPPED_COUNT (R391). -/
  droppedCount : BitVec 32 := 0
  /-- Function in Fault (R387-R389). -/
  fault : Bool := false
  /-- A ring fetch failed; taking resumes only after sq_enable is cleared and set (R396). -/
  sqStopped : Bool := false
  /-- Internal write index of the completion ring (R398). -/
  cqIndex : BitVec 12 := 0
  /-- Internal phase of the completion ring (R398). -/
  cqPhase : Bool := true
  /-- Completion and progress entries since that source's last message (R383). -/
  cntC : Nat := 0
  /-- Time the oldest counted completion entry was written (R383). -/
  oldC : BitVec 64 := 0
  /-- Event entries since that source's last message (R383). -/
  cntE : Nat := 0
  /-- Time the oldest counted event entry was written (R383). -/
  oldE : BitVec 64 := 0
  /-- MSI-X Enable (R382). -/
  msixEnable : Bool := false
  /-- Function Mask (R382). -/
  msixFnMask : Bool := false
  /-- Mask bit of each vector (R382). -/
  msixMask : BitVec 8 := 0xFF
  /-- Pending Bit Array (R382). -/
  msixPending : BitVec 8 := 0
  /-- Message address of each vector (R382). -/
  msixAddr : Vector (BitVec 64) 8 := Vector.replicate 8 0
  /-- Message data of each vector (R382). -/
  msixData : Vector (BitVec 32) 8 := Vector.replicate 8 0
  /-- Function in D3hot (R377). -/
  d3 : Bool := false
  /-- Relaxed Ordering Enable of the Device Control register (R380). -/
  relaxedEnable : Bool := true
  /-- Number of the 1 ms period the count below belongs to (R362). -/
  ratePeriod : BitVec 64 := 0
  /-- Commands taken in that period (R362). -/
  rateTaken : Nat := 0
  /-- FB.COUNT.peak (R222). -/
  fbPeak : Nat := 0
  deriving DecidableEq, Repr

/-- The PCIe endpoint and its SR-IOV capability. -/
structure Pcie where
  /-- VF Enable (R378,R365). -/
  vfEnable : Bool := false
  /-- NumVFs as it acts (at most 7 without ARI) (R378). -/
  numVFs : Nat := 0
  /-- ARI Capable Hierarchy (R378). -/
  ari : Bool := false
  /-- The link is up (R375,R508). -/
  linkUp : Bool := false
  /-- Negotiated speed code 1 to 5 (R375,R416). -/
  linkSpeed : Nat := 0
  /-- Negotiated width (R375,R416). -/
  linkWidth : Nat := 0
  /-- Configuration requests are answered (boot step 11) (R376,R532). -/
  cfgReady : Bool := false
  /-- Max_Read_Request_Size of the physical function as its code, 128 << code bytes; PCI Express resets it to 512 bytes (log entry 2) (R374). -/
  maxRead : Fin 6 := 2
  /-- System Page Size of the SR-IOV capability, 4 KiB << page; SR-IOV resets it to 4 KiB (log entry 2) (R379). -/
  page : Fin 20 := 0
  deriving DecidableEq, Repr

/-- A command the Groom has taken and not yet carried out. -/
structure Taken where
  /-- Function whose ring it came from (R394). -/
  fn : Fn := 0
  /-- The submission entry (R406). -/
  e : SqEntry := zeroEntry
  /-- Take stride (R412). -/
  when : BitVec 64 := 0
  /-- What the secure bank reads as for it (R404). -/
  secure : Ecc := .clean
  deriving DecidableEq, Repr

/-- An outstanding command of a stall (R362). -/
structure Outst where
  /-- Tag (R400). -/
  tag : BitVec 16 := 0
  /-- Opcode (R407). -/
  op : BitVec 8 := 0
  /-- Function that sent it (R362). -/
  fn : Fn := 0
  /-- Generation under which it was taken (R352). -/
  gen : BitVec 16 := 0
  /-- What the handed-off command waits for (R366). -/
  work : Work := .none
  /-- Progress entries asked (R413). -/
  progress : Bool := false
  /-- Stride in which the work started (R413). -/
  when : BitVec 64 := 0
  /-- Stride in which the Groom took it (R361). -/
  taken : BitVec 64 := 0
  /-- Start, or last progress entry (R413). -/
  lastProg : BitVec 64 := 0
  /-- Units done (R413). -/
  done : Nat := 0
  /-- Units of the whole job (R413). -/
  total : Nat := 0
  deriving DecidableEq, Repr

/-- A read of host memory in flight. -/
structure HostRead where
  /-- Tag of the read request (R374,R381). -/
  id : Nat := 0
  /-- Requester (R346). -/
  fn : Fn := 0
  /-- Stall it serves (R346). -/
  stall : Stall := 0
  /-- Tag of the command it serves (R381). -/
  tag : BitVec 16 := 0
  /-- What the data is for (R381). -/
  purpose : ReadFor := .image
  /-- Host address (R381). -/
  addr : BitVec 64 := 0
  /-- Bytes (R381). -/
  len : Nat := 0
  /-- The stall was reset; the data is discarded when it comes (R367). -/
  dead : Bool := false
  deriving DecidableEq, Repr

/-- One record, or marker pair, in the device event queue. -/
structure EvRec where
  /-- Owning stall (R136). -/
  stall : Stall := 0
  /-- A latch event, or a marker and its detail (R115,R117). -/
  recs : List Rec := []
  deriving DecidableEq, Repr

/-- A course_load at its read (R26). -/
structure CourseWait where
  /-- Its function (R346). -/
  fn : Fn := 0
  /-- Its tag (R400). -/
  tag : BitVec 16 := 0
  /-- Bytes of the image (R427). -/
  len : Nat := 0
  /-- The image, once it has come (R381). -/
  data : Option (List Byte) := none
  deriving DecidableEq, Repr

/-- The controller: rotation, taken command, event queue, host reads. -/
structure Groom where
  /-- The command in hand (R394). -/
  taken : Option Taken := none
  /-- Function whose turn it is (R26). -/
  rotation : Fn := 0
  /-- Event-record queue (R136). -/
  evQueue : List EvRec := []
  /-- Stride in which a record last left the queue (R135,R136). -/
  evLast : BitVec 64 := 0
  /-- Course_load commands whose image is being read or waits for an earlier one, in the order taken (R26). -/
  courseQ : List CourseWait := []
  /-- Reads in flight (R381). -/
  reads : List HostRead := []
  /-- Next read tag (R374). -/
  nextRead : Nat := 0
  /-- Corrected-error counts per bank (R404,R416). -/
  sramCorrected : Vector Nat 10 := Vector.replicate 10 0
  /-- Running rate-limit intervals (R454). -/
  rates : List RateEntry := []
  deriving DecidableEq, Repr

/-- One entry of the missed-trigger log. -/
structure MissedEntry where
  /-- Placement the trigger would have had (R201). -/
  time : BitVec 64 := 0
  /-- Segment charged (R201). -/
  seg : BitVec 20 := 0
  /-- 1 post_fill, 2 rearm (R201). -/
  reason : BitVec 8 := 0
  /-- Fence or 0xFF (R201). -/
  fence : BitVec 8 := 0
  /-- Exit or 0xFF (R201). -/
  exit : BitVec 8 := 0
  /-- Tick-exact (R201). -/
  exact : Bool := false
  deriving DecidableEq, Repr

/-- The parameters of capture_arm (R189, R428). -/
structure ArmParams where
  /-- Gait (R98,R428). -/
  gait : Gait := .canter
  /-- Fill_policy (R189). -/
  wrap : Bool := false
  /-- Pretrigger_policy (R189). -/
  requireFull : Bool := false
  /-- Trot clock channel (R103,R428). -/
  clockChan : BitVec 6 := 0
  /-- Trot edge mode (R428). -/
  clockEdge : BitVec 2 := 0
  /-- Declared rate, or W - 1 (R428). -/
  gaitParam : BitVec 32 := 0
  /-- Pre_strides (R189). -/
  pre : Nat := 0
  /-- Post_strides (R189). -/
  post : Nat := 0
  /-- Region_blocks (R189). -/
  region : Nat := 0
  /-- Segments (R189). -/
  segments : Nat := 0
  /-- Arm_time (R189). -/
  armTime : BitVec 64 := 0
  /-- On_wake (R428,R429). -/
  onWake : Bool := false
  deriving DecidableEq, Repr

/-- What a stall holds (R354). -/
structure Grant where
  /-- Teams (R349,R354). -/
  teams : BitVec 8 := 0
  /-- Sluice chains (R349,R354). -/
  chains : BitVec 8 := 0
  /-- Course engine (R349,R354). -/
  engine : Option (Fin 16) := none
  /-- Parcels, ascending (R233,R349). -/
  parcels : List Nat := []
  /-- Those of them that hold the reference area (R329). -/
  refArea : List Nat := []
  /-- Compression_share (R349). -/
  share : Nat := 0
  /-- Outstanding limit (R349). -/
  outstanding : Nat := 8
  /-- Rate limit (R349). -/
  rate : Nat := 100
  /-- Trig_out permission (R349,R354). -/
  trigOut : Bool := false
  deriving DecidableEq, Repr

/-- A pattern recogniser (R153, R172). -/
structure PatternEntry where
  /-- Compared channels (R172). -/
  mask : ChanMask := 0
  /-- Required states (R172). -/
  value : ChanMask := 0
  /-- Two-bit qualifier per channel (R154,R172). -/
  edge : BitVec 96 := 0
  /-- Any qualified transition suffices (R172). -/
  edgeAny : Bool := false
  deriving DecidableEq, Repr

/-- A range comparator (R156, R173). -/
structure RangeEntry where
  /-- First team of the bus (R173). -/
  firstTeam : Nat := 0
  /-- Channels of the bus (R173). -/
  width : Nat := 1
  /-- Lowest channel is the least significant bit (R173). -/
  lsbFirst : Bool := false
  /-- Two's complement (R173). -/
  signed : Bool := false
  /-- True outside the range (R173). -/
  outside : Bool := false
  /-- Low bound (R173). -/
  lower : BitVec 48 := 0
  /-- High bound (R173). -/
  upper : BitVec 48 := 0
  deriving DecidableEq, Repr

/-- A counter's setting (R157, R174). -/
structure CounterEntry where
  /-- Value at load and open (R174). -/
  preset : BitVec 48 := 0
  /-- Compare value (R174). -/
  compare : BitVec 48 := 0
  /-- Pattern index (R174). -/
  source : Option Nat := none
  /-- 0 at least, 1 equal, 2 below (R174). -/
  cmp : Nat := 0
  /-- Kept across opens (R174). -/
  keep : Bool := false
  deriving DecidableEq, Repr

/-- A timer's setting (R158, R174). -/
structure TimerEntry where
  /-- Limit in strides (R174). -/
  limit : BitVec 48 := 1
  /-- Starts at the open (R174). -/
  autostart : Bool := false
  /-- Kept across opens (R174). -/
  keep : Bool := false
  deriving DecidableEq, Repr

/-- An analogue term's setting (R159, R175). -/
structure AnalogueEntry where
  /-- R113 source (R175). -/
  source : Nat := 0
  /-- Below-threshold term (R175). -/
  below : Bool := false
  /-- Threshold (R175). -/
  threshold : BitVec 20 := 0
  /-- Hysteresis (R175). -/
  hyst : BitVec 20 := 0
  deriving DecidableEq, Repr

/-- A latch term's setting (R176). -/
structure LatchEntry where
  /-- Watched channels (R176). -/
  channels : ChanMask := 0
  /-- Watched conditions (R176). -/
  conds : BitVec 4 := 0
  deriving DecidableEq, Repr

/-- A term reference (R177). -/
structure TermRef where
  /-- Invert (R177). -/
  negate : Bool := false
  /-- Kind code (R177). -/
  kind : Nat := 0
  /-- Index (R177). -/
  index : Nat := 0
  deriving DecidableEq, Repr

/-- An exit (R178, R179). -/
structure ExitEntry where
  /-- Four term slots (R178). -/
  terms : List TermRef := []
  /-- Action bits (R179). -/
  actions : BitVec 16 := 0
  /-- Goto target (R178). -/
  nextFence : Nat := 0
  /-- Trig_out byte (R178). -/
  trigOut : BitVec 8 := 0
  /-- Counter_op (R178). -/
  counterOp : BitVec 16 := 0
  /-- Timer_op (R178). -/
  timerOp : BitVec 16 := 0
  /-- Cross-trigger channels (R178). -/
  xtrigMask : BitVec 16 := 0
  /-- Course marker detail (R178). -/
  markerValue : BitVec 16 := 0
  /-- Reference marker detail (R178). -/
  refValue : BitVec 16 := 0
  deriving DecidableEq, Repr

/-- A loaded course (R170 to R179). -/
structure Course where
  /-- Start fence (R171). -/
  startFence : Nat := 0
  /-- Storing from the open (R171). -/
  startStored : Bool := true
  /-- Pattern entries (R170). -/
  patterns : List PatternEntry := []
  /-- Range entries (R170). -/
  ranges : List RangeEntry := []
  /-- Counter entries (R170). -/
  counters : List CounterEntry := []
  /-- Timer entries (R170). -/
  timers : List TimerEntry := []
  /-- Analogue entries (R170). -/
  analogues : List AnalogueEntry := []
  /-- Latch entries (R170). -/
  latches : List LatchEntry := []
  /-- Fences of up to four exits; the empty course has one with none (R146) (R170). -/
  fences : List (List ExitEntry) := [[]]
  /-- Crc of the image (R171,R427). -/
  crc : BitVec 32 := 0
  deriving DecidableEq, Repr

/-- A timer at work (R158). -/
structure TimerSt where
  /-- Value at the start of the stride (R158). -/
  value : BitVec 48 := 0
  /-- Running (R158). -/
  running : Bool := false
  deriving DecidableEq, Repr

/-- A stride-granular term's state with the onset of R162. -/
structure Flag where
  /-- Value up to and including the stride changedAt (R147,R162). -/
  old : Bool := false
  /-- Value after it (R147,R162). -/
  on : Bool := false
  /-- Stride of the change (R159,R161). -/
  changedAt : BitVec 64 := 0
  /-- Onset of the true value (R162). -/
  onset : BitVec 64 := 0
  /-- Onset tick-exact (R162). -/
  exact : Bool := false
  deriving DecidableEq, Repr

/-- An event term raised for one stride (R161). -/
structure Pulse where
  /-- The stride in which it is true (R161). -/
  when : BitVec 64 := 0
  /-- Cross-trigger channel, 16 + port of a spur, or 32 + key (R161). -/
  index : Nat := 0
  /-- Onset (R162). -/
  onset : BitVec 64 := 0
  /-- Tick-exact (R162). -/
  exact : Bool := false
  /-- Delivered more than 2,048 strides after its time (R495). -/
  late : Bool := false
  deriving DecidableEq, Repr

/-- A sample-granular term's value in the previous sample and its onset (R162). -/
structure Since where
  /-- Value in the sample before (R162). -/
  prev : Bool := false
  /-- Sample since which it has been true (R162). -/
  onset : BitVec 64 := 0
  deriving DecidableEq, Repr

/-- A store on waiting (R225). -/
structure StorePend where
  /-- Stride from which storing takes effect (R225). -/
  when : BitVec 64 := 0
  /-- Fence of the exit (R225). -/
  fence : Nat := 0
  /-- Exit (R225). -/
  exit : Nat := 0
  deriving DecidableEq, Repr

/-- The engine of a stall at work (chapter 5). -/
structure Engine where
  /-- Evaluates exits (R152,R427). -/
  running : Bool := false
  /-- Stride still to be evaluated although the segment has closed in it (R152,R198). -/
  final : Option (BitVec 64) := none
  /-- Stride last evaluated (R149). -/
  evalAt : BitVec 64 := 0
  /-- Current fence (R149). -/
  fence : Nat := 0
  /-- Exits that fired and have been false in no sample since (R149,R150). -/
  heldExits : BitVec 4 := 0
  /-- Counts (R157). -/
  counters : List (BitVec 48) := []
  /-- Timers (R158). -/
  timers : List TimerSt := []
  /-- Store state (R163,R164). -/
  storing : Bool := true
  /-- A deferred store on (R225). -/
  storePend : Option StorePend := none
  /-- Analogue terms (R159). -/
  analogues : List Flag := []
  /-- Latch terms (R161). -/
  latches : List Flag := []
  /-- Reference mismatch terms any, count, set_a, set_b (R160). -/
  refs : List Flag := []
  /-- Cross-trigger, spur and key terms raised (R161). -/
  pulses : List Pulse := []
  /-- Pattern recognisers in the previous sample (R153,R162). -/
  pats : List Since := []
  /-- Range comparators in the previous sample (R156,R162). -/
  rngs : List Since := []
  /-- The four TRIG_IN modes in the previous sample (R161,R162). -/
  tin : List Since := []
  /-- Counter terms (R157,R162). -/
  ctrSince : List Flag := []
  /-- Timer terms (R158,R162). -/
  tmrSince : List Flag := []
  /-- TRIG_OUT level (R166). -/
  level : Bool := false
  /-- End of the running TRIG_OUT pulse (R166). -/
  pulseEnd : Option (BitVec 64) := none
  deriving DecidableEq, Repr

/-- The trigger a segment has taken. -/
structure Trig where
  /-- Placement (H12) (R182). -/
  time : BitVec 64 := 0
  /-- Trigger_kind (R162,R182). -/
  kind : BitVec 2 := 0
  /-- Edge_defined (R182). -/
  exact : Bool := false
  /-- Truncated (R188). -/
  truncated : Bool := false
  /-- Last stride of the post-trigger fill (R195). -/
  fillEnd : BitVec 64 := 0
  deriving DecidableEq, Repr

/-- Where a keyframe or dense block of the open segment stands. -/
structure KeyAt where
  /-- Data-block index since the open (R192). -/
  block : Nat := 0
  /-- Its time (R192). -/
  time : BitVec 64 := 0
  deriving DecidableEq, Repr

/-- A segment in the polder, open or held (R203). -/
structure Seg where
  /-- Segment number (R206). -/
  num : BitVec 20 := 0
  /-- The model's number of the segment within its stall. -/
  uid : Nat := 0
  /-- Deleted, kept only until its blocks are acknowledged (R207). -/
  gone : Bool := false
  /-- Polder block of the header (R203,R219). -/
  start : Nat := 0
  /-- Ring size in blocks, or what is reserved (R191,R205). -/
  ring : Nat := 0
  /-- Blocks of the polder at its open (R203,R233). -/
  polder : Nat := 0
  /-- Dikewatch ring blocks copied after the header (R514). -/
  ringBlocks : Nat := 0
  /-- Data blocks placed since the open (R191). -/
  written : Nat := 0
  /-- Blocks the segment occupies once closed (R203). -/
  occupied : Nat := 0
  /-- Surviving keyframes (typed) with their block index (R188,R192). -/
  kf : List KeyAt := []
  /-- Data blocks placed and not yet acknowledged (R220). -/
  unacked : Nat := 0
  /-- Device blocks given up at a lane fault (R217). -/
  lost : List Nat := []
  /-- The header is acknowledged (R220). -/
  hdrAcked : Bool := false
  /-- R220 met (R220). -/
  closed : Bool := false
  /-- The header formed at close (R137,R276). -/
  header : List Rec := []
  /-- Close_cause (R138). -/
  cause : BitVec 6 := 0
  /-- The trigger taken (R182). -/
  trig : Option Trig := none
  /-- Triggers missed (R202). -/
  missed : Nat := 0
  /-- First stride not stored (R123,R457). -/
  endTime : BitVec 64 := 0
  deriving DecidableEq, Repr

/-- A trigger request of the current stride: what it brings at the stride's end, when no close undoes it (R198); masked with neither. -/
structure OwedTrig where
  /-- Entry of a missed one (R201). -/
  missed : Option MissedEntry := none
  /-- Event of a taken one (R456). -/
  event : Option CqEntry := none
  /-- Time of its marker (R116). -/
  at_ : BitVec 64 := 0
  /-- Detail of its marker (R116). -/
  detail : BitVec 64 := 0
  deriving DecidableEq, Repr

/-- A stretch of stored strides. -/
structure StoredRun where
  /-- First stored stride (R194). -/
  first : BitVec 64 := 0
  /-- First stride not stored after it (R194). -/
  upto : Option (BitVec 64) := none
  deriving DecidableEq, Repr

/-- A capture_mark with flush waiting (R432). -/
structure FlushReq where
  /-- Tag (R432). -/
  tag : BitVec 16 := 0
  /-- Function (R432). -/
  fn : Fn := 0
  /-- Segment to be flushed (R432). -/
  seg : BitVec 20 := 0
  /-- Marker written (R432). -/
  written : Bool := false
  /-- Marker lost (R432). -/
  lost : Bool := false
  /-- Value of a marker that takes its time from the completion (R116,R432). -/
  owed : Option (BitVec 64) := none
  deriving DecidableEq, Repr

/-- A capture_stop waiting (R430). -/
structure StopReq where
  /-- Tag (R430). -/
  tag : BitVec 16 := 0
  /-- Function (R430). -/
  fn : Fn := 0
  /-- A segment was closed (R430). -/
  closed : Bool := false
  /-- Its number (R430). -/
  num : BitVec 20 := 0
  deriving DecidableEq, Repr

/-- The running arm of a stall (chapters 4, 6, 7). -/
structure Capture where
  /-- Parameters (R189). -/
  arm : ArmParams := {}
  /-- Armed, open, closing its furlong, re-arm (R199,R347). -/
  phase : CapPhase := .armed
  /-- Open_time of the segment open or to open (R199,R208). -/
  openAt : BitVec 64 := 0
  /-- Armed late, for the first segment (R209). -/
  late : Bool := false
  /-- Team_mask of the arm (R356). -/
  teams : BitVec 8 := 0
  /-- Chains owned with `enable` 1 at the arm (R224,R309,R356). -/
  chains : BitVec 8 := 0
  /-- D' in GB/s, exactly (R224,R230). -/
  demand : Rat := 0
  /-- Playback charge in GB/s (R230). -/
  play : Rat := 0
  /-- The playback charge was taken at the arm (R230). -/
  charged : Bool := false
  /-- The stall held a valid reference at the arm (R230). -/
  refAtArm : Bool := false
  /-- Trigger requests of the current stride, oldest first (R198). -/
  owed : List OwedTrig := []
  /-- Credits per slice (R213). -/
  credit : Nat := 0
  /-- Credits taken per slice (R213). -/
  inUse : Vector Nat 4 := Vector.replicate 4 0
  /-- Stride of the newest block placed in each slice (R212). -/
  putAt : Vector (Option (BitVec 64)) 4 := Vector.replicate 4 none
  /-- Stride at which each slice's blocks so far are due at the stall's rate (R215). -/
  dueAt : Vector Rat 4 := Vector.replicate 4 0
  /-- S (R129). -/
  sideBlocks : Nat := 0
  /-- Segments opened in this arm (R206). -/
  segNo : Nat := 0
  /-- The open segment (R203). -/
  seg : Seg := {}
  /-- Channels enabled at open (H3) (R137). -/
  chanMask : ChanMask := 0
  /-- H3 uncalibrated (R137). -/
  uncal : Bool := false
  /-- H3 drift (R137). -/
  drift : Bool := false
  /-- H3 free_running (R137). -/
  freeRun : Bool := false
  /-- H3 holdover (R137). -/
  holdover : Bool := false
  /-- H3 events_lost (R136,R137). -/
  eventsLost : Bool := false
  /-- The close decided (R152,R523). -/
  closeCause : Option (BitVec 6) := none
  /-- C (R199). -/
  lastStride : BitVec 64 := 0
  /-- Capture_done reason once the end is decided (R458). -/
  ended : Option (BitVec 8) := none
  /-- Stride in which the end was decided (R458). -/
  doneAt : BitVec 64 := 0
  /-- Typed block being formatted (R107,R221). -/
  part : List Rec := []
  /-- Gallop: side records waiting for side blocks (R130). -/
  sideQ : List Rec := []
  /-- Gallop: samples of the dense block being formatted (R126). -/
  dense : List (BitVec 48) := []
  /-- Gallop: dense blocks written (R127). -/
  denseIdx : Nat := 0
  /-- Current time of the gait chain (R120). -/
  chainTime : BitVec 64 := 0
  /-- A keyframe has been written in the segment (R121). -/
  hasKey : Bool := false
  /-- Time of the newest keyframe (R225). -/
  lastKey : BitVec 64 := 0
  /-- A flush has been asked for since the open: the next segment begins with a resume keyframe (R123,R221). -/
  flushed : Bool := false
  /-- The segment follows a flush (R123). -/
  resume : Bool := false
  /-- Stride whose hoofbeats hoofDone counts (R101). -/
  hoofAt : Option (BitVec 64) := none
  /-- Teams whose hoofbeat of that stride is written (R101,R124). -/
  hoofDone : BitVec 8 := 0
  /-- Walk: states last stored (R106). -/
  walkStates : ChanMask := 0
  /-- Walk: periods ended (R106). -/
  walkIdx : Nat := 0
  /-- Trot: time of the last qualified edge (R104). -/
  lastClock : Option (BitVec 64) := none
  /-- Trot: unqualified edges in the period (R104). -/
  overruns : Nat := 0
  /-- Trot: period of that count (R104). -/
  overrunAt : BitVec 64 := 0
  /-- Capture_mark flushes waiting (R221,R432). -/
  flush : List FlushReq := []
  /-- Trigger events held behind segment_closed of earlier segments, oldest first (R453). -/
  heldTrigger : List CqEntry := []
  /-- Capture_stop commands waiting for the end of the capture (R430). -/
  stops : List StopReq := []
  /-- Stretches stored since the open, oldest first (R192,R194). -/
  segStrides : List StoredRun := []
  deriving DecidableEq, Repr

/-- Reference_select (R335). -/
structure RefParams where
  /-- Compare_mask (R335). -/
  mask : ChanMask := 0
  /-- Set_a (R335). -/
  setA : ChanMask := 0
  /-- Set_b (R335). -/
  setB : ChanMask := 0
  /-- N (R335). -/
  count : Nat := 1
  /-- W (R335). -/
  tol : Nat := 0
  /-- Drift_limit (R335). -/
  driftLimit : Nat := 0
  /-- Window in strides (R335). -/
  window : Nat := 1
  /-- Select_value (R438). -/
  select : BitVec 16 := 0
  deriving DecidableEq, Repr

/-- Lag history of one compared channel (R343). -/
structure LagSt where
  /-- Channel (R343). -/
  chan : Nat := 0
  /-- Newest recorded lags, at most 256 (R343). -/
  lags : List Int := []
  /-- Lags recorded since the start (R343). -/
  total : Nat := 0
  /-- Edge_lag sent and not restored (R343). -/
  sent : Bool := false
  deriving DecidableEq, Repr

/-- A dense block of the reference (R340). -/
structure StagedBlock where
  /-- Number of the dense block (R340). -/
  k : Nat := 0
  /-- Content (R126). -/
  recs : List Rec := []
  /-- Poisoned (R342,R404). -/
  bad : Bool := false
  deriving DecidableEq, Repr

/-- A running playback (R336 to R342). -/
structure Playback where
  /-- First compared stride (R336). -/
  first : BitVec 64 := 0
  /-- Detail of its markers (R163,R438). -/
  refValue : BitVec 16 := 0
  /-- Reference sample to be compared next (R338). -/
  next : Nat := 0
  /-- Mismatching samples inside the count window (R339). -/
  mism : List Nat := []
  deriving DecidableEq, Repr

/-- A playback start waiting (R336). -/
structure TimedStart where
  /-- First stride to be compared (R336). -/
  when : BitVec 64 := 0
  /-- Detail of its markers (R163,R438). -/
  value : BitVec 16 := 0
  deriving DecidableEq, Repr

/-- A stall's reference (chapter 10). -/
structure Reference where
  /-- Valid (R330,R345). -/
  valid : Bool := false
  /-- A load is outstanding (R330). -/
  loading : Bool := false
  /-- Reference teams (R334). -/
  teams : BitVec 8 := 0
  /-- Stored_teams (R334). -/
  stored : Nat := 0
  /-- Side blocks per furlong (R334). -/
  side : Nat := 0
  /-- Data blocks, tail blocks left out (R334). -/
  dataBlocks : Nat := 0
  /-- Length in samples (R334). -/
  length : Nat := 0
  /-- Reference_select since the load (R335). -/
  params : Option RefParams := none
  /-- Timed start waiting (R336). -/
  timed : Option TimedStart := none
  /-- Start by an exit, for the next stride (R163,R336). -/
  queued : Option TimedStart := none
  /-- Dense blocks asked of the lanes since the slice was last filled from the first (R340). -/
  asked : Nat := 0
  /-- Blocks read and not yet in the slice (R340). -/
  came : List StagedBlock := []
  /-- The staging slice (R340). -/
  slice : List StagedBlock := []
  /-- Running playback (R336). -/
  play : Option Playback := none
  /-- Per-channel lag history since the last start (R343,R345). -/
  lags : List LagSt := []
  /-- Channels whose edge_lag has been sent and not restored (R343). -/
  lagSent : ChanMask := 0
  /-- Starts run (R345). -/
  starts : Nat := 0
  /-- Starts ignored (R345). -/
  ignored : Nat := 0
  /-- Mismatching samples (R345). -/
  mismatches : Nat := 0
  /-- Blocks not compared (R345). -/
  poison : Nat := 0
  deriving DecidableEq, Repr

/-- A running reset sequence (R365, R367). -/
structure ResetSeq where
  /-- Cause reported (R365). -/
  cause : BitVec 8 := 0
  /-- Start (R368). -/
  when : BitVec 64 := 0
  /-- Generation before (R368). -/
  oldGen : BitVec 16 := 0
  /-- Jobs dropped (R368). -/
  jobs : Nat := 0
  /-- Segments closed in the sequence (R368). -/
  segs : Nat := 0
  deriving DecidableEq, Repr

/-- A stall (chapter 11). -/
structure StallState where
  /-- State (R347). -/
  st : StallSt := .absent
  /-- Generation (R350). -/
  gen : BitVec 16 := 0
  /-- What it holds (R354). -/
  grant : Grant := {}
  /-- Outstanding commands (R362). -/
  outst : List Outst := []
  /-- Completion store, oldest first (R363). -/
  store : List CqEntry := []
  /-- Events_dropped (R363,R471). -/
  eventsDropped : Nat := 0
  /-- Parameters of the last capture_arm with ok (R445). -/
  lastArm : Option ArmParams := none
  /-- Missed-trigger log, newest first (R201). -/
  missedLog : List MissedEntry := []
  /-- Masked since arm (R194,R427). -/
  masked : Nat := 0
  /-- Missed since arm (R202,R427). -/
  missedTotal : Nat := 0
  /-- Segments closed since arm (R427,R458). -/
  segsClosed : Nat := 0
  /-- Loaded course (R145). -/
  course : Option Course := none
  /-- Its engine at work (R142). -/
  eng : Engine := {}
  /-- Its capture (R347). -/
  cap : Option Capture := none
  /-- Segments closed or closing, oldest first (R203). -/
  held : List Seg := []
  /-- Segments opened in the last arm (R206). -/
  armSegs : Nat := 0
  /-- The model's number of the next segment. -/
  nextUid : Nat := 0
  /-- Polder block at which the next segment opens (R203,R233). -/
  nextStart : Nat := 0
  /-- Its reference (R345). -/
  ref : Reference := {}
  /-- Running reset sequence (R365). -/
  reset : Option ResetSeq := none
  /-- Event records not written, marker owed when not 0 (R136). -/
  evLostCount : Nat := 0
  /-- FB.COUNT.peak of the stall (R222). -/
  fbPeak : Nat := 0
  /-- Emissions without a send route (R443). -/
  xtrigLost : Nat := 0
  deriving DecidableEq, Repr

/-- A sample of a channel's comparators in the delay (R50). -/
structure Arrival where
  /-- Tick at the ball, the path of one stride aside (R48,R50). -/
  at_ : BitVec 64 := 0
  /-- Ball above the upper threshold at its end (R39). -/
  up : Bool := false
  /-- Ball below the lower threshold at its end (R39). -/
  down : Bool := false
  /-- Above it at some moment (R581). -/
  overs : Bool := false
  /-- Below it at some moment (R581). -/
  unders : Bool := false
  /-- At or beyond a threshold at some moment (R581). -/
  out : Bool := false
  deriving DecidableEq, Repr

/-- One probe channel (chapter 2). -/
structure Channel where
  /-- Channel setting in force (R36). -/
  setting : BitVec 64 := settingReset
  /-- Setting waiting for the next segment boundary (R38). -/
  pend : Option (BitVec 64) := none
  /-- Logic state at the end of the last sample (R39). -/
  level : Bool := false
  /-- The stride's eight samples, bit s is sample s (R40,R100). -/
  samples : BitVec 8 := 0
  /-- Stride of the samples held (R154). -/
  sampledAt : BitVec 64 := 0
  /-- Sample 7 of the stride before (the seed in a seeding stride) (R154). -/
  before : Bool := false
  /-- Tick of the first transition of the stride (R48). -/
  edge : BitVec 8 := 0
  /-- Transitions in the stride (R48,R101). -/
  trans : Nat := 0
  /-- Samples of the comparators that the delay of some setting has yet to let out (R19,R50,R51). -/
  line : List Arrival := []
  /-- Logic state before the oldest of them (R39). -/
  base : Bool := false
  /-- Samples of the stride with the ball above the upper threshold (R581). -/
  overs : BitVec 8 := 0
  /-- Samples of the stride with the ball below the lower threshold (R581). -/
  unders : BitVec 8 := 0
  /-- Termination voltage: the midpoint of the threshold codes, rounded down (R34). -/
  vtt : Nat := 2048
  /-- Above latch (R42). -/
  above : Bool := false
  /-- Below latch (R42). -/
  below : Bool := false
  /-- Band latch (R42). -/
  band : Bool := false
  /-- Open latch (R42). -/
  open_ : Bool := false
  /-- The band latch was set by the seed (R47,R422). -/
  seedBand : Bool := false
  /-- Forced to 0 by an unplug, not yet released (R56,R57,R422). -/
  forced : Bool := false
  /-- First sample of the dwell met; before that, the first that may begin one (R44,R45). -/
  dwellFrom : BitVec 64 := 0
  /-- The dwell was met and the residence is unbroken (R43,R44). -/
  dwellMet : Bool := false
  /-- The termination current is being measured (R45). -/
  checking : Bool := false
  /-- Result of the residence's open check, true when undriven (R43,R45). -/
  checked : Option Bool := none
  /-- Calibration correction applied, ticks (R51). -/
  corr : Int := 0
  /-- Comparator offset correction applied (R62,R63). -/
  offs : Int := 0
  /-- Pending correction of the delay (R63). -/
  pendCorr : Int := 0
  /-- Pending correction of the offset (R63). -/
  pendOffs : Int := 0
  /-- When it first exceeded 2 ticks (R64). -/
  pendAt : BitVec 64 := 0
  /-- Calibration_drift pending sent in this segment (R64,R466). -/
  driftSent : Bool := false
  deriving DecidableEq, Repr

/-- One pod port (chapter 2). -/
structure PodPort where
  /-- Plug recognised (R55,R422). -/
  present : Bool := false
  /-- Pp_PWR on (R33,R570). -/
  pwr : Bool := false
  /-- Settling, reading the descriptor, or neither (R57). -/
  phase : PodPhase := .idle
  /-- Time of the recognised plug (R55). -/
  plugTime : BitVec 64 := 0
  /-- Switched off for overcurrent (R33,R422). -/
  overcurrent : Bool := false
  /-- PRESENT# has been seen high since the overcurrent (R33). -/
  seenHigh : Bool := true
  /-- The 64 bytes reported (R52,R53). -/
  desc : List Byte := defaultDescriptor
  /-- 0 absent, 1 invalid, 2 valid (R53,R422). -/
  descState : BitVec 2 := 0
  /-- Bytes of the last pod seen since boot (R57). -/
  last : Option (List Byte) := none
  /-- Descriptor_changed of the last plug (R57). -/
  changed : Bool := false
  /-- Spur recognised as pressed (R59). -/
  spur : Bool := false
  deriving DecidableEq, Repr

/-- One front-end tile (chapter 2). -/
structure Tile where
  /-- Temperature, signed quarter degrees (R65,R416). -/
  temp : BitVec 16 := 0
  /-- Local supply in microvolts (R65). -/
  supply : Int := 0
  /-- Uncalibrated (R66). -/
  uncal : Bool := false
  /-- The calibration store holds a measurement (R62,R541). -/
  stored : Bool := false
  /-- The corrections stored (R62,R66). -/
  storedCorr : List Int := []
  /-- The comparator offsets stored (R62,R66). -/
  storedOffs : List Int := []
  /-- The threshold-DAC gains stored (R62,R66). -/
  storedGain : List Int := []
  /-- Temperature at calibration (R62). -/
  calTemp : BitVec 16 := 0
  /-- Supply at calibration (R62). -/
  calSupply : Int := 0
  deriving DecidableEq, Repr

/-- Device-wide front-end state. -/
structure FrontEnd where
  /-- Tile_spread has been sent and restored has not (R65). -/
  spread : Bool := false
  /-- The temperature limit is crossed (R65). -/
  crossedT : Bool := false
  /-- The supply limit is crossed (R65). -/
  crossedV : Bool := false
  /-- Both limits met since (R65). -/
  goodSince : Option (BitVec 64) := none
  /-- TRIG_IN in the last sample (R161). -/
  trigIn : Bool := false
  deriving DecidableEq, Repr

/-- One JESD204 link (chapter 9). -/
structure JLink where
  /-- Link setting (R283). -/
  setting : BitVec 128 := linkReset
  /-- Up (R287,R314). -/
  up : Bool := false
  /-- Alignment phase (R314). -/
  phase : BitVec 2 := 0
  /-- ILAS mismatch (R314). -/
  ilasMismatch : Bool := false
  /-- Boundaries fixed (R286,R314). -/
  sysrefSeen : Bool := false
  /-- First SYSREF edge after the setting (R286). -/
  boundary : BitVec 64 := 0
  /-- Lanes aligned (R314). -/
  aligned : BitVec 8 := 0
  /-- Frames released since the boundary (R288). -/
  frame : Nat := 0
  /-- Frames or multiblocks replaced (R316). -/
  replaced : Nat := 0
  /-- Link losses (R316). -/
  losses : Nat := 0
  /-- Times of the replacements of the last millisecond (R287). -/
  recent : List (BitVec 64) := []
  /-- Lost, and not up since (R287). -/
  lost : Bool := false
  /-- JESD_SYNC ball level (high: not asserted) (R282,R287,R570). -/
  syncPin : Bool := true
  /-- Previous sample of each converter (R287). -/
  lastSample : List (BitVec 16) := []
  deriving DecidableEq, Repr

/-- One detector window or cycle. -/
structure DetAcc where
  /-- Its first conditioned sample (R306,R308). -/
  first : Nat := 0
  /-- First conditioned sample after it; 0 while a cycle runs (R306). -/
  stop : Nat := 0
  /-- Represented instant of its output (R306,R308). -/
  stamp : BitVec 64 := 0
  /-- Conditioned samples in it (R307). -/
  n : Nat := 0
  /-- Sum of squares (R307). -/
  sum : Rat := 0
  /-- Peak by peak_sel (R307). -/
  peak : Option Rat := none
  /-- Envelope at the last sample (R307). -/
  env : Rat := 0
  /-- Ended (R306). -/
  done : Bool := false
  deriving DecidableEq, Repr

/-- One sluice chain (chapter 9). -/
structure Chain where
  /-- Chain setting (R289). -/
  setting : BitVec 256 := chainReset
  /-- FIR disabled, passing samples (R300,R315). -/
  fallback : Bool := false
  /-- Output delay in strides (R311). -/
  delayO : Nat := 0
  /-- Detector delay in strides (R311). -/
  delayD : Nat := 0
  /-- Multipliers taken (R299,R315). -/
  mults : Nat := 0
  /-- Re-anchored since the setting took effect (R315). -/
  anchored : Bool := false
  /-- Outputs emerging (R315). -/
  producing : Bool := false
  /-- Stopped by shed, Ready, Dikewatch, relock or a lost link until a sync instant (R521,R506). -/
  stopped : Bool := false
  /-- Phase trim (R294,R315). -/
  trim : BitVec 10 := 0
  /-- Sync instant that anchored it (R293). -/
  y : BitVec 64 := 0
  /-- Previous Y applied (R97). -/
  lastY : Option (BitVec 64) := none
  /-- Index of the next output (R295,R304). -/
  m : Nat := 0
  /-- Instant of the first output (R295,R306). -/
  t1 : BitVec 64 := 0
  /-- Previous restart (R135,R295). -/
  lastRestart : Option (BitVec 64) := none
  /-- CIC integrators (R296). -/
  integ : List (BitVec 48) := []
  /-- CIC comb delays (R296). -/
  combs : List (BitVec 48) := []
  /-- Inputs the phase trim interpolates over, newest first (R294). -/
  inHist : List Int := []
  /-- FIR delay line in 1/256, newest first (R297). -/
  firLine : List Int := []
  /-- DC estimate (R301). -/
  est : Rat := 0
  /-- Frozen by command (R302). -/
  frozenCmd : Bool := false
  /-- Frozen by autofreeze (R302). -/
  frozenAuto : Bool := false
  /-- Stride of the last sample beyond freeze_threshold (R302). -/
  lastBig : BitVec 64 := 0
  /-- Conditioned samples since the anchor (R293). -/
  condIdx : Nat := 0
  /-- The newest conditioned samples, exact, newest first (R304). -/
  cond : List Rat := []
  /-- Open and finished detector windows or cycles, oldest first (R306,R307). -/
  detWin : List DetAcc := []
  /-- Envelope value a (R307). -/
  envelope : Rat := 0
  /-- Start of the running cycle (R308). -/
  cycleFrom : Option (BitVec 64) := none
  /-- Output samples of the analogue record being packed (R113). -/
  sideOut : List (BitVec 20) := []
  /-- Detector samples of the analogue record being packed (R113). -/
  sideDet : List (BitVec 20) := []
  /-- A side anchor is owed before the next output sample (R132). -/
  anchorOut : Bool := true
  /-- A side anchor is owed before the next detector sample (R132). -/
  anchorDet : Bool := true
  /-- Saturations (R316). -/
  saturations : Nat := 0
  /-- Restarts (R316). -/
  restarts : Nat := 0
  /-- Sync_ignored (R316). -/
  syncIgnored : Nat := 0
  /-- Sync_missed (R316). -/
  syncMissed : Nat := 0
  /-- Cycle_merges (R316). -/
  cycleMerges : Nat := 0
  /-- Cycle_forced (R316). -/
  cycleForced : Nat := 0
  /-- Freezes (R316). -/
  freezes : Nat := 0
  deriving DecidableEq, Repr

/-- A block on its way to DRAM. -/
structure WrReq where
  /-- Device block (R245). -/
  blk : Nat := 0
  /-- Content (R242). -/
  recs : List Rec := []
  /-- Whose block it is (R220,R371). -/
  owner : WrOwner := .wipe 0
  /-- Written with the uncorrectable check pattern (R272,R404). -/
  bad : Bool := false
  /-- Time it entered its port (R251). -/
  when : BitVec 64 := 0
  deriving DecidableEq, Repr

/-- A read waiting on a port. -/
structure RdReq where
  /-- Device block (R245). -/
  blk : Nat := 0
  /-- Requester (R251,R269). -/
  owner : RdOwner := .play 0 0
  /-- Time it entered its port (R251). -/
  when : BitVec 64 := 0
  /-- Second attempt (R269). -/
  again : Bool := false
  deriving DecidableEq, Repr

/-- A command in the retry buffer (R266). -/
structure LaneCmd where
  /-- Order of issue (R266). -/
  id : Nat := 0
  /-- The write, or (R266). -/
  wr : Option WrReq := none
  /-- The read (R266,R267). -/
  rd : Option RdReq := none
  /-- The read has its data (R266). -/
  done : Bool := false
  /-- Stride of issue (R266). -/
  when : BitVec 64 := 0
  /-- Consecutive replays in which it has been re-issued, counted to 3 (R268). -/
  again : Nat := 0
  deriving DecidableEq, Repr

/-- An entry of the activate table (R259). -/
structure NrEntry where
  /-- Bank group, bank, row (R259). -/
  row : BitVec 21 := 0
  /-- Count (R259). -/
  count : Nat := 0
  deriving DecidableEq, Repr

/-- A block in a lane's repair buffer (R265, R272). -/
structure BufBlock where
  /-- Content (R272). -/
  recs : List Rec := []
  /-- Uncorrectable (R272). -/
  bad : Bool := false
  deriving DecidableEq, Repr

/-- One DRAM lane (chapter 8). -/
structure Lane where
  /-- In the interleave (R279). -/
  usable : Bool := false
  /-- Failed in service (R279). -/
  failed : Bool := false
  /-- More than 64 parcels retired (R279). -/
  degraded : Bool := false
  /-- Hot refresh (R256,R279). -/
  hot : Bool := false
  /-- Speed code (R279). -/
  speed : BitVec 2 := 0
  /-- Density code (R279). -/
  density : BitVec 2 := 0
  /-- Boot outcome (R278,R279). -/
  outcome : BitVec 2 := 0
  /-- Boot step 8 has trained the lane (R277,R279). -/
  fit : Bool := false
  /-- Unclaimed repair resources per bank group and component; 0 until step 8 (R271,R279). -/
  spares : List Nat := []
  /-- Parcels retired for the lane (R279). -/
  retired : Nat := 0
  /-- Corrected (R280). -/
  corrected : Nat := 0
  /-- Uncorrectable (R280). -/
  uncorrectable : Nat := 0
  /-- Replays (R280). -/
  replays : Nat := 0
  /-- Neighbour_refreshes (R280). -/
  nrCount : Nat := 0
  /-- Retraining corrections (R280). -/
  corrections : Nat := 0
  /-- Scrub_passes (R280). -/
  scrubPasses : Nat := 0
  /-- Scrub_last (R280). -/
  scrubLast : BitVec 32 := 0
  /-- All components at or below 85 C since (R256). -/
  coolSince : Option (BitVec 64) := none
  /-- Per-bank write queues (R249). -/
  banks : Vector (List WrReq) 16 := Vector.replicate 16 []
  /-- Rotation over the bank queues (R249). -/
  bankRot : Nat := 0
  /-- Playback reads waiting (R251). -/
  p1 : List RdReq := []
  /-- Upload reads waiting (R251). -/
  p2r : List RdReq := []
  /-- Reference_load writes waiting (R251). -/
  p2w : List WrReq := []
  /-- The patrol's read waiting (R251,R270). -/
  p3r : List RdReq := []
  /-- The patrol's write-back waiting (R251,R270). -/
  p3w : List WrReq := []
  /-- Device block that the patrol is at (R254,R270). -/
  scrubbing : Option Nat := none
  /-- A write of that block has reached DRAM since the patrol's read (R254). -/
  scrubStale : Bool := false
  /-- Read mode (R250). -/
  reading : Bool := false
  /-- Reads in the current run (R250). -/
  readRun : Nat := 0
  /-- Slots so far (R248). -/
  slot : Nat := 0
  /-- Slots of the newest activates, newest first (R248). -/
  acts : List Nat := []
  /-- Commands of the retry buffer not yet acknowledged, oldest first (R266). -/
  retry : List LaneCmd := []
  /-- Reads answered from a write the lane holds; none for a block with the uncorrectable pattern (R253). -/
  answered : List (RdReq × Option (List Rec)) := []
  /-- Next command's order (R266). -/
  nextId : Nat := 0
  /-- ALERT_n low (R267). -/
  alert : Bool := false
  /-- Commands still to be re-issued in the replay (R267). -/
  replaying : List Nat := []
  /-- Replays of the last millisecond (R268). -/
  replayTimes : List (BitVec 64) := []
  /-- Activate table (R259). -/
  nrTable : List NrEntry := []
  /-- Floor F (R259). -/
  nrFloor : Nat := 0
  /-- Rows whose neighbours are due (R259,R261). -/
  nrDue : List (BitVec 21) := []
  /-- Refresh stops made (R255). -/
  refreshes : Nat := 0
  /-- Due time of the next refresh, ticks (R255). -/
  nextRefresh : BitVec 64 := 0
  /-- End of the running stop (R255,R257). -/
  stopUntil : BitVec 64 := 0
  /-- Due time of the next DQS oscillator check, ticks (R250,R263). -/
  nextDqs : BitVec 64 := 0
  /-- Due time of the correction that a check has found necessary, ticks (R263). -/
  fixAt : Option (BitVec 64) := none
  /-- The last correction (R263). -/
  lastFix : Option (BitVec 64) := none
  /-- Repair buffer, the blocks of a row by column (R265,R272). -/
  repairBuf : List BufBlock := []
  /-- Stride of the last write issued, or since blocks wait (R217). -/
  lastIssue : BitVec 64 := 0
  /-- Blocks issued on this lane of the parcel it is at (R371). -/
  wipeAt : Nat := 0
  /-- Parcels of the wipe queue whose share on this lane is issued (R371). -/
  wiped : List Nat := []
  /-- Delay against the last correction, in unit intervals (R263). -/
  drift : Rat := 0
  /-- Delay against the last full training, in unit intervals (R264). -/
  driftTrain : Rat := 0
  /-- Unstable (R264,R268,R275). -/
  unstable : Bool := false
  /-- Next lane address of the patrol (R270). -/
  scrubAddr : Nat := 0
  /-- Rows of corrected blocks in this pass (R270). -/
  scrubRows : List (BitVec 21) := []
  deriving DecidableEq, Repr

/-- A parcel in the wipe queue (R371). -/
structure WipeReq where
  /-- Parcel (R371). -/
  parcel : Nat := 0
  /-- Time it entered (R371). -/
  when : BitVec 64 := 0
  deriving DecidableEq, Repr

/-- A soft repair (R271, R272). -/
structure Repair where
  /-- Lane (R271). -/
  lane : Fin 4 := 0
  /-- Bank group, bank, row (R271). -/
  row : BitVec 21 := 0
  /-- Time it entered its port (R251). -/
  when : BitVec 64 := 0
  deriving DecidableEq, Repr

/-- Device-wide memory state (chapters 7, 8, 11). -/
structure Dram where
  /-- Content, byte 144 b + i of block b; unlisted bytes are 0, the wipe pattern (R232,R242). -/
  mem : Memory := []
  /-- Blocks that hold the uncorrectable check pattern (R272). -/
  bad : List Nat := []
  /-- Map order in force (R244,R246). -/
  mapOrder : BitVec 2 := 0
  /-- T (R262). -/
  nrThreshold : Nat := 4096
  /-- Guarantee G in GB/s; 0 when no capture can be admitted (R228). -/
  g : Nat := 0
  /-- Parcels of the device (R232). -/
  total : Nat := 0
  /-- Retired parcels (R271). -/
  retired : List Nat := []
  /-- Parcels whose retirement waits for a segment's close (R235). -/
  retirePend : List Nat := []
  /-- Wipe queue, oldest first (R371). -/
  wipeQ : List WipeReq := []
  /-- Soft repairs queued (R272). -/
  repairQ : List Repair := []
  /-- Soft repair running (R272). -/
  repairing : Option Repair := none
  /-- A lane failed in service; arms refused until boot (R276). -/
  admFail : Bool := false
  /-- Components in self-refresh (R265,R504). -/
  selfRefresh : Bool := true
  /-- Time from which the refreshes of the lanes are laid out (R255). -/
  refreshBase : BitVec 64 := 0
  deriving DecidableEq, Repr

/-- A block in the freeboard. -/
structure FbBlock where
  /-- Owning stall (R212). -/
  stall : Stall := 0
  /-- Its segment (R212). -/
  uid : Nat := 0
  /-- Device block (R212). -/
  blk : Nat := 0
  /-- The 16 records (R212). -/
  recs : List Rec := []
  /-- Credit pool, event reserve, header reserve, or the copy of the Dikewatch ring (R211,R514). -/
  part : FbPart := .credit
  /-- Stride it was placed (R217). -/
  when : BitVec 64 := 0
  deriving DecidableEq, Repr

/-- The freeboard (R211). -/
structure Freeboard where
  /-- One FIFO per lane (R211,R212). -/
  slices : Vector (List FbBlock) 4 := Vector.replicate 4 []
  /-- Blocks formatted and not yet placed, by lane, oldest first (R212,R215). -/
  outbox : Vector (List FbBlock) 4 := Vector.replicate 4 []
  deriving DecidableEq, Repr

/-- One bale of an upload (R320). -/
structure BalePlan where
  /-- Segment (R320). -/
  seg : BitVec 20 := 0
  /-- Part (R320). -/
  part : Nat := 0
  /-- Its segment (R320). -/
  uid : Nat := 0
  /-- Polder blocks in order (R320). -/
  blocks : List Nat := []
  /-- Last part of its segment (R207). -/
  lastOfSeg : Bool := false
  deriving DecidableEq, Repr

/-- An upload at work (chapter 10). -/
structure UploadJob where
  /-- Function (R433). -/
  fn : Fn := 0
  /-- Stall (R433). -/
  stall : Stall := 0
  /-- Tag (R433). -/
  tag : BitVec 16 := 0
  /-- Its command has ended without a completion: the stall has been reset (R369). -/
  ended : Bool := false
  /-- 0 stored, 1 fixed, 2 dynamic (R433). -/
  mode : BitVec 2 := 0
  /-- Scatter-gather list as read (R434). -/
  sgl : List (BitVec 64 × Nat) := []
  /-- Address of the list (R433). -/
  sglAt : BitVec 64 := 0
  /-- The list has been read and passed (R434,R435). -/
  sglOk : Bool := false
  /-- List entries read again so far (R434). -/
  entry : Nat := 0
  /-- An entry was read again with other values (R434). -/
  wild : Bool := false
  /-- Entries read again so far: number, address and length (R434). -/
  again : List (Nat × BitVec 64 × Nat) := []
  /-- Bytes not yet written, with their offset in the list's space, until the entries they reach have been read again (R434). -/
  wait : List (Nat × List Byte) := []
  /-- Segments of finished bales of which bytes wait (R326). -/
  late : List Nat := []
  /-- Every bale is written but for what waits (R327). -/
  fin : Bool := false
  /-- Bits of the stream that do not yet fill a byte (R318). -/
  bitRest : List Bool := []
  /-- Bales still to be finished, the running one first (R320). -/
  bales : List BalePlan := []
  /-- Started (R323,R436). -/
  running : Bool := false
  /-- Blocks of the running bale already delivered (R318). -/
  pos : Nat := 0
  /-- The chunk read and waiting (R318). -/
  recs : List Byte := []
  /-- P2 reads of the chunk outstanding (R323). -/
  reqd : Nat := 0
  /-- Blocks of the chunk that have come, with poison put in (R323,R269). -/
  got : List (Nat × List Rec) := []
  /-- Running CRC-32C state (R321). -/
  crc : BitVec 32 := 0
  /-- Stream bytes of the running bale (R317). -/
  clen : Nat := 0
  /-- Poisoned blocks of the running bale (R317). -/
  balePoison : Nat := 0
  /-- Offset Ok of the running bale (R322). -/
  off : Nat := 0
  /-- Bales written (R327). -/
  doneBales : Nat := 0
  /-- Bytes up to the last finished bale (R327). -/
  doneBytes : Nat := 0
  /-- Uncompressed bytes of finished bales (R327). -/
  ulen : Nat := 0
  /-- Uncompressed bytes read (R413). -/
  read : Nat := 0
  /-- Poisoned blocks of finished bales (R327). -/
  poison : Nat := 0
  /-- Status with which it stops at the next chunk boundary (R326). -/
  stop : Option (BitVec 8) := none
  /-- Upload_cancel commands waiting for it (R436). -/
  cancel : List (BitVec 16 × Fn) := []
  /-- Compressor that holds its chunk, or waits for it (R323,R324). -/
  comp : Option (Fin 4) := none
  deriving DecidableEq, Repr

/-- A reference_load at work (chapter 10). -/
structure LoadJob where
  /-- Function (R437). -/
  fn : Fn := 0
  /-- Stall (R437). -/
  stall : Stall := 0
  /-- Tag (R437). -/
  tag : BitVec 16 := 0
  /-- Declared length (R437). -/
  declared : Nat := 0
  /-- The grant was too small for the area at the start (R329). -/
  short : Bool := false
  /-- The buffer as read (R332). -/
  data : List Byte := []
  /-- Stream offset, ulen and crc of the bales still to inflate (R328). -/
  bales : List (Nat × Nat × BitVec 32) := []
  /-- Their clen (R328). -/
  clens : List Nat := []
  /-- Output so far (R331). -/
  out : List Byte := []
  /-- Area parcels (R329). -/
  area : Nat := 0
  /-- Segments deleted (R329). -/
  deleted : Nat := 0
  /-- Decompressor (R331). -/
  dec : Option (Fin 2) := none
  /-- Every check passed (R333). -/
  done : Bool := false
  deriving DecidableEq, Repr

/-- Calibrate at work (R439). -/
structure CalJob where
  /-- Tag (R439). -/
  tag : BitVec 16 := 0
  /-- Tiles to do, in order (R439). -/
  todo : List (Fin 6) := []
  /-- Tiles passed (R439). -/
  passed : BitVec 6 := 0
  /-- Tiles failed (R439). -/
  failedT : BitVec 6 := 0
  /-- The SYSREF delay is measured (R439). -/
  sysref : Bool := false
  deriving DecidableEq, Repr

/-- Selftest test 0 at work (R440). -/
structure TestJob where
  /-- Function (R440). -/
  fn : Fn := 0
  /-- Stall (R440). -/
  stall : Stall := 0
  /-- Tag (R440). -/
  tag : BitVec 16 := 0
  /-- Channels (R440). -/
  chans : ChanMask := 0
  deriving DecidableEq, Repr

/-- A key press whose arm waits for a soft repair (R272, R445). -/
structure KeyWait where
  /-- Key (R445). -/
  key : Nat := 0
  /-- Its action (R445). -/
  action : Nat := 0
  /-- Key stall (R445). -/
  stall : Stall := 0
  /-- Press time (R517). -/
  time : BitVec 64 := 0
  deriving DecidableEq, Repr

/-- Shared engines and their queues. -/
structure Jobs where
  /-- Uploads, oldest first (R322). -/
  uploads : List UploadJob := []
  /-- Reference loads, oldest first (R331). -/
  loads : List LoadJob := []
  /-- Stall whose turn it is at the compressors (R324). -/
  compRot : Stall := 0
  /-- Chunks left of its turn (R324). -/
  compLeft : Nat := 0
  /-- Stall whose turn it is for P2 reads (R323). -/
  readRot : Stall := 0
  /-- Running calibrate commands, oldest first (R439). -/
  cal : List CalJob := []
  /-- Running channel tests (R440). -/
  tests : List TestJob := []
  /-- Capture_arm commands waiting for a soft repair (R272). -/
  waitArms : List Taken := []
  /-- Key presses whose arm waits for a soft repair (R272,R445,R518). -/
  waitKeys : List KeyWait := []
  deriving DecidableEq, Repr

/-- One Quera port (chapter 15). -/
structure QPort where
  /-- Up (R479). -/
  up : Bool := false
  /-- Exchanges since it came up, counted to 256 (R485). -/
  exchanges : Nat := 0
  /-- The delay of the link has been measured since it was enabled (R479,R484). -/
  measured : Bool := false
  /-- One-way delay in ticks (R484). -/
  delay : Nat := 0
  /-- Next request number (R484). -/
  seq : BitVec 7 := 0
  /-- T1 of the outstanding request (R484). -/
  t1 : Option (BitVec 64) := none
  /-- Its number (R484). -/
  reqSeq : BitVec 7 := 0
  /-- Discards of the last millisecond (R477). -/
  discards : List (BitVec 64) := []
  /-- Consecutive valid topology messages, to 3 (R479). -/
  topoOk : Nat := 0
  /-- Time of the last valid topology message (R479). -/
  lastTopo : BitVec 64 := 0
  /-- Sender last received (R464,R481). -/
  farId : BitVec 12 := 0
  /-- Its epoch (R489). -/
  farEpoch : BitVec 32 := 0
  /-- Its master (R482). -/
  farMaster : BitVec 12 := 0
  /-- Its hops to the master, 127 for none (R483). -/
  farHops : Nat := 127
  /-- Its ring state (R489). -/
  farRing : BitVec 2 := 3
  /-- Ring size it gives (R489). -/
  farSize : Nat := 0
  /-- Its reach (R489,R492). -/
  farReach : Nat := 0
  /-- Its pending bit (R489). -/
  farPending : Bool := false
  /-- Its role (R481). -/
  farRole : BitVec 2 := 0
  /-- Its auto_id (R481). -/
  farAuto : Bool := false
  /-- Messages that wait to be sent, oldest first (R478). -/
  queue : List QOut := []
  /-- Since when block lock is held: the first message received after it was lost (R479). -/
  lockSince : Option (BitVec 64) := none
  /-- Sync headers tested in the current 64 (R474). -/
  headers : Nat := 0
  /-- Invalid ones among them (R474). -/
  badHeaders : Nat := 0
  /-- The sender's port of the last identify message since block lock was lost (R472,R481). -/
  farPort : Option (BitVec 2) := none
  /-- The neighbour's ID when the port was last up (R489,R500). -/
  wasId : Option (BitVec 12) := none
  /-- Its role then (R489,R500). -/
  wasRole : BitVec 2 := 0
  /-- The transmitter's scrambler: its last 58 bits, newest in bit 0 (R474). -/
  scrambler : BitVec 58 := 0
  /-- The next block boundary at which it may start a block, in 25ths of a tick (R478). -/
  blockAt : Nat := 0
  deriving DecidableEq, Repr

/-- A cross-trigger route (R353, R443). -/
structure Route where
  /-- Stall (R443). -/
  stall : Stall := 0
  /-- Generation it is bound to (R353). -/
  gen : BitVec 16 := 0
  /-- Send mask (R443). -/
  send : BitVec 16 := 0
  /-- Receive mask (R443). -/
  recv : BitVec 16 := 0
  deriving DecidableEq, Repr

/-- The Quera link (chapter 15). -/
structure Quera where
  /-- Ports (R472). -/
  ports : Vector QPort 4 := Vector.replicate 4 {}
  /-- Role (R473). -/
  role : BitVec 2 := 0
  /-- Ref_port (R441). -/
  refPort : BitVec 2 := 0
  /-- Port_enable (R441,R534). -/
  portEnable : BitVec 4 := 0
  /-- Auto_id (R480). -/
  autoId : Bool := false
  /-- Device ID in use (R480). -/
  deviceId : BitVec 12 := 0
  /-- Device_id as configured (R480,R441). -/
  configId : BitVec 12 := 0
  /-- Behaves as alone after an ID clash (R481). -/
  clash : Bool := false
  /-- An auto_id member has been given its ID by a census (R480). -/
  placed : Bool := false
  /-- Ring state (R442). -/
  ring : BitVec 2 := 3
  /-- N (R480). -/
  ringSize : Nat := 1
  /-- Ring state of the root ring as last heard (R482). -/
  rootRing : BitVec 2 := 3
  /-- M (R480). -/
  rootSize : Nat := 1
  /-- The device's part of the domain is cut off otherwise than by the breaks of a ring of its own (R497). -/
  cut : Bool := false
  /-- The lowest device that a census of the leaf ring has named as its anchor while the ring is whole (R480). -/
  leafAnchor : Option (BitVec 12) := none
  /-- Likewise on the root ring (R480). -/
  rootAnchor : Option (BitVec 12) := none
  /-- Since when a member with auto_id waits for the census of a whole ring (R480). -/
  censusWait : Option (BitVec 64) := none
  /-- Current epoch (R442,R489). -/
  epoch : BitVec 32 := 0
  /-- Epoch not yet adopted (R490). -/
  nextEpoch : Option (BitVec 32) := none
  /-- Consecutive exchanges within the bound (R490). -/
  aligned : Nat := 0
  /-- Time master (R482). -/
  master : Option (BitVec 12) := none
  /-- Hops to the master (R483,R489). -/
  hops : Nat := 127
  /-- Upstream port (R483). -/
  upstream : Option (Fin 4) := none
  /-- E of the last upstream exchanges, newest first (R486). -/
  hist : List Int := []
  /-- Last measured offset (R442). -/
  offset : Int := 0
  /-- Time step waiting (R486). -/
  step : Option Int := none
  /-- Routes (R443). -/
  routes : List Route := []
  /-- Stale_dropped (R442,R493). -/
  staleDropped : Nat := 0
  /-- Xtrig_received (R442). -/
  received : Nat := 0
  /-- Xtrig_sent (R442). -/
  sent : Nat := 0
  deriving DecidableEq, Repr

/-- A journal entry (R535). -/
structure JEntry where
  /-- Kind (R535). -/
  kind : BitVec 8 := 1
  /-- Sequence (R535). -/
  seq : BitVec 32 := 0
  /-- System time (R535). -/
  time : BitVec 64 := 0
  /-- Slots (R535). -/
  slots : BitVec 8 := 0
  /-- Lifecycle (R535). -/
  lifecycle : BitVec 8 := 0
  /-- Security_version (R535). -/
  secVer : BitVec 8 := 0
  /-- Flags (R535). -/
  flags : BitVec 8 := 0
  /-- Firmware (R535). -/
  firmware : BitVec 32 := 0
  /-- Lanes (R535). -/
  lanes : BitVec 32 := 0
  /-- Tiles_stored (R535). -/
  tilesStored : BitVec 8 := 0
  /-- Tiles_default (R535). -/
  tilesDefault : BitVec 8 := 0
  /-- Guarantee (R535). -/
  guarantee : BitVec 16 := 0
  /-- Fir_rom_fail (R535). -/
  romFail : BitVec 32 := 0
  /-- Fails (R535). -/
  fails : List (BitVec 8) := List.replicate 12 0
  /-- Detail (R536). -/
  detail : BitVec 32 := 0
  /-- Progress (R538). -/
  progress : List (BitVec 8) := List.replicate 12 0xFF
  /-- Committed (R537). -/
  committed : Bool := false
  /-- Page of the 32 (R537). -/
  page : Nat := 0
  deriving DecidableEq, Repr

/-- An image slot (R543). -/
structure Image where
  /-- Version (R543). -/
  version : BitVec 32 := 0
  /-- Security_version (R543). -/
  secVer : Nat := 0
  /-- Subsystem_vendor (R543). -/
  subVendor : BitVec 16 := 0
  /-- Subsystem_id (R543). -/
  subId : BitVec 16 := 0
  /-- Body_hash (R543). -/
  bodyHash : List Byte := []
  /-- SHA-384 of its public_key (R543,R544). -/
  keyDigest : List Byte := List.replicate 48 0
  /-- The SHA-384 of its body equals body_hash (R544). -/
  bodyOk : Bool := true
  /-- Signer key slot (R543). -/
  keySlot : BitVec 1 := 0
  /-- An image is there and verifies (R544,R546). -/
  valid : Bool := true
  deriving DecidableEq, Repr

/-- A breach-map entry (R274). -/
structure BreachEntry where
  /-- Lane (R274). -/
  lane : Fin 4 := 0
  /-- Bank group, bank, row (R274). -/
  row : BitVec 21 := 0
  /-- State (R274). -/
  state : BitVec 2 := 0
  /-- Cause (R274). -/
  cause : BitVec 3 := 0
  deriving DecidableEq, Repr

/-- Flash work outside boot. -/
structure FlashOp where
  /-- The journal entry, or the breach map when none (R537). -/
  entry : Option JEntry := none
  /-- Command that waits for it (R440,R446). -/
  work : Work := .none
  deriving DecidableEq, Repr

/-- Firmware_update at work (R546). -/
structure UpdJob where
  /-- Tag (R446). -/
  tag : BitVec 16 := 0
  /-- Its command has ended without a completion: stall 0 has been reset (R369). -/
  ended : Bool := false
  /-- Slot written (R446). -/
  slotB : Bool := false
  /-- Activate (R446). -/
  activate : Bool := false
  /-- Header as read (R546). -/
  image : Image := {}
  /-- Host read complete (R546). -/
  readOk : Bool := false
  deriving DecidableEq, Repr

/-- Lifecycle at work (R551). -/
structure LifeJob where
  /-- Tag (R447). -/
  tag : BitVec 16 := 0
  /-- Its command has ended without a completion: stall 0 has been reset (R369). -/
  ended : Bool := false
  /-- State before (R548). -/
  fromSt : BitVec 3 := 0
  /-- Target (R548). -/
  target : BitVec 3 := 0
  /-- Cert_slot (R550). -/
  certSlot : BitVec 2 := 0
  /-- Chain (R550). -/
  chain : List Byte := []
  /-- Owner_key_hash (R548,R550). -/
  owner : List Byte := []
  /-- The credential was accepted and the wipe of step 1 has begun (R551). -/
  passed : Bool := false
  /-- Step 1 done (R551). -/
  wiped : Bool := false
  /-- Step 2 reached (R551). -/
  programmed : Bool := false
  /-- A tamper or glitch wipe fell inside (R554). -/
  tampered : Bool := false
  deriving DecidableEq, Repr

/-- The external xSPI flash (chapter 17). -/
structure Flash where
  /-- Board record (R244,R533). -/
  boardRec : List Byte := List.replicate 16 0xFF
  /-- Node record (R533,R534). -/
  nodeRec : List Byte := List.replicate 16 0xFF
  /-- Entries of both sectors, newest first (R535). -/
  journal : List JEntry := []
  /-- The breach map in memory (R274). -/
  breach : List BreachEntry := []
  /-- The committed map (R274,R537). -/
  breachCommitted : List BreachEntry := []
  /-- Certificate slots, empty when erased (R547). -/
  certs : Vector (List Byte) 4 := Vector.replicate 4 []
  /-- Image slot A (R533). -/
  slotA : Image := {}
  /-- Image slot B (R533). -/
  slotB : Image := {}
  /-- Work waiting, oldest first (R539). -/
  ops : List FlashOp := []
  /-- Running firmware_update (R546). -/
  upd : Option UpdJob := none
  /-- Running lifecycle (R551). -/
  life : Option LifeJob := none
  /-- Tag of a lifecycle into Returned whose completion has not been written (R447). -/
  returned : Option (BitVec 16) := none
  /-- No new flash command after a trip (R529). -/
  noMore : Bool := false
  deriving DecidableEq, Repr

/-- Fuses, keys, tamper (chapter 17). -/
structure Secure where
  /-- Serial number (R549). -/
  serial : BitVec 64 := 0
  /-- Programmed lifecycle slots, oldest first (R549). -/
  slots : List (BitVec 3) := []
  /-- Rollback floor (R545,R549). -/
  floor : Nat := 0
  /-- Revoked image keys (R549). -/
  revoked : BitVec 2 := 0
  /-- Hashes of image keys 0 and 1 and of the provisioning key (R544,R549). -/
  keyHashes : List Byte := List.replicate 144 0
  /-- Owner key hash (R548,R549). -/
  ownerHash : List Byte := List.replicate 48 0
  /-- An uncorrectable fuse row (R549). -/
  fuseBad : Bool := false
  /-- Keys are in the secure bank (R547,R553). -/
  keys : Bool := false
  /-- Wipe running, with its source (0 lifecycle) (R552). -/
  wiping : Option (BitVec 2) := none
  /-- The read-back failed once (R553). -/
  retried : Bool := false
  /-- Tamper since boot (R547,R553). -/
  tamper : Bool := false
  /-- Glitch since boot (R547,R553). -/
  glitch : Bool := false
  /-- Always-on record of a wipe that failed its read-back twice while the core could not halt (R553). -/
  wipeBad : Bool := false
  /-- Always-on records of wipes to be journalled, with verified (R553). -/
  recTamper : List (BitVec 2 × Bool) := []
  /-- Always-on record of a trip (R529). -/
  recTrip : Option (BitVec 16) := none
  deriving DecidableEq, Repr

/-- The boot (chapter 17). -/
structure Boot where
  /-- In reset, booting, ready or halted (R530,R559). -/
  phase : BootPhase := .inReset
  /-- Boot step 12 has been reached (`WIN.STATUS.ready`) (R376,R391). -/
  reached : Bool := false
  /-- Step running (R531). -/
  step : Nat := 0
  /-- Failures of each step on the alternative in use (R541). -/
  fails : List Nat := List.replicate 12 0
  /-- Running slot is B (R541). -/
  slotB : Bool := false
  /-- First slot is B (R541). -/
  firstB : Bool := false
  /-- A failed verify (R535). -/
  aFailed : Bool := false
  /-- B failed verify (R535). -/
  bFailed : Bool := false
  /-- An alternative was used at step 4 (R538,R545). -/
  alt4 : Bool := false
  /-- An alternative was used at step 5 (R538,R545). -/
  alt5 : Bool := false
  /-- Running image's version (R415,R543). -/
  firmware : BitVec 32 := 0
  /-- Its security_version (R543). -/
  secVer : Nat := 0
  /-- Its body_hash (R547). -/
  imageHash : List Byte := []
  /-- Subsystem Vendor ID (R374,R542). -/
  subVendor : BitVec 16 := 0xFFFF
  /-- Subsystem ID (R374,R542). -/
  subId : BitVec 16 := 0xFFFF
  /-- Fir_rom_fail (R300,R315). -/
  romFail : BitVec 24 := 0
  /-- Tiles running from stored calibration (R535). -/
  tilesStored : BitVec 6 := 0
  /-- Tiles on default coefficients (R535). -/
  tilesDefault : BitVec 6 := 0
  /-- Progress bytes of this boot (R538). -/
  progress : List (BitVec 8) := List.replicate 12 0xFF
  /-- Boot_fallback payloads to be sent at step 12 (R467). -/
  fallbacks : List (BitVec 32 × BitVec 32) := []
  /-- The lanes differ from the board record (R278). -/
  laneDiff : Bool := false
  /-- Time of detection of what step 8 found (R281). -/
  lanesAt : BitVec 64 := 0
  /-- Retry_lanes requested by the newest entry (R277). -/
  retryLanes : Bool := false
  /-- The Groom runs the ROM monitor (R542). -/
  romMonitor : Bool := false
  /-- The crystal ran at step 1 (R532). -/
  aonReady : Bool := false
  deriving DecidableEq, Repr

/-- Dikewatch (chapter 16). -/
structure DikeRing where
  /-- Watched stall (R511). -/
  stall : Option Stall := none
  /-- Watched teams (R511). -/
  teams : BitVec 8 := 0
  /-- The watch (R511). -/
  watch : PatternEntry := {}
  /-- Ring period Wr (R511). -/
  period : Nat := 1
  /-- Stride of entry (R512). -/
  entry : BitVec 64 := 0
  /-- Ring records, newest first (R512). -/
  recs : List Rec := []
  /-- Records written since entry (R512). -/
  count : Nat := 0
  /-- Previous sample (R511). -/
  prev : ChanMask := 0
  /-- Stride last sampled (R511). -/
  seen : Option (BitVec 64) := none
  /-- States last written (R512). -/
  states : ChanMask := 0
  /-- Current time of the ring's chain (R120). -/
  chain : BitVec 64 := 0
  /-- Hit stride (R513). -/
  hit : Option (BitVec 64) := none
  /-- Ring records replaced by fill (R404). -/
  corrupted : Nat := 0
  deriving DecidableEq, Repr

/-- Something recognised in Dormant (R510). -/
structure HeldPress where
  /-- 0 key, 1 spur, 2 plug, 3 unplug (R510). -/
  kind : BitVec 2 := 0
  /-- Key or port (R510). -/
  index : Nat := 0
  /-- Time of R55 (R510). -/
  time : BitVec 64 := 0
  deriving DecidableEq, Repr

/-- A power transition (R505). -/
structure PowerTarget where
  /-- State entered (R505). -/
  dest : PowerSt := .run
  /-- Start (R444). -/
  when : BitVec 64 := 0
  /-- Tag of power_state (R444). -/
  tag : BitVec 16 := 0
  /-- Caused by power_state (R505). -/
  cmd : Bool := false
  /-- Caused by a hit (R513). -/
  hit : Bool := false
  deriving DecidableEq, Repr

/-- Power, supply and heat (chapter 16). -/
structure Power where
  /-- Power state; off before a boot has reached Run (R504). -/
  st : PowerSt := .off
  /-- Transition under way (R505). -/
  target : Option PowerTarget := none
  /-- VDD_CORE in mV at the last detection (R416,R502). -/
  vdd : BitVec 16 := 750
  /-- Supply stage (R520). -/
  supply : Nat := 0
  /-- Condition of the supply stage (R463). -/
  supplySrc : BitVec 4 := 0
  /-- Effective stage whose actions are done (R521). -/
  done : Nat := 0
  /-- Stage-3 entry (R238). -/
  stage3At : BitVec 64 := 0
  /-- Readings of the eight die sensors, signed quarter degrees (R524). -/
  sensors : Vector (BitVec 16) 8 := Vector.replicate 8 100
  /-- Tj, the highest of them (R416,R524). -/
  tj : BitVec 16 := 100
  /-- Thermal stage (R525). -/
  thermal : Nat := 0
  /-- Highest thermal stage since stage 0 (R525). -/
  peakStage : Nat := 0
  /-- Since when Tj has stayed below the leaving temperature of thermal stages 1 to 3 (R525). -/
  cool : Vector (Option (BitVec 64)) 3 := Vector.replicate 3 none
  /-- Effective stage of the last supply_shed, or that the device found at boot step 12 (R463,R522). -/
  told : Nat := 0
  /-- Trip in force (R529). -/
  tripped : Bool := false
  /-- Recognised in Dormant, newest first (R510). -/
  heldKeys : List HeldPress := []
  /-- System time at Dormant entry (R88). -/
  dormantAt : BitVec 64 := 0
  deriving DecidableEq, Repr

/-- Keys and LEDs (R445, R517). -/
structure Panel where
  /-- Key actions (R445,R517). -/
  action : Vector (BitVec 4) 8 := Vector.replicate 8 0
  /-- Key stalls (R445,R517). -/
  keyStall : Vector (BitVec 6) 8 := Vector.replicate 8 0
  /-- Keys recognised as pressed (R517). -/
  down : BitVec 8 := 0
  /-- LED levels (R445,R517). -/
  led : BitVec 8 := 0
  /-- LEDs that blink (R445,R517). -/
  blink : BitVec 8 := 0
  /-- Blink phase (R519). -/
  phase : Bool := true
  deriving DecidableEq, Repr

/-- Output balls. -/
structure Pins where
  /-- TRIG_OUT (R166,R570). -/
  trigOut : Bool := false
  /-- THERM_TRIP# driven low (R529,R570). -/
  thermTrip : Bool := false
  /-- REF_OUT running (R94,R570). -/
  refOut : Bool := false
  /-- DDR RESET_n driven low (R570). -/
  ddrReset : Bool := true
  /-- Tiles whose channel inputs are terminated and biased (R34,R570). -/
  terminated : BitVec 6 := 0
  deriving DecidableEq, Repr

/-- The state of the block. -/
structure State where
  /-- Timebase (R6). -/
  tb : Timebase := {}
  /-- Register windows of the 64 functions (R386). -/
  fns : Vector FnState 64 := Vector.replicate 64 {}
  /-- PCIe endpoint (R374). -/
  pcie : Pcie := {}
  /-- The Groom (R394). -/
  groom : Groom := {}
  /-- The 64 stalls (R346). -/
  stalls : Vector StallState 64 := Vector.replicate 64 {}
  /-- The 48 channels (R32). -/
  chans : Vector Channel 48 := Vector.replicate 48 {}
  /-- The six pod ports (R32). -/
  ports : Vector PodPort 6 := Vector.replicate 6 {}
  /-- The six tiles (R32). -/
  tiles : Vector Tile 6 := Vector.replicate 6 {}
  /-- Device-wide front end (R65). -/
  fe : FrontEnd := {}
  /-- JESD204 links (R282). -/
  links : Vector JLink 2 := Vector.replicate 2 {}
  /-- Sluice chains (R289). -/
  chains : Vector Chain 8 := Vector.replicate 8 {}
  /-- DRAM lanes (R239). -/
  lanes : Vector Lane 4 := Vector.replicate 4 {}
  /-- Memory (R232). -/
  dram : Dram := {}
  /-- Freeboard (R211). -/
  fbd : Freeboard := {}
  /-- Scratchpads, byte 16384 n + x of stall n (R401,R403). -/
  scratch : Memory := []
  /-- Shared engines (R366). -/
  jobs : Jobs := {}
  /-- Quera link (R472). -/
  quera : Quera := {}
  /-- Flash (R533). -/
  flash : Flash := {}
  /-- Fuses and secure bank (R549). -/
  sec : Secure := {}
  /-- Boot (R530). -/
  boot : Boot := {}
  /-- Power and heat (R504). -/
  power : Power := {}
  /-- Dikewatch (R511). -/
  dike : DikeRing := {}
  /-- Keys and LEDs (R517). -/
  panel : Panel := {}
  /-- Balls (R570). -/
  pins : Pins := {}
  /-- The model's transcript of what leaves the device, oldest first (R380). -/
  out : List Output := []
  /-- The model's counter of free values drawn. -/
  free : Nat := 0
  /-- Commands waiting, first in first out. -/
  pending : List Instr := []
  deriving DecidableEq, Repr


/-- The machine right after reset: RESET# released, no boot step run, every field at the value the field's line gives (R559). -/
def State.reset : State := {}

/-- Why a command stops the machine with a fault. -/
inductive Fault where
  /-- LANE_WRITE_ISSUE: the block lies outside the lane's addresses (R245). Safe: the spec gives such a block no place. -/
  | noSuchBlock
  deriving DecidableEq, Repr

/-- Why a command is refused. -/
inductive Refusal where
  /-- A command whose meaning is not written, by its mnemonic. Safe. -/
  | notModelled (mnemonic : String)
  deriving DecidableEq, Repr

end Sys2Proof.Machine
end

