-- ==== Sys2Proof/Machine/Ops.lean ====
section
/-!
DEFINITION. The operations the meanings share: fields and bytes, canonical memories, updates of one member of a vector, times,
the completion store and ring with its messages, events and their rate limits, completions, refusals and results.
-/

namespace Sys2Proof.Machine

/-! ## Bits, bytes and numbers -/

/-- A Bool as a one-bit number at bit position k of a dword. -/
def flag (b : Bool) (k : Nat) : Dword := if b then BitVec.ofNat 32 (2 ^ k) else 0

/-- A number placed at bit position k of a dword; bits beyond its top fall off. -/
def fld (n k : Nat) : Dword := BitVec.ofNat 32 (n * 2 ^ k)

/-- A signed number as a dword field of w bits at position k. -/
def sfld (n : Int) (w k : Nat) : Dword := BitVec.ofNat 32 ((n % (2 ^ w : Int)).toNat * 2 ^ k)

/-- Adds to a counter of w bits that saturates (R471). -/
def satAdd (w a b : Nat) : Nat := if a + b < 2 ^ w then a + b else 2 ^ w - 1

/-- A number cut to the largest value of a w-bit field. -/
def sat (w a : Nat) : Nat := if a < 2 ^ w then a else 2 ^ w - 1

/-- The quotient rounded up. -/
def ceilDiv (a b : Nat) : Nat := (a + b - 1) / b

/-- Bytes of a word, lowest first: k of them (R9). -/
def leBytes {n : Nat} (w : BitVec n) (k : Nat) : List Byte :=
  (List.range k).map fun i => BitVec.ofNat 8 (w.toNat / 2 ^ (8 * i))

/-- Bytes of a list of dwords, dword 0 first (R9). -/
def dwBytes (l : List Dword) : List Byte := l.flatMap fun d => leBytes d 4

/-- The number that bytes spell, lowest first (R9). -/
def leNat : List Byte → Nat
  | [] => 0
  | b :: l => b.toNat + 256 * leNat l

/-- The little-endian number of k bytes at offset i of a buffer; bytes beyond its end read 0. -/
def leAt (l : List Byte) (i k : Nat) : Nat := leNat ((l.drop i).take k)

/-- The number of 1 bits of a mask. -/
def popcount {n : Nat} (w : BitVec n) : Nat := ((List.range n).filter fun i => bit w i).length

/-- The positions of the 1 bits, lowest first. -/
def ones {n : Nat} (w : BitVec n) : List Nat := (List.range n).filter fun i => bit w i

/-- A mask from a predicate on positions. -/
def maskOf (n : Nat) (p : Nat → Bool) : BitVec n :=
  BitVec.ofNat n (((List.range n).map fun i => if p i then 2 ^ i else 0).foldl (· + ·) 0)

/-- Bit k of a mask set to b. -/
def setBit {n : Nat} (w : BitVec n) (k : Nat) (b : Bool) : BitVec n :=
  if b then w ||| BitVec.ofNat n (2 ^ k) else w &&& ~~~ BitVec.ofNat n (2 ^ k)

/-- A value of w bits read as two's complement. -/
def signed (w n : Nat) : Int := if 2 ^ (w - 1) ≤ n % 2 ^ w then ((n % 2 ^ w : Nat) : Int) - (2 ^ w : Nat) else ((n % 2 ^ w : Nat) : Int)

/-- Whether a value has an even number of 1 bits (R387). -/
def evenParity (v : Dword) : Bool := popcount v % 2 == 0

/-- One step of a reflected CRC-32C, polynomial 0x1EDC6F41, reflected 0x82F63B78. -/
def crc32cBit (c : BitVec 32) : BitVec 32 := if bit c 0 then (c >>> 1) ^^^ 0x82F63B78 else c >>> 1

/-- A byte into the CRC-32C state. -/
def crc32cByte (c : BitVec 32) (b : Byte) : BitVec 32 :=
  (List.range 8).foldl (fun c _ => crc32cBit c) (c ^^^ b.zeroExtend 32)

/-- Bytes into the CRC-32C state. -/
def crc32cFrom (c : BitVec 32) (l : List Byte) : BitVec 32 := l.foldl crc32cByte c

/-- CRC-32C of a buffer: initial value all ones, final inversion. -/
def crc32c (l : List Byte) : BitVec 32 := ~~~ crc32cFrom 0xFFFFFFFF l

/-- A byte into the CRC-16 of a pod descriptor: polynomial 0x1021, no reflection (R52). -/
def crc16Byte (c : BitVec 16) (b : Byte) : BitVec 16 :=
  (List.range 8).foldl (fun c _ => if bit c 15 then (c <<< 1) ^^^ 0x1021 else c <<< 1) (c ^^^ (b.zeroExtend 16 <<< 8))

/-- CRC-16 of a pod descriptor: initial value 0xFFFF, no final XOR (R52). -/
def crc16 (l : List Byte) : BitVec 16 := l.foldl crc16Byte 0xFFFF

/-! ## Memories in canonical form -/

/-- The byte at an address; an unlisted byte reads 0 (log entries 5 and 6). -/
def memRead : Memory → Nat → Byte
  | [], _ => 0
  | (a, b) :: m, x => if a = x then b else if x < a then 0 else memRead m x

/-- Stores a byte and keeps the canonical form: storing 0 unlists the address. -/
def memWrite : Memory → Nat → Byte → Memory
  | [], x, v => if v = 0 then [] else [(x, v)]
  | (a, b) :: m, x, v =>
    if x < a then (if v = 0 then (a, b) :: m else (x, v) :: (a, b) :: m)
    else if x = a then (if v = 0 then m else (x, v) :: m)
    else (a, b) :: memWrite m x v

/-- Stores bytes from an address upward. -/
def memWriteList : Memory → Nat → List Byte → Memory
  | m, _, [] => m
  | m, x, v :: l => memWriteList (memWrite m x v) (x + 1) l

/-- The n bytes from an address upward. -/
def memReadList (m : Memory) (x n : Nat) : List Byte := (List.range n).map fun i => memRead m (x + i)

/-- Makes the n bytes from an address upward 0. -/
def memClear (m : Memory) (x n : Nat) : Memory := m.filter fun c => c.1 < x || x + n ≤ c.1

/-- The canonical form from a lower bound on the addresses. -/
def memWfFrom : Nat → Memory → Bool
  | _, [] => true
  | lo, (a, b) :: m => decide (lo ≤ a) && decide (b ≠ 0) && memWfFrom (a + 1) m

/-- The canonical form: addresses strictly rising, no listed byte 0. -/
def memWf (m : Memory) : Bool := memWfFrom 0 m

/-- The 16 records of a device block (R10): byte i of block b stands at address 144 b + i. -/
def blockRead (m : Memory) (b : Nat) : List Rec :=
  (List.range 16).map fun k => BitVec.ofNat 72 (leNat (memReadList m (144 * b + 9 * k) 9))

/-- Stores the records of a device block. -/
def blockWrite (m : Memory) (b : Nat) (l : List Rec) : Memory :=
  memWriteList m (144 * b) (l.flatMap fun r => leBytes r 9)

/-! ## Members of the state's vectors -/

/-- One member of a vector updated. -/
def vmod {α : Type} {n : Nat} (v : Vector α n) (i : Fin n) (f : α → α) : Vector α n := v.set i (f v[i])

/-- Every member of a vector updated by its index. -/
def vmap {α : Type} {n : Nat} (v : Vector α n) (f : Fin n → α → α) : Vector α n := Vector.ofFn fun i => f i v[i]

/-- One stall updated. -/
def modStall (s : State) (n : Stall) (f : StallState → StallState) : State := { s with stalls := vmod s.stalls n f }

/-- One function's window updated. -/
def modFn (s : State) (n : Fn) (f : FnState → FnState) : State := { s with fns := vmod s.fns n f }

/-- One channel updated. -/
def modChan (s : State) (c : Fin 48) (f : Channel → Channel) : State := { s with chans := vmod s.chans c f }

/-- One pod port updated. -/
def modPort (s : State) (p : Fin 6) (f : PodPort → PodPort) : State := { s with ports := vmod s.ports p f }

/-- One tile updated. -/
def modTile (s : State) (p : Fin 6) (f : Tile → Tile) : State := { s with tiles := vmod s.tiles p f }

/-- One JESD204 link updated. -/
def modLink (s : State) (l : Fin 2) (f : JLink → JLink) : State := { s with links := vmod s.links l f }

/-- One sluice chain updated. -/
def modChain (s : State) (n : Fin 8) (f : Chain → Chain) : State := { s with chains := vmod s.chains n f }

/-- One lane updated. -/
def modLane (s : State) (l : Fin 4) (f : Lane → Lane) : State := { s with lanes := vmod s.lanes l f }

/-- One Quera port updated. -/
def modQport (s : State) (p : Fin 4) (f : QPort → QPort) : State :=
  { s with quera := { s.quera with ports := vmod s.quera.ports p f } }

/-- The running arm of a stall updated, if there is one. -/
def modCap (s : State) (n : Stall) (f : Capture → Capture) : State :=
  modStall s n fun x => { x with cap := x.cap.map f }

/-- The engine of a stall updated. -/
def modEng (s : State) (n : Stall) (f : Engine → Engine) : State := modStall s n fun x => { x with eng := f x.eng }

/-- The reference of a stall updated. -/
def modRef (s : State) (n : Stall) (f : Reference → Reference) : State := modStall s n fun x => { x with ref := f x.ref }

/-- The Groom updated. -/
def modGroom (s : State) (f : Groom → Groom) : State := { s with groom := f s.groom }

/-- Appends to the transcript. -/
def emit (s : State) (o : Output) : State := { s with out := s.out ++ [o] }

/-- Every stall number, ascending. -/
def allStalls : List Stall := List.finRange 64

/-- Every channel number, ascending. -/
def allChans : List (Fin 48) := List.finRange 48

/-- The port of a channel (R32). -/
def portOf (c : Fin 48) : Fin 6 := ⟨c.val / 8, by omega⟩

/-- The team of a channel (R32). -/
def teamOf (c : Fin 48) : Fin 8 := ⟨c.val / 6, by omega⟩

/-- The channels of a set of teams (R32). -/
def teamChans (teams : BitVec 8) : ChanMask := maskOf 48 fun c => bit teams (c / 6)

/-- Whether a stall owns a channel. -/
def ownsChan (s : State) (n : Stall) (c : Fin 48) : Bool := bit s.stalls[n].grant.teams (c.val / 6)

/-- The stall that owns a channel. -/
def ownerOf (s : State) (c : Fin 48) : Option Stall := allStalls.find? fun n => ownsChan s n c

/-- The stalls of a port: those that own a team with a channel on it (R32). -/
def stallsOfPort (s : State) (p : Fin 6) : List Stall :=
  allStalls.filter fun n => (List.range 8).any fun k => bit s.stalls[n].grant.teams ((8 * p.val + k) / 6)

/-- The channels of a port that a stall owns, bit k is channel 8p + k (R460). -/
def portChansOf (s : State) (p : Fin 6) (n : Stall) : Nat :=
  (maskOf 8 fun k => bit s.stalls[n].grant.teams ((8 * p.val + k) / 6)).toNat

/-- A stall is capturing: a segment is open or in re-arm (R347). -/
def capturing (s : State) (n : Stall) : Bool := s.stalls[n].st == .capturing

/-- A stall is armed or capturing. -/
def armedOrCapturing (s : State) (n : Stall) : Bool := s.stalls[n].st == .armed || s.stalls[n].st == .capturing

/-! ## Time -/

/-- The start of the current stride as a stride number (R6). -/
def strideOf (t : Time) : Nat := t.toNat / 256

/-- The start of stride n. -/
def ofStride (n : Nat) : Time := BitVec.ofNat 64 (n * 256)

/-- Strides as ticks. -/
def strides (n : Nat) : Time := BitVec.ofNat 64 (n * 256)

/-- T lies in the past of N (R7). -/
def past (t n : Time) : Bool := 2 ^ 63 ≤ (t - n).toNat

/-- T does not lie in the past of N, and at least k strides lie between them. -/
def leads (t n : Time) (k : Nat) : Bool := !past t n && k * 256 ≤ (t - n).toNat

/-- At least k strides have passed since T. -/
def passed (now t : Time) (k : Nat) : Bool := !past now t && k * 256 ≤ (now - t).toNat

/-- T is later than U (R7). -/
def later (t u : Time) : Bool := t != u && !past t u

/-- The units of `steerFine` that make a tick: 10^14 / 256. -/
def steerUnits : Int := 390625000000

/-- The steering of one stride: the frequency is offset by at most 10 ppm, changing by at most 10 ppm/s, so that it is back as the correction
completes (R77, R486; log entry 74). -/
def steerStride (t : Timebase) : Timebase :=
  let rem := t.steer * steerUnits - t.steerFine
  let r := t.steerRate
  if rem.natAbs ≤ 1 ∧ r.natAbs ≤ 1 then { t with steer := 0, steerFine := 0, steerRate := 0 }
  else
    let brake : Bool := r * rem < 0 || 2 * rem.natAbs ≤ r.natAbs * r.natAbs
    let r := if brake ∧ r ≠ 0 then r - r.sign else max (-1000000000) (min 1000000000 (r + rem.sign))
    let f := t.steerFine + r
    { t with steer := t.steer - f.tdiv steerUnits, steerFine := f.tmod steerUnits, steerRate := r }

/-- What a step does when no command waits: a stride passes while system time runs, with the steering of its frequency (R6, R87, R88, R486;
log entry 9). -/
def tick (s : State) : State := if s.tb.timeValid then { s with tb := { steerStride s.tb with now := s.tb.now + 256 } } else s

/-- The next free value, and the state that has drawn it (log entry 8). -/
def drawFree (s : State) : BitVec 64 × State := (Config.freeValue s.free, { s with free := s.free + 1 })

/-! ## MSI-X -/

/-- A message of a function's vector falls due (R382). -/
def sendMsix (s : State) (f : Fn) (v : Fin 8) : State :=
  let r := s.fns[f]
  if !r.msixEnable then s
  else if r.msixFnMask || bit r.msixMask v.val then modFn s f fun r => { r with msixPending := setBit r.msixPending v.val true }
  else emit s (.msix f v r.msixAddr[v] r.msixData[v] {})

/-- A vector number out of a 3-bit field of `CQ.IRQ` (R391). -/
def irqVector (irq : Dword) (lo : Nat) : Fin 8 := ⟨bits irq (lo + 2) lo, by unfold bits; simp; omega⟩

/-- Counts an entry of a source and sends the source's message when `holdoff` is 0 or the count reaches `batch` (R383). -/
def countEntry (s : State) (f : Fn) (event : Bool) : State :=
  let r := s.fns[f]
  let batch := if bits r.cqIrq 15 8 = 0 then 1 else bits r.cqIrq 15 8
  let n := (if event then r.cntE else r.cntC) + 1
  let old := if event then (if r.cntE = 0 then s.tb.now else r.oldE) else (if r.cntC = 0 then s.tb.now else r.oldC)
  let due := bits r.cqIrq 23 16 = 0 ∨ batch ≤ n
  let n' := if due then 0 else n
  let s := modFn s f fun r => if event then { r with cntE := n', oldE := old } else { r with cntC := n', oldC := old }
  if due then sendMsix s f (irqVector r.cqIrq (if event then 4 else 0)) else s

/-! ## The completion store and ring -/

/-- The kind code of an entry (R397). -/
def kindCode : EntryKind → Nat
  | .completion => 0
  | .event => 1
  | .progress => 2

/-- The 32 bytes of an entry with its phase (R397). -/
def entryBytes (e : CqEntry) (phase : Bool) : List Byte :=
  dwBytes [flag phase 0 ||| fld (kindCode e.kind) 1 ||| fld e.status.toNat 8 ||| fld e.code.toNat 16,
    fld e.stall.toNat 0 ||| fld e.gen.toNat 8, fld e.time.toNat 0, fld (e.time.toNat / 2 ^ 32) 0, e.p4, e.p5, e.p6, e.p7]

/-- The base address of a ring: bits [62:12] from its two registers (R391). -/
def ringBase (lo hi : Dword) : BitVec 64 := BitVec.ofNat 64 (bits hi 30 0 * 2 ^ 32 + bits lo 31 12 * 2 ^ 12)

/-- A function exists: the physical function, or a virtual function that VF Enable and NumVFs give (R378). -/
def fnExists (s : State) (f : Fn) : Bool := f.val == 0 || (s.pcie.vfEnable && f.val ≤ s.pcie.numVFs)

/-- The completion ring of a function can take an entry now (R377, R388, R398). -/
def cqCanTake (s : State) (f : Fn) : Bool :=
  let r := s.fns[f]
  r.cqEnable && !r.fault && !r.d3 && s.pcie.linkUp && fnExists s f &&
    (r.cqIndex.toNat + 1) % 2 ^ bits r.cqSize 3 0 != bits r.cqHead 11 0

/-- Writes an entry at the write index with the current phase, advances both, ends the command of a completion, and counts the
entry for its message (R362, R383, R398). -/
def writeEntry (s : State) (f : Fn) (e : CqEntry) : State :=
  let r := s.fns[f]
  let next := (r.cqIndex.toNat + 1) % 2 ^ bits r.cqSize 3 0
  let s := emit s (.hostWrite f (ringBase r.cqBaseLo r.cqBaseHi + BitVec.ofNat 64 (32 * r.cqIndex.toNat)) (entryBytes e r.cqPhase) {})
  let s := modFn s f fun r => { r with cqIndex := BitVec.ofNat 12 next, cqPhase := if next = 0 then !r.cqPhase else r.cqPhase }
  let s := if e.kind = .completion ∧ ¬ e.dup then modStall s f fun x => { x with outst := x.outst.filter fun o => o.tag != e.code } else s
  countEntry s f (e.kind == .event)

/-- Writes entries of the store while the ring takes them, at most k. -/
def drainLoop (f : Fn) : Nat → State → State
  | 0, s => s
  | k + 1, s =>
    match s.stalls[f].store with
    | [] => s
    | e :: rest => if cqCanTake s f then drainLoop f k (writeEntry (modStall s f fun x => { x with store := rest }) f e) else s

/-- Writes the store of a stall to its ring, oldest first, as far as R398 allows. -/
def drain (s : State) (f : Fn) : State := drainLoop f s.stalls[f].store.length s

/-- Entries of the event part of a store: events and progress entries (R363). -/
def eventPart (l : List CqEntry) : Nat := (l.filter fun e => e.kind != .completion).length

/-- An entry into a stall's store, and from there to the ring; an event or progress entry that finds the event part full is
dropped and counted (R363, R452). -/
def pushEntry (s : State) (f : Fn) (e : CqEntry) : State :=
  if e.kind ≠ .completion ∧ 256 ≤ eventPart s.stalls[f].store then
    modStall s f fun x => { x with eventsDropped := satAdd 32 x.eventsDropped 1 }
  else drain (modStall s f fun x => { x with store := x.store ++ [e] }) f

/-! ## Events -/

/-- The class of an event by its code (R450, R455). -/
def classOf (code : Nat) : BitVec 8 :=
  if code ≤ 3 ∨ code = 0x0E ∨ code = 0x0F then 1
  else if code ≤ 6 ∨ code = 0x10 then 2
  else if code ≤ 8 then 3
  else if code = 9 ∨ code = 0x0D ∨ code = 0x16 then 4
  else if code = 0x0C then 5
  else if 0x11 ≤ code ∧ code ≤ 0x14 then 6
  else if code = 0x0A ∨ code = 0x0B then 7
  else 8

/-- An event entry that names a stall; its generation is filled in when it is formed (R449, R451). -/
def event (code : Nat) (stall : Nat) (t : Time) (p4 p5 p6 p7 : Dword) : CqEntry :=
  { kind := .event, status := classOf code, code := BitVec.ofNat 16 code, stall := BitVec.ofNat 8 stall, gen := 0, time := t,
    p4 := p4, p5 := p5, p6 := p6, p7 := p7 }

/-- The current generation of a stall by number; 64 and above name a stall that is always absent (R406). -/
def genOf (s : State) (n : Nat) : BitVec 16 := if h : n < 64 then s.stalls[n].gen else 0

/-- An event to a function, with the generation of the stall it names. Events of a stall in its reset sequence, and of a stall
that does not exist, are discarded (R367, R451, R452). -/
def sendEvent (s : State) (f : Fn) (e : CqEntry) : State :=
  if s.stalls[f].st = .resetting ∨ s.stalls[f].st = .absent then s
  else pushEntry s f { e with gen := genOf s e.stall.toNat }

/-- An event to each of several functions. -/
def sendEvents (s : State) (l : List (Fn × CqEntry)) : State := l.foldl (fun s x => sendEvent s x.1 x.2) s

/-- The `merged` or `since_last` field of an event's payload (R202, R361, R388, R405, R454, R465). -/
def withCount (e : CqEntry) (n : Nat) : CqEntry :=
  match e.code.toNat with
  | 0x0E => { e with p5 := e.p5 ||| fld (sat 16 n) 0 }
  | 0x09 => { e with p4 := e.p4 ||| fld (sat 16 n) 0 }
  | 0x0F => { e with p5 := e.p5 ||| fld (sat 16 n) 16 }
  | 0x11 => { e with p5 := e.p5 ||| fld (sat 16 n) 16 }
  | 0x12 => { e with p7 := e.p7 ||| fld (sat 16 n) 16 }
  | 0x13 => { e with p4 := e.p4 ||| fld (sat 16 n) 16 }
  | _ => e

/-- A rate-limited happening: at once when no interval of its key runs, else merged into the event at the interval's end
(R454). -/
def sendRated (s : State) (key : RateKey) (interval : Nat) (l : List (Fn × CqEntry)) : State :=
  if s.groom.rates.any fun r => r.key == key then
    modGroom s fun g => { g with rates := g.rates.map fun r =>
      if r.key == key then { r with count := r.count + 1, newest := l } else r }
  else
    let s := modGroom s fun g => { g with rates := g.rates ++ [{ key := key, since := s.tb.now, interval := strides interval, count := 0, newest := [] }] }
    sendEvents s (l.map fun x => (x.1, withCount x.2 1))

/-- Strides of one millisecond. -/
def ms : Nat := 1000000

/-- The physical function and other stalls, each once: an event of which stall 0 is also a recipient goes to the physical
function once (R451). -/
def withPf (l : List Stall) : List Fn := 0 :: l.filter fun n => n != 0

/-- A device-wide event: each recipient's copy names its own stall (R451). -/
def deviceEvent (code : Nat) (l : List Fn) (t : Time) (p4 p5 p6 p7 : Dword) : List (Fn × CqEntry) :=
  l.map fun f => (f, event code f.val t p4 p5 p6 p7)

/-! ## Completions -/

/-- The status values (R469). -/
inductive Status where
  | ok
  | busy
  | invalid
  | denied
  | late
  | staleGeneration
  | noResource
  | admissionRefused
  | aborted
  | outputOverflow
  | dataError
  | timeout
  | locked
  | shed
  | limitExceeded
  | checkFailed
  | unsupported
  deriving DecidableEq, Repr

/-- The code of a status (R469). -/
def statusCode : Status → BitVec 8
  | .ok => 0x00
  | .busy => 0x01
  | .invalid => 0x02
  | .denied => 0x03
  | .late => 0x04
  | .staleGeneration => 0x05
  | .noResource => 0x06
  | .admissionRefused => 0x07
  | .aborted => 0x08
  | .outputOverflow => 0x09
  | .dataError => 0x0A
  | .timeout => 0x0B
  | .locked => 0x0C
  | .shed => 0x0D
  | .limitExceeded => 0x0E
  | .checkFailed => 0x0F
  | .unsupported => 0x10

/-- Four payload dwords. -/
structure Pay where
  p4 : Dword := 0
  p5 : Dword := 0
  p6 : Dword := 0
  p7 : Dword := 0
  deriving DecidableEq, Repr

/-- A dword of a submission entry (R406). -/
def dw (e : SqEntry) (k : Nat) : Dword := e.toArray.toList.getD k 0

/-- The opcode (R406). -/
def opcode (e : SqEntry) : Nat := bits (dw e 0) 7 0

/-- The tag (R406). -/
def tagOf (e : SqEntry) : BitVec 16 := BitVec.ofNat 16 (bits (dw e 0) 31 16)

/-- The named stall's number (R406). -/
def namedStall (e : SqEntry) : Nat := bits (dw e 1) 7 0

/-- The generation given (R406). -/
def genField (e : SqEntry) : BitVec 16 := BitVec.ofNat 16 (bits (dw e 1) 23 8)

/-- `late_policy` (R406). -/
def latePolicy (e : SqEntry) : Nat := bits (dw e 1) 25 24

/-- Dword 1 of a completion carries the named stall's current generation for `identify` and `stale_generation`, else the one the command
was taken under (R352); no generation of another stall reaches a virtual function (R359, log entry 240). -/
def genGiven (s : State) (f : Fn) (e : SqEntry) (st : Status) : BitVec 16 :=
  if (opcode e = 1 ∨ st = .staleGeneration) ∧ (f = 0 ∨ namedStall e = f.val) then genOf s (namedStall e) else genField e

/-- The completion of a command in hand (R352, R397, R412). -/
def completeAt (s : State) (t : Taken) (st : Status) (p : Pay) : State :=
  pushEntry s t.fn {
    kind := .completion, status := statusCode st, code := tagOf t.e, stall := BitVec.ofNat 8 (namedStall t.e),
    gen := genGiven s t.fn t.e st, time := s.tb.now, p4 := p.p4, p5 := p.p5, p6 := p.p6, p7 := p.p7 }

/-- A completion without payload. -/
def complete (s : State) (t : Taken) (st : Status) : State := completeAt s t st {}

/-- The payload of an `invalid` that one field of the entry causes: its dword and its lowest bit (R409). -/
def fieldPay (d b : Nat) : Pay := { p4 := fld d 0 ||| fld b 8 }

/-- The payload of an `invalid` that no one field causes (R409). -/
def noField : Pay := { p4 := 0xFFFF }

/-- `invalid` for one field. -/
def invalidAt (s : State) (t : Taken) (d b : Nat) : State := completeAt s t .invalid (fieldPay d b)

/-- `invalid` for no one field. -/
def invalid (s : State) (t : Taken) : State := completeAt s t .invalid noField

/-- The outstanding command of a function with a tag. -/
def findOutst (s : State) (f : Fn) (tag : BitVec 16) : Option Outst := s.stalls[f].outst.find? fun o => o.tag == tag

/-- The completion of a command that was handed off; a command that a reset has ended has none (R369, R412). -/
def completeTag (s : State) (f : Fn) (tag : BitVec 16) (st : Status) (p : Pay) : State :=
  match findOutst s f tag with
  | none => s
  | some o => pushEntry s f {
      kind := .completion, status := statusCode st, code := tag, stall := BitVec.ofNat 8 f.val,
      gen := if st = .staleGeneration then s.stalls[f].gen else o.gen, time := s.tb.now, p4 := p.p4, p5 := p.p5, p6 := p.p6, p7 := p.p7 }

/-- An outstanding command updated. -/
def modOutst (s : State) (f : Fn) (tag : BitVec 16) (g : Outst → Outst) : State :=
  modStall s f fun x => { x with outst := x.outst.map fun o => if o.tag == tag then g o else o }

/-- A command is handed off: what it waits for, its work starting now (R366, R413). -/
def handOff (s : State) (t : Taken) (w : Work) (total : Nat) : State :=
  modOutst s t.fn (tagOf t.e) fun o => { o with work := w, when := s.tb.now, lastProg := s.tb.now, total := total, done := 0 }

/-- A tag is that of an outstanding command of the function: one at work, or one whose completion waits in the store (R362, R400). -/
def tagBusy (s : State) (f : Fn) (tag : BitVec 16) : Bool :=
  (findOutst s f tag).isSome || s.stalls[f].store.any fun e => e.kind == .completion && e.code == tag

/-- The reasons of a violation (R361). -/
inductive Reason where
  | otherStall
  | privileged
  | notGranted
  | noPermission
  | noStall
  deriving DecidableEq, Repr

/-- The code of a reason (R361). -/
def reasonCode : Reason → Nat
  | .otherStall => 1
  | .privileged => 2
  | .notGranted => 3
  | .noPermission => 4
  | .noStall => 5

/-- Records a violation in the function's error registers and reports it to the physical function (R361, R391). -/
def violation (s : State) (f : Fn) (op : Nat) (tag : BitVec 16) (t : Time) (r : Reason) (resource index : Nat) : State :=
  let s := modFn s f fun x => { x with
    errStatus := x.errStatus ||| 2
    accessLog := fld (reasonCode r) 28 ||| fld op 20 ||| fld tag.toNat 0 }
  sendRated s { code := 0x11, sub := 0, fn := f } ms
    [(0, event 0x11 f.val t (fld f.val 24 ||| fld op 16 ||| fld (reasonCode r) 8) (fld tag.toNat 0) (fld resource 24 ||| fld index 0) 0)]

/-- `denied`, with its event (R361). -/
def deny (s : State) (t : Taken) (r : Reason) (resource index : Nat) : State :=
  violation (complete s t .denied) t.fn (opcode t.e) (tagOf t.e) t.when r resource index

/-- `denied` of a command that was handed off, with the time the Groom took it (R361). -/
def denyTag (s : State) (f : Fn) (tag : BitVec 16) (r : Reason) (resource index : Nat) : State :=
  match findOutst s f tag with
  | none => s
  | some o => violation (completeTag s f tag .denied {}) f o.op.toNat tag o.taken r resource index

/-- The command in hand, when it has the opcode of the row: it is no longer in hand, and the row's effect follows. -/
def withCmd (s : State) (p : Taken → Bool) (g : State → Taken → State) : State :=
  match s.groom.taken with
  | none => s
  | some t => if p t then g (modGroom s fun x => { x with taken := none }) t else s

/-- The command in hand has an opcode. -/
def isOp (n : Nat) (t : Taken) : Bool := opcode t.e == n

/-! ## Results -/

/-- The result descriptor's space in bytes (R410). -/
def resultLen (e : SqEntry) : Nat := bits (dw e 4) 23 0

/-- The result goes to the scratchpad (R410). -/
def toScratch (e : SqEntry) : Bool := bit (dw e 4) 31

/-- What is wrong with a result descriptor: the field of R409, or no one field for an offset plus length beyond 16 KiB
(R410, R411). -/
def badResult (e : SqEntry) : Option Pay :=
  if bits (dw e 2) 2 0 ≠ 0 then some (fieldPay 2 0)
  else if toScratch e ∧ dw e 3 ≠ 0 then some (fieldPay 3 0)
  else if bits (dw e 4) 30 24 ≠ 0 then some (fieldPay 4 24)
  else if toScratch e ∧ 16384 < (dw e 2).toNat + resultLen e then some noField
  else none

/-- The attributes of a write of data: Relaxed Ordering where the function's Relaxed Ordering Enable is set, No Snoop 0 (R380). -/
def dataAttrs (s : State) (f : Fn) : Attrs := { relaxed := s.fns[f].relaxedEnable }

/-- Writes a result whole to host memory or to the caller's scratchpad (R410, R411). -/
def writeResult (s : State) (t : Taken) (l : List Byte) : State :=
  if toScratch t.e then { s with scratch := memWriteList s.scratch (16384 * t.fn.val + (dw t.e 2).toNat) l }
  else emit s (.hostWrite t.fn (BitVec.ofNat 64 ((dw t.e 3).toNat * 2 ^ 32 + (dw t.e 2).toNat)) l (dataAttrs s t.fn))

/-- A command that returns a result: the descriptor's and the opcode's own reserved bits, the space, the result, and the
completion with its payload (R411). -/
def giveResult (s : State) (t : Taken) (l : List Byte) (p : Pay) : State :=
  if resultLen t.e < l.length then complete s t .outputOverflow
  else completeAt (writeResult s t l) t .ok p

/-- A word of a bank of index k (in the order of R403) reads with a single-bit error: counted (R404). -/
def countSram (s : State) (k : Fin 10) : State :=
  modGroom s fun g => { g with sramCorrected := vmod g.sramCorrected k fun n => satAdd 32 n 1 }

/-- A word of a bank reads as given: a single-bit error is counted (R404). -/
def noteEcc (s : State) (k : Fin 10) (ecc : Ecc) : State := if ecc = .corrected then countSram s k else s

/-- A read of the secure bank: an uncorrectable error wipes the bank, as a wipe without tamper or glitch (R404, R552; log entry 264). -/
def readSecure (s : State) (ecc : Ecc) : State :=
  if ecc = .uncorrectable ∧ s.sec.wiping.isNone then { s with sec := { s.sec with wiping := some 0, keys := false, retried := false } }
  else noteEcc s 8 ecc

/-! ## Host reads -/

/-- The requests of a read of host memory: none longer than m bytes, nor across a boundary of m, which PCI Express bars at 4 KiB (R374; DESIGN
CHOICE, log entry 244); at most k + 1. -/
def readPieces (m : Nat) : Nat → BitVec 64 → Nat → List (BitVec 64 × Nat)
  | 0, addr, len => [(addr, len)]
  | k + 1, addr, len =>
    let n := m - addr.toNat % m
    if len ≤ n then [(addr, len)] else (addr, n) :: readPieces m k (addr + BitVec.ofNat 64 n) (len - n)

/-- The most bytes one read request of the device may ask for: Max_Read_Request_Size (R374). -/
def maxRead (s : State) : Nat := 128 * 2 ^ s.pcie.maxRead.val

/-- The requests of a numbered read of host memory (R374). -/
def readRequests (s : State) (f : Fn) (id : Nat) (addr : BitVec 64) (len : Nat) : List Output :=
  (readPieces (maxRead s) (len / maxRead s + 1) addr len).map fun x => .hostRead f id x.1 x.2 {}

/-- Issues a read of host memory for a command of a function, and remembers what it is for (R374, R381). -/
def issueRead (s : State) (f : Fn) (tag : BitVec 16) (w : ReadFor) (addr : BitVec 64) (len : Nat) : State :=
  let id := s.groom.nextRead
  let s := modGroom s fun g => { g with
    nextRead := (id + 1) % 1024
    reads := g.reads ++ [{ id := id, fn := f, stall := f, tag := tag, purpose := w, addr := addr, len := len }] }
  { s with out := s.out ++ readRequests s f id addr len }

end Sys2Proof.Machine
end

