-- ==== Sys2Proof/Machine/Operands.lean ====
section
/-!
DEFINITION. The forms of a command's parameters: which bits of dwords 2 to 15 each opcode names, the check of the others, the
checks of dwords 0 and 1, which opcodes a function may use, and the masks and wide fields the opcodes share.
-/

namespace Sys2Proof.Machine

/-- The lowest bit of the run of reserved bits that holds bit b, going down at most b places. -/
def runStart (allow : Dword) : Nat → Nat
  | 0 => 0
  | b + 1 => if bit allow b then b + 1 else runStart allow b

/-- The lowest 1 bit. -/
def lowBit (w : Dword) : Option Nat := (List.range 32).find? fun i => bit w i

/-- The first reserved bit set, from dword k on: the dword and the lowest bit of its reserved field (R13, R409). -/
def reservedFrom (e : SqEntry) (k : Nat) : List Dword → Option (Nat × Nat)
  | [] => none
  | a :: l =>
    match lowBit (dw e k &&& ~~~ a) with
    | some b => some (k, runStart a b)
    | none => reservedFrom e (k + 1) l

/-- A bit of dwords 2 to 15 that the opcode does not name is set: its dword and field (R406, R409). `allow` lists the named bits
of dwords 2 upward; dwords beyond it are reserved. -/
def reservedBit (e : SqEntry) (allow : List Dword) : Option (Nat × Nat) :=
  reservedFrom e 2 (allow ++ List.replicate (14 - allow.length) 0)

/-- The named bits of a result descriptor (R410). -/
def resultBits : List Dword := [0xFFFFFFFF, 0xFFFFFFFF, 0x80FFFFFF]

/-- A channel mask in two dwords from k (R423). -/
def chanField (e : SqEntry) (k : Nat) : ChanMask := BitVec.ofNat 48 ((dw e k).toNat + bits (dw e (k + 1)) 15 0 * 2 ^ 32)

/-- A 64-bit field in two dwords from k. -/
def wide (e : SqEntry) (k : Nat) : BitVec 64 := BitVec.ofNat 64 ((dw e k).toNat + (dw e (k + 1)).toNat * 2 ^ 32)

/-- A 40-bit field in two dwords from k. -/
def field40 (e : SqEntry) (k : Nat) : Nat := (dw e k).toNat + bits (dw e (k + 1)) 7 0 * 2 ^ 32

/-- A channel mask as two payload dwords (R423). -/
def chanPay (m : ChanMask) : Dword × Dword := (fld m.toNat 0, fld (m.toNat / 2 ^ 32) 0)

/-- A time as two payload dwords. -/
def timePay (t : Time) : Dword × Dword := (fld t.toNat 0, fld (t.toNat / 2 ^ 32) 0)

/-- The opcodes of R407. -/
def opcodes : List Nat :=
  [0x01, 0x02, 0x03, 0x10, 0x11, 0x12, 0x13, 0x14, 0x20, 0x21, 0x22, 0x28, 0x29, 0x30, 0x31, 0x38, 0x39, 0x3A, 0x3B, 0x40,
   0x41, 0x48, 0x49, 0x50, 0x51, 0x60, 0x61, 0x62, 0x68, 0x69, 0x70, 0x71, 0x72]

/-- The opcodes that act in the safe halt (R376). -/
def haltOpcodes : List Nat := [0x01, 0x02, 0x03, 0x70, 0x71, 0x72]

/-- The opcodes that a virtual function may not use at all (R358). -/
def pfOnly (op : Nat) : Bool := (0x10 ≤ op && op ≤ 0x14) || op == 0x50 || op == 0x60 || op == 0x62 || (0x68 ≤ op && op ≤ 0x72)

/-- The opcodes that honour `progress` (R406). -/
def progressOps : List Nat := [0x40, 0x48, 0x50, 0x51, 0x70]

/-- The `op_flags` bits an opcode uses (R428, R432). -/
def flagBits (op : Nat) : Nat := if op = 0x38 then 1 else if op = 0x3B then 3 else 0

/-- Check 4 of R408: the field of dwords 0 and 1 that is at fault. -/
def badHead (e : SqEntry) : Option (Nat × Nat) :=
  let op := opcode e
  if bits (dw e 0) 15 11 ≠ 0 then some (0, 11)
  else if bits (dw e 0) 10 9 / 2 % 2 ≠ 0 ∧ flagBits op < 2 then some (0, if flagBits op = 1 then 10 else 9)
  else if bits (dw e 0) 10 9 % 2 ≠ 0 ∧ flagBits op = 0 then some (0, 9)
  else if bit (dw e 0) 8 ∧ op ∉ progressOps then some (0, 8)
  else if bits (dw e 1) 31 26 ≠ 0 then some (1, 26)
  else if 2 ≤ latePolicy e then some (1, 24)
  else if latePolicy e ≠ 0 ∧ op ≠ 0x38 ∧ op ≠ 0x29 ∧ op ≠ 0x49 then some (1, 24)
  else none

/-- A block of the credit pool or the event reserve, which `FB.COUNT` counts (R222). -/
def pooled (b : FbBlock) : Bool := b.part == .credit || b.part == .event

/-- The level of `FB.COUNT`: credit and event blocks in the fullest slice, of every stall for the physical function and of the
stall otherwise (R222). -/
def fbLevel (s : State) (n : Stall) : Nat :=
  ((List.finRange 4).map fun l => (s.fbd.slices[l].filter fun b => pooled b && (n == 0 || b.stall == n)).length).foldl max 0

/-- The effective shed stage: the higher of the supply stage and the thermal stage (R521). -/
def shedStage (s : State) : Nat := max s.power.supply s.power.thermal

/-- Check 5 of R408: the device state refuses the opcode, with the status (R506, R521). -/
def refusedByState (s : State) (e : SqEntry) : Option Status :=
  let op := opcode e
  let starts := op = 0x49 ∧ wide e 10 ≠ 0
  if 1 ≤ shedStage s ∧ (op = 0x40 ∨ op = 0x48) then some .shed
  else if 2 ≤ shedStage s ∧ (op = 0x38 ∨ op = 0x29 ∨ starts) then some .busy
  else if 3 ≤ shedStage s ∧ op = 0x68 ∧ bits (dw e 2) 1 0 = 3 then some .busy
  else if s.power.st = .ready ∧
      (op = 0x38 ∨ op = 0x3A ∨ op = 0x29 ∨ op = 0x50 ∨ (op = 0x51 ∧ bits (dw e 2) 3 0 = 0) ∨ op = 0x40 ∨ op = 0x48 ∨ starts) then some .busy
  else if s.power.st = .dikewatch ∧ op ∉ [0x01, 0x02, 0x68, 0x39, 0x69] then some .busy
  else if s.power.target.isSome ∧ s.power.st = .run ∧ op ≠ 0x01 ∧ op ≠ 0x02 then some .busy
  else none

end Sys2Proof.Machine
end

