-- ==== Sys2Proof/Machine/Journal.lean ====
section
/-!
DEFINITION. The boot journal in the flash, and the lifecycle state of the fuses.
-/

namespace Sys2Proof.Machine

/-- The lifecycle state: the last programmed slot, Blank when none is, Returned when a fuse row is bad (R549). -/
def lifecycleOf (s : State) : BitVec 3 := if s.sec.fuseBad then 4 else s.sec.slots.getLast?.getD 0

/-- A lane's byte of a journal entry (R535). -/
def laneByte (l : Lane) : Nat :=
  (if l.outcome = 2 ∨ l.outcome = 3 then 3 else l.speed.toNat) + 4 * l.outcome.toNat + (if l.failed then 16 else 0)

/-- The newest committed entry; the blank journal's defaults where there is none (R541). -/
def newestEntry (s : State) : JEntry := (s.flash.journal.find? fun e => e.committed).getD {}

/-- The lifecycle state that an entry carries: the one before a transition until its own entry, of kind 8 (R535, R551). -/
def lifeOf (s : State) (kind : BitVec 8) : BitVec 3 :=
  match s.flash.life with
  | some j => if j.programmed && kind != 8 then j.fromSt else lifecycleOf s
  | none => lifecycleOf s

/-- The slots that an entry of kind 7 carries before this boot has read the journal: those of the newest entry, with the written slot first and
no longer failed (R542, R546). -/
def slotsAnew (old now : BitVec 8) (kind : BitVec 8) : BitVec 8 := if kind = 7 then (old &&& 0xFA) ||| (now &&& 0x05) else old

/-- The failure counts that such an entry carries: none for steps 4 and 5 (R541). -/
def failsAnew (old : List (BitVec 8)) (kind : BitVec 8) : List (BitVec 8) := if kind = 7 then (old.set 3 0).set 4 0 else old

/-- The entry that carries the state forward; what a boot step gives is carried from the newest committed entry until this boot has run
the step (R535). -/
def journalNow (s : State) (kind : BitVec 8) (detail : Dword) : JEntry :=
  let old := newestEntry s
  let slots := BitVec.ofNat 8 (s.boot.firstB.toNat + 2 * s.boot.slotB.toNat + 4 * s.boot.aFailed.toNat + 8 * s.boot.bFailed.toNat)
  let from_ {α : Type} (k : Nat) (before now : α) : α := if s.boot.phase != .ready && decide (s.boot.step ≤ k) then before else now
  { kind := kind
    seq := match s.flash.journal.find? fun e => e.committed with
      | some e => e.seq + 1
      | none => 0
    time := if s.tb.timeValid then s.tb.now else 0
    slots := from_ 2 (slotsAnew old.slots slots kind) slots
    lifecycle := (lifeOf s kind).zeroExtend 8
    secVer := from_ 5 old.secVer (BitVec.ofNat 8 s.boot.secVer)
    flags := BitVec.ofNat 8 (s.boot.retryLanes.toNat + 2 * (!s.boot.aonReady).toNat + 4 * s.sec.tamper.toNat + 8 * s.sec.glitch.toNat)
    firmware := from_ 5 old.firmware s.boot.firmware
    lanes := from_ 8 old.lanes (BitVec.ofNat 32 ((List.finRange 4).map fun n => laneByte s.lanes[n] * 2 ^ (8 * n.val)).sum)
    tilesStored := from_ 2 old.tilesStored (s.boot.tilesStored.zeroExtend 8)
    tilesDefault := from_ 2 old.tilesDefault (s.boot.tilesDefault.zeroExtend 8)
    guarantee := from_ 8 old.guarantee (BitVec.ofNat 16 s.dram.g)
    romFail := from_ 9 old.romFail (s.boot.romFail.zeroExtend 32)
    fails := from_ 2 (failsAnew old.fails kind) (s.boot.fails.map fun n => BitVec.ofNat 8 n)
    detail := detail
    progress := if kind = 1 then s.boot.progress else List.replicate 12 0xFF }

/-- The page a new entry takes, and the entries left when the other sector had to be erased (R537). -/
def journalPage (l : List JEntry) : Nat × List JEntry :=
  match l with
  | [] => (0, [])
  | e :: _ =>
    if e.page % 16 = 15 then
      let other := 1 - e.page / 16
      (16 * other, l.filter fun x => x.page / 16 != other)
    else (e.page + 1, l)

/-- An entry recorded in the journal, committed or not (R537). -/
def journalAdd (s : State) (e : JEntry) (committed : Bool) : State :=
  let p := journalPage s.flash.journal
  { s with flash := { s.flash with journal := { e with page := p.1, committed := committed } :: p.2 } }

/-- A journal entry waits for the flash (R539). -/
def queueJournal (s : State) (kind : BitVec 8) (detail : Dword) (w : Work) : State :=
  if s.flash.noMore then s
  else { s with flash := { s.flash with ops := s.flash.ops ++ [{ entry := some (journalNow s kind detail), work := w }] } }

/-- A write of the breach map waits for the flash (R537, R539). -/
def queueBreach (s : State) : State :=
  if s.flash.noMore then s else { s with flash := { s.flash with ops := s.flash.ops ++ [{ entry := none, work := .none }] } }

/-- The bytes of an entry's page: 256 of them (R535). -/
def journalBytes (e : JEntry) : List Byte :=
  let body := [0x4A, 0x45, 0x01, e.kind] ++ leBytes e.seq 4 ++ leBytes e.time 8 ++
    [e.slots, e.lifecycle, e.secVer, e.flags] ++ leBytes e.firmware 4 ++ leBytes e.lanes 4 ++ [e.tilesStored, e.tilesDefault] ++
    leBytes e.guarantee 2 ++ leBytes e.romFail 4 ++ e.fails ++ leBytes e.detail 4 ++ List.replicate 180 0
  body ++ e.progress ++ leBytes (crc32c body) 4 ++ [0xFF, 0xFF, 0xFF, 0xFF] ++
    (if e.committed then [0, 0, 0, 0] else [0xFF, 0xFF, 0xFF, 0xFF])

/-- A breach-map entry's dword (R274). -/
def breachDword (b : BreachEntry) : Dword :=
  fld b.lane.val 30 ||| fld b.row.toNat 9 ||| fld b.state.toNat 7 ||| fld b.cause.toNat 4

end Sys2Proof.Machine
end

