-- ==== Sys2Proof/Machine/Records.lean ====
section
/-!
DEFINITION. The 72-bit records of a stall's stream, the event-record queue with markers and latch events, the pulses of event
terms, and the polder's blocks.
-/

namespace Sys2Proof.Machine

/-! ## Channel states -/

/-- `enable` (R36). -/
def chEnable (w : BitVec 64) : Bool := bit w 63

/-- A channel that produces logic states: enabled and not forced (R36, R56). -/
def chLive (c : Channel) : Bool := chEnable c.setting && !c.forced

/-- The dwell count restarts: no residence before t counts (R44, R46). -/
def restartDwell (c : Channel) (t : Time) : Channel := { c with dwellFrom := t, dwellMet := false, checking := false, checked := none }

/-- Channel states as the 48-bit field of a record: channel 0 at its highest bit (R100). -/
def chanBits (m : ChanMask) : Nat := ((List.range 48).map fun c => if bit m c then 2 ^ (47 - c) else 0).sum

/-! ## Records -/

/-- An anchor of the gait chain: 0 keyframe, 1 gap, 2 resume, 3 close (R110). -/
def anchorRec (cause : Nat) (t : Time) : Rec := BitVec.ofNat 72 ((0x10 + cause) * 2 ^ 64 + t.toNat)

/-- A state record (type 3) or a walk record (type 4) (R112). -/
def stateRec (type : Nat) (m : ChanMask) (delta : Nat) : Rec := BitVec.ofNat 72 (type * 2 ^ 68 + chanBits m * 2 ^ 20 + delta)

/-- The channel field of a hoofbeat (R111). -/
def hoofField (c : Channel) : Nat :=
  if chLive c then (bit c.samples 7).toNat * 512 + (if c.trans = 0 then 0 else c.edge.toNat) * 2 + (decide (2 ≤ c.trans)).toNat else 0

/-- A hoofbeat of team t, its channels' fields first to last (R111). -/
def hoofRec (t delta : Nat) (fields : List Nat) : Rec :=
  BitVec.ofNat 72 (0x2 * 2 ^ 68 + t * 2 ^ 65 + delta * 2 ^ 60 + fields.foldl (fun a f => a * 1024 + f) 0)

/-- An analogue record of one to three samples, oldest first (R113). -/
def analogueRec (source : Nat) (l : List (BitVec 20)) : Rec :=
  BitVec.ofNat 72 (0x5 * 2 ^ 68 + source * 2 ^ 64 + l.length * 2 ^ 62 + (l.getD 0 0).toNat * 2 ^ 40 + (l.getD 1 0).toNat * 2 ^ 20 + (l.getD 2 0).toNat)

/-- A side anchor (R114). -/
def sideAnchorRec (source : Nat) (t : Time) : Rec := BitVec.ofNat 72 ((0x60 + source) * 2 ^ 64 + t.toNat)

/-- The type of a record (R107). -/
def recType (r : Rec) : Nat := r.toNat / 2 ^ 68

/-- A record that counts as an event record of a block: marker, detail or latch event; fill counts for nothing (R211). -/
def isEventRec (r : Rec) : Bool := recType r == 7 || recType r == 8 || recType r == 9 || recType r == 0

/-! ## The event-record queue -/

/-- A marker record (R115). -/
def markerRec (kind : Nat) (t : Time) : Rec := BitVec.ofNat 72 ((0x70 + kind) * 2 ^ 64 + t.toNat)

/-- A marker detail record (R115). -/
def detailRec (kind : Nat) (d : BitVec 64) : Rec := BitVec.ofNat 72 ((0x80 + kind) * 2 ^ 64 + d.toNat)

/-- A latch event record (R117). -/
def latchRec (c : Nat) (cond : Nat) (seed : Bool) (t : Time) : Rec :=
  BitVec.ofNat 72 (((0x9 * 4 + cond) * 2 + seed.toNat) * 2 ^ 65 + c * 2 ^ 59 + t.toNat / 32)

/-- Records in the event queue. -/
def evCount (s : State) : Nat := (s.groom.evQueue.map fun e => e.recs.length).sum

/-- Event records of a stall arrive at the queue, together or not at all; with the overflow marker owed, the pair stands before
them (R136). -/
def queueRecs (s : State) (n : Stall) (l : List Rec) : State :=
  let owed := s.stalls[n].evLostCount
  let pair := if owed = 0 then [] else [markerRec 0xB s.tb.now, detailRec 0xB (BitVec.ofNat 64 owed)]
  if evCount s + pair.length + l.length ≤ 1024 then
    modStall (modGroom s fun g => { g with evQueue := g.evQueue ++ [{ stall := n, recs := pair ++ l }] }) n
      fun x => { x with evLostCount := 0 }
  else
    modStall s n fun x => { x with
      evLostCount := satAdd 32 x.evLostCount l.length, cap := x.cap.map fun c => { c with eventsLost := true } }

/-- Whether the records would be taken (R432). -/
def queueTakes (s : State) (n : Stall) (k : Nat) : Bool :=
  evCount s + (if s.stalls[n].evLostCount = 0 then 0 else 2) + k ≤ 1024

/-- The stall writes event records: a segment is open, or in re-arm with a next segment to open (R116, R199, R347). -/
def recording (s : State) (n : Stall) : Bool :=
  match s.stalls[n].cap with
  | none => false
  | some c => capturing s n && (c.phase == .running || c.phase == .closing || (c.phase == .rearm && c.ended.isNone))

/-- A marker with its detail, into the side stream of a capturing stall (R115, R116). -/
def marker (s : State) (n : Stall) (kind : Nat) (t : Time) (d : BitVec 64) : State :=
  if recording s n then queueRecs s n [markerRec kind t, detailRec kind d] else s

/-- The `latch` event of a set latch, and its record while the stall captures the channel's team; `capturing` tells that the record was
written, which a full event queue prevents (R42, R136, R356, R459). -/
def latchReport (s : State) (n : Stall) (c : Fin 48) (cond : Nat) (seed : Bool) (t : Time) : State :=
  let t := t &&& ~~~ (31 : Time)
  let cap := recording s n && s.stalls[n].cap.any fun k => bit k.teams (c.val / 6)
  let seg := match s.stalls[n].cap with
    | some k => if k.phase = .rearm then k.segNo % 2 ^ 20 else k.seg.num.toNat
    | none => 0
  let written := cap && queueTakes s n 1
  let s := if cap then queueRecs s n [latchRec c.val cond seed t] else s
  sendEvent s n (event 0x04 n.val t (flag seed 10 ||| fld cond 8 ||| fld c.val 0)
    (if written then flag true 31 ||| fld seg 0 else 0) 0 0)

/-! ## Event terms -/

/-- The kinds of event terms that are raised for one stride (R161). -/
inductive PulseKind where
  | xtrig
  | spur
  | key
  deriving DecidableEq, Repr

/-- An event term is raised in a stall's engine for the stride after the current one (R161, R495). -/
def raisePulse (s : State) (n : Stall) (k : PulseKind) (index : Nat) (at_ onset : Time) (exact : Bool) : State :=
  let base := match k with
    | .xtrig => 0
    | .spur => 16
    | .key => 32
  modEng s n fun e => { e with
    pulses := (e.pulses.filter fun p => !past p.when s.tb.now) ++ [{
      when := at_, index := base + index, onset := onset, exact := exact, late := later s.tb.now (onset + strides 2048) }] }

/-- A stride-granular term takes a value in the current stride, or in the stride of a clear that is to come; it is seen from the next stride on,
and keeps the earliest onset of the stride in which it became true (R43, R147, R161, R162). -/
def setTerm (f : Flag) (b : Bool) (now onset : Time) (exact : Bool) : Flag :=
  let t := if later f.changedAt now then f.changedAt else now
  if f.on = b then
    (if b && f.changedAt == t && !f.old && later f.onset onset then { f with onset := onset, exact := exact } else f)
  else
    { old := if f.changedAt = t then f.old else f.on, on := b, changedAt := t
      onset := if b then onset else f.onset, exact := if b then exact else f.exact }

/-- A term made false by a clear: in the clear's stride already, whatever sets it again in that stride (R43, R161). -/
def clearTerm (f : Flag) (t : Time) : Flag := { f with old := false, on := false, changedAt := t }

/-- The value of a stride-granular term in a stride (R147). -/
def termAt (f : Flag) (now : Time) : Bool := if f.changedAt = now then f.old else f.on

/-! ## The polder -/

/-- Blocks of a parcel (R233). -/
def parcelBlocks : Nat := 131072

/-- The parcels of the polder: the grant's, ascending, less the reference area (R233). -/
def polderOf (g : Grant) : List Nat := g.parcels.filter fun p => !g.refArea.contains p

/-- Blocks of the polder. -/
def polderSize (g : Grant) : Nat := (polderOf g).length * parcelBlocks

/-- The device block of polder block j (R233). -/
def devBlock (g : Grant) (j : Nat) : Nat := (polderOf g).getD (j / parcelBlocks) 0 * parcelBlocks + j % parcelBlocks

end Sys2Proof.Machine
end

