-- ==== Sys2Proof/Machine/Storage.lean ====
section
/-!
DEFINITION. The storage path of a capture: the place of a block in the polder and on its lane, the freeboard and its credits, the
formatting of typed and dense blocks, keyframes, and the segment header.
-/

namespace Sys2Proof.Machine

/-! ## Lanes -/

/-- The usable lanes in ascending physical number (R245). -/
def usableLanes (s : State) : List (Fin 4) := (List.finRange 4).filter fun l => s.lanes[l].usable

/-- The lane of a device block (R245). -/
def laneOf (s : State) (b : Nat) : Option (Fin 4) := (usableLanes s)[b % (usableLanes s).length]?

/-- The lane address of a device block (R245). -/
def laneAddr (s : State) (b : Nat) : Nat := b / (usableLanes s).length

/-! ## The freeboard -/

/-- The peaks of `FB.COUNT` follow its level (R222). -/
def notePeak (s : State) (n : Stall) : State :=
  let s := modStall s n fun x => { x with fbPeak := max x.fbPeak (((List.finRange 4).map fun l =>
    (s.fbd.slices[l].filter fun b => pooled b && b.stall == n).length).foldl max 0) }
  modFn s 0 fun r => { r with fbPeak := max r.fbPeak (((List.finRange 4).map fun l =>
    (s.fbd.slices[l].filter pooled).length).foldl max 0) }

/-- A block enters the slice of its lane; a lane that had nothing waiting counts its pause from here (R212, R217). -/
def putSlice (s : State) (l : Fin 4) (b : FbBlock) : State :=
  let s := if s.fbd.slices[l].isEmpty then modLane s l fun x => { x with lastIssue := s.tb.now } else s
  { s with fbd := { s.fbd with slices := vmod s.fbd.slices l fun q => q ++ [b] } }

/-- Slots of a slice that a part has in all: the credit pool, the event reserve, the header reserve (R211). -/
def partSlots : FbPart → Nat
  | .credit => 7201
  | .event => 64
  | .header => 16
  | .ring => 7281

/-- A part of a slice has a slot free (R211). -/
def slotFree (s : State) (l : Fin 4) (part : FbPart) : Bool :=
  decide ((s.fbd.slices[l].filter fun b => b.part == part).length < partSlots part)

/-- The part of a slice that a data block takes now: a credit while the stall has one free there, else the event reserve for a typed block of
event records; none while neither has room (R211, R213, R216). `b.part` says whether the block may use the event reserve. -/
def partFor (s : State) (c : Capture) (l : Fin 4) (b : FbBlock) : Option FbPart :=
  if c.inUse[l] < c.credit ∧ slotFree s l .credit then some .credit
  else if b.part = .event ∧ slotFree s l .event then some .event
  else none

/-- Strides between two blocks of a stall in one slice at D′ ÷ L (R215, R224; log entry 267). -/
def blockGap (s : State) (c : Capture) : Rat :=
  if c.demand = 0 then 0 else ((144 * (usableLanes s).length : Nat) : Rat) / c.demand

/-- A stall may place a block in a slice in this stride: its first there in the stride, and within five blocks of its rate (R212,
R215). -/
def mayPlace (s : State) (c : Capture) (l : Fin 4) : Bool :=
  c.putAt[l] != some s.tb.now && decide (c.dueAt[l] - 4 * blockGap s c ≤ ((strideOf s.tb.now : Nat) : Rat))

/-- A data block is placed in a part of its slice: the credit is taken, and the stall's rate charged (R212, R213, R215, R222). -/
def placeIn (s : State) (c : Capture) (l : Fin 4) (b : FbBlock) (part : FbPart) : State :=
  let s := putSlice s l { b with part := part, when := s.tb.now }
  let s := modCap s b.stall fun x => { x with
    inUse := if part = .credit then vmod x.inUse l fun k => k + 1 else x.inUse
    putAt := x.putAt.set l (some s.tb.now)
    dueAt := vmod x.dueAt l fun d => max d ((strideOf s.tb.now : Nat) : Rat) + blockGap s c }
  notePeak s b.stall

/-- A data block of a segment waits for a slice. -/
def dataUnplaced (s : State) (n : Stall) (uid : Nat) : Bool :=
  (List.finRange 4).any fun l => s.fbd.outbox[l].any fun b => b.stall == n && b.uid == uid && b.part != .header

/-- A formatted block goes into its slice, or waits behind the stall's blocks that wait for it; a header waits for the header reserve, and for its
segment's data to be in the slices, so that no slice ever stands still behind it (R211, R212, R215, R218, R219). -/
def putBlock (l : Fin 4) (s : State) (b : FbBlock) : State :=
  let wait := { s with fbd := { s.fbd with outbox := vmod s.fbd.outbox l fun q => q ++ [b] } }
  if b.part = .header then (if slotFree s l .header ∧ ¬ dataUnplaced s b.stall b.uid then putSlice s l { b with when := s.tb.now } else wait)
  else match s.stalls[b.stall].cap with
    | none => wait
    | some c =>
      if (s.fbd.outbox[l].any fun q => q.stall == b.stall && q.part != .header) || !mayPlace s c l then wait
      else match partFor s c l b with
        | none => wait
        | some part => placeIn s c l b part

/-- The blocks that wait for a slice are offered to it again, in their order (R212, R215). -/
def offerLane (s : State) (l : Fin 4) : State :=
  match s.fbd.outbox[l] with
  | [] => s
  | q => q.foldl (putBlock l) { s with fbd := { s.fbd with outbox := s.fbd.outbox.set l [] } }

/-- Every slice takes what it can in a stride (R212). -/
def offerBlocks (s : State) : State := (List.finRange 4).foldl offerLane s

/-- A block of the open segment is formatted for a device block, `typed` or dense (R211, R212, R217). -/
def placeAt (s : State) (n : Stall) (c : Capture) (blk : Nat) (recs : List Rec) (typed : Bool) : State :=
  match laneOf s blk with
  | none => s
  | some l =>
    let s := modCap s n fun c => { c with seg := { c.seg with unacked := c.seg.unacked + 1, lost := c.seg.lost.filter fun b => b != blk } }
    putBlock l s { stall := n, uid := c.seg.uid, blk := blk, recs := recs, part := if typed && recs.all isEventRec then .event else .credit }

/-! ## Data blocks -/

/-- The polder block of data block j of a segment, counted from the open without the copied Dikewatch ring (R191, R203, R514). -/
def ringBlockOf (x : Seg) (p j : Nat) : Nat := (x.start + 1 + x.ringBlocks + j % x.ring) % p

/-- Keyframes of a segment that survive when data block j is overwritten at the oldest end (R191, R192). -/
def keepKeys (x : Seg) : List KeyAt := x.kf.filter fun k => x.written < k.block + x.ring

/-- The next data block of the open segment is placed in its ring (R191, R212). -/
def placeBlock (s : State) (n : Stall) (typed : Bool) (recs : List Rec) : State :=
  match s.stalls[n].cap with
  | none => s
  | some c =>
    let g := s.stalls[n].grant
    let s := placeAt s n c (devBlock g (ringBlockOf c.seg (polderSize g) c.seg.written)) recs typed
    modCap s n fun c => { c with seg := { c.seg with kf := keepKeys c.seg, written := c.seg.written + 1 } }

/-- A record into the typed block being formatted; a block of 16 is placed (R107, R221). -/
def addRec (s : State) (n : Stall) (r : Rec) : State :=
  match s.stalls[n].cap with
  | none => s
  | some c =>
    let l := c.part ++ [r]
    if l.length < 16 then modCap s n fun c => { c with part := l }
    else placeBlock (modCap s n fun c => { c with part := [] }) n true l

/-- Records one after another. -/
def addRecs (s : State) (n : Stall) (l : List Rec) : State := l.foldl (fun s r => addRec s n r) s

/-- The typed block being formatted is completed with fill (R107, R221). -/
def fillPart (s : State) (n : Stall) : State :=
  match s.stalls[n].cap with
  | none => s
  | some c => if c.part = [] then s else addRecs s n (List.replicate (16 - c.part.length) 0)

/-- Side records of a stall whose segment is open: into the typed stream, or behind the side blocks of Gallop; before an open they wait
for it (R130, R200). -/
def addSide (s : State) (n : Stall) (l : List Rec) : State :=
  match s.stalls[n].cap with
  | none => s
  | some c =>
    if c.arm.gait ≠ .gallop ∧ c.phase = .running then addRecs s n l
    else modCap s n fun c => { c with sideQ := c.sideQ ++ l }

/-! ## Stored stretches -/

/-- Strides from the open of the segment to a time, negative before it. -/
def relStride (c : Capture) (t : Time) : Int := (t - c.openAt).toInt / 256

/-- Stored strides between two times (R192, R194). -/
def storedBetween (c : Capture) (lo hi : Time) : Nat :=
  (c.segStrides.map fun r =>
    let a := max (relStride c lo) (relStride c r.first)
    let b := match r.upto with
      | none => relStride c hi
      | some u => min (relStride c hi) (relStride c u)
    (b - a).toNat).sum

/-- Storing takes effect from a stride (R163, R225). -/
def openRun (c : Capture) (t : Time) : Capture :=
  match c.segStrides.getLast? with
  | some { first := _, upto := none } => c
  | _ => { c with segStrides := c.segStrides ++ [{ first := t, upto := none }] }

/-- Storing ends before a stride (R163). -/
def closeRun (c : Capture) (t : Time) : Capture := { c with
  segStrides := (c.segStrides.map fun r => if r.upto.isNone then { r with upto := some t } else r).filter fun r => r.upto != some r.first }

/-- A stride is stored. -/
def storedAt (c : Capture) (t : Time) : Bool := c.segStrides.any fun r => !past t r.first && (match r.upto with
  | none => true
  | some u => past t u)

/-! ## Keyframes -/

/-- A channel's state in the sample before the current stride; 0 where R100 says so. -/
def stateBefore (s : State) (teams : BitVec 8) : ChanMask :=
  maskOf 48 fun i => if h : i < 48 then
    let c := s.chans[i]
    bit teams (i / 6) && chLive c && (if c.sampledAt = s.tb.now then c.before else c.level)
  else false

/-- A keyframe of cause `keyframe` (0) or `resume` (2) at the current stride: the anchor and, but for Trot, the states (R121,
R123); a stall without teams has no gait records to key (R226). -/
def writeKey (s : State) (n : Stall) (cause : Nat) : State :=
  match s.stalls[n].cap with
  | none => s
  | some c =>
    if c.teams = 0 then s
    else
      let t := s.tb.now
      let m := stateBefore s c.teams
      let s := modCap s n fun c => { c with
        seg := { c.seg with kf := c.seg.kf ++ [{ block := c.seg.written, time := t }] }
        chainTime := t, hasKey := true, lastKey := t, walkStates := m }
      let s := addRec s n (anchorRec cause t)
      match c.arm.gait with
      | .canter => addRec s n (stateRec 3 m 0)
      | .walk => addRec s n (stateRec 4 m 0)
      | _ => s

/-- The start of a Walk period of the open segment (R106). -/
def walkBoundary (c : Capture) (t : Time) : Bool := (relStride c t) % ((bits c.arm.gaitParam 23 0 : Int) + 1) == 0

/-- A keyframe of cause `keyframe` is due in the current stride and not yet written: at the first stride of the segment, and at the marks of
R121; a stall without teams writes none (R121, R199, R226). -/
def keyDue (s : State) (c : Capture) : Bool :=
  let t := s.tb.now
  c.phase == .running && c.arm.gait != .gallop && c.teams != 0 && storedAt c t && (!c.hasKey || c.lastKey != t) &&
  (if c.arm.gait = .walk then
    walkBoundary c t && ((relStride c t) / ((bits c.arm.gaitParam 23 0 : Int) + 1)) % 65536 == 0
  else !c.hasKey || strideOf t % 65536 == 0)

/-- The keyframe that is due, if one is, before any other gait record of the stride; the first one after a flush has cause `resume` (R123,
R124). -/
def dueKey (s : State) (n : Stall) : State :=
  match s.stalls[n].cap with
  | none => s
  | some c => if keyDue s c then writeKey s n (if c.resume && !c.hasKey then 2 else 0) else s

/-- Strides of a Walk period, W (R137, R428). -/
def walkPeriod (c : Capture) : Nat := bits c.arm.gaitParam 23 0 + 1

/-- The end of a Walk period at the current stride: the keyframe that is due there, else a walk record when a state differs from the
state last stored (R106, R121, R124). -/
def walkEnd (s : State) (n : Stall) : State :=
  match s.stalls[n].cap with
  | none => s
  | some c =>
    let t := s.tb.now
    let k := (relStride c t / (walkPeriod c : Int)).toNat
    if c.arm.gait ≠ .walk ∨ c.phase ≠ .running ∨ ¬ walkBoundary c t ∨ k ≤ c.walkIdx then s
    else
      let s := dueKey (modCap s n fun c => { c with walkIdx := k }) n
      match s.stalls[n].cap with
      | none => s
      | some c =>
        let m := stateBefore s c.teams
        if m = c.walkStates ∨ ¬ storedAt c (t - 256) ∨ ¬ c.hasKey then s
        else
          let delta := strideOf (t - c.chainTime) / walkPeriod c
          addRec (modCap s n fun c => { c with chainTime := t, walkStates := m }) n (stateRec 4 m delta)

/-! ## Gallop -/

/-- The stored team count t' of n teams (R128). -/
def storedTeams (n : Nat) : Nat := if n = 5 then 6 else if n = 7 then 8 else n

/-- Strides per dense block, P = 24 / t' (R127). -/
def denseStrides (t : Nat) : Nat := 24 / t

/-- The stall channel list (R100). -/
def channelList (teams : BitVec 8) : List Nat := (List.range 48).filter fun c => bit teams (c / 6)

/-- One sample as n bits, channel i of the list at bit n - 1 - i (R126). -/
def sampleBits (teams : BitVec 8) (n : Nat) (m : ChanMask) : Nat :=
  (((channelList teams).zipIdx).map fun x => if bit m x.1 then 2 ^ (n - 1 - x.2) else 0).sum

/-- The 16 records of a dense block of samples (R126). -/
def denseRecs (teams : BitVec 8) (samples : List ChanMask) : List Rec :=
  let n := 6 * storedTeams (popcount teams)
  let v := samples.foldl (fun a m => a * 2 ^ n + sampleBits teams n m) 0
  (List.range 16).map fun k => BitVec.ofNat 72 (v / 2 ^ (72 * (15 - k)))

/-- The dense block being formatted is complete (R127). -/
def denseFull (c : Capture) : Bool := c.dense.length == 8 * denseStrides (storedTeams (popcount c.teams))

/-- How many of at most k waiting side records go into a furlong's side blocks: a marker that reaches the last free record waits
(R130). -/
def sideTake (l : List Rec) (k : Nat) : Nat :=
  match (l.take k).getLast? with
  | some r => if k ≤ l.length ∧ recType r = 7 then k - 1 else min k l.length
  | none => 0

/-- Blocks of 16 records out of a list, the last one completed with fill, k of them (R107, R130). -/
def blocksOf (l : List Rec) : Nat → List (List Rec)
  | 0 => []
  | k + 1 => (l.take 16 ++ List.replicate (16 - (l.take 16).length) 0) :: blocksOf (l.drop 16) k

/-- Typed blocks formatted one after another. -/
def placeBlocks (s : State) (n : Stall) (l : List (List Rec)) : State := l.foldl (fun s b => placeBlock s n true b) s

/-- The complete dense block is placed; the last one of a furlong is followed by the furlong's side blocks (R126, R129, R130). -/
def placeDense (s : State) (n : Stall) : State :=
  match s.stalls[n].cap with
  | none => s
  | some c =>
    if c.arm.gait ≠ .gallop ∨ ¬ denseFull c then s
    else
      let s := placeBlock s n false (denseRecs c.teams c.dense)
      let s := modCap s n fun c => { c with dense := [], denseIdx := c.denseIdx + 1 }
      if (c.denseIdx + 1) % (64 - c.sideBlocks) ≠ 0 then s
      else
        let k := sideTake c.sideQ (16 * c.sideBlocks)
        let s := modCap s n fun c => { c with sideQ := c.sideQ.drop k }
        placeBlocks s n (blocksOf (c.sideQ.take k) c.sideBlocks)

/-- Strides of a furlong (R129). -/
def furlongStrides (c : Capture) : Nat := (64 - c.sideBlocks) * denseStrides (storedTeams (popcount c.teams))

/-! ## What survives in the ring -/

/-- Whole furlongs of a Gallop segment of which a part has been placed (R131). -/
def furlongsTouched (x : Seg) : Nat := ceilDiv x.written 64

/-- The oldest furlong that survives: the ring overwrites whole furlongs (R131, R191). -/
def firstFurlong (x : Seg) : Nat := furlongsTouched x - x.ring / 64

/-- `first_time` as it would be written now; none stands for all ones (R137, R188). -/
def firstTime (c : Capture) : Option Time :=
  if c.arm.gait = .gallop then
    if c.denseIdx = 0 then none else some (c.openAt + strides (firstFurlong c.seg * furlongStrides c))
  else (c.seg.kf.head?).map fun k => k.time

/-- The oldest stored data: `first_time`, or `open_time` when nothing has been overwritten (R188). -/
def oldestData (c : Capture) : Option Time :=
  if c.seg.ringBlocks = 0 ∧ c.seg.written ≤ c.seg.ring then some c.openAt else firstTime c

/-- Data blocks that survive, the copied Dikewatch ring included (R137, R514). -/
def dataLength (c : Capture) (tail : Nat) : Nat :=
  let x := c.seg
  if c.arm.gait = .gallop then 64 * ((x.written - tail) / 64 - firstFurlong x) + tail
  else x.ringBlocks + min x.written x.ring

/-- Stored samples at or after `first_time` and before a placement (R192). -/
def samplesBefore (c : Capture) (placement : Time) : Nat :=
  match firstTime c with
  | none => 0
  | some f =>
    let p := placement &&& ~~~ (255 : Time)
    8 * storedBetween c f p + (if storedAt c p && !past p f then bits placement 7 5 else 0)

/-! ## The header -/

/-- `enable` of a chain setting (R289). -/
def chainEnable (w : BitVec 256) : Bool := bit w 31

/-- `store_output` (R289). -/
def storeOutput (w : BitVec 256) : Bool := bit w 27

/-- `store_detector` (R289). -/
def storeDetector (w : BitVec 256) : Bool := bit w 26

/-- The resampler ratio K (R289). -/
def chainK (w : BitVec 256) : Nat := bits w 52 32

/-- `det_mode` (R289). -/
def detMode (w : BitVec 256) : Nat := bits w 191 189

/-- `det_k` (R289). -/
def detK (w : BitVec 256) : Nat := bits w 186 182

/-- The period of a source in samples; 0 when irregular or inactive (R133, R137). -/
def sourcePeriod (s : State) (n : Stall) (k : Nat) : Nat :=
  let w := s.chains[Fin.ofNat 8 (k % 8)].setting
  if !bit s.stalls[n].grant.chains (k % 8) || !chainEnable w then 0
  else if k < 8 then (if storeOutput w then chainK w else 0)
  else if storeDetector w && (detMode w == 1 || detMode w == 2 || detMode w == 4) then 2 ^ detK w * chainK w else 0

/-- The code of a gait (R137, R428). -/
def gaitCode : Gait → Nat
  | .gallop => 0
  | .canter => 1
  | .trot => 2
  | .walk => 3

/-- Header record k (R137). -/
def headerRec (k : Nat) (payload : Nat) : Rec := BitVec.ofNat 72 ((0xF0 + k) * 2 ^ 64 + payload % 2 ^ 64)

/-- The header of the open segment at its close with a cause and E tail blocks (R137, R138, R192, R198). -/
def formHeader (s : State) (n : Stall) (c : Capture) (cause tail : Nat) : List Rec :=
  let x := c.seg
  let a := c.arm
  let gallop := decide (a.gait = .gallop)
  let trot := decide (a.gait = .trot)
  let teams := popcount c.teams
  let tr := x.trig
  let time := match tr with
    | some t => t.time.toNat
    | none => 2 ^ 64 - 1
  let h14 := min x.missed 0x7FFFF * 2 ^ 40 + match tr with
    | some t => t.kind.toNat * 2 ^ 62 + t.truncated.toNat * 2 ^ 61 + t.exact.toNat * 2 ^ 60 +
        (if t.truncated then 0 else sat 40 (samplesBefore c t.time))
    | none => 0
  [ headerRec 0 (2 ^ 48 + s.stalls[n].gen.toNat * 2 ^ 32 + n.val * 2 ^ 24 + gaitCode a.gait * 2 ^ 20 + x.num.toNat),
    headerRec 1 c.openAt.toNat,
    headerRec 2 (c.teams.toNat * 2 ^ 56 + (if gallop then storedTeams teams else teams) * 2 ^ 52 +
      (if trot then a.clockChan.toNat * 2 ^ 46 + a.clockEdge.toNat * 2 ^ 44 else 0) + (if gallop then c.sideBlocks * 2 ^ 38 else 0) +
      x.ringBlocks * 2 ^ 24 + (if a.gait = .walk then bits a.gaitParam 23 0 else 0)),
    headerRec 3 (a.requireFull.toNat * 2 ^ 63 + c.late.toNat * 2 ^ 62 + c.uncal.toNat * 2 ^ 61 + c.drift.toNat * 2 ^ 60 +
      c.freeRun.toNat * 2 ^ 59 + c.holdover.toNat * 2 ^ 58 + c.eventsLost.toNat * 2 ^ 57 + c.chanMask.toNat) ] ++
  ((List.range 8).map fun i => headerRec (4 + i) (sourcePeriod s n (2 * i) * 2 ^ 32 + sourcePeriod s n (2 * i + 1))) ++
  [ headerRec 12 time,
    headerRec 13 (match firstTime c with
      | some t => t.toNat
      | none => 2 ^ 64 - 1),
    headerRec 14 h14,
    headerRec 15 (cause * 2 ^ 58 + dataLength c tail * 2 ^ 29 + tail) ]

/-- A header with another close cause (R523). -/
def setCause (l : List Rec) (cause : Nat) : List Rec :=
  match l[15]? with
  | some r => l.take 15 ++ [BitVec.ofNat 72 (0xFF * 2 ^ 64 + cause * 2 ^ 58 + r.toNat % 2 ^ 58)]
  | none => l

/-- The header goes to the header reserve of its block's slice (R211, R219). -/
def placeHeader (s : State) (n : Stall) (uid start : Nat) (recs : List Rec) : State :=
  let blk := devBlock s.stalls[n].grant start
  match laneOf s blk with
  | none => s
  | some l => putBlock l s { stall := n, uid := uid, blk := blk, recs := recs, part := .header }

/-- The number of the surviving data block that is oldest, and the polder blocks of the data, oldest first (R203, R320). -/
def dataBlocks (x : Seg) (p length : Nat) : List Nat :=
  let k := length - x.ringBlocks
  (List.range x.ringBlocks).map (fun i => (x.start + 1 + i) % p) ++
    (List.range k).map fun i => ringBlockOf x p (x.written - k + i)

/-- Blocks cut where the parcel changes and behind the last block of a parcel: the bales of a segment (R320). -/
def cutBales : List Nat → List (List Nat)
  | [] => []
  | b :: l =>
    match cutBales l with
    | (a :: r) :: m =>
      if a / parcelBlocks = b / parcelBlocks ∧ (b + 1) % parcelBlocks ≠ 0 then (b :: a :: r) :: m else [b] :: (a :: r) :: m
    | m => [b] :: m

/-- The `length` of a header (R137). -/
def headerLength (l : List Rec) : Nat := bits (l.getD 15 0) 57 29

/-- The polder blocks of a held segment, header first, cut into its bales (R320). -/
def segBales (x : Seg) (p : Nat) : List (List Nat) := cutBales (x.start :: dataBlocks x p (headerLength x.header))

/-! ## Blocks that are lost -/

/-- A header whose `length` ends before the first lost block (R217, log entry 68). -/
def cutHeader (l : List Rec) (len keep : Nat) : List Rec :=
  if keep = len then l
  else match l[15]? with
    | some r => l.take 15 ++ [BitVec.ofNat 72 (r.toNat / 2 ^ 58 * 2 ^ 58 + keep * 2 ^ 29)]
    | none => l

/-- A closed segment counts only the blocks before the first lost one (R217, log entry 68). -/
def cutSegment (g : Grant) (x : Seg) : Seg :=
  let len := headerLength x.header
  let keep := ((dataBlocks x x.polder len).findIdx? fun j => x.lost.contains (devBlock g j)).getD len
  { x with header := cutHeader x.header len keep, written := x.written - (len - keep) }

/-- The header of a held segment as its context now has it. -/
def heldHeader (s : State) (n : Stall) (uid : Nat) (old : List Rec) : List Rec :=
  ((s.stalls[n].held.find? fun x => x.uid == uid).map fun x => x.header).getD old

/-- The header blocks not yet issued follow the headers in the contexts: in the freeboard and in the bank queues (R217, R523). -/
def syncHeaders (s : State) : State :=
  let sync (b : FbBlock) : FbBlock := if b.part = .header then { b with recs := heldHeader s b.stall b.uid b.recs } else b
  let syncW (w : WrReq) : WrReq := match w.owner with
    | .header n uid => { w with recs := heldHeader s n uid w.recs }
    | _ => w
  { s with
    fbd := { s.fbd with slices := s.fbd.slices.map fun q => q.map sync, outbox := s.fbd.outbox.map fun q => q.map sync }
    lanes := s.lanes.map fun x => { x with banks := x.banks.map fun q => q.map syncW } }

/-- A segment's header block has not been issued: it waits for a slice, in one, or in a bank queue. -/
def headerWaits (s : State) (n : Stall) (uid : Nat) : Bool :=
  (List.finRange 4).any fun l =>
    ((s.fbd.slices[l] ++ s.fbd.outbox[l]).any fun b => b.stall == n && b.uid == uid && b.part == .header) ||
    s.lanes[l].banks.toArray.toList.any fun q => q.any fun w => w.owner == .header n uid

/-- A header that its cut has changed after its issue is written again, and awaited (R217, log entry 68). -/
def renewHeader (n : Stall) (s : State) (x : Seg) : State :=
  if headerWaits s n x.uid then s
  else placeHeader (modStall s n fun y => { y with held := y.held.map fun h => if h.uid = x.uid then { h with hdrAcked := false } else h })
    n x.uid x.start x.header

end Sys2Proof.Machine
end

