-- ==== Sys2Proof/Machine/Staging.lean ====
section
/-!
DEFINITION. The reference area and the staging slice: where a dense block of the reference lies, its read on P1, and its way into the
slice.
-/

namespace Sys2Proof.Machine

/-- Samples of a dense block of the reference (R127, R334). -/
def blockSamples (r : Reference) : Nat := 8 * denseStrides r.stored

/-- The stored team counts whose samples fill a dense block and whole strides: the rows of R127, and 12, which R126 and R334 define alike. -/
def storedOk (t : Nat) : Bool := t ∈ [1, 2, 3, 4, 6, 8, 12]

/-- Dense blocks of the reference (R334). -/
def denseBlocks (r : Reference) : Nat := r.length / blockSamples r

/-- The device block of block j of the reference's content, header first (R329, log entry 60). -/
def refBlock (g : Grant) (j : Nat) : Nat := g.refArea.getD (j / parcelBlocks) 0 * parcelBlocks + j % parcelBlocks

/-- The device block of dense block k of the reference (R129, R334). -/
def refDense (g : Grant) (r : Reference) (k : Nat) : Nat := refBlock g (1 + 64 * (k / (64 - r.side)) + k % (64 - r.side))

/-- Blocks of a staging slice (R340). -/
def sliceBlocks : Nat := 910

/-- A read of dense block k waits on P1 (R251, R340). -/
def askDense (s : State) (n : Stall) (k : Nat) : State :=
  let blk := refDense s.stalls[n].grant s.stalls[n].ref k
  match laneOf s blk with
  | none => s
  | some l => modLane s l fun x => { x with p1 := x.p1 ++ [{ blk := blk, owner := .play n k, when := s.tb.now }] }

/-- The next dense blocks are asked for, at most up to block `stop` (R340). -/
def askUpto (s : State) (n : Stall) (stop : Nat) : State :=
  let r := s.stalls[n].ref
  let upto := min stop (denseBlocks r)
  let s := ((List.range upto).drop r.asked).foldl (fun s k => askDense s n k) s
  modRef s n fun r => { r with asked := max r.asked upto }

/-- A read serves the playback of a stall. -/
def isPlayOf (n : Stall) (o : RdOwner) : Bool := match o with
  | .play st _ => st == n
  | _ => false

/-- A write carries reference data of a stall. -/
def isLoadOf (n : Stall) (o : WrOwner) : Bool := match o with
  | .load st => st == n
  | _ => false

/-- The load of a stall stops: blocks that have not left its port are not written (R333, R367). -/
def dropLoadWrites (s : State) (n : Stall) : State :=
  { s with lanes := s.lanes.map fun x => { x with p2w := x.p2w.filter fun w => !isLoadOf n w.owner } }

/-- A block of the reference of a stall is still on its way to DRAM. -/
def loadWaits (s : State) (n : Stall) : Bool :=
  (List.finRange 4).any fun l =>
    let x := s.lanes[l]
    x.p2w.any (fun w => isLoadOf n w.owner) || x.banks.toArray.toList.any (fun q => q.any fun w => isLoadOf n w.owner) ||
      x.retry.any fun c => c.wr.any fun w => isLoadOf n w.owner

/-- The slice is filled with the first dense blocks (R340; log entry 272). -/
def fillSlice (s : State) (n : Stall) : State :=
  let s := { s with lanes := s.lanes.map fun x => { x with p1 := x.p1.filter fun q => !isPlayOf n q.owner } }
  askUpto (modRef s n fun r => { r with asked := 0, came := [], slice := [] }) n sliceBlocks

/-- A course holds a `reference_start` action (R230). -/
def hasRefStart (p : Course) : Bool := p.fences.any fun f => f.any fun x => bit x.actions 0 && bit x.actions 9

/-- The stall holds a slice: it captures with a course that starts the reference, or a timed start is pending (R340). -/
def holdsSlice (x : StallState) : Bool :=
  x.ref.valid && ((x.cap.isSome && x.course.any hasRefStart) || x.ref.timed.isSome)

/-- A dense block that was asked for arrives from its lane (R340, R342). -/
def stageBlock (s : State) (n : Stall) (k : Nat) (recs : List Rec) (bad : Bool) : State :=
  modRef s n fun r =>
    if r.asked ≤ k || r.came.any (fun b => b.k == k) || r.slice.any (fun b => b.k == k) then r
    else { r with came := r.came ++ [{ k := k, recs := recs, bad := bad }] }

/-- The dense block that the slice takes next. -/
def nextStaged (r : Reference) : Nat := match r.slice.getLast? with
  | some b => b.k + 1
  | none => 0

/-- Blocks that have come move into the slice in their order, at most i of them. -/
def moveStaged (ecc : Ecc) : Nat → Reference → Reference
  | 0, r => r
  | i + 1, r =>
    match r.came.find? fun b => b.k == nextStaged r with
    | none => r
    | some b => moveStaged .clean i { r with came := r.came.erase b, slice := r.slice ++ [{ b with bad := b.bad || ecc == .uncorrectable }] }

/-- The oldest dense block that playback still needs: the 16 samples behind the next one count for lags (R343). -/
def oldestNeeded (r : Reference) : Nat := match r.play with
  | some p => (p.next - 17) / blockSamples r
  | none => 0

/-- Blocks that playback has used leave the slice, and the next batch is asked for once it has room (R250, R340). -/
def drainSlice (s : State) (n : Stall) : State :=
  let k := oldestNeeded s.stalls[n].ref
  let s := modRef s n fun r => { r with slice := r.slice.filter fun b => k ≤ b.k }
  let r := s.stalls[n].ref
  let batch := 64 * (usableLanes s).length
  if r.asked < denseBlocks r ∧ r.asked + batch ≤ k + sliceBlocks then askUpto s n (r.asked + batch) else s

end Sys2Proof.Machine
end

