-- ==== Sys2Proof/Machine/UploadJobs.lean ====
section
/-!
DEFINITION. Upload jobs at work: their reads on P2, their writes into the list, bales and their headers, the compressors' rotation, and
their ends.
-/

namespace Sys2Proof.Machine

/-! ## Lists of jobs -/

/-- A job put in the place of an old one. -/
def putJob (s : State) (u v : UploadJob) : State :=
  { s with jobs := { s.jobs with uploads := s.jobs.uploads.map fun x => if x == u then v else x } }

/-- The upload of a function with a tag. -/
def findUpload (s : State) (f : Fn) (tag : BitVec 16) : Option UploadJob := s.jobs.uploads.find? fun u => u.fn == f && u.tag == tag

/-! ## Bytes into the list -/

/-- Free bytes, n of them (log entry 8). -/
def drawBytes (s : State) (n : Nat) : List Byte × State :=
  ((List.range n).map fun i => (Config.freeValue (s.free + i)).truncate 8, { s with free := s.free + n })

/-- The pieces that bytes at an offset of the list's space fall into: address and bytes (R322, R434). -/
def sglPieces : List (BitVec 64 × Nat) → Nat → List Byte → List (BitVec 64 × List Byte)
  | [], _, _ => []
  | (a, n) :: r, off, l =>
    if l = [] then []
    else if n ≤ off then sglPieces r (off - n) l
    else (a + BitVec.ofNat 64 off, l.take (n - off)) :: sglPieces r 0 (l.drop (n - off))

/-- How many entries of the list an end offset reaches. -/
def entriesUpto : List (BitVec 64 × Nat) → Nat → Nat
  | [], _ => 0
  | (_, n) :: r, stop => if stop = 0 then 0 else 1 + entriesUpto r (stop - n)

/-- The list's total length (R434). -/
def sglTotal (u : UploadJob) : Nat := (u.sgl.map fun e => e.2).sum

/-- One write of a job; after an entry came back with other values, which bytes land where in it is open, the length kept (R434, log entries
8 and 251). -/
def writePiece (s : State) (u : UploadJob) (a : BitVec 64) (l : List Byte) : State :=
  if u.wild then
    let b := drawBytes s l.length
    emit b.2 (.hostWrite u.fn a b.1 (dataAttrs s u.fn))
  else emit s (.hostWrite u.fn a l (dataAttrs s u.fn))

/-- The list as it was read later, entry by entry (R434). -/
def laterSgl (u : UploadJob) : List (BitVec 64 × Nat) :=
  (u.sgl.zipIdx).map fun x => ((u.again.find? fun a => a.1 == x.2).map fun a => a.2).getD x.1

/-- The entries that bytes up to an offset reach, by what has been read of them last, have been read again (R434). -/
def readAgain (u : UploadJob) (stop : Nat) : Bool :=
  (List.range (entriesUpto (laterSgl u) stop)).all fun i => u.again.any fun a => a.1 == i

/-- The entries that the waiting bytes reach, by what has been read of them last, are read again; one that came back shorter makes them reach the
next (R434). -/
def askEntries (s : State) (u : UploadJob) : State × UploadJob :=
  let stop := (u.wait.map fun x => entriesUpto (laterSgl u) (x.1 + x.2.length)).foldl max u.entry
  ((List.range (stop - u.entry)).foldl (fun s i =>
    issueRead s u.fn u.tag .sgl (BitVec.ofNat 64 (u.sglAt.toNat + 16 * (u.entry + i))) 16) s, { u with entry := stop })

/-- Bytes at an offset of the list's space wait for the second reads of the entries they reach, which are issued (R322, R434). -/
def queueWrite (s : State) (u : UploadJob) (off : Nat) (l : List Byte) : State × UploadJob :=
  if l = [] then (s, u) else askEntries s { u with wait := u.wait ++ [(off, l)] }

/-- The waiting bytes whose entries have been read again are written, oldest first, at most k stretches: at the addresses read later, and no
more than the list summed at first (R434). -/
def releaseWrites : Nat → State → UploadJob → State × UploadJob
  | 0, s, u => (s, u)
  | k + 1, s, u =>
    match u.wait with
    | [] => (s, u)
    | (off, l) :: rest =>
      if !readAgain u (off + l.length) then (s, u)
      else
        releaseWrites k ((sglPieces (laterSgl u) off l).foldl (fun s x => writePiece s u x.1 x.2) s) { u with wait := rest }

/-! ## Reads -/

/-- Blocks of a chunk (R318). -/
def chunkBlocks : Nat := 455

/-- The polder blocks of a job's next chunk (R318). -/
def nextChunk (u : UploadJob) : List Nat := match u.bales with
  | [] => []
  | b :: _ => (b.blocks.drop u.pos).take chunkBlocks

/-- The job is at a chunk boundary: no chunk is being read or compressed, or waits to be written (R318, R326). -/
def atBoundary (u : UploadJob) : Bool := u.reqd == 0 && (u.comp.isNone || u.recs == []) && u.wait == []

/-- The job has a chunk to read. -/
def wantsChunk (u : UploadJob) : Bool := u.running && u.stop.isNone && u.bales != [] && atBoundary u && u.recs == []

/-- The P2 reads of a job's next chunk (R251, R323). -/
def readChunk (s : State) (u : UploadJob) : State :=
  let l := nextChunk u
  let g := s.stalls[u.stall].grant
  let s := (l.zipIdx).foldl (fun s x =>
    let blk := devBlock g x.1
    match laneOf s blk with
    | none => s
    | some l => modLane s l fun y => { y with p2r := y.p2r ++ [{ blk := blk, owner := .upload u.fn u.tag x.2, when := s.tb.now }] }) s
  putJob s u { u with reqd := l.length, got := [] }

/-- The stalls in the rotation's order from one on. -/
def stallsFrom (n : Stall) : List Stall := (List.range 64).map fun k => n + Fin.ofNat 64 k

/-- The reads of the running jobs are issued, one chunk per stall per turn, at most k chunks (R323). -/
def issueChunks : Nat → State → State
  | 0, s => s
  | k + 1, s =>
    match (stallsFrom s.jobs.readRot).findSome? fun n => s.jobs.uploads.find? fun u => u.stall == n && wantsChunk u with
    | none => s
    | some u => issueChunks k (readChunk { s with jobs := { s.jobs with readRot := u.stall + 1 } } u)

/-! ## Compressors -/

/-- A compressed job waits for a compressor: it has a chunk to give and none in one (R323, R324). -/
def waitsComp (u : UploadJob) : Bool := u.mode != 0 && u.running && u.bales != [] && u.comp.isNone && u.stop.isNone

/-- The stall that the rotation serves next (R324). -/
def compTurn (s : State) : Option Stall :=
  let waits (n : Stall) : Bool := s.jobs.uploads.any fun u => u.stall == n && waitsComp u
  if s.jobs.compLeft ≠ 0 ∧ waits s.jobs.compRot then some s.jobs.compRot else (stallsFrom (s.jobs.compRot + 1)).find? waits

/-- A free compressor takes the next chunk of the rotation, which may still be on its way from the lanes (R324; log entry 305).
-/
def takeComp (s : State) (k : Fin 4) : State :=
  if s.jobs.uploads.any fun u => u.comp == some k then s
  else match compTurn s with
    | none => s
    | some n =>
      match s.jobs.uploads.find? fun u => u.stall == n && waitsComp u with
      | none => s
      | some u =>
        let left := if s.jobs.compLeft ≠ 0 ∧ n = s.jobs.compRot then s.jobs.compLeft - 1 else s.stalls[n].grant.share - 1
        putJob { s with jobs := { s.jobs with compRot := n, compLeft := left } } u { u with comp := some k }

/-- Every free compressor takes a chunk (R324). -/
def giveComps (s : State) : State := (List.finRange 4).foldl takeComp s

/-! ## The start -/

/-- Jobs that may start do: every compressed one whose list has passed, and the oldest stored one of each stall (R323). -/
def startUploads (s : State) : State :=
  let first (u : UploadJob) : Bool := (s.jobs.uploads.find? fun x => x.stall == u.stall && x.mode == 0) == some u
  let start (u : UploadJob) : UploadJob := if u.sglOk && (u.mode != 0 || first u) then { u with running := true } else u
  let s := { s with jobs := { s.jobs with uploads := s.jobs.uploads.map start } }
  giveComps (issueChunks s.jobs.uploads.length s)

/-! ## The end of a job -/

/-- Completion of an upload that the job ends with: `ok` and `shed` report what was delivered (R327, R435). -/
def uploadPay (u : UploadJob) (st : BitVec 8) : Pay :=
  if st = statusCode .ok ∨ st = statusCode .shed then
    { p4 := fld u.doneBytes 0, p5 := fld (sat 24 u.doneBales) 8 ||| fld (u.doneBytes / 2 ^ 32 % 256) 0
      p6 := fld u.ulen 0, p7 := fld (sat 24 u.poison) 8 ||| fld (u.ulen / 2 ^ 32 % 256) 0 }
  else {}

/-- A job ends: the upload's completion, then that of an `upload_cancel` that waits for it (R327, R435, R436). The command of a stall
whose reset has started is no longer outstanding and completes no more (R369). -/
def endUpload (s : State) (u : UploadJob) (st : Status) : State :=
  let s := { s with jobs := { s.jobs with uploads := s.jobs.uploads.filter fun x => x != u } }
  let drop (r : HostRead) : HostRead := if r.fn == u.fn && r.tag == u.tag && r.purpose == .sgl then { r with dead := true } else r
  let s := modGroom s fun g => { g with reads := g.reads.map drop }
  if u.ended then startUploads s
  else
    let s := completeTag s u.fn u.tag st (uploadPay u (statusCode st))
    startUploads (u.cancel.foldl (fun s c => completeTag s c.2 c.1 .ok { p4 := flag u.running 0 }) s)

/-- The status of a code among those a job stops with. -/
def stopStatus (c : BitVec 8) : Status := if c = statusCode .shed then .shed else .aborted

/-- Jobs that must stop and stand at a chunk boundary end, at most k of them (R326). -/
def reapUploads : Nat → State → State
  | 0, s => s
  | k + 1, s =>
    match s.jobs.uploads.find? fun u => u.stop.isSome && atBoundary u with
    | none => s
    | some u => reapUploads k (endUpload s u (stopStatus (u.stop.getD 0)))

/-- Jobs that a test picks stop at their next chunk boundary with a status; queued ones, and those that stand at one, end now (R326,
R436). -/
def stopUploads (s : State) (p : UploadJob → Bool) (st : Status) : State :=
  let mark (u : UploadJob) : UploadJob := if p u && u.stop.isNone then { u with stop := some (statusCode st) } else u
  let s := { s with jobs := { s.jobs with uploads := s.jobs.uploads.map mark } }
  reapUploads s.jobs.uploads.length s

/-- Jobs that a test picks end at once, at most k of them (R207, R326). -/
def killUploads (p : UploadJob → Bool) : Nat → State → State
  | 0, s => s
  | k + 1, s =>
    match s.jobs.uploads.find? p with
    | none => s
    | some u => killUploads p k (endUpload s u .aborted)

/-- The uploads of held segments that are deleted end at once while bales of these are not all written (R207, R233, R235, R326). -/
def abortUploads (s : State) (n : Stall) (gone : List Nat) : State :=
  killUploads (fun u => u.stall == n && ((u.bales.any fun b => gone.contains b.uid) || u.late.any fun k => gone.contains k)) s.jobs.uploads.length s

/-! ## Bales -/

/-- Chunks of a number of uncompressed bytes (R318). -/
def chunksOf (ulen : Nat) : Nat := ceilDiv ulen 65520

/-- Space of a bale rounded up (R322). -/
def baleSpace (clen : Nat) : Nat := (32 + clen + 7) / 8 * 8

/-- The exact size of a stored-mode job (R319, R325). -/
def storedSize (l : List BalePlan) : Nat :=
  (l.map fun b => baleSpace (144 * b.blocks.length + 5 * chunksOf (144 * b.blocks.length))).sum

/-- A bale's header (R317). -/
def baleHeader (s : State) (u : UploadJob) (b : BalePlan) (last : Bool) : List Byte :=
  let x := s.stalls[u.stall]
  let first := b.blocks.headD 0
  [0x42, 0x4C, 1, BitVec.ofNat 8 (u.mode.toNat + 4 * last.toNat)] ++ leBytes (BitVec.ofNat 32 (144 * b.blocks.length)) 4 ++
  leBytes (BitVec.ofNat 32 u.clen) 4 ++ leBytes (~~~ u.crc) 4 ++
  leBytes (BitVec.ofNat 32 (devBlock x.grant first / parcelBlocks * 2 ^ 20 + b.seg.toNat)) 4 ++ leBytes (BitVec.ofNat 16 b.part) 2 ++
  [BitVec.ofNat 8 u.stall.val, 0] ++ leBytes (BitVec.ofNat 32 first) 4 ++ leBytes (BitVec.ofNat 16 (sat 16 u.balePoison)) 2 ++ leBytes x.gen 2

/-- Waiting bytes that may go are written; with all of it written after the last bale the job ends (R327, R434). -/
def settleWrites (s : State) (old u : UploadJob) : State :=
  let r := releaseWrites u.wait.length s u
  let v := if r.2.wait = [] then { r.2 with late := [] } else r.2
  let s := putJob r.1 old v
  if v.fin && v.wait == [] then endUpload s v .ok else s

/-- The running bale is whole: padding and header are written; after the last bale the job ends (R317, R322, R327). -/
def finishBale (s : State) (u : UploadJob) (b : BalePlan) (rest : List BalePlan) : State × UploadJob :=
  let stop := u.off + baleSpace u.clen
  let r := queueWrite s u (u.off + 32 + u.clen) (List.replicate (baleSpace u.clen - 32 - u.clen) 0)
  let r := queueWrite r.1 r.2 u.off (baleHeader s u b rest.isEmpty)
  (r.1, { r.2 with
    bales := rest, pos := 0, crc := 0xFFFFFFFF, clen := 0, balePoison := 0, off := stop, doneBales := u.doneBales + 1, doneBytes := stop
    ulen := u.ulen + 144 * b.blocks.length, poison := u.poison + u.balePoison, fin := rest.isEmpty, bitRest := [], late := u.late ++ [b.uid] })

/-- A chunk's stream bytes are written; past the end of the list the job stops with `output_overflow` (R322, R325). -/
def writeChunk (s : State) (u : UploadJob) (blocks : Nat) (stream : List Byte) : State :=
  let at_ := u.off + 32 + u.clen
  if sglTotal u < at_ + stream.length then endUpload s u .outputOverflow
  else
    let r := queueWrite s u at_ stream
    let v := { r.2 with clen := u.clen + stream.length, pos := u.pos + blocks, recs := [], comp := none }
    match v.bales with
    | [] => settleWrites r.1 u v
    | b :: rest =>
      if b.blocks.length ≤ v.pos then
        let q := finishBale r.1 v b rest
        settleWrites q.1 u q.2
      else settleWrites r.1 u v

/-- A DEFLATE block of type stored, final or not (R318). -/
def storedBlock (last : Bool) (l : List Byte) : List Byte :=
  let n : BitVec 16 := BitVec.ofNat 16 l.length
  [BitVec.ofNat 8 last.toNat] ++ leBytes n 2 ++ leBytes (~~~ n) 2 ++ l

/-- The end of the work at a chunk boundary: jobs that must stop end, the next chunks are read and compressed. -/
def uploadsGoOn (s : State) : State :=
  let s := reapUploads s.jobs.uploads.length s
  giveComps (issueChunks s.jobs.uploads.length s)

/-! ## Data from the lanes -/

/-- The 16 poison records of a block (R118). -/
def poisonRecs (blk : Nat) : List Rec :=
  (List.range 16).map fun k => BitVec.ofNat 72 (0xA * 2 ^ 68 + 0xA55A0F * 2 ^ 44 + k * 2 ^ 40 + blk)

/-- Block k of a job's chunk has been read, or is poisoned; a stored job whose stall is being reset stops after it (R118, R269, R317,
R367). -/
def uploadData (s : State) (f : Fn) (tag : BitVec 16) (k blk : Nat) (recs : Option (List Rec)) : State :=
  match findUpload s f tag with
  | none => s
  | some u =>
    if u.reqd ≤ k ∨ u.got.any (fun x => x.1 == k) ∨ ((nextChunk u)[k]?.map fun j => devBlock s.stalls[u.stall].grant j) ≠ some blk then s
    else if u.mode = 0 ∧ u.ended then endUpload s u .aborted
    else putJob s u { u with
      got := u.got ++ [(k, recs.getD (poisonRecs blk))]
      balePoison := if recs.isNone then u.balePoison + 1 else u.balePoison }

/-- The bytes of the chunk that has come, in order. -/
def chunkBytes (u : UploadJob) : List Byte :=
  (List.range u.reqd).flatMap fun k => ((u.got.find? fun x => x.1 == k).map fun x => x.2.flatMap fun r => leBytes r 9).getD []

end Sys2Proof.Machine
end

