-- ==== Sys2Proof/Machine/Capture.lean ====
section
/-!
DEFINITION. What the commands share of a capture: deleting held segments, giving resources back, the close of captures and the end of
an arm, aborting a playback, and the safe halt.
-/

namespace Sys2Proof.Machine

/-- A segment of a stall is open, a closing furlong included (R199, R337). -/
def segmentOpen (s : State) (n : Stall) : Bool := s.stalls[n].cap.any fun c => c.phase == .running || c.phase == .closing

/-! ## Held segments -/

/-- A segment has a block in the i-th parcel of a polder of p blocks. -/
def segTouches (p : Nat) (x : Seg) (i : Nat) : Bool :=
  let stop := x.start + x.occupied
  (x.start < (i + 1) * parcelBlocks && i * parcelBlocks < min stop p) || (p < stop && i * parcelBlocks < stop - p)

/-- A held segment keeps its device blocks when the polder's parcels change from one list to another; it lies in the polder of its own open
(R233). -/
def segStays (old new : List Nat) (x : Seg) : Bool :=
  (List.range old.length).all fun i => !segTouches x.polder x i || old[i]? == new[i]?

/-- Held segments of a stall that fail a test are deleted; uploads that still read them end (R207, R233, R326). -/
def deleteHeld (s : State) (n : Stall) (keep : Seg → Bool) : State :=
  let gone := (s.stalls[n].held.filter fun x => !keep x).map fun x => x.uid
  let s := modStall s n fun x => { x with held := (x.held.filter fun h => keep h || !h.closed).map fun h => if keep h then h else { h with gone := true } }
  abortUploads s n gone

/-- The held segments that are not deleted, oldest first. -/
def liveSegs (s : State) (n : Stall) : List Seg := s.stalls[n].held.filter fun x => !x.gone

/-- Where the next segment opens after the newest of some segments (R203, R233). -/
def startAfter (l : List Seg) (p : Nat) : Nat := match l.getLast? with
  | some h =>
    let stop := h.start + h.occupied
    if p = 0 then 0 else if stop ≤ h.polder then stop % p else (stop - h.polder) % p
  | none => 0

/-- The grant's parcels and reference area change; held segments that move are deleted, and the next segment opens after the
newest kept one. Answers how many were deleted too (R233). -/
def changePolder (s : State) (n : Stall) (parcels refArea : List Nat) : State × Nat :=
  let old := s.stalls[n].grant
  let new := { old with parcels := parcels, refArea := refArea }
  let keep (x : Seg) : Bool := x.gone || segStays (polderOf old) (polderOf new) x
  let deleted := (s.stalls[n].held.filter fun x => !keep x).length
  let s := deleteHeld s n keep
  (modStall s n fun x => { x with grant := new, nextStart := startAfter (x.held.filter fun h => !h.gone) (polderSize new) }, deleted)

/-- Retired parcels of a stall's polder leave it, once no segment is open on them; those of a reference area leave with the area (R235,
log entry 66). -/
def applyRetire (s : State) (n : Stall) : State :=
  let g := s.stalls[n].grant
  if (polderOf g).any fun p => s.dram.retirePend.contains p then
    let s := (changePolder s n (g.parcels.filter fun p => g.refArea.contains p || !s.dram.retirePend.contains p) g.refArea).1
    { s with dram := { s.dram with retirePend := s.dram.retirePend.filter fun p => !(polderOf g).contains p } }
  else s

/-- Parcels enter the wipe queue, retired ones left out (R371). -/
def queueWipe (s : State) (l : List Nat) : State :=
  { s with dram := { s.dram with wipeQ := s.dram.wipeQ ++
      ((l.filter fun p => !s.dram.retired.contains p).map fun p => { parcel := p, when := s.tb.now }) } }

/-! ## Giving resources back -/

/-- Clears the latches of a channel (R42). -/
def clearLatches (c : Channel) : Channel := { c with above := false, below := false, band := false, open_ := false, seedBand := false }

/-- The channels of revoked teams: settings at reset, latches clear (R357). -/
def dropTeams (s : State) (teams : BitVec 8) : State :=
  { s with chans := vmap s.chans fun i c =>
      if bit teams (i.val / 6) then { clearLatches c with setting := settingReset, vtt := 2048, pend := none, level := false, dwellMet := false, checking := false } else c }

/-- A chain as at reset, its counters kept (R289, R316). -/
def freshChain (c : Chain) : Chain :=
  { saturations := c.saturations, restarts := c.restarts, syncIgnored := c.syncIgnored, syncMissed := c.syncMissed
    cycleMerges := c.cycleMerges, cycleForced := c.cycleForced, freezes := c.freezes }

/-- The chains revoked: settings at reset, multipliers back in the pool, no output (R299, R357). -/
def dropChains (s : State) (chains : BitVec 8) : State :=
  { s with chains := vmap s.chains fun i c => if bit chains i.val then freshChain c else c }

/-- The stall's chains stop until a sync instant (R367, R521). -/
def stopChains (s : State) (chains : BitVec 8) : State :=
  { s with chains := vmap s.chains fun i c => if bit chains i.val then { c with stopped := true, producing := false } else c }

/-! ## The engine and playback stop -/

/-- The TRIG_OUT ball: the contributions of the capturing engines whose stall holds the permission (R166). -/
def refreshTrigOut (s : State) : State :=
  let out := allStalls.any fun n => capturing s n && s.stalls[n].grant.trigOut && (s.stalls[n].eng.level || s.stalls[n].eng.pulseEnd.isSome)
  { s with pins := { s.pins with trigOut := out } }

/-- The engine stops: its contribution to TRIG_OUT and a store on pending fall (R152, R166). -/
def stopEngine (s : State) (n : Stall) : State :=
  refreshTrigOut (modEng s n fun e => { e with running := false, level := false, pulseEnd := none, storePend := none, final := none })

/-- A playback ends; its terms are false from the next stride, and a slice still held is filled anew for the next start (R160, R341,
log entry 61). -/
def endPlayback (s : State) (n : Stall) : State :=
  if s.stalls[n].ref.play.isNone then s
  else
    let s := modEng (modRef s n fun r => { r with play := none }) n fun e =>
      { e with refs := e.refs.map fun f => setTerm f false s.tb.now 0 false }
    if holdsSlice s.stalls[n] then fillSlice s n else s

/-- A `reference_fault` (R344). -/
def refFault (s : State) (n : Stall) (cause block : Nat) (t : Time) : State :=
  sendRated s { code := 9, sub := cause, fn := n } ms [(n, event 9 n.val t (fld cause 24) (fld block 0) (timePay t).1 (timePay t).2)]

/-- The `reference` marker: 0 start, 1 end, 2 abort (R116). -/
def refMarker (s : State) (n : Stall) (what : Nat) (value : BitVec 16) (t : Time) : State :=
  marker s n 0xA t (BitVec.ofNat 64 (what * 2 ^ 32 + value.toNat))

/-- A running playback aborts with its marker, and its fault with the time of the start (R341, R344). -/
def abortPlayback (s : State) (n : Stall) (cause : Nat) : State :=
  match s.stalls[n].ref.play with
  | none => s
  | some p => endPlayback (refFault (refMarker s n 2 p.refValue s.tb.now) n cause 0 p.first) n

/-! ## The requests of a stride -/

/-- A missed trigger: log, counts and event (R201, R202). -/
def giveMissed (s : State) (n : Stall) (m : MissedEntry) : State :=
  let s := modStall s n fun x => { x with missedLog := (m :: x.missedLog).take 16, missedTotal := satAdd 32 x.missedTotal 1 }
  let s := modCap s n fun c => { c with seg := { c.seg with missed := satAdd 19 c.seg.missed 1 } }
  sendRated s { code := 0x0F, sub := 0, fn := n } ms
    [(n, event 0x0F n.val s.tb.now (fld s.stalls[n].missedTotal 0) (fld m.reason.toNat 14) (timePay m.time).1 (timePay m.time).2)]

/-- A trigger taken: its marker and its event, the event behind a `segment_closed` still owed (R116, R453, R456). -/
def giveTaken (s : State) (n : Stall) (o : OwedTrig) (e : CqEntry) : State :=
  let s := marker s n 0x5 o.at_ o.detail
  if s.stalls[n].held.any fun h => !h.closed then modCap s n fun c => { c with heldTrigger := c.heldTrigger ++ [e] } else sendEvent s n e

/-- What a request brings: missed, taken or masked (R194, R196, R200). -/
def giveTrigger (n : Stall) (s : State) (o : OwedTrig) : State :=
  match o.missed, o.event with
  | some m, _ => giveMissed s n m
  | none, some e => giveTaken s n o e
  | none, none => modStall s n fun x => { x with masked := satAdd 32 x.masked 1 }

/-- The end of a stride: no close in it has undone its requests (R198). -/
def giveTriggers (s : State) (n : Stall) : State :=
  match s.stalls[n].cap with
  | none => s
  | some c => if c.owed = [] then s else c.owed.foldl (giveTrigger n) (modCap s n fun c => { c with owed := [] })

/-- A close for a cause other than 0x01 is decided: the requests of its stride are none; those missed while a furlong completes for cause 0x01
stand (R198; log entry 291). -/
def dropOwed (c : Capture) : Capture :=
  if c.phase = .closing ∧ c.closeCause = some 1 then c
  else { c with owed := [], seg := { c.seg with trig := if c.owed.any fun o => o.event.isSome then none else c.seg.trig } }

/-! ## Closing a segment -/

/-- The records of a stall leave the event queue at its segment's close (log entry 42). -/
def takeQueued (s : State) (n : Stall) : State × List (List Rec) :=
  (modGroom s fun g => { g with evQueue := g.evQueue.filter fun e => e.stall != n },
    (s.groom.evQueue.filter fun e => e.stall == n).map fun e => e.recs)

/-- The chains of a stall. -/
def chainsOf (s : State) (n : Stall) : List (Fin 8) := (List.finRange 8).filter fun k => bit s.stalls[n].grant.chains k.val

/-- The analogue records of fewer than three samples that a close, or a side anchor, lets out (R132). -/
def shortRecs (s : State) (k : Fin 8) : List (List Rec) :=
  let c := s.chains[k]
  (if c.sideOut = [] then [] else [[analogueRec k.val c.sideOut]]) ++ (if c.sideDet = [] then [] else [[analogueRec (8 + k.val) c.sideDet]])

/-- The `clock_overrun` marker of a period that is over, or of the period that a close cuts short (R104, log entry 44). -/
def flushOverrun (s : State) (n : Stall) : State :=
  match s.stalls[n].cap with
  | none => s
  | some c =>
    if c.overruns = 0 then s
    else marker (modCap s n fun c => { c with overruns := 0 }) n 0xD c.overrunAt (BitVec.ofNat 64 (sat 32 c.overruns))

/-- Everything that a close still writes into the side stream: the queued event records and the short analogue records (R132, log
entry 42). -/
def sideRest (s : State) (n : Stall) : State × List (List Rec) :=
  let q := takeQueued s n
  let l := chainsOf s n
  (l.foldl (fun s k => modChain s k fun c => { c with sideOut := [], sideDet := [] }) q.1, q.2 ++ l.flatMap fun k => shortRecs s k)

/-- As many groups of records as fit in k records, and whether any was left. -/
def fitGroups : List (List Rec) → Nat → List Rec × Bool
  | [], _ => ([], false)
  | g :: l, k =>
    if g.length ≤ k then
      let r := fitGroups l (k - g.length)
      (g ++ r.1, r.2)
    else
      let r := fitGroups l k
      (r.1, true)

/-- The ring is not written cyclically: all free space under `stop` (R205). -/
def oneShot (c : Capture) : Bool := c.arm.region == 0 && !c.arm.wrap

/-- The time of the close anchor, N being the first stride after the segment's last (R123). -/
def closeTime (c : Capture) (n : Time) : Time :=
  match (c.segStrides.filter fun r => past r.first n).getLast? with
  | none => c.openAt
  | some r =>
    let t := match r.upto with
      | none => n
      | some u => if past u n then u else n
    if c.arm.gait = .walk then c.openAt + strides ((relStride c t).toNat / walkPeriod c * walkPeriod c) else t

/-- The arm is at its end with a reason (R458); an end already decided stands. -/
def markEnd (s : State) (n : Stall) (reason : Nat) : State :=
  modCap s n fun c => if c.ended.isSome then c else { c with ended := some (BitVec.ofNat 8 reason), doneAt := s.tb.now }

/-- The header is formed and placed, the segment is held, the engine and a playback stop, and the re-arm begins; after the last
segment of the arm the capture is at its end, with reason 1 when its fill closed it (R152, R197, R199, R203, R206, R217, R219, R341, R458).
`last` is C. -/
def holdSegment (s : State) (n : Stall) (c : Capture) (cause tail : Nat) (endT last : Time) : State :=
  let x := c.seg
  let hdr := formHeader s n c cause tail
  let occupied := 1 + x.ringBlocks + min x.written x.ring
  let p := polderSize s.stalls[n].grant
  let y := cutSegment s.stalls[n].grant { x with header := hdr, cause := BitVec.ofNat 6 cause, endTime := endT, occupied := occupied }
  let s := placeHeader s n x.uid x.start y.header
  let fin := if cause ≠ 1 ∧ s.stalls[n].eng.running ∧ s.stalls[n].eng.evalAt ≠ s.tb.now then some s.tb.now else none
  let s := modEng (endPlayback (stopEngine s n) n) n fun e => { e with final := fin }
  let s := modStall s n fun st => { st with
    held := st.held ++ [y]
    nextStart := if p = 0 then 0 else (x.start + occupied) % p }
  let s := modCap s n fun c => { c with
    phase := .rearm, seg := {}, closeCause := some (BitVec.ofNat 6 cause), lastStride := last, openAt := last + strides 18
    part := [], dense := [], eventsLost := false, segStrides := [] }
  if cause = 1 ∧ c.arm.segments ≠ 0 ∧ c.arm.segments ≤ c.segNo then markEnd s n 1 else s

/-- A typed segment closes before stride N: the records still queued, the close anchor and the fill, then the header (R123, R197,
R205, R221). -/
def closeTyped (s : State) (n : Stall) (cause : Nat) (stop : Time) : State :=
  let s := if stop = s.tb.now then walkEnd s n else s
  match s.stalls[n].cap with
  | none => s
  | some c0 =>
    let q := sideRest (flushOverrun s n) n
    let room := if oneShot c0 then 16 * (c0.seg.ring - c0.seg.written) - c0.part.length - 1 else 2 ^ 20
    let f := fitGroups q.2 room
    let endT := closeTime c0 stop
    let s := modCap (addRecs q.1 n f.1) n fun c => { c with eventsLost := c.eventsLost || f.2 }
    let s := fillPart (addRec s n (anchorRec 3 endT)) n
    match s.stalls[n].cap with
    | none => s
    | some c => holdSegment s n c cause 0 endT (stop - 256)

/-- A Gallop segment's close is decided: it stores on to the end of the furlong of the closing moment (R131, R152). -/
def closeDense (s : State) (n : Stall) (c : Capture) (cause : Nat) (moment : Time) : State :=
  let k := (relStride c moment).toNat / furlongStrides c + 1
  let fin := if cause ≠ 1 ∧ s.stalls[n].eng.running ∧ s.stalls[n].eng.evalAt ≠ s.tb.now then some s.tb.now else none
  let s := modEng (stopEngine s n) n fun e => { e with final := fin }
  modCap s n fun c => { c with
    phase := .closing, closeCause := some (BitVec.ofNat 6 cause), lastStride := c.openAt + strides (k * furlongStrides c) - 256 }

/-- The open segment closes for a cause other than 0x01: in a typed gait the current stride is not stored (R152, R430). -/
def closeNow (s : State) (n : Stall) (c : Capture) (cause : Nat) : State :=
  if c.arm.gait = .gallop then closeDense s n c cause s.tb.now else closeTyped s n cause s.tb.now

/-- The post-trigger fill has passed its last stride (R195). -/
def fillOver (s : State) (c : Capture) : Bool :=
  match c.seg.trig with
  | some t => c.phase == .running && later s.tb.now t.fillEnd
  | none => false

/-- The close after the post-trigger fill (R195). -/
def closeFill (s : State) (n : Stall) (c : Capture) : State :=
  match c.seg.trig with
  | none => s
  | some t => if c.arm.gait = .gallop then closeDense s n c 1 t.fillEnd else closeTyped s n 1 (t.fillEnd + 256)

/-- Side records that still fit behind the last furlong under `stop` with all free space, a marker with its detail or not at all (R115, R131,
R205). -/
def tailOf (c : Capture) : List Rec :=
  if oneShot c then c.sideQ.take (sideTake c.sideQ (16 * (c.seg.ring - c.seg.written))) else c.sideQ

/-- The closing furlong is complete (R131). -/
def furlongDone (c : Capture) : Bool :=
  c.phase == .closing && c.dense.isEmpty &&
  relStride c c.lastStride + 1 == ((c.denseIdx * denseStrides (storedTeams (popcount c.teams)) : Nat) : Int)

/-- The tail blocks and the header of a Gallop segment (R131, R205). -/
def closeFurlong (s : State) (n : Stall) : State :=
  match s.stalls[n].cap with
  | none => s
  | some c0 =>
    if !furlongDone c0 then s
    else
      let q := sideRest (giveTriggers s n) n
      let s := modCap q.1 n fun c => { c with sideQ := c.sideQ ++ q.2.flatten }
      match s.stalls[n].cap with
      | none => s
      | some c =>
        let l := tailOf c
        let tail := ceilDiv l.length 16
        let s := modCap s n fun c => { c with sideQ := [], eventsLost := c.eventsLost || decide (l.length < c.sideQ.length) }
        let s := placeBlocks s n (blocksOf l tail)
        match s.stalls[n].cap with
        | none => s
        | some c => holdSegment s n c (c.closeCause.getD 0).toNat tail (c.lastStride + 256) c.lastStride

/-! ## The end of an arm -/

/-- The capture is over: `capture_done`, the completion of `capture_stop`, the credits back (R213, R430, R453, R458). -/
def finishArm (s : State) (n : Stall) (c : Capture) (reason : BitVec 8) : State :=
  let total := s.stalls[n].segsClosed
  let s := if reason = 0 then s else sendEvent s n (event 3 n.val c.doneAt (fld reason.toNat 24 ||| fld (sat 21 total) 0) 0 0 0)
  let s := c.stops.foldl (fun s q => completeTag s q.fn q.tag .ok { p4 := flag q.closed 31 ||| fld q.num.toNat 0, p5 := fld total 0 }) s
  let s := stopEngine s n
  applyRetire (modStall s n fun x => { x with cap := none, st := if x.st = .resetting then .resetting else .idle }) n

/-- The capture ends once no segment is open or waits for its acknowledgements (R220, R453). -/
def tryFinish (s : State) (n : Stall) : State :=
  match s.stalls[n].cap with
  | none => s
  | some c =>
    match c.ended with
    | none => s
    | some r =>
      if c.phase = .running ∨ c.phase = .closing ∨ s.stalls[n].held.any fun x => !x.closed then s
      else finishArm s n c r

/-- Which of two causes decided in one stride prevails (R523). -/
def causeRank (cause : Nat) : Nat := if cause = 5 then 3 else if cause = 4 then 2 else if cause = 6 then 1 else 0

/-- A close decided in the same stride gives way to a cause of higher rank (R523). -/
def raiseCause (s : State) (n : Stall) (c : Capture) (cause reason : Nat) : State :=
  let old := (c.closeCause.getD 0).toNat
  if c.ended.isNone ∨ c.doneAt ≠ s.tb.now ∨ causeRank old = 0 ∨ causeRank cause ≤ causeRank old then s
  else
    let s := modCap s n fun c => { c with closeCause := some (BitVec.ofNat 6 cause), ended := some (BitVec.ofNat 8 reason) }
    match s.stalls[n].held.getLast? with
    | none => s
    | some x =>
      if c.phase ≠ .rearm then s
      else
        let s := modStall s n fun y => { y with held := y.held.map fun h =>
          if h.uid = x.uid then { h with cause := BitVec.ofNat 6 cause, header := setCause h.header cause } else h }
        syncHeaders s

/-- The capture of a stall ends for a cause: an open segment closes with it, a Gallop furlong that is closing keeps its cause, a pending
arm or re-arm opens nothing more, and the stride's requests are none. No reason: a stall reset, which sends no `capture_done` (R152, R198,
R206, R367, R430, R458, R523). -/
def closeCapture (s : State) (n : Stall) (cause : Nat) (reason : Option Nat) : State :=
  let r := reason.getD 0
  match s.stalls[n].cap with
  | none => s
  | some c =>
    let s := modCap (raiseCause s n c cause r) n dropOwed
    let s := if c.phase ≠ .running then s else if fillOver s c then closeFill s n c else closeNow s n c cause
    tryFinish (markEnd s n r) n

/-- A fact of the open segment that its header reports (R137). -/
def noteOpen (s : State) (n : Stall) (f : Capture → Capture) : State :=
  modCap s n fun c => if c.phase = .running ∨ c.phase = .closing then f c else c

/-- `drift` of the open segments of the stalls that a `calibration_drift` concerns (R137). -/
def noteDrift (s : State) (l : List Stall) : State := l.foldl (fun s n => noteOpen s n fun c => { c with drift := true }) s

/-- The point at which a segment of all free space closes under `stop` (R205, log entry 43). -/
def ringFull (c : Capture) : Bool :=
  oneShot c && c.phase == .running &&
  (if c.arm.gait = .gallop then
    c.denseIdx != 0 && c.dense.isEmpty && c.seg.written % 64 == 0 && c.seg.ring ≤ c.seg.written + 64
  else if c.seg.ring = 1 then 14 ≤ c.part.length || c.seg.written != 0
  else c.seg.ring ≤ c.seg.written + 1)

/-- A segment that has come to that point closes with cause 0x03, and the capture ends (R198, R205, R458). -/
def checkFull (s : State) (n : Stall) : State :=
  match s.stalls[n].cap with
  | none => s
  | some c =>
    if !ringFull c then s
    else
      let s := modCap s n dropOwed
      let s := if c.arm.gait = .gallop then
          closeDense s n c 3 (c.openAt + strides (c.denseIdx * denseStrides (storedTeams (popcount c.teams))) - 256)
        else closeTyped s n 3 s.tb.now
      tryFinish (markEnd s n 2) n

/-- Stalls with a capture armed: armed or capturing (R79, R281). -/
def armedStalls (s : State) : List Stall := allStalls.filter fun n => armedOrCapturing s n

/-- Closes every capture. -/
def closeAll (s : State) (cause reason : Nat) : State :=
  (armedStalls s).foldl (fun s n => closeCapture s n cause (some reason)) s

/-- The close of shed stage 3 and of the thermal capture close: the `shed` marker of the stage, then the close (R116, R237). -/
def shedClose (s : State) (stage cause reason : Nat) : State :=
  closeAll ((armedStalls s).foldl (fun s n => marker s n 8 s.tb.now (BitVec.ofNat 64 (stage - 1))) s) cause reason

/-! ## The reset sequence -/

/-- Decompressors in use. -/
def decBusy (s : State) (d : Fin 2) : Bool := s.jobs.loads.any fun j => j.dec == some d

/-- Loads take free decompressors in the order in which they were taken, for their whole duration (R331). -/
def giveDecs (s : State) : State :=
  (List.finRange 2).foldl (fun s d =>
    if decBusy s d then s
    else match s.jobs.loads.find? fun j => j.dec.isNone with
      | none => s
      | some j => { s with jobs := { s.jobs with loads := s.jobs.loads.map fun x => if x == j then { x with dec := some d } else x } }) s

/-- What the Groom and the rings hold for a stall is dropped: the command in hand, course loads at their read, copies of events not yet
formed, and the answers to its host reads; a firmware image and a blob are read on (R366, R367). -/
def dropGroom (s : State) (n : Stall) : State :=
  modGroom s fun g => { g with
    taken := match g.taken with
      | some t => if t.fn == n then none else some t
      | none => none
    courseQ := g.courseQ.filter fun w => w.fn != n
    rates := g.rates.map fun r => { r with newest := r.newest.filter fun x => x.1 != n }
    reads := g.reads.map fun r => if r.stall == n && r.purpose != .firmware && r.purpose != .blob then { r with dead := true } else r }

/-- The uploads of a stall whose reset starts complete no more and write nothing more (R326, R367, R369). -/
def endUploads (s : State) (n : Stall) : State :=
  let drop (u : UploadJob) : UploadJob := if u.stall == n then { u with ended := true, wait := [], fin := false } else u
  stopUploads { s with jobs := { s.jobs with uploads := s.jobs.uploads.map drop } } (fun u => u.stall == n) .aborted

/-- The work of stall 0 alone: `calibrate`, a self-test of the flash and a power transition stop; an update and a lifecycle transition run on
and complete no more (R366, R369, R546). -/
def endDeviceWork (s : State) : State := { s with
  jobs := { s.jobs with cal := [] }
  power := { s.power with target := s.power.target.filter fun p => !p.cmd }
  flash := { s.flash with
    ops := s.flash.ops.filter fun o => o.work != .flash
    upd := s.flash.upd.map fun u => { u with ended := true }
    life := s.flash.life.map fun j => { j with ended := true } } }

/-- A segment of a stall whose close completes in the reset sequence: the open one, a closing one, or one not yet acknowledged (R368). -/
def closesInReset (s : State) (n : Stall) : Bool := segmentOpen s n || s.stalls[n].held.any fun x => !x.closed

/-- Steps 1 to 6 of the reset sequence of a created stall not yet resetting; step 8 is STALL_RESET_RELEASE (R365 to R369). -/
def startReset (s : State) (n : Stall) (cause : Nat) : State :=
  if s.stalls[n].st = .absent ∨ s.stalls[n].st = .resetting then s
  else
    let jobs := (s.jobs.uploads.filter fun u => u.stall == n).length + (s.jobs.loads.filter fun l => l.stall == n).length
    let seq : ResetSeq := { cause := BitVec.ofNat 8 cause, when := s.tb.now, oldGen := s.stalls[n].gen, jobs := jobs, segs := (closesInReset s n).toNat }
    let s := dropLoadWrites s n
    let s := modStall s n fun x => { x with
      st := .resetting, store := [], outst := [], reset := some seq
      cap := x.cap.map fun c => { c with stops := [], flush := [] }
      ref := { x.ref with timed := none, queued := none, play := none, loading := false } }
    let s := stopEngine (stopChains (closeCapture (dropGroom s n) n 0x07 none) s.stalls[n].grant.chains) n
    let s := { s with jobs := { s.jobs with
      loads := s.jobs.loads.filter fun l => l.stall != n
      tests := s.jobs.tests.filter fun t => t.stall != n
      waitArms := s.jobs.waitArms.filter fun t => t.fn != n } }
    let s := giveDecs (endUploads s n)
    if n = 0 then endDeviceWork s else s

/-- VF Enable is cleared or NumVFs lowered: the windows of the functions gone take their reset values, and the stalls concerned
start their reset sequence, cause 4 (R12, R365). -/
def lowerVFs (s : State) (n : Nat) : State :=
  let s := { s with
    fns := vmap s.fns fun i r => if n < i.val then {} else r
    pcie := { s.pcie with numVFs := min n s.pcie.numVFs, vfEnable := n ≠ 0 && s.pcie.vfEnable } }
  (allStalls.filter fun k => n < k.val).foldl (fun s k => startReset s k 4) s

/-- A transition into Returned resets stalls 1 to 63 and holds NumVFs at 0, once the completion of its `lifecycle` no longer waits in stall
0's store (R365, R447, R548). -/
def startReturned (s : State) : State :=
  match s.flash.returned with
  | none => s
  | some tag =>
    if s.stalls[(0 : Fin 64)].store.any fun e => e.kind == .completion && e.code == tag then s
    else
      let s := { s with flash := { s.flash with returned := none } }
      lowerVFs ((allStalls.drop 1).foldl (fun s n => startReset s n 5) s) 0

/-- The generation after one more increment; 0 is never reached again (R350). -/
def nextGen (g : BitVec 16) : BitVec 16 := if g = 0xFFFF then 1 else g + 1

/-- A created stall: empty context and grant, the limits of R349, the next generation; its queue of completions stands (R349). -/
def freshStall (x : StallState) (st : StallSt) (outstanding rate : Nat) : StallState :=
  { ({} : StallState) with
    st := st, gen := nextGen x.gen, grant := { outstanding := outstanding, rate := rate }
    outst := x.outst, store := x.store, fbPeak := 0 }

/-- What the Groom runs in a safe halt that comes before step 12: the ROM monitor until step 5 has passed. Stall 0 is created, and the
link's speed and width, and what names an image under the ROM monitor are open (R376, R532, R542, R570; log entries 8 and 70). -/
def haltBoot (s : State) : State :=
  if s.boot.phase ≠ .booting then s
  else
    let v := drawFree s
    let h := drawBytes v.2 48
    let s := h.2
    let s := if s.boot.step ≤ 5 then { s with boot := { s.boot with
        romMonitor := true, firmware := 0, subId := 0xFFFF, secVer := bits v.1 5 0, imageHash := h.1 } } else s
    let s := if s.boot.step < 12 then { s with pcie := { s.pcie with
        cfgReady := true, linkUp := true, linkSpeed := 1 + bits v.1 19 12 % 5, linkWidth := 2 ^ (bits v.1 27 20 % 4) } } else s
    if s.stalls[(0 : Fin 64)].st = .absent then modStall s 0 fun x => freshStall x .idle 256 65535 else s

/-- The safe halt: open segments close with cause 0x02, the physical function alone is left, no chain and no Quera port runs, the balls are as
R570 has them, and a journal entry of kind 6 is written (R376, R404, R536, R542, R570). -/
def safeHalt (s : State) (step cause : Nat) : State :=
  let s := lowerVFs (closeAll (haltBoot s) 0x02 3) 0
  let s := stopChains s 0xFF
  let s := { s with boot := { s.boot with phase := .halted },
                    pins := { s.pins with trigOut := false, thermTrip := false, ddrReset := false }
                    ports := s.ports.map fun x => { x with pwr := false }
                    quera := { s.quera with ports := s.quera.ports.map fun p => { p with up := false } }
                    links := s.links.map fun x => { x with syncPin := true } }
  queueJournal s 6 (fld step 0 ||| fld cause 8) .none

end Sys2Proof.Machine
end

