-- ==== Sys2Proof/Machine/Window.lean ====
section
/-!
DEFINITION. The register window with its parity, lock and Fault; the scratch window; MSI-X; rate-limit intervals and progress
entries.
-/

namespace Sys2Proof.Machine

/-- The host's memory requests reach a function: it exists, is not in D3hot, and the link answers (R376, R377). -/
def reachable (s : State) (f : Fn) : Bool := s.pcie.linkUp && s.pcie.cfgReady && fnExists s f && !s.fns[f].d3

/-- The alias of an offset within the 128 registers (R384). -/
def alias_ (off : BitVec 12) : Nat := off.toNat % 0x200 / 4 * 4

/-- Logs a register access with its reason (R391). -/
def logAccess (s : State) (f : Fn) (reason : Nat) (off : BitVec 12) : State :=
  modFn s f fun r => { r with accessLog := flag true 31 ||| fld reason 28 ||| fld off.toNat 0 }

/-- Sets a bit of `ERR.STATUS`. -/
def setErr (s : State) (f : Fn) (k : Nat) : State := modFn s f fun r => { r with errStatus := setBit r.errStatus k true }

/-- A 32-bit error counter up by one, saturating (R391). -/
def count32 (c : BitVec 32) : BitVec 32 := BitVec.ofNat 32 (satAdd 32 c.toNat 1)

/-- A write with a clear byte enable (R385). -/
def dropWrite (s : State) (f : Fn) (off : BitVec 12) : State :=
  logAccess (modFn (setErr s f 6) f fun r => { r with droppedCount := count32 r.droppedCount }) f 1 off

/-- A write with odd parity: the function is in Fault (R387, R388). -/
def parityFault (s : State) (f : Fn) (off : BitVec 12) (val : Dword) : State :=
  let entered := !s.fns[f].fault
  let s := modFn (setErr s f 5) f fun r => { r with fault := true, parityCount := count32 r.parityCount }
  let s := logAccess s f 3 off
  let s := if entered then sendMsix s f (irqVector s.fns[f].cqIrq 28) else s
  let e := event 0x12 f.val s.tb.now (fld f.val 24 ||| fld off.toNat 0) val s.fns[f].parityCount 0
  sendRated s { code := 0x12, sub := 0, fn := f } ms ((withPf [f]).map fun g => (g, e))

/-- A write to a register that holds locked fields (R390). -/
def lockedWrite (s : State) (f : Fn) (off : BitVec 12) : State :=
  logAccess (modFn (setErr s f 7) f fun r => { r with lockedCount := count32 r.lockedCount }) f 2 off

/-- A ring enable refused, or ring geometry written while enabled (R395). -/
def configError (s : State) (f : Fn) (off : BitVec 12) : State := logAccess (setErr s f 3) f 5 off

/-- A doorbell index out of range (R393, R398). -/
def doorbellRange (s : State) (f : Fn) (off : BitVec 12) : State := logAccess (setErr s f 4) f 4 off

/-- A ring size code that an enable accepts (R395). -/
def sizeOk (size : Dword) : Bool := 4 ≤ bits size 3 0 && bits size 3 0 ≤ 12

/-- `sq_enable` takes a value: on a rise the size is checked and head and tail become 0 (R395). -/
def setSqEnable (s : State) (f : Fn) (on : Bool) (off : BitVec 12) : State :=
  let r := s.fns[f]
  if on && !r.sqEnable then
    if sizeOk r.sqSize then modFn s f fun r => { r with sqEnable := true, sqHead := 0, sqTail := 0, sqStopped := false }
    else configError s f off
  else modFn s f fun r => { r with sqEnable := on }

/-- `cq_enable` takes a value: on a rise the size is checked, the indices become 0 and the phase 1, and the store is written
(R389, R398). -/
def setCqEnable (s : State) (f : Fn) (on : Bool) (off : BitVec 12) : State :=
  let r := s.fns[f]
  if on && !r.cqEnable then
    if sizeOk r.cqSize then drain (modFn s f fun r => { r with cqEnable := true, cqIndex := 0, cqHead := 0, cqPhase := true }) f
    else configError s f off
  else modFn s f fun r => { r with cqEnable := on }

/-- A write of `WIN.CONTROL` with good parity to an unlocked function (R389, R390, R395, R398). -/
def writeControl (s : State) (f : Fn) (val : Dword) (off : BitVec 12) : State :=
  let s := if s.fns[f].fault ∧ bits val 1 0 = 0 then modFn s f fun r => { r with fault := false } else s
  let s := modFn s f fun r => { r with winPar := bit val 30, lock := r.lock || bit val 31 }
  setCqEnable (setSqEnable s f (bit val 0) off) f (bit val 1) off

/-- A write of `SQ.TAIL` with good parity (R388, R393). -/
def writeTail (s : State) (f : Fn) (val : Dword) (off : BitVec 12) : State :=
  let r := s.fns[f]
  if r.fault || !r.sqEnable then s
  else if 2 ^ bits r.sqSize 3 0 ≤ bits val 11 0 then doorbellRange s f off
  else modFn s f fun r => { r with sqTail := val &&& 0x80000FFF }

/-- A write of `CQ.HEAD` with good parity: the slots released are filled from the store (R388, R398). -/
def writeHead (s : State) (f : Fn) (val : Dword) (off : BitVec 12) : State :=
  let r := s.fns[f]
  if r.fault then s
  else if 2 ^ bits r.cqSize 3 0 ≤ bits val 11 0 then doorbellRange s f off
  else drain (modFn s f fun r => { r with cqHead := val &&& 0x80000FFF }) f

/-- The registers that hold lk fields (R391). -/
def hasLocked (o : Nat) : Bool := o ∈ [0x08, 0x10, 0x14, 0x18, 0x20, 0x24, 0x28, 0x3C]

/-- The writable registers (R386). -/
def writable (o : Nat) : Bool := hasLocked o || o ∈ [0x1C, 0x2C, 0x40]

/-- The geometry registers of the submission ring and of the completion ring (R395, R398). -/
def geometryLocked (r : FnState) (o : Nat) : Bool :=
  (r.sqEnable && o ∈ [0x10, 0x14, 0x18]) || (r.cqEnable && o ∈ [0x20, 0x24, 0x28])

/-- A write with all byte enables and good parity, by the register's access codes (R391). -/
def applyWrite (s : State) (f : Fn) (o : Nat) (val : Dword) (off : BitVec 12) : State :=
  match o with
  | 0x08 => writeControl s f val off
  | 0x10 => modFn s f fun r => { r with sqBaseLo := val &&& 0xFFFFF001 }
  | 0x14 => modFn s f fun r => { r with sqBaseHi := val }
  | 0x18 => modFn s f fun r => { r with sqSize := val &&& 0x8000000F }
  | 0x1C => writeTail s f val off
  | 0x20 => modFn s f fun r => { r with cqBaseLo := val &&& 0xFFFFF001 }
  | 0x24 => modFn s f fun r => { r with cqBaseHi := val }
  | 0x28 => modFn s f fun r => { r with cqSize := val &&& 0x8000000F }
  | 0x2C => writeHead s f val off
  | 0x3C => modFn s f fun r => { r with cqIrq := val &&& 0xF0FFFF77 }
  | 0x40 => modFn s f fun r => { r with errStatus := r.errStatus &&& ~~~ (BitVec.ofNat 9 val.toNat) }
  | _ => s

/-- A dword write to the register window (R384 to R390). -/
def writeRegister (s : State) (f : Fn) (off : BitVec 12) (val : Dword) (be : BitVec 4) : State :=
  let o := alias_ off
  if !reachable s f then s
  else if be ≠ 0xF then dropWrite s f off
  else if !writable o then s
  else if !evenParity val then parityFault s f off val
  else if s.fns[f].lock && hasLocked o then lockedWrite s f off
  else if geometryLocked s.fns[f] o then configError s f off
  else applyWrite s f o val off

/-- SQ_TAIL_DOORBELL (R393). -/
def execSqTailDoorbell (f : Fn) (off : BitVec 12) (val : Dword) (be : BitVec 4) (s : State) : Host.Outcome State Fault Refusal :=
  .next (if alias_ off = 0x1C then writeRegister s f off val be else s)

/-- An entry as it reads with an uncorrectable error: a completion becomes `data_error`, anything else is dropped (R404). -/
def errorEntry (e : CqEntry) : List CqEntry :=
  if e.kind = .completion then [{ e with status := statusCode .dataError, p4 := 0, p5 := 0, p6 := 0, p7 := 0 }] else []

/-- The entries of a store, oldest first, as they read with the errors given (R404). -/
def entriesRead : List CqEntry → List Ecc → List CqEntry
  | e :: es, c :: cs => (if c = .uncorrectable then errorEntry e else [e]) ++ entriesRead es cs
  | es, _ => es

/-- The entries of a store as errors of the queues bank leave them when the ring takes them: single-bit errors and dropped entries counted
(R404, log entry 242). -/
def queueEcc (s : State) (f : Fn) (ecc : List Ecc) : State :=
  if ecc = [] then s
  else
    let old := s.stalls[f].store
    let new := entriesRead old ecc
    let s := modStall s f fun x => { x with store := new, eventsDropped := satAdd 32 x.eventsDropped (old.length - new.length) }
    modGroom s fun g => { g with
      sramCorrected := vmod g.sramCorrected 6 fun n => satAdd 32 n ((ecc.take old.length).filter fun c => c == .corrected).length }

/-- CQ_HEAD_DOORBELL: `ecc` is what the waiting entries that the ring takes read as (R398, R404). -/
def execCqHeadDoorbell (f : Fn) (off : BitVec 12) (val : Dword) (be : BitVec 4) (ecc : List Ecc) (s : State) :
    Host.Outcome State Fault Refusal :=
  .next (if alias_ off = 0x2C then writeRegister (if reachable s f then queueEcc s f ecc else s) f off val be else s)

/-- SQ_ENABLE (R395). -/
def execSqEnable (f : Fn) (off : BitVec 12) (val : Dword) (be : BitVec 4) (s : State) : Host.Outcome State Fault Refusal :=
  .next (if alias_ off = 0x08 ∧ bit val 0 ∧ ¬ s.fns[f].sqEnable then writeRegister s f off val be else s)

/-- SQ_DISABLE (R395). -/
def execSqDisable (f : Fn) (off : BitVec 12) (val : Dword) (be : BitVec 4) (s : State) : Host.Outcome State Fault Refusal :=
  .next (if alias_ off = 0x08 ∧ ¬ bit val 0 ∧ s.fns[f].sqEnable then writeRegister s f off val be else s)

/-- CQ_ENABLE (R395, R398, R404). -/
def execCqEnable (f : Fn) (off : BitVec 12) (val : Dword) (be : RingBytes) (s : State) : Host.Outcome State Fault Refusal :=
  .next (
    if alias_ off = 0x08 ∧ bit val 1 ∧ ¬ s.fns[f].cqEnable then
      writeRegister (if reachable s f then queueEcc s f be.ecc else s) f off val be.be
    else s)

/-- CQ_DISABLE (R398). -/
def execCqDisable (f : Fn) (off : BitVec 12) (val : Dword) (be : BitVec 4) (s : State) : Host.Outcome State Fault Refusal :=
  .next (if alias_ off = 0x08 ∧ ¬ bit val 1 ∧ s.fns[f].cqEnable then writeRegister s f off val be else s)

/-- WIN_CONTROL_LOCK (R390). -/
def execWinControlLock (f : Fn) (off : BitVec 12) (val : Dword) (be : BitVec 4) (s : State) : Host.Outcome State Fault Refusal :=
  .next (if alias_ off = 0x08 ∧ bit val 31 then writeRegister s f off val be else s)

/-- FAULT_LEAVE (R389). -/
def execFaultLeave (f : Fn) (off : BitVec 12) (val : Dword) (be : BitVec 4) (s : State) : Host.Outcome State Fault Refusal :=
  .next (if alias_ off = 0x08 ∧ bits val 1 0 = 0 ∧ s.fns[f].fault then writeRegister s f off val be else s)

/-- ERR_STATUS_CLEAR (R391). -/
def execErrStatusClear (f : Fn) (off : BitVec 12) (val : Dword) (be : BitVec 4) (s : State) : Host.Outcome State Fault Refusal :=
  .next (if alias_ off = 0x40 then writeRegister s f off val be else s)

/-- REGISTER_WRITE (R387). -/
def execRegisterWrite (f : Fn) (off : BitVec 12) (val : Dword) (be : BitVec 4) (s : State) : Host.Outcome State Fault Refusal :=
  .next (writeRegister s f off val be)

/-! ## Scratch window -/

/-- The view of a scratch offset (R401). -/
def viewOf (off : BitVec 16) : Nat := bits off 15 14

/-- The address in `scratch` of byte i of the word at an offset. -/
def scratchAddr (f : Fn) (off : BitVec 16) (i : Nat) : Nat := 16384 * f.val + bits off 13 3 * 8 + i

/-- A host write that meets a port A write: discarded and reported (R405). -/
def scratchCollision (s : State) (f : Fn) (off : BitVec 16) : State :=
  let s := modFn (setErr s f 0) f fun r => { r with collisionCount := count32 r.collisionCount }
  sendRated s { code := 0x13, sub := 0, fn := f } ms
    [(f, event 0x13 f.val s.tb.now (fld (bits off 13 3) 0) s.fns[f].collisionCount 0 0)]

/-- One word of a host write: each enabled byte takes the view's function of content and data (R401, R402). -/
def scratchWord (s : State) (f : Fn) (off : BitVec 16) (data : BitVec 64) (be : BitVec 8) (g : Byte → Byte → Byte) : State :=
  { s with scratch := (List.range 8).foldl (fun m i =>
      if bit be i then memWrite m (scratchAddr f off i) (g (memRead m (scratchAddr f off i)) (BitVec.ofNat 8 (data.toNat / 2 ^ (8 * i))))
      else m) s.scratch }

/-- A word of the scratchpad as port B reads it: an uncorrectable error reads as all ones and sets `ERR.STATUS.sram_ecc` (R404). -/
def portBError (s : State) (f : Fn) (ecc : Ecc) : State :=
  let s := noteEcc s 3 ecc
  if ecc = .uncorrectable then setErr s f 8 else s

/-- The byte that port B reads (R404). -/
def portBByte (ecc : Ecc) (b : Byte) : Byte := if ecc = .uncorrectable then 0xFF else b

/-- A write of one word through a view (R401, R402, R405); a view that reads the word first reads it through port B (R404). -/
def scratchWrite (s : State) (f : Fn) (off : BitVec 16) (data : BitVec 64) (be : BitVec 8) (collide : Bool)
    (g : Byte → Byte → Byte) : State :=
  if !reachable s f then s else if collide then scratchCollision s f off else scratchWord s f off data be g

/-- SCRATCH_WRITE (R401). -/
def execScratchWrite (f : Fn) (off : BitVec 16) (data : BitVec 64) (be : BitVec 8) (collide : Bool) (s : State) :
    Host.Outcome State Fault Refusal :=
  .next (if viewOf off = 0 ∨ viewOf off = 3 then scratchWrite s f off data be collide fun _ d => d else s)

/-- SCRATCH_BIT_SET (R401, R404, log entry 243). -/
def execScratchBitSet (f : Fn) (off : BitVec 16) (data : BitVec 64) (be : BitVec 8) (port : PortB) (s : State) :
    Host.Outcome State Fault Refusal :=
  .next (
    if viewOf off = 1 then
      scratchWrite (if reachable s f && !port.collide then portBError s f port.ecc else s) f off data be port.collide
        fun c d => portBByte port.ecc c ||| d
    else s)

/-- SCRATCH_BIT_CLEAR (R401, R404, log entry 243). -/
def execScratchBitClear (f : Fn) (off : BitVec 16) (data : BitVec 64) (be : BitVec 8) (port : PortB) (s : State) :
    Host.Outcome State Fault Refusal :=
  .next (
    if viewOf off = 2 then
      scratchWrite (if reachable s f && !port.collide then portBError s f port.ecc else s) f off data be port.collide
        fun c d => portBByte port.ecc c &&& ~~~ d
    else s)

/-- A scratchpad byte as any view shows it (R401). -/
def scratchRead (s : State) (f : Fn) (off : BitVec 16) : Byte := memRead s.scratch (16384 * f.val + bits off 13 0)

/-- A host read of a scratchpad byte through port B: what it returns, and what an error leaves; a function that does not answer returns
nothing (R377, R401, R404). -/
def scratchWindowRead (s : State) (f : Fn) (off : BitVec 16) (ecc : Ecc) : Option Byte × State :=
  if reachable s f then (some (portBByte ecc (scratchRead s f off)), portBError s f ecc) else (none, s)

/-! ## MSI-X, rate limits, progress -/

/-- A memory BAR: its number, its size in bytes, and the highest address bit it decodes (R379). -/
structure Bar where
  number : Nat
  size : Nat
  top : Nat
  deriving DecidableEq, Repr

/-- BAR0 with BAR1: the register window (R379, R384). -/
def bar0 : Bar := { number := 0, size := 4096, top := 8 }

/-- BAR2 with BAR3: the scratch window (R379, R401). -/
def bar2 : Bar := { number := 2, size := 65536, top := 15 }

/-- BAR4 with BAR5: the MSI-X table and the Pending Bit Array (R379). -/
def bar4 : Bar := { number := 4, size := 8192, top := 12 }

/-- What a BAR of a function takes up of the address space: a VF's at least one system page (R379). -/
def barExtent (s : State) (f : Fn) (b : Bar) : Nat := if f = 0 then b.size else max b.size (4096 * 2 ^ s.pcie.page.val)

/-- The offset at which the register window and the scratch window see an address of their BAR: its decoded bits, so what lies beyond the size
aliases it. The offsets of the rows are given so (R379, R384). -/
def barOffset (b : Bar) (addr : Nat) : Nat := addr % 2 ^ (b.top + 1)

/-- Byte k of BAR4 as the host reads it: the table of eight entries of 16 bytes, the Pending Bit Array at 0x1000, 0 beyond them (R379,
R382). -/
def bar4Byte (s : State) (f : Fn) (k : Nat) : Byte :=
  let r := s.fns[f]
  if h : k < 128 then
    let v : Fin 8 := ⟨k / 16, by omega⟩
    (leBytes r.msixAddr[v] 8 ++ leBytes r.msixData[v] 4 ++ [BitVec.ofNat 8 (bit r.msixMask v.val).toNat, 0, 0, 0]).getD (k % 16) 0
  else if k = 0x1000 then r.msixPending
  else 0

/-- An address of BAR4 is the function's: within the extent its BAR takes up (R379). -/
def inBar4 (s : State) (f : Fn) (off : BitVec 32) : Bool := reachable s f && decide (off.toNat < barExtent s f bar4)

/-- What a host read of a dword of BAR4 returns; beyond 8 KiB a larger system page reads 0 (R377, R379). -/
def bar4Read (s : State) (f : Fn) (off : BitVec 32) : Option Dword :=
  if inBar4 s f off then some (BitVec.ofNat 32 (leNat ((List.range 4).map fun k => bar4Byte s f (off.toNat / 4 * 4 + k)))) else none

/-- The dword of BAR4 at an offset after a write with byte enables. -/
def bar4Merge (s : State) (f : Fn) (k : Nat) (val : Dword) (be : BitVec 4) : Nat :=
  leNat ((List.range 4).map fun i => if bit be i then BitVec.ofNat 8 (val.toNat / 2 ^ (8 * i)) else bar4Byte s f (k + i))

/-- A write of a dword of the MSI-X table; beyond the table BAR4 ignores writes (R379). -/
def bar4Write (s : State) (f : Fn) (off : BitVec 32) (val : Dword) (be : BitVec 4) : State :=
  let k := off.toNat / 4 * 4
  if h : k < 128 then
    let v : Fin 8 := ⟨k / 16, by omega⟩
    let w := bar4Merge s f k val be
    modFn s f fun r =>
      match k % 16 with
      | 0 => { r with msixAddr := r.msixAddr.set v (BitVec.ofNat 64 (r.msixAddr[v].toNat / 2 ^ 32 * 2 ^ 32 + w)) }
      | 4 => { r with msixAddr := r.msixAddr.set v (BitVec.ofNat 64 (r.msixAddr[v].toNat % 2 ^ 32 + w * 2 ^ 32)) }
      | 8 => { r with msixData := r.msixData.set v (BitVec.ofNat 32 w) }
      | _ => { r with msixMask := setBit r.msixMask v.val (w % 2 == 1) }
  else s

/-- The pending messages of the vectors that are not masked go out, vector by vector (R382). -/
def sendPending (s : State) (f : Fn) : State :=
  (List.finRange 8).foldl (fun s v =>
    let r := s.fns[f]
    if r.msixEnable && !r.msixFnMask && !bit r.msixMask v.val && bit r.msixPending v.val then
      sendMsix (modFn s f fun r => { r with msixPending := setBit r.msixPending v.val false }) f v
    else s) s

/-- What the host writes to MSI-X Enable and Function Mask in the capability; none leaves a bit as it is (R382). -/
def msixControl (s : State) (f : Fn) (enable fnMask : Option Bool) : State :=
  if s.pcie.linkUp && s.pcie.cfgReady && fnExists s f then
    modFn s f fun r => { r with msixEnable := enable.getD r.msixEnable, msixFnMask := fnMask.getD r.msixFnMask }
  else s

/-- MSIX_VECTOR_UNMASK: the host's control of the vectors, set or cleared: a write of the table through BAR4, which without byte enables
changes nothing, and of the capability's control; every message that fell due while its vector was masked is sent
once nothing masks it (R379, R382). -/
def execMsixVectorUnmask (f : Fn) (off : BitVec 32) (val : Dword) (be : BitVec 4) (enable fnMask : Option Bool) (s : State) : Host.Outcome State Fault Refusal :=
  .next (sendPending (msixControl (if inBar4 s f off && be != 0 then bar4Write s f off val be else s) f enable fnMask) f)

/-- MSIX_HOLDOFF_EXPIRY: `holdoff` microseconds after the oldest counted entry of the source (R383). -/
def execMsixHoldoffExpiry (f : Fn) (event : Bool) (s : State) : Host.Outcome State Fault Refusal :=
  let r := s.fns[f]
  let n := if event then r.cntE else r.cntC
  let old := if event then r.oldE else r.oldC
  .next (
    if n ≠ 0 ∧ bits r.cqIrq 23 16 ≠ 0 ∧ passed s.tb.now old (1000 * bits r.cqIrq 23 16) then
      sendMsix (modFn s f fun r => if event then { r with cntE := 0 } else { r with cntC := 0 }) f
        (irqVector r.cqIrq (if event then 4 else 0))
    else s)

/-- EVENT_RATE_INTERVAL_END: the merged event is formed and starts a new interval; with no happening merged the interval ends
(R454). -/
def execEventRateIntervalEnd (key : RateKey) (s : State) : Host.Outcome State Fault Refusal :=
  .next (
    match s.groom.rates.find? fun r => r.key == key with
    | none => s
    | some r =>
      if !(past r.since s.tb.now || r.since == s.tb.now) || (s.tb.now - r.since).toNat < r.interval.toNat then s
      else if r.count = 0 then modGroom s fun g => { g with rates := g.rates.filter fun r => r.key != key }
      else
        let s := modGroom s fun g => { g with rates := g.rates.map fun r =>
          if r.key == key then { r with since := s.tb.now, count := 0, newest := [] } else r }
        sendEvents s (r.newest.map fun x => (x.1, withCount x.2 r.count)))

/-- The job of an outstanding command runs: it was handed off and its completion has not been formed (R413). -/
def jobRuns (s : State) (f : Fn) (o : Outst) : Bool :=
  o.work != .none && !s.stalls[f].store.any fun e => e.kind == .completion && e.code == o.tag

/-- The units done of a job: those of `firmware_update` and of `selftest` stand where their work has come to (R413). -/
def doneNow (o : Outst) (done : Nat) : Nat :=
  if o.work = .update ∨ o.work = .test ∨ o.work = .flash then max o.done (min done o.total) else o.done

/-- PROGRESS_ENTRY_DUE: at most one per command per 1 ms, the first when the job has run 1 ms; `job.done` is where the work of a flash or
tile job has come to (R413). -/
def execProgressEntryDue (f : Fn) (job : JobAt) (s : State) : Host.Outcome State Fault Refusal :=
  .next (
    match findOutst s f job.tag with
    | none => s
    | some o =>
      if o.progress ∧ jobRuns s f o ∧ passed s.tb.now o.lastProg ms then
        let d := doneNow o job.done
        pushEntry (modOutst s f job.tag fun o => { o with lastProg := s.tb.now, done := d }) f {
          kind := .progress, status := 0, code := job.tag, stall := BitVec.ofNat 8 f.val, gen := o.gen, time := s.tb.now,
          p4 := fld d 0, p5 := fld (d / 2 ^ 32) 0, p6 := fld o.total 0, p7 := fld (o.total / 2 ^ 32) 0 }
      else s)

end Sys2Proof.Machine
end

