-- ==== Sys2Proof/Machine/Flags.lean ====
section
/-!
DEFINITION. The status words and the reads of the register window: every word that software reads as a whole, put together from the
state.
-/

namespace Sys2Proof.Machine

/-- The code of a reference in use (R80). -/
def selCode : RefSel → Nat
  | .none => 0
  | .refA => 1
  | .refB => 2

/-- The code of a reference mode (R69). -/
def modeCode : RefMode → Nat
  | .localRef => 0
  | .link => 1
  | .linkOnly => 2

/-- A signed 16-bit field that saturates (R80). -/
def sat16 (x : Int) : Int := max (-32767) (min 32767 x)

/-- The monitor of the reference in use (R80). -/
def selectedOffset (s : State) : Int :=
  match s.tb.selected with
  | .none => 0
  | .refA => s.tb.refA.offset
  | .refB => s.tb.refB.offset

/-- The timebase status word (R80). -/
def timebaseWord (s : State) : Dword :=
  flag s.tb.timeValid 31 ||| flag s.tb.timeEstimated 30 ||| flag s.tb.freeRunning 29 ||| flag s.tb.bypass 28 |||
  flag s.tb.holdover 27 ||| flag s.tb.warn 26 ||| flag s.tb.aonFault 25 ||| flag s.tb.sysrefError 24 |||
  fld (selCode s.tb.selected) 22 ||| fld (modeCode s.tb.refMode) 20 ||| flag s.tb.refA.qualified 19 ||| flag s.tb.refB.qualified 18 |||
  sfld (sat16 (selectedOffset s)) 16 0

/-- A lane status word (R279). -/
def laneWord (s : State) (n : Fin 4) : Dword :=
  let l := s.lanes[n]
  let spares := match l.spares with
    | [] => 0
    | a :: r => min 15 (r.foldl min a)
  flag l.usable 31 ||| flag l.failed 30 ||| flag l.degraded 29 ||| flag l.hot 28 ||| fld l.speed.toNat 26 ||| fld l.density.toNat 24 |||
  fld s.dram.mapOrder.toNat 22 ||| fld l.outcome.toNat 20 ||| fld spares 16 ||| fld (sat 16 l.retired) 0

/-- The seven lane counters (R280). -/
def laneCounters (l : Lane) : List Dword :=
  [fld l.corrected 0, fld l.uncorrectable 0, fld l.replays 0, fld l.nrCount 0, fld l.corrections 0, fld l.scrubPasses 0, l.scrubLast]

/-- L of a link setting (R283). -/
def linkL (w : BitVec 128) : Nat := 2 ^ bits w 29 28

/-- M of a link setting (R283). -/
def linkM (w : BitVec 128) : Nat := bits w 27 24

/-- S of a link setting (R283). -/
def linkS (w : BitVec 128) : Nat := 2 ^ bits w 23 22

/-- The converter rate as `rate_mul` + 1 over `rate_div` + 1, in units of 100 MHz (R284). -/
def linkRate (w : BitVec 128) : Nat × Nat := (bits w 55 44 + 1, bits w 43 32 + 1)

/-- The lane rate in units of 10 Mb/s, as a fraction (R284): 20 M fc / L, or 16.5 M fc / L in JESD204C. -/
def laneRate (w : BitVec 128) : Nat × Nat :=
  let f := linkRate w
  ((if bit w 30 then 165 else 200) * linkM w * f.1, linkL w * f.2)

/-- A link status word (R314). -/
def linkWord (l : JLink) : Dword :=
  let r := laneRate l.setting
  flag l.up 31 ||| flag (bit l.setting 31) 30 ||| fld l.phase.toNat 28 ||| flag l.ilasMismatch 27 ||| flag l.sysrefSeen 26 |||
  fld l.aligned.toNat 16 ||| fld (sat 12 (r.1 / r.2)) 0

/-- A shed stage as `get_health` reports heat: 0 normal, 1 throttling, 2 capture closed (R416). -/
def thermalCode (s : State) : Nat :=
  if s.power.thermal = 0 then 0 else if 3 ≤ s.power.peakStage ∧ 2 ≤ s.power.thermal then 2 else 1

/-- The code of a stall state (R347). -/
def stCode : StallSt → Nat
  | .absent => 0
  | .idle => 1
  | .armed => 2
  | .capturing => 3
  | .resetting => 4

/-- The code of a power state (R416). -/
def powerCode : PowerSt → Nat
  | .dormant => 0
  | .dikewatch => 1
  | .ready => 2
  | .run => 3
  | .off => 0

/-- Parcels of the device that are not in the breach map (R232). -/
def usableParcels (s : State) : Nat := s.dram.total - s.dram.retired.length

/-- G as reported: 0 when no capture can be admitted (R228, R229, R247, R276). -/
def reportedG (s : State) : Nat := if s.dram.admFail ∨ s.dram.mapOrder = 2 then 0 else s.dram.g

/-- The engine number of a stall, 0xFF for none (R415). -/
def engineByte (g : Grant) : Nat := match g.engine with
  | some e => e.val
  | none => 0xFF

/-- The peak of `FB.COUNT` (R222). -/
def fbPeakOf (s : State) (f : Fn) : Nat := if f = 0 then s.fns[f].fbPeak else s.stalls[f].fbPeak

/-- A chain status word (R315). -/
def chainWord (c : Chain) : Dword :=
  flag (bit c.setting 31) 31 ||| flag c.anchored 30 ||| flag c.producing 29 ||| flag c.fallback 28 |||
  flag (c.frozenCmd || c.frozenAuto) 27 ||| fld c.trim.toNat 12 ||| fld c.mults 0

/-- The seven chain counters (R316). -/
def chainCounters (c : Chain) : List Dword :=
  [fld c.saturations 0, fld c.restarts 0, fld c.syncIgnored 0, fld c.syncMissed 0, fld c.cycleMerges 0, fld c.cycleForced 0, fld c.freezes 0]

/-! ## The configuration space's identity -/

/-- Vendor ID (R374). -/
def vendorId : BitVec 16 := 0x1F3C

/-- Device ID of the physical function, the part number (R374, R391). -/
def pfDeviceId : BitVec 16 := 0x4872

/-- VF Device ID of the SR-IOV capability (R374). -/
def vfDeviceId : BitVec 16 := 0x4873

/-- Revision ID, the silicon revision (R374, R391). -/
def revisionId : BitVec 8 := 0xB1

/-- Class code: data acquisition and signal processing controller, other (R374). -/
def classCode : BitVec 24 := 0x118000

/-- Subsystem Vendor ID and Subsystem ID: the board data of the image that runs (R374, R543). -/
def subsystemIds (s : State) : BitVec 16 × BitVec 16 := (s.boot.subVendor, s.boot.subId)

/-- Max_Payload_Size supported, in bytes (R374). -/
def maxPayload : Nat := 512

/-- The largest Max_Read_Request_Size, in bytes: what code 5 of the host's setting gives (R374). -/
def maxReadRequest : Nat := 4096

/-- Capabilities of a function's configuration space (R374). -/
inductive PciCap where
  | powerManagement | pciExpress | msix | aer | ari | sriov | serialNumber | dataLinkFeature | phy16 | phy32 | laneMargining | doe
  deriving DecidableEq, Repr

/-- The capabilities of the physical function; no feature beyond them is supported (R374). -/
def pfCaps : List PciCap :=
  [.powerManagement, .pciExpress, .msix, .aer, .ari, .sriov, .serialNumber, .dataLinkFeature, .phy16, .phy32, .laneMargining, .doe]

/-- The capabilities of a virtual function: DOE is the physical function's alone, and SR-IOV is the capability that makes the virtual ones
(R374, R378; PRESUMED, log entry 2). -/
def vfCaps : List PciCap := pfCaps.filter fun c => c != .doe && c != .sriov

/-- TotalVFs and InitialVFs of the SR-IOV capability (R378). -/
def totalVFs : Nat := 63

/-- First VF Offset (R378). -/
def firstVfOffset : Nat := 1

/-- VF Stride (R378). -/
def vfStride : Nat := 1

/-- The Routing ID of a function, from the physical function's, which the host assigns; the requester ID of what the device issues for it
(R346, R378). -/
def routingId (pf : BitVec 16) (f : Fn) : BitVec 16 :=
  if f = 0 then pf else pf + BitVec.ofNat 16 (firstVfOffset + (f.val - 1) * vfStride)

/-- A read of the register window at an offset (R90, R384, R386, R391). -/
def regRead (s : State) (f : Fn) (off : BitVec 12) : Dword :=
  let r := s.fns[f]
  match alias_ off with
  | 0x00 => fld pfDeviceId.toNat 16 ||| fld revisionId.toNat 8 ||| fld f.val 0
  | 0x04 =>
    flag s.boot.reached 31 ||| flag (s.boot.phase == .halted) 30 ||| flag r.fault 29 ||| flag r.lock 28 |||
    flag (r.sqEnable && !r.fault && !r.sqStopped) 27 ||| flag (r.cqEnable && !r.fault) 26 |||
    fld (stCode s.stalls[f].st) 16 ||| fld s.stalls[f].gen.toNat 0
  | 0x08 => flag r.lock 31 ||| flag r.winPar 30 ||| flag r.cqEnable 1 ||| flag r.sqEnable 0
  | 0x10 => r.sqBaseLo
  | 0x14 => r.sqBaseHi
  | 0x18 => r.sqSize
  | 0x1C => r.sqTail
  | 0x20 => r.cqBaseLo
  | 0x24 => r.cqBaseHi
  | 0x28 => r.cqSize
  | 0x2C => r.cqHead
  | 0x30 => if s.tb.timeValid then fld (s.tb.now.toNat / 256 * 256) 0 else 0
  | 0x34 => if s.tb.timeValid then fld (s.tb.now.toNat / 2 ^ 32) 0 else 0
  | 0x38 => fld r.sqHead.toNat 0
  | 0x3C => r.cqIrq
  | 0x40 => fld r.errStatus.toNat 0
  | 0x44 => r.parityCount
  | 0x48 => r.accessLog
  | 0x4C => r.collisionCount
  | 0x50 => fld (sat 13 (fbPeakOf s f)) 16 ||| fld (sat 13 (fbLevel s f)) 0
  | 0x54 => r.lockedCount
  | 0x58 => r.droppedCount
  | _ => 0

/-- What a read of a dword of the register window returns; a function that does not answer returns nothing (R377, R384). -/
def windowRead (s : State) (f : Fn) (off : BitVec 12) : Option Dword := if reachable s f then some (regRead s f off) else none

end Sys2Proof.Machine
end

