-- ==== Sys2Proof/Machine/DeviceCmds.lean ====
section
/-!
DEFINITION. The device commands: `identify`, `get_health` and `attest`.
-/

namespace Sys2Proof.Machine

/-- A command that takes a result descriptor alone: reserved bits and the descriptor are checked, then the result is given (R410,
R411). -/
def resultCommand (s : State) (t : Taken) (l : List Byte) (p : Pay) : State :=
  match reservedBit t.e resultBits with
  | some (d, b) => invalidAt s t d b
  | none =>
    match badResult t.e with
    | some q => completeAt s t .invalid q
    | none => giveResult s t l p

/-- `caller` of the `identify` result (R415). -/
def callerWord (s : State) (f : Fn) : Dword := fld f.val 24 ||| fld (stCode s.stalls[f].st) 16 ||| fld s.stalls[f].gen.toNat 0

/-- `device` of the `identify` result (R415). -/
def deviceWord (s : State) : Dword := fld (lifecycleOf s).toNat 29 ||| flag s.boot.slotB 28 ||| fld s.quera.deviceId.toNat 0

/-- The dwords of the `identify` result up to `lanes` (R415). -/
def identifyDwords (s : State) (f : Fn) : List Dword :=
  let g := s.stalls[f].grant
  [0x4872B101, callerWord s f, s.boot.firmware, deviceWord s,
    fld g.teams.toNat 24 ||| fld g.chains.toNat 16 ||| fld (engineByte g) 8 ||| flag g.trigOut 0,
    fld g.refArea.length 16 ||| fld g.parcels.length 0, fld g.share 24 ||| fld g.outstanding 0, fld g.rate 0,
    fld (reportedG s) 16 ||| fld (usableParcels s) 0,
    (maskOf 32 fun n => if h : n < 4 then s.lanes[n].usable else false)]

/-- The 64-byte `identify` result (R415). -/
def identifyResult (s : State) (f : Fn) : List Byte :=
  dwBytes (identifyDwords s f) ++ leBytes s.sec.serial 8 ++ List.replicate 16 0

/-- IDENTIFY: with `result_len` 0 it completes with `ok` and writes nothing (R411, R415). -/
def execIdentify (s : State) : Host.Outcome State Fault Refusal :=
  .next (withCmd s (isOp 0x01) fun s t =>
    let d := identifyDwords s t.fn
    let p : Pay := { p4 := d.getD 0 0, p5 := d.getD 1 0, p6 := d.getD 2 0, p7 := d.getD 3 0 }
    match reservedBit t.e resultBits with
    | some (k, b) => invalidAt s t k b
    | none =>
      match badResult t.e with
      | some q => completeAt s t .invalid q
      | none => if resultLen t.e = 0 then completeAt s t .ok p else giveResult s t (identifyResult s t.fn) p)

/-- The code of the PCIe width and speed and of the device state (R416). -/
def healthDevice (s : State) : Dword :=
  fld (powerCode s.power.st) 30 ||| fld (shedStage s) 27 ||| fld (thermalCode s) 25 ||| flag (s.boot.phase == .halted) 24 |||
  fld s.pcie.linkSpeed 20 ||| fld s.pcie.linkWidth 16 ||| fld (usableParcels s) 0

/-- The 64 stall states, of which a virtual function sees its own (R359, R416). -/
def healthStalls (s : State) (f : Fn) : List Byte :=
  allStalls.map fun n => if f = 0 ∨ n = f then BitVec.ofNat 8 (stCode s.stalls[n].st) else 0

/-- Whether a function sees a chain's words: the physical function all of them, a virtual function its own (R359). -/
def seesChain (s : State) (f : Fn) (n : Fin 8) : Bool := f == 0 || bit s.stalls[f].grant.chains n.val

/-- The 560-byte `get_health` result (R359, R416). -/
def healthResult (s : State) (f : Fn) : List Byte :=
  dwBytes ([0x02300001, healthDevice s, timebaseWord s, fld (reportedG s) 16 ||| fld s.flash.breach.length 0] ++
    (List.finRange 4).map (laneWord s) ++ (List.finRange 4).flatMap (fun n => laneCounters s.lanes[n]) ++
    (List.finRange 2).map (fun l => linkWord s.links[l]) ++
    (List.finRange 2).flatMap (fun l => [fld s.links[l].replaced 0, fld s.links[l].losses 0]) ++
    (List.finRange 8).map (fun n => if seesChain s f n then chainWord s.chains[n] else 0) ++ [s.boot.romFail.zeroExtend 32] ++
    (List.finRange 8).flatMap (fun n => if seesChain s f n then chainCounters s.chains[n] else List.replicate 7 0) ++ [fld (sat 16 s.dram.wipeQ.length) 0]) ++
  healthStalls s f ++ dwBytes [fld s.stalls[f].eventsDropped 0, fld s.power.vdd.toNat 16 ||| fld s.power.tj.toNat 0] ++
  (List.finRange 6).flatMap (fun p => leBytes s.tiles[p].temp 2) ++
  dwBytes (s.groom.sramCorrected.toArray.toList.map fun n => fld n 0) ++ List.replicate 4 0

/-- GET_HEALTH (R416). -/
def execGetHealth (s : State) : Host.Outcome State Fault Refusal :=
  .next (withCmd s (isOp 0x02) fun s t => resultCommand s t (healthResult s t.fn) {})

/-- The named bits of `attest` (R417). -/
def attestBits : List Dword := resultBits ++ List.replicate 8 0xFFFFFFFF ++ [3]

/-- Bytes cut or filled with 0 to n. -/
def fitBytes (n : Nat) (l : List Byte) : List Byte := (l ++ List.replicate n 0).take n

/-- The `state` dword of the report (R547). -/
def attestState (s : State) : Dword :=
  fld (lifecycleOf s).toNat 29 ||| flag s.boot.slotB 28 ||| fld s.boot.secVer 22 ||| fld s.sec.floor 16 |||
    flag s.sec.tamper 15 ||| flag s.sec.glitch 14

/-- The four digests of the report: of the ROM, the running image, the fuses, and the board and node records (R547). -/
def attestDigests (s : State) : List (List Byte) :=
  [sha384 Config.rom,
   fitBytes 48 s.boot.imageHash,
   sha384 (s.sec.keyHashes ++ s.sec.ownerHash ++ leBytes s.sec.revoked 1 ++ [BitVec.ofNat 8 s.sec.floor] ++
     s.sec.slots.map fun x => x.zeroExtend 8),
   sha384 (s.flash.boardRec ++ s.flash.nodeRec)]

/-- The report before its signature, 288 bytes (R547). -/
def attestBody (s : State) (t : Taken) : List Byte :=
  let slot := bits (dw t.e 13) 1 0
  let g := s.stalls[t.fn].grant
  dwBytes [0x01800100 ||| fld slot 0, 0x4872B101, s.boot.firmware, attestState s] ++ leBytes s.sec.serial 8 ++ leBytes s.tb.now 8 ++
  (List.range 8).flatMap (fun k => leBytes (dw t.e (5 + k)) 4) ++ (attestDigests s).flatten ++
  fitBytes 16 (leBytes (BitVec.ofNat 8 t.fn.val) 1 ++ leBytes s.stalls[t.fn].gen 2 ++
    [g.teams, g.chains, BitVec.ofNat 8 (engineByte g)] ++ leBytes (BitVec.ofNat 16 g.parcels.length) 2) ++ List.replicate 16 0

/-- The 384-byte report (R547). -/
def attestReport (s : State) (t : Taken) : List Byte :=
  let b := attestBody s t
  b ++ fitBytes 96 (Config.sign (bits (dw t.e 13) 1 0) (sha384 b))

/-- ATTEST: its statuses in the order R417 lists them, `unsupported` and `busy` first as they concern the bank and not the entry
(R417, R547, R553, R554). A key that reads uncorrectable wipes the bank, and the command finds it being wiped (R404, log entry 264). -/
def execAttest (s : State) : Host.Outcome State Fault Refusal :=
  .next (withCmd s (isOp 0x03) fun s t =>
    match reservedBit t.e attestBits with
    | some (d, b) => invalidAt s t d b
    | none =>
      match badResult t.e with
      | some q => completeAt s t .invalid q
      | none =>
        let chain := if h : bits (dw t.e 13) 1 0 < 4 then s.flash.certs[bits (dw t.e 13) 1 0] else []
        if s.sec.wiping.isSome then complete s t .busy
        else if lifecycleOf s = 0 ∨ ¬ s.sec.keys then complete s t .unsupported
        else if chain = [] then completeAt s t .invalid (fieldPay 13 0)
        else if t.secure = .uncorrectable then complete (readSecure s t.secure) t .busy
        else giveResult (noteEcc s 8 t.secure) t (attestReport s t) {})

end Sys2Proof.Machine
end

