-- ==== Sys2Proof/Machine/Clocks.lean ====
section
/-!
DEFINITION. The references, their monitor, holdover and switchover, the relock of the sample PLL, and the always-on clock.
-/

namespace Sys2Proof.Machine

/-! ## Events and selection -/

/-- A `reference_drift` event of the timebase (R79). -/
def tbEvent (s : State) (cause : Nat) (offset : Int) : State :=
  sendRated s { code := 0x16, sub := cause, fn := 0 } (1000 * ms)
    (deviceEvent 0x16 (withPf (armedStalls s)) s.tb.now (fld (selCode s.tb.selected) 16 ||| fld cause 8 ||| fld 1 0)
      (sfld offset 16 0) 0 0)

/-- The monitor of a reference: REFB when b, else REFA. -/
def monOf (t : Timebase) (b : Bool) : RefMon := if b then t.refB else t.refA

/-- A monitor updated. -/
def modMon (s : State) (b : Bool) (f : RefMon → RefMon) : State :=
  { s with tb := if b then { s.tb with refB := f s.tb.refB } else { s.tb with refA := f s.tb.refA } }

/-- A reference as a selection. -/
def refOf (b : Bool) : RefSel := if b then .refB else .refA

/-- The order of preference: true stands for REFB (R69). -/
def prefOrder : RefMode → List Bool
  | .localRef => [false]
  | .link => [true, false]
  | .linkOnly => [true]

/-- The first qualified reference of the order (R69). -/
def preferred (t : Timebase) : RefSel := match (prefOrder t.refMode).find? fun b => (monOf t b).qualified with
  | some b => refOf b
  | none => .none

/-- The conditions of `free_running` (R78, R488). -/
def freeRunningNow (s : State) : Bool :=
  (s.tb.refMode != .localRef && s.tb.selected != .refB) ||
  (s.quera.portEnable != 0 && (s.quera.ring == 2 || s.quera.ring == 3 || s.quera.rootRing == 2 || s.quera.master.isNone || s.quera.nextEpoch.isSome))

/-- `free_running` follows its conditions. -/
def setFreeRunning (s : State) : State :=
  let s := { s with tb := { s.tb with freeRunning := freeRunningNow s } }
  if s.tb.freeRunning then allStalls.foldl (fun s n => noteOpen s n fun c => { c with freeRun := true }) s else s

/-- The offset of the reference in use; 0 for none. -/
def offsetOf (t : Timebase) : RefSel → Int
  | .none => 0
  | .refA => t.refA.offset
  | .refB => t.refB.offset

/-- Holdover begins: the frequency of the last good long gate is held (R74, R76). -/
def enterHoldover (s : State) (offset : Int) : State :=
  let held := match s.tb.selected with
    | .none => s.tb.heldOffset
    | .refA => s.tb.refA.passOffset
    | .refB => s.tb.refB.passOffset
  let s := allStalls.foldl (fun s n => noteOpen s n fun c => { c with holdover := true }) s
  tbEvent { s with tb := { s.tb with selected := .none, holdover := true, aonSteered := false, heldOffset := held, warn := false } } 2 offset

/-- A switch to a reference; `warn` is recomputed from its last long gate (R72, R74, R76). -/
def switchTo (s : State) (r : RefSel) : State :=
  let off := offsetOf s.tb r
  tbEvent { s with tb := { s.tb with selected := r, holdover := false, aonSteered := false, warn := 7680 < off.natAbs } } 3 off

/-- The device uses the first qualified reference of the order, or runs in holdover (R69, R74, R76, R78). -/
def reselect (s : State) : State :=
  let r := preferred s.tb
  setFreeRunning (
    if !s.tb.timeValid || r = s.tb.selected then s
    else if r = .none then enterHoldover s (offsetOf s.tb s.tb.selected)
    else switchTo s r)

/-- A reference is disqualified; the one in use goes to holdover at once, and from there to the next of the order (R72, R74). -/
def disqualify (s : State) (b : Bool) (offset : Int) : State :=
  let s := modMon s b fun m => { m with qualified := false, within30 := 0, within25 := 0, gateOk := false }
  reselect (if s.tb.selected = refOf b then enterHoldover s offset else s)

/-! ## The monitor's rows -/

/-- The offset of a long gate in 1/256 ppm, an offset between two units cut toward zero: R71 names no rounding (R71, R79; DESIGN CHOICE, log entry
296). -/
def longOffset (count : Nat) : Int := sat16 (((count : Int) - 100000000) * 256 |>.tdiv 100)

/-- The offset of a fast gate in 1/256 ppm, cut like that of a long one (R71; DESIGN CHOICE, log entry 296). -/
def fastOffset (count : Nat) : Int := sat16 ((4 * (count : Int) - 390625) * 256000000 |>.tdiv 390625)

/-- A run of good gates, counted to 10. -/
def runOf (n : Nat) (good : Bool) : Nat := if good then min 10 (n + 1) else 0

/-- `warn` of the reference in use after a long gate that passed the 50 ppm check (R72). -/
def warnStep (s : State) (b : Bool) (d : Nat) : State :=
  if s.tb.selected ≠ refOf b then s
  else if 3000 < d ∧ ¬ s.tb.warn then tbEvent { s with tb := { s.tb with warn := true } } 1 (monOf s.tb b).offset
  else if s.tb.warn ∧ (monOf s.tb b).within25 = 10 then tbEvent { s with tb := { s.tb with warn := false } } 4 (monOf s.tb b).offset
  else s

/-- LONG_GATE_END (R70 to R72, R74, R76, R78). -/
def execLongGateEnd (b : Bool) (count : Nat) (s : State) : Host.Outcome State Fault Refusal :=
  .next (
    if !s.tb.gatesRun || !s.tb.timeValid then s
    else
      let d := ((count : Int) - 100000000).natAbs
      let s := modMon s b fun m => { m with offset := longOffset count }
      if 5000 < d then disqualify s b (longOffset count)
      else
        let s := modMon s b fun m =>
          let m := { m with passOffset := longOffset count, within30 := runOf m.within30 (d ≤ 3000), within25 := runOf m.within25 (d ≤ 2500) }
          { m with qualified := m.qualified || m.within30 == 10 }
        reselect (warnStep s b d))

/-- FAST_GATE_END: beyond 1000 ppm the reference is disqualified (R71, R72). -/
def execFastGateEnd (b : Bool) (count : Nat) (s : State) : Host.Outcome State Fault Refusal :=
  .next (
    if !s.tb.gatesRun then s
    else if 390625 < (4 * (count : Int) - 390625).natAbs * 1000 then disqualify s b (fastOffset count)
    else modMon s b fun m => { m with gateOk := true })

/-- REFERENCE_LOSS (R72, R74, R92). -/
def execReferenceLoss (b : Bool) (s : State) : Host.Outcome State Fault Refusal :=
  .next (if s.power.st = .dormant then s else disqualify s b (monOf s.tb b).offset)

/-- HOLDOVER_60S: the DPLL steers to the always-on clock (R75). -/
def execHoldover60s (s : State) : Host.Outcome State Fault Refusal :=
  .next (if s.tb.holdover then { s with tb := { s.tb with aonSteered := true } } else s)

/-! ## Relock -/

/-- `reference_drift` with `relock`: the sequence of a relock begins. The events of a relock carry the offset of the selected reference's
last long gate: the model's choice, R79 names the reference concerned and no measurement (DESIGN CHOICE, log entry 260). -/
def startRelock (s : State) : State := tbEvent s 5 (offsetOf s.tb s.tb.selected)

/-- A channel is sampled again after a relock: what its delay held is gone, its state stands, and no residence reaches across the gap (DESIGN
CHOICE, log entry 290). -/
def sampleAnew (now : Time) (c : Channel) : Channel := { restartDwell c now with line := [], base := c.level }

/-- The sample PLL has locked and the clocks leave the bypass: `reference_drift` with `relocked` (R83 to R85). -/
def leaveBypass (s : State) : State :=
  if s.tb.bypass then
    tbEvent { s with tb := { s.tb with bypass := false }, chans := s.chans.map (sampleAnew s.tb.now) } 6 (offsetOf s.tb s.tb.selected)
  else s

/-- PLL_LOCK_LOSS, while the timebase runs: the relock begins: captures close with `relock`, engines and chains stop, TRIG_OUT is low (R84 to
R86). -/
def execPllLockLoss (s : State) : Host.Outcome State Fault Refusal :=
  .next (
    if !s.tb.timeValid || s.tb.bypass then s
    else
      let s := startRelock { s with tb := { s.tb with bypass := true } }
      let s := stopChains (closeAll s 0x05 6) 0xFF
      let s := allStalls.foldl (fun s n => stopEngine s n) s
      { s with pins := { s.pins with trigOut := false } })

/-- RELOCK_DONE; in Dikewatch the clocks stay bypassed (R85, R88). -/
def execRelockDone (s : State) : Host.Outcome State Fault Refusal := .next (if s.power.st = .dikewatch then s else leaveBypass s)

/-! ## The always-on clock -/

/-- AON_CLOCK_LOSS: the fallback oscillator, the gates stopped, the qualification as it stands (R92). -/
def execAonClockLoss (s : State) : Host.Outcome State Fault Refusal :=
  .next ({ s with tb := { s.tb with aonFault := true, gatesRun := false } })

/-- AON_CLOCK_RESTORED: the gates start again (R92). -/
def execAonClockRestored (s : State) : Host.Outcome State Fault Refusal :=
  .next (if s.tb.aonFault then { s with tb := { s.tb with aonFault := false, gatesRun := true } } else s)

end Sys2Proof.Machine
end

