-- ==== Sys2Proof/Machine/Latches.lean ====
section
/-!
DEFINITION. The fields of a channel setting, the four latches of a channel, the seed of its state, and the moments at which settings and
releases take effect.
-/

namespace Sys2Proof.Machine

/-! ## The channel setting -/

/-- `latch_above_en` or `latch_below_en` (R36). -/
def chSideEn (w : BitVec 64) (above : Bool) : Bool := if above then bit w 62 else bit w 61

/-- `latch_band_en` (R36). -/
def chBandEn (w : BitVec 64) : Bool := bit w 60

/-- `open_en` (R36). -/
def chOpenEn (w : BitVec 64) : Bool := bit w 59

/-- `deskew`, signed ticks (R36). -/
def chDeskew (w : BitVec 64) : Int := signed 13 (bits w 56 44)

/-- `dwell`, in units of 100 ns (R36). -/
def chDwell (w : BitVec 64) : Nat := bits w 40 24

/-- `upper` (R36). -/
def chUpper (w : BitVec 64) : Nat := bits w 23 12

/-- `lower` (R36). -/
def chLower (w : BitVec 64) : Nat := bits w 11 0

/-- The front-end tiles run: Run and Ready (R504). -/
def frontEndRuns (s : State) : Bool := s.power.st == .run || s.power.st == .ready

/-- Channels are sampled: the front end runs, and the sample domain is not gated off in a relock (R85, R504). -/
def samplesRun (s : State) : Bool := frontEndRuns s && !s.tb.bypass

/-! ## Latches -/

/-- The four latches by their code (R117). -/
inductive Cond where
  | above
  | below
  | band
  | open_
  deriving DecidableEq, Repr

/-- The code of a condition (R117). -/
def condCode : Cond → Nat
  | .above => 0
  | .below => 1
  | .band => 2
  | .open_ => 3

/-- A latch of a channel. -/
def latchOf (c : Channel) : Cond → Bool
  | .above => c.above
  | .below => c.below
  | .band => c.band
  | .open_ => c.open_

/-- A latch written. -/
def putLatch (c : Channel) (k : Cond) (b : Bool) : Channel :=
  match k with
  | .above => { c with above := b }
  | .below => { c with below := b }
  | .band => { c with band := b }
  | .open_ => { c with open_ := b }

/-- Whether a latch entry watches a latch (R161, R176). -/
def watches (e : LatchEntry) (c k : Nat) : Bool := bit e.channels c && bit e.conds k

/-- A set latch makes the latch terms that watch it true from the next stride (R161, R162). -/
def raiseLatchTerms (s : State) (n : Stall) (c k : Nat) (t : Time) : State :=
  match s.stalls[n].course with
  | none => s
  | some p =>
    let f (x : Flag × LatchEntry) : Flag := if watches x.2 c k then setTerm x.1 true s.tb.now (t &&& ~~~ (31 : Time)) false else x.1
    modEng s n fun e => { e with latches := (e.latches.zip p.latches).map f }

/-- Whether any latch that an entry watches is set. -/
def watchedSet (s : State) (e : LatchEntry) : Bool :=
  allChans.any fun c => [Cond.above, .below, .band, .open_].any fun k => watches e c.val (condCode k) && latchOf s.chans[c] k

/-- The engine has evaluated the current stride. -/
def evaluated (s : State) (n : Stall) : Bool := s.stalls[n].eng.evalAt == s.tb.now && s.tb.now != 0

/-- The stride at whose start a clear takes effect: the current one, or the next once the engine has evaluated it (R43). -/
def clearFrom (s : State) (n : Stall) : Time := if evaluated s n then s.tb.now + 256 else s.tb.now

/-- The latch terms whose every latch is clear are false in the stride of the clear (R43, R161). -/
def dropLatchTerms (s : State) (n : Stall) : State :=
  match s.stalls[n].course with
  | none => s
  | some p =>
    let f (x : Flag × LatchEntry) : Flag := if watchedSet s x.2 then x.1 else clearTerm x.1 (clearFrom s n)
    modEng s n fun e => { e with latches := (e.latches.zip p.latches).map f }

/-- A latch sets, with its record and its event; one that is set does nothing again (R42, R47). -/
def setLatch (s : State) (c : Fin 48) (k : Cond) (seed : Bool) (t : Time) : State :=
  if latchOf s.chans[c] k then s
  else
    let s := modChan s c fun x => { putLatch x k true with seedBand := x.seedBand || seed }
    match ownerOf s c with
    | none => s
    | some n => raiseLatchTerms (latchReport s n c (condCode k) seed t) n c.val (condCode k) t

/-- After a clear, a band or open latch that was set in `old` and whose residence goes on sets again, at the first sample of the clear's stride
(R43). -/
def setAgain (s : State) (c : Fin 48) (old : Channel) : State :=
  let x := s.chans[c]
  let t := match ownerOf s c with
    | some n => clearFrom s n
    | none => s.tb.now
  if !chLive x || !x.dwellMet then s
  else if old.open_ && !x.open_ && chOpenEn x.setting && x.checked == some true then setLatch s c .open_ false t
  else if old.band && !x.band && !old.seedBand && chBandEn x.setting && x.checked != some true then
    setLatch s c .band false t
  else s

/-- The latches that a mask of conditions names. -/
def clearConds (c : Channel) (conds : BitVec 4) : Channel := { c with
  above := c.above && !bit conds 0, below := c.below && !bit conds 1, band := c.band && !bit conds 2, open_ := c.open_ && !bit conds 3
  seedBand := c.seedBand && !bit conds 2 }

/-- Latches of a channel are cleared, and the latch terms with them (R42, R161). -/
def releaseLatches (s : State) (conds : BitVec 4) (c : Fin 48) : State :=
  let s := modChan s c fun x => clearConds x conds
  match ownerOf s c with
  | some n => dropLatchTerms s n
  | none => s

/-- Latches of some channels are cleared together; then a condition that is still there sets its latch again (R42, R43, R161). -/
def clearChans (s : State) (conds : BitVec 4) (l : List (Fin 48)) : State :=
  l.foldl (fun t c => setAgain t c s.chans[c]) (l.foldl (fun t c => releaseLatches t conds c) s)

/-- Channels of a stall, ascending. -/
def chansOf (s : State) (n : Stall) : List (Fin 48) := allChans.filter fun c => ownsChan s n c

/-- All latches of a stall are cleared: an arm or a re-arm (R42). -/
def clearStall (s : State) (n : Stall) : State := clearChans s 0xF (chansOf s n)

/-! ## Seed, settings and release -/

/-- The channel becomes live: its state is the ball against VTT, and a ball inside the window sets the band latch (R44, R47). -/
def seedChan (s : State) (seed : SeedIn) (c : Fin 48) : State :=
  let up := bit seed.above c.val
  let s := modChan s c fun x => { restartDwell x s.tb.now with
    level := up, before := up, samples := if up then 0xFF else 0, trans := 0, edge := 0, line := [], base := up, overs := 0, unders := 0 }
  if bit seed.inside c.val then setLatch s c .band true s.tb.now else s

/-- The VTT code of a setting (R34, R35). -/
def vttCode (w : BitVec 64) : Nat := (chUpper w + chLower w) / 2

/-- A setting takes effect: the termination follows, a new window or dwell restarts the count, a rising `enable` seeds (R34, R36, R38, R44,
R47). -/
def applySetting (s : State) (seed : SeedIn) (c : Fin 48) (w : BitVec 64) : State :=
  let old := s.chans[c]
  let same := chUpper w = chUpper old.setting ∧ chLower w = chLower old.setting ∧ chDwell w = chDwell old.setting
  let s := modChan s c fun x =>
    let x := if same ∧ chEnable w then x else restartDwell x s.tb.now
    { x with setting := w, pend := none, level := x.level && chEnable w, base := x.base && chEnable w, vtt := vttCode w }
  if chEnable w && !chEnable old.setting && !old.forced then seedChan s seed c else s

/-- The waiting settings of a stall's channels take effect (R19, R38). -/
def applyPending (s : State) (n : Stall) (seed : SeedIn) : State :=
  (chansOf s n).foldl (fun s c =>
    match s.chans[c].pend with
    | none => s
    | some w => applySetting s seed c w) s

/-- The pending calibration corrections of delay and offset are applied, the delay kept within the range of R51 (R63). -/
def applyCorr (c : Channel) : Channel :=
  { c with
    corr := max (-256) (min 256 (c.corr + c.pendCorr)), offs := c.offs + c.pendOffs, pendCorr := 0, pendOffs := 0, pendAt := 0, driftSent := false }

/-- The pending corrections of a stall's channels are applied (R19, R63). -/
def applyCorrs (s : State) (n : Stall) : State := (chansOf s n).foldl (fun s c => modChan s c applyCorr) s

/-- A forced channel is released and, when enabled, seeded (R57). -/
def releaseChan (s : State) (seed : SeedIn) (c : Fin 48) : State :=
  let s := modChan s c fun x => { x with forced := false }
  if chEnable s.chans[c].setting then seedChan s seed c else s

/-- The forced channels of a port that a test picks. -/
def forcedOn (s : State) (p : Fin 6) (keep : Fin 48 → Bool) : List (Fin 48) :=
  allChans.filter fun c => portOf c == p && s.chans[c].forced && keep c

/-- The port's plug has been reported, so its channels may be released (R57). -/
def portReady (s : State) (p : Fin 6) : Bool := s.ports[p].present && s.ports[p].phase == .idle

/-- A mask of channels. -/
def chanMaskOf (l : List (Fin 48)) : ChanMask := maskOf 48 fun i => l.any fun c => c.val == i

/-- The forced channels of a stall on one port are released; while the stall captures, with the marker (R57, R116). -/
def releasePort (s : State) (n : Stall) (seed : SeedIn) (p : Fin 6) : State :=
  let l := forcedOn s p fun c => ownsChan s n c
  if !portReady s p || l.isEmpty then s
  else
    let s := l.foldl (fun s c => releaseChan s seed c) s
    marker s n 0x3 s.tb.now (BitVec.ofNat 64 (s.ports[p].changed.toNat * 2 ^ 63 + p.val * 2 ^ 56 + (chanMaskOf l).toNat))

/-- The forced channels of a stall are released (R57). -/
def releaseStallChans (s : State) (n : Stall) (seed : SeedIn) : State :=
  (List.finRange 6).foldl (fun s p => releasePort s n seed p) s

/-- The channels of a port whose stall is not capturing, or that have no stall, are released (R57). -/
def releaseIdle (s : State) (p : Fin 6) (seed : SeedIn) : State :=
  if !portReady s p then s
  else (forcedOn s p fun c => !(match ownerOf s c with
    | some n => capturing s n
    | none => false)).foldl (fun s c => releaseChan s seed c) s

/-! ## The rows -/

/-- LATCH_EXCURSION: a sample of the stride, as the delay of R50 and R51 lets it out, has the ball beyond a threshold (R42, R44, R46, R50,
R85, R581). -/
def execLatchExcursion (c : Fin 48) (above : Bool) (sample : Fin 8) (s : State) : Host.Outcome State Fault Refusal :=
  .next (
    let x := s.chans[c]
    if !chLive x || !samplesRun s || x.sampledAt != s.tb.now || !bit (if above then x.overs else x.unders) sample.val then s
    else
      let t := s.tb.now + BitVec.ofNat 64 (32 * sample.val)
      let s := modChan s c fun x => restartDwell x (if later (t + 32) x.dwellFrom then t + 32 else x.dwellFrom)
      if chSideEn s.chans[c].setting above then setLatch s c (if above then .above else .below) false t else s)

/-- The residence that begins at the sample `first` has lasted the dwell, whole strides of it, at the end of the current stride (R44). -/
def dwellDue (s : State) (c : Fin 48) (first : Time) : Bool :=
  let x := s.chans[c]
  let stop := s.tb.now + 256
  chLive x && samplesRun s && (chBandEn x.setting || chOpenEn x.setting) && !x.dwellMet && !x.checking && !past first x.dwellFrom &&
    passed stop first (100 * chDwell x.setting) && !passed stop first (100 * chDwell x.setting + 1)

/-- DWELL_MET: with `open_en` the open check begins, else the band latch sets (R44, R45). -/
def execDwellMet (c : Fin 48) (first : Time) (s : State) : Host.Outcome State Fault Refusal :=
  .next (
    if !dwellDue s c first then s
    else if chOpenEn s.chans[c].setting then modChan s c fun x => { x with dwellFrom := first, checking := true }
    else setLatch (modChan s c fun x => { x with dwellFrom := first, dwellMet := true, checked := none }) c .band false first)

/-- OPEN_CHECK_END: the open latch sets when the input is undriven, else the band latch when it is enabled (R45). -/
def execOpenCheckEnd (c : Fin 48) (undriven : Bool) (s : State) : Host.Outcome State Fault Refusal :=
  .next (
    let x := s.chans[c]
    if !chLive x || !samplesRun s || !x.checking then s
    else
      let s := modChan s c fun x => { x with checking := false, dwellMet := true, checked := some undriven }
      if undriven then (if chOpenEn x.setting then setLatch s c .open_ false x.dwellFrom else s)
      else if chBandEn x.setting then setLatch s c .band false x.dwellFrom
      else s)

end Sys2Proof.Machine
end

