-- ==== Sys2Proof/Machine/Segments.lean ====
section
/-!
DEFINITION. Segments open and close: the end of the post-trigger fill, the closing furlong, the open after re-arm, and the
acknowledged close.
-/

namespace Sys2Proof.Machine

/-! ## Closing -/

/-- POST_TRIGGER_FILL_END: the segment closes after the last stride of its fill (R195). -/
def execPostTriggerFillEnd (st : Stall) (s : State) : Host.Outcome State Fault Refusal :=
  .next (
    match s.stalls[st].cap with
    | none => s
    | some c => if fillOver s c then closeFill s st c else s)

/-- GALLOP_FURLONG_CLOSE: the closing furlong is whole; tail blocks and header follow (R131). -/
def execGallopFurlongClose (st : Stall) (s : State) : Host.Outcome State Fault Refusal :=
  .next (
    match s.stalls[st].cap with
    | none => s
    | some c => if furlongDone c then tryFinish (closeFurlong s st) st else s)

/-! ## The acknowledged close -/

/-- `segment_closed` (R457). -/
def closedEvent (s : State) (n : Stall) (x : Seg) : CqEntry :=
  event 0x02 n.val x.endTime
    (flag x.trig.isSome 31 ||| flag (x.trig.any fun t => t.truncated) 30 ||| fld x.cause.toNat 24 ||| fld x.num.toNat 0)
    (fld (headerLength x.header) 0) (fld x.start 0)
    (fld (sat 16 x.missed) 16 ||| fld (sat 16 (segBales x x.polder).length) 0)

/-- A `capture_mark` that waited completes; a marker that takes its time from the completion is written now, while the stall still records
(R116, R432). -/
def flushMark (s : State) (n : Stall) (num : BitVec 20) (q : FlushReq) : State :=
  let r : State × Bool × Bool := match q.owed with
    | none => (s, q.written, q.lost)
    | some v => (marker s n 0x0 s.tb.now v, recording s n && queueTakes s n 2, recording s n && !queueTakes s n 2)
  completeTag r.1 q.fn q.tag .ok { p4 := flag r.2.2 1 ||| flag r.2.1 0, p5 := fld num.toNat 0 }

/-- The `capture_mark` commands that wait for a segment complete (R432). -/
def flushMarks (s : State) (n : Stall) (num : BitVec 20) : State :=
  match s.stalls[n].cap with
  | none => s
  | some c =>
    let s := modCap s n fun c => { c with flush := c.flush.filter fun q => q.seg != num }
    (c.flush.filter fun q => q.seg == num).foldl (fun s q => flushMark s n num q) s

/-- An earlier segment than a trigger's has not sent its `segment_closed` (R453). -/
def heldBack (s : State) (n : Stall) (e : CqEntry) : Bool :=
  (s.stalls[n].held.find? fun h => !h.closed).any fun h => h.num.toNat != bits e.p4 19 0

/-- Held triggers are sent, oldest first, until one is held back. -/
def sendHeldList (n : Stall) : List CqEntry → State → State
  | [], s => s
  | e :: rest, s =>
    if heldBack s n e then s else sendHeldList n rest (sendEvent (modCap s n fun c => { c with heldTrigger := rest }) n e)

/-- A trigger held behind a `segment_closed` is sent once every earlier segment's has been (R453). -/
def sendHeld (s : State) (n : Stall) : State :=
  match s.stalls[n].cap with
  | none => s
  | some c => sendHeldList n c.heldTrigger s

/-- Settings and releases that waited for the capture take effect when it has ended, and no segment is open (R19, R38, R57). -/
def settleIdle (s : State) (n : Stall) (seed : SeedIn) : State :=
  if capturing s n || segmentOpen s n then s else releaseStallChans (applyCorrs (applyPending s n seed) n) n seed

/-- SEGMENT_CLOSED: the oldest closed segment has every block acknowledged (R220, R432, R453, R457). -/
def execSegmentClosed (st : Stall) (seed : SeedIn) (s : State) : Host.Outcome State Fault Refusal :=
  .next (
    match s.stalls[st].held.find? fun x => !x.closed with
    | none => s
    | some x =>
      if x.unacked ≠ 0 ∨ ¬ x.hdrAcked then s
      else
        let s := modStall s st fun y => { y with
          segsClosed := satAdd 32 y.segsClosed 1
          held := (y.held.map fun h => if h.uid = x.uid then { h with closed := true } else h).filter fun h => !(h.closed && h.gone) }
        let s := sendEvent s st (closedEvent s st x)
        settleIdle (tryFinish (sendHeld (flushMarks s st x.num) st) st) st seed)

/-! ## Opening -/

/-- Free blocks of the polder: from the end of the newest segment to the start of the oldest held one (R203). -/
def freeBlocks (s : State) (n : Stall) : Nat :=
  let p := polderSize s.stalls[n].grant
  match (liveSegs s n).head? with
  | none => p
  | some x => (x.start + p - s.stalls[n].nextStart) % p

/-- Deletes the oldest held segment. -/
def deleteOldest (s : State) (n : Stall) : State :=
  match (liveSegs s n).head? with
  | none => s
  | some x => deleteHeld s n fun h => h.uid != x.uid

/-- Deletes the oldest held segments, at most k, until the free space holds `need` blocks (R204, R206). -/
def deleteUntil (n : Stall) (need : Nat) : Nat → State → State
  | 0, s => s
  | k + 1, s => if need ≤ freeBlocks s n ∧ (liveSegs s n).length < 2 ^ 20 then s else deleteUntil n need k (deleteOldest s n)

/-- A ring cut to whole furlongs in Gallop (R205). -/
def cutRing (g : Gait) (k : Nat) : Nat := if g = .gallop then k / 64 * 64 else k

/-- Room is made for the next segment, with its extra blocks before the ring: the state and the ring, or none when no segment opens
(R204 to R206, R514). -/
def makeRoom (s : State) (n : Stall) (c : Capture) (extra : Nat) : State × Option Nat :=
  let a := c.arm
  let p := polderSize s.stalls[n].grant
  let full := 2 ^ 20 ≤ (liveSegs s n).length
  if a.region ≠ 0 then
    let need := 1 + extra + a.region
    let s := if a.wrap then deleteUntil n need (liveSegs s n).length s else s
    if freeBlocks s n < need ∨ (full ∧ ¬ a.wrap) then (s, none) else (s, some a.region)
  else
    let s := if a.wrap then deleteHeld s n fun h => h.gone else s
    let ring := cutRing a.gait ((if a.wrap then p else freeBlocks s n) - 1 - extra)
    if ring = 0 ∨ (full ∧ ¬ a.wrap) then (s, none) else (s, some ring)

/-- The loaded course, or the empty one (R146). -/
def courseOf (s : State) (n : Stall) : Course := s.stalls[n].course.getD {}

/-- The engine is reset at the open (R152). -/
def resetEngine (p : Course) (e : Engine) : Engine := { e with
  running := true
  final := none
  fence := p.startFence
  heldExits := 0
  counters := (p.counters.zipIdx).map fun x => if x.1.keep then e.counters.getD x.2 x.1.preset else x.1.preset
  timers := (p.timers.zipIdx).map fun x =>
    if x.1.keep then e.timers.getD x.2 {} else { value := 0, running := x.1.autostart }
  storing := p.startStored
  storePend := none
  level := false
  pulseEnd := none }

/-- Channels of some teams that are enabled. -/
def enabledChans (s : State) (teams : BitVec 8) : ChanMask :=
  maskOf 48 fun i => if h : i < 48 then bit teams (i / 6) && chEnable s.chans[i].setting else false

/-- An enabled channel of some teams lies on an uncalibrated tile (R66, R137). -/
def anyUncal (s : State) (teams : BitVec 8) : Bool :=
  allChans.any fun c => bit (enabledChans s teams) c.val && s.tiles[portOf c].uncal

/-- The segment's record in the capture at its open; the previous qualified edge of Trot is forgotten (R104, R137, R152, R203, R206, log entry
255). -/
def newSegment (s : State) (n : Stall) (c : Capture) (ring : Nat) (stored : Bool) : Capture := { c with
  phase := .running, openAt := s.tb.now, segNo := c.segNo + 1, late := c.late && c.segNo == 0, closeCause := none
  seg := { uid := s.stalls[n].nextUid, num := BitVec.ofNat 20 c.segNo, start := s.stalls[n].nextStart, ring := ring, missed := c.seg.missed
           polder := polderSize s.stalls[n].grant }
  drift := false, freeRun := s.tb.freeRunning, holdover := s.tb.holdover
  part := [], dense := [], denseIdx := 0, hasKey := false, walkIdx := 0, lastClock := none, overruns := 0, overrunAt := 0, hoofAt := none
  resume := c.flushed, flushed := false
  segStrides := if stored then [{ first := s.tb.now, upto := none }] else [] }

/-- What the header says of the channels at the open, once the settings of the boundary have taken effect (R38, R137). -/
def noteChans (s : State) (n : Stall) : State :=
  modCap s n fun c => { c with chanMask := enabledChans s c.teams, uncal := anyUncal s c.teams }

/-- The re-arm of a stall: latches clear, then settings, corrections and releases of the boundary; what still holds sets its latch again in the
new segment; the engine is reset, and side anchors are owed (R42, R43, R47, R57, R63, R132, R152, R199). -/
def rearmStall (s : State) (n : Stall) (seed : SeedIn) : State :=
  let old := s.chans
  let s := (chansOf s n).foldl (fun s c => releaseLatches s 0xF c) s
  let s := releaseStallChans (applyCorrs (applyPending s n seed) n) n seed
  let s := (chansOf s n).foldl (fun s c => setAgain s c old[c]) s
  let s := modEng s n (resetEngine (courseOf s n))
  (chainsOf s n).foldl (fun s k => modChain s k fun c => { c with anchorOut := true, anchorDet := true, sideOut := [], sideDet := [] }) s

/-- Side records that waited for the open follow its keyframe (R200). -/
def flushSide (s : State) (n : Stall) : State :=
  match s.stalls[n].cap with
  | none => s
  | some c => if c.arm.gait = .gallop then s else addRecs (modCap s n fun c => { c with sideQ := [] }) n c.sideQ

/-- A segment opens in a ring at the current stride: latches that set in it write into it; `g` is what stands between the open and the first
keyframe (R42, R121, R199). -/
def openWith (s : State) (n : Stall) (seed : SeedIn) (ring : Nat) (g : State → State) : State :=
  let s := modCap (modStall s n fun x => { x with st := .capturing }) n fun c => newSegment s n c ring (courseOf s n).startStored
  let s := modStall s n fun x => { x with nextUid := x.nextUid + 1, armSegs := satAdd 21 x.armSegs 1 }
  let s := noteChans (rearmStall s n seed) n
  flushSide (dueKey (g s) n) n

/-- A segment opens in a ring at the current stride (R121, R199). -/
def openSegment (s : State) (n : Stall) (seed : SeedIn) (ring : Nat) : State := openWith s n seed ring id

/-- The next segment is due to open; none does while a soft repair runs (R199, R208, R272). -/
def openDue (s : State) (c : Capture) : Bool :=
  c.ended.isNone && s.dram.repairing.isNone && !past s.tb.now c.openAt && (c.phase == .rearm || (c.phase == .armed && !c.arm.onWake))

/-- SEGMENT_OPEN: after re-arm, or at the open of the first segment; without room the capture ends with reason 2 (R199, R204 to
R206, R208, R235). -/
def execSegmentOpen (st : Stall) (seed : SeedIn) (s : State) : Host.Outcome State Fault Refusal :=
  .next (
    match s.stalls[st].cap with
    | none => s
    | some c =>
      if !openDue s c then s
      else
        let s := applyRetire s st
        match makeRoom s st c 0 with
        | (s, none) => settleIdle (tryFinish (markEnd s st 2) st) st seed
        | (s, some ring) => openSegment s st seed ring)

end Sys2Proof.Machine
end

