-- ==== Sys2Proof/Machine/CourseLoad.lean ====
section
/-!
DEFINITION. The course image: its layout, its checks, its load into an engine, and `course_query`.
-/

namespace Sys2Proof.Machine

/-! ## The layout -/

/-- The counts of an image's header (R171). -/
structure Counts where
  fences : Nat
  pats : Nat
  rngs : Nat
  ctrs : Nat
  tmrs : Nat
  anas : Nat
  lats : Nat
  deriving DecidableEq, Repr

/-- The counts as the header gives them (R171). -/
def countsOf (l : List Byte) : Counts :=
  { fences := leAt l 4 1, pats := leAt l 5 1, rngs := leAt l 6 1, ctrs := leAt l 7 1, tmrs := leAt l 8 1, anas := leAt l 9 1, lats := leAt l 10 1 }

/-- Offsets of the seven sections (R170). -/
def patOff (i : Nat) : Nat := 32 + 32 * i
def rngOff (c : Counts) (i : Nat) : Nat := patOff c.pats + 16 * i
def ctrOff (c : Counts) (i : Nat) : Nat := rngOff c c.rngs + 16 * i
def tmrOff (c : Counts) (i : Nat) : Nat := ctrOff c c.ctrs + 16 * i
def anaOff (c : Counts) (i : Nat) : Nat := tmrOff c c.tmrs + 8 * i
def latOff (c : Counts) (i : Nat) : Nat := anaOff c c.anas + 16 * i
def exitOff (c : Counts) (f x : Nat) : Nat := latOff c c.lats + 128 * f + 32 * x

/-- The image length of R170. -/
def imageLength (c : Counts) : Nat := exitOff c c.fences 0

/-- A pattern entry (R172). -/
def parsePattern (l : List Byte) (o : Nat) : PatternEntry :=
  { mask := BitVec.ofNat 48 (leAt l o 6), value := BitVec.ofNat 48 (leAt l (o + 6) 6), edge := BitVec.ofNat 96 (leAt l (o + 12) 12)
    edgeAny := leAt l (o + 0x18) 1 % 2 == 1 }

/-- A range entry (R173). -/
def parseRange (l : List Byte) (o : Nat) : RangeEntry :=
  let f := leAt l (o + 2) 1
  { firstTeam := leAt l o 1, width := leAt l (o + 1) 1, lsbFirst := f % 2 == 1, signed := f / 2 % 2 == 1, outside := f / 4 % 2 == 1
    lower := BitVec.ofNat 48 (leAt l (o + 4) 6), upper := BitVec.ofNat 48 (leAt l (o + 10) 6) }

/-- A counter entry (R174). -/
def parseCounter (l : List Byte) (o : Nat) : CounterEntry :=
  let f := leAt l (o + 13) 1
  let src := leAt l (o + 12) 1
  { preset := BitVec.ofNat 48 (leAt l o 6), compare := BitVec.ofNat 48 (leAt l (o + 6) 6), source := if src = 0xFF then none else some src
    cmp := f % 4, keep := f / 4 % 2 == 1 }

/-- A timer entry (R174). -/
def parseTimer (l : List Byte) (o : Nat) : TimerEntry :=
  let f := leAt l (o + 6) 1
  { limit := BitVec.ofNat 48 (leAt l o 6), autostart := f % 2 == 1, keep := f / 2 % 2 == 1 }

/-- An analogue entry (R175). -/
def parseAnalogue (l : List Byte) (o : Nat) : AnalogueEntry :=
  let w := BitVec.ofNat 64 (leAt l o 8)
  { source := bits w 63 60, below := bit w 59, threshold := BitVec.ofNat 20 (bits w 39 20), hyst := BitVec.ofNat 20 (bits w 19 0) }

/-- A latch entry (R176). -/
def parseLatch (l : List Byte) (o : Nat) : LatchEntry :=
  { channels := BitVec.ofNat 48 (leAt l o 6), conds := BitVec.ofNat 4 (leAt l (o + 6) 1) }

/-- A term reference (R177). -/
def parseTerm (w : Nat) : TermRef := { negate := w / 2 ^ 15 % 2 == 1, kind := w / 2 ^ 11 % 16, index := w % 2 ^ 11 }

/-- An exit entry (R178). -/
def parseExit (l : List Byte) (o : Nat) : ExitEntry :=
  let h (k : Nat) : BitVec 16 := BitVec.ofNat 16 (leAt l (o + k) 2)
  { terms := (List.range 4).map fun i => parseTerm (leAt l (o + 2 * i) 2)
    actions := h 8, nextFence := leAt l (o + 10) 1, trigOut := BitVec.ofNat 8 (leAt l (o + 11) 1), counterOp := h 12, timerOp := h 14
    xtrigMask := h 16, markerValue := h 18, refValue := h 20 }

/-- The course that an image spells (R170 to R179). -/
def parseCourse (l : List Byte) : Course :=
  let c := countsOf l
  { startFence := leAt l 3 1, startStored := leAt l 11 1 % 2 == 1
    patterns := (List.range c.pats).map fun i => parsePattern l (patOff i)
    ranges := (List.range c.rngs).map fun i => parseRange l (rngOff c i)
    counters := (List.range c.ctrs).map fun i => parseCounter l (ctrOff c i)
    timers := (List.range c.tmrs).map fun i => parseTimer l (tmrOff c i)
    analogues := (List.range c.anas).map fun i => parseAnalogue l (anaOff c i)
    latches := (List.range c.lats).map fun i => parseLatch l (latOff c i)
    fences := (List.range c.fences).map fun f => (List.range 4).map fun x => parseExit l (exitOff c f x)
    crc := BitVec.ofNat 32 (leAt l 0x1C 4) }

/-! ## The checks of form -/

/-- The first offset of a list of offsets with a verdict that is bad. -/
def firstBad (l : List (Nat × Bool)) : Option Nat := (l.find? fun x => x.2).map fun x => x.1

/-- Bytes of an image that are not all zero. -/
def nonZero (l : List Byte) (o k : Nat) : Bool := leAt l o k != 0

/-- Faults of the header (R171). -/
def headerChecks (l : List Byte) : List (Nat × Bool) :=
  let c := countsOf l
  [(0, leAt l 0 1 != 0x43), (1, leAt l 1 1 != 0x52), (2, leAt l 2 1 != 1), (3, c.fences ≤ leAt l 3 1), (4, c.fences == 0 || 16 < c.fences),
   (5, 64 < c.pats), (6, 16 < c.rngs), (7, 32 < c.ctrs), (8, 32 < c.tmrs), (9, 16 < c.anas), (10, 8 < c.lats), (11, 2 ≤ leAt l 11 1),
   (16, nonZero l 16 12)]

/-- Faults of a pattern entry (R172). -/
def patternChecks (l : List Byte) (o : Nat) : List (Nat × Bool) :=
  let p := parsePattern l o
  [(o + 6, p.value &&& ~~~ p.mask != 0), (o + 0x18, 2 ≤ leAt l (o + 0x18) 1), (o + 0x19, nonZero l (o + 0x19) 7)]

/-- A bound is `width` bits, extended to 48 (R173). -/
def boundFits (r : RangeEntry) (b : BitVec 48) : Bool :=
  if r.signed then decide (-(2 ^ (r.width - 1) : Int) ≤ b.toInt) && decide (b.toInt < 2 ^ (r.width - 1)) else b.toNat < 2 ^ r.width

/-- Faults of a range entry (R173). -/
def rangeChecks (l : List Byte) (o : Nat) : List (Nat × Bool) :=
  let r := parseRange l o
  let below := if r.signed then decide (r.upper.toInt < r.lower.toInt) else decide (r.upper.toNat < r.lower.toNat)
  [(o, 7 < r.firstTeam), (o + 1, r.width == 0 || 48 - 6 * r.firstTeam < r.width), (o + 2, 8 ≤ leAt l (o + 2) 1), (o + 3, nonZero l (o + 3) 1),
   (o + 4, !boundFits r r.lower), (o + 10, !boundFits r r.upper || below)]

/-- Faults of a counter entry (R174). -/
def counterChecks (l : List Byte) (c : Counts) (o : Nat) : List (Nat × Bool) :=
  let f := leAt l (o + 13) 1
  let src := leAt l (o + 12) 1
  [(o + 12, src != 0xFF && c.pats ≤ src), (o + 13, f % 4 == 3 || 8 ≤ f), (o + 14, nonZero l (o + 14) 2)]

/-- Faults of a timer entry (R174). -/
def timerChecks (l : List Byte) (o : Nat) : List (Nat × Bool) :=
  let f := leAt l (o + 6) 1
  [(o, leAt l o 6 == 0), (o + 6, 3 ≤ f), (o + 7, nonZero l (o + 7) 9)]

/-- Faults of an analogue entry (R175). -/
def analogueChecks (l : List Byte) (o : Nat) : List (Nat × Bool) :=
  let w := BitVec.ofNat 64 (leAt l o 8)
  [(o, bits w 58 40 != 0 || 0x7FFFF < bits w 19 0)]

/-- Faults of a latch entry (R176). -/
def latchChecks (l : List Byte) (o : Nat) : List (Nat × Bool) :=
  let f := leAt l (o + 6) 1
  [(o + 6, f == 0 || 16 ≤ f), (o + 7, nonZero l (o + 7) 9)]

/-- How many indices a kind of term has; none for the kinds refused (the table of terms, R177). -/
def kindCount (c : Counts) (kind : Nat) : Nat :=
  match kind with
  | 0 => 1
  | 1 => c.pats
  | 2 => c.rngs
  | 3 => c.ctrs
  | 4 => c.tmrs
  | 5 => c.anas
  | 6 => 4
  | 7 => 4
  | 8 => 16
  | 9 => 6
  | 10 => 8
  | 11 => c.lats
  | _ => 0

/-- A term reference is refused (R177). -/
def badTerm (c : Counts) (r : TermRef) : Bool := kindCount c r.kind ≤ r.index || (r.kind == 0 && r.negate)

/-- An operation word on a counter or timer is refused, n of them being declared (R178). -/
def badOp (w : BitVec 16) (n : Nat) : Bool := bits w 15 13 != 0 || bits w 7 2 != 0 || n ≤ bits w 12 8

/-- Faults of an exit entry (R178 to R180). -/
def exitChecks (l : List Byte) (c : Counts) (o : Nat) : List (Nat × Bool) :=
  let x := parseExit l o
  let a (k : Nat) : Bool := bit x.actions k
  if !a 0 then [(o, nonZero l o 32)]
  else
    ((x.terms.zipIdx).map fun t => (o + 2 * t.2, badTerm c t.1)) ++
    [(o + 8, bits x.actions 15 11 != 0 || (a 3 && a 4)),
     (o + 10, if a 1 then c.fences ≤ x.nextFence else x.nextFence != 0),
     (o + 11, if a 8 then bits x.trigOut 7 6 == 3 || bits x.trigOut 5 4 != 0 else x.trigOut != 0),
     (o + 12, if a 5 then badOp x.counterOp c.ctrs else x.counterOp != 0),
     (o + 14, if a 6 then badOp x.timerOp c.tmrs else x.timerOp != 0),
     (o + 16, !a 7 && x.xtrigMask != 0), (o + 18, !a 10 && x.markerValue != 0), (o + 20, !a 9 && x.refValue != 0), (o + 22, nonZero l (o + 22) 10)]

/-- The offset of the first fault of form of an image (R171 to R180). -/
def imageFault (l : List Byte) : Option Nat :=
  match firstBad (headerChecks l) with
  | some o => some o
  | none =>
    let c := countsOf l
    let sect (n : Nat) (f : Nat → List (Nat × Bool)) : List (Nat × Bool) := (List.range n).flatMap f
    firstBad (
      sect c.pats (fun i => patternChecks l (patOff i)) ++ sect c.rngs (fun i => rangeChecks l (rngOff c i)) ++
      sect c.ctrs (fun i => counterChecks l c (ctrOff c i)) ++ sect c.tmrs (fun i => timerChecks l (tmrOff c i)) ++
      sect c.anas (fun i => analogueChecks l (anaOff c i)) ++ sect c.lats (fun i => latchChecks l (latOff c i)) ++
      sect c.fences (fun f => sect 4 fun x => exitChecks l c (exitOff c f x)))

/-- The image's CRC-32C, its field taken as 0 (R171). -/
def imageCrc (l : List Byte) : BitVec 32 := crc32c (l.take 0x1C ++ [0, 0, 0, 0] ++ l.drop 0x20)

/-! ## The checks of ownership and pool -/

/-- The first channel of a mask that the stall does not own. -/
def foreignChan (g : Grant) (m : ChanMask) : Option Nat := (ones m).find? fun c => !bit g.teams (c / 6)

/-- The qualifier of a channel (R154). -/
def qualifier (p : PatternEntry) (c : Nat) : Nat := bits p.edge (2 * c + 1) (2 * c)

/-- The channels that a pattern names (R155). -/
def patternChans (p : PatternEntry) : ChanMask := maskOf 48 fun c => bit p.mask c || qualifier p c != 0

/-- The channels of a bus (R156). -/
def busChans (r : RangeEntry) : ChanMask := maskOf 48 fun c => 6 * r.firstTeam ≤ c && c < 6 * r.firstTeam + r.width

/-- A port holds a channel of the stall. -/
def ownsOnPort (g : Grant) (p : Nat) : Bool := (List.range 8).any fun k => bit g.teams ((8 * p + k) / 6)

/-- What of a course lies beyond the grant: reason, resource and index (R155, R156, R159, R161, R166, R361). -/
def courseDenied (g : Grant) (p : Course) : Option (Reason × Nat × Nat) :=
  let chan (m : ChanMask) : Option (Reason × Nat × Nat) := (foreignChan g m).map fun c => (.notGranted, 1, c)
  let exits := p.fences.flatten
  (p.patterns.findSome? fun x => chan (patternChans x)).or
  ((p.ranges.findSome? fun x => chan (busChans x)).or
  ((p.analogues.findSome? fun x => if bit g.chains (x.source % 8) then none else some (.notGranted, 3, x.source % 8)).or
  ((exits.findSome? fun x => x.terms.findSome? fun t =>
      if t.kind == 9 && !ownsOnPort g t.index then some (.notGranted, 5, t.index) else none).or
  ((p.latches.findSome? fun x => chan x.channels).or
  (if !g.trigOut && exits.any (fun x => bit x.actions 8) then some (.noPermission, 0, 0) else none)))))

/-- An exit is in use (R179). -/
def exitEnabled (x : ExitEntry) : Bool := bit x.actions 0

/-- Pool entries of one sort that a stall other than n holds (R143). -/
def poolTaken (s : State) (n : Stall) (f : Course → Nat) : Nat :=
  ((allStalls.filter fun k => k != n).map fun k => match s.stalls[k].course with
    | some p => f p
    | none => 0).sum

/-- The pool is short for a course (R24, R143). -/
def poolShort (s : State) (n : Stall) (p : Course) : Bool :=
  64 < poolTaken s n (fun c => c.patterns.length) + p.patterns.length || 16 < poolTaken s n (fun c => c.ranges.length) + p.ranges.length ||
  32 < poolTaken s n (fun c => c.counters.length) + p.counters.length || 32 < poolTaken s n (fun c => c.timers.length) + p.timers.length

/-! ## The load -/

/-- Pool entries held, as R426 packs them. -/
def poolWord (p : Option Course) : Dword :=
  match p with
  | none => 0
  | some c => fld c.patterns.length 24 ||| fld c.ranges.length 16 ||| fld c.counters.length 8 ||| fld c.timers.length 0

/-- The engine of a stall takes a course (R145). -/
def putCourse (s : State) (n : Stall) (p : Course) : State :=
  modStall s n fun x => { x with
    course := some p
    eng := {
      fence := p.startFence, storing := p.startStored
      counters := p.counters.map fun c => c.preset
      timers := p.timers.map fun _ => {}
      analogues := p.analogues.map fun _ => {}
      latches := p.latches.map fun e => { on := watchedSet s e, onset := s.tb.now, changedAt := s.tb.now }
      refs := List.replicate 4 {}
      ctrSince := p.counters.map fun _ => {}
      tmrSince := p.timers.map fun _ => {}
      tin := x.eng.tin
      evalAt := x.eng.evalAt } }

/-- `invalid` of `course_load`: the field or none, and the offset in the image (R409). -/
def loadInvalid (p : Pay) (off : Dword) : Pay := { p with p5 := off }

/-- The outcome of a `course_load` whose image has been read (R180, R426). -/
def finishCourseLoad (s : State) (f : Fn) (tag : BitVec 16) (len : Nat) (l : List Byte) : State :=
  if s.stalls[f].grant.engine.isNone then denyTag s f tag .notGranted 4 0
  else if armedOrCapturing s f then completeTag s f tag .busy {}
  else if leAt l 0x0C 4 ≠ len ∨ imageLength (countsOf l) ≠ len then completeTag s f tag .invalid (loadInvalid (fieldPay 4 0) 0x0C)
  else if leAt l 0x1C 4 ≠ (imageCrc l).toNat then completeTag s f tag .checkFailed {}
  else match imageFault l with
    | some o => completeTag s f tag .invalid (loadInvalid noField (fld o 0))
    | none =>
      let p := parseCourse l
      match courseDenied s.stalls[f].grant p with
      | some (r, k, i) => denyTag s f tag r k i
      | none =>
        if poolShort s f p then completeTag s f tag .noResource {}
        else completeTag (putCourse s f p) f tag .ok { p4 := poolWord (some p) }

/-- The oldest loads whose image is there are settled, at most k of them: pooled allocations are decided in the order the commands were
taken (R26, log entry 245). -/
def settleLoads : Nat → State → State
  | 0, s => s
  | k + 1, s =>
    match s.groom.courseQ with
    | [] => s
    | w :: rest =>
      match w.data with
      | none => s
      | some l => settleLoads k (finishCourseLoad (modGroom s fun g => { g with courseQ := rest }) w.fn w.tag w.len l)

/-- Every load that may be settled is. -/
def settleAll (s : State) : State := settleLoads s.groom.courseQ.length s

/-- The image of a load has been read, or its read has failed (R381, R426). -/
def imageRead (s : State) (f : Fn) (tag : BitVec 16) (data : HostData) : State :=
  match data with
  | .failed =>
    settleAll (completeTag (modGroom s fun g => { g with courseQ := g.courseQ.filter fun w => !(w.fn == f && w.tag == tag) })
      f tag .dataError {})
  | .bytes l =>
    settleAll (modGroom s fun g => { g with courseQ := g.courseQ.map fun w =>
      if w.fn == f && w.tag == tag then { w with data := some l } else w })

/-- COURSE_LOAD: the checks that need no image, then the read (R142, R145, R180, R426). -/
def execCourseLoad (s : State) : Host.Outcome State Fault Refusal :=
  .next (withCmd s (isOp 0x30) fun s t =>
    if s.stalls[t.fn].grant.engine.isNone then deny s t .notGranted 4 0
    else if armedOrCapturing s t.fn then complete s t .busy
    else match reservedBit t.e [0xFFFFFFFF, 0xFFFFFFFF, 0x1FFF] with
      | some (d, b) => completeAt s t .invalid (loadInvalid (fieldPay d b) 0xFFFFFFFF)
      | none =>
        let len := bits (dw t.e 4) 12 0
        if bits (dw t.e 2) 2 0 ≠ 0 then completeAt s t .invalid (loadInvalid (fieldPay 2 0) 0xFFFFFFFF)
        else if len = 0 ∨ 5664 < len then completeAt s t .invalid (loadInvalid (fieldPay 4 0) 0xFFFFFFFF)
        else
          let s := modGroom (handOff s t .read 0) fun g => { g with courseQ := g.courseQ ++ [{ fn := t.fn, tag := tagOf t.e, len := len }] }
          issueRead s t.fn (tagOf t.e) .image (wide t.e 2) len)

/-! ## The query -/

/-- An entry of the missed-trigger log (R201). -/
def missedBytes (m : MissedEntry) : List Byte :=
  leBytes m.time 8 ++ leBytes m.seg 3 ++ [m.reason, m.fence, m.exit, BitVec.ofNat 8 m.exact.toNat, 0]

/-- The mean lag of a channel in 1/256 sample, once it rests on 16 lags (R343, R345). -/
def lagMean (l : LagSt) : Option Int := if l.total < 16 then none else some ((256 * l.lags.sum).tdiv l.lags.length)

/-- `lag_mean`: the channel mean of the largest magnitude (R345). -/
def worstLag (r : Reference) : Int :=
  (r.lags.filterMap lagMean).foldl (fun a b => if a.natAbs < b.natAbs then b else a) 0

/-- Bytes of a list, cut or filled with zeros to a length. -/
def padTo (l : List Byte) (n : Nat) : List Byte := l.take n ++ List.replicate (n - l.length) 0

/-- The 848 bytes of `course_query` (R427). -/
def courseResult (s : State) (n : Stall) : List Byte :=
  let x := s.stalls[n]
  let r := x.ref
  dwBytes [flag x.course.isSome 31 ||| flag x.grant.engine.isSome 30 ||| flag x.eng.running 29 ||| fld x.eng.fence 0, poolWord x.course,
    ((x.course.map fun c => c.crc).getD 0), fld x.masked 0, fld x.missedTotal 0, fld x.segsClosed 0, 0, 0] ++
  padTo (x.missedLog.flatMap missedBytes) 256 ++
  dwBytes [flag r.valid 31 ||| flag r.play.isSome 30 ||| fld r.teams.toNat 16 ||| fld r.stored 8, fld x.grant.refArea.length 0] ++
  leBytes (BitVec.ofNat 64 r.length) 8 ++ dwBytes [fld (sat 32 r.starts) 0, fld (sat 32 r.ignored) 0] ++
  leBytes (BitVec.ofNat 64 (sat 48 r.mismatches)) 8 ++ dwBytes [fld (sat 32 r.poison) 0, sfld (worstLag r) 32 0] ++ List.replicate 8 0 ++
  padTo (x.eng.counters.flatMap fun c => leBytes c 8) 256 ++ padTo (x.eng.timers.flatMap fun t => leBytes t.value 8) 256

/-- COURSE_QUERY (R411, R427). -/
def execCourseQuery (s : State) : Host.Outcome State Fault Refusal :=
  .next (withCmd s (isOp 0x31) fun s t => resultCommand s t (courseResult s t.fn) {})

end Sys2Proof.Machine
end

