-- ==== Sys2Proof/Machine/Pods.lean ====
section
/-!
DEFINITION. Pod ports: the descriptor and its validation, plug, unplug and overcurrent, and the spur button.
-/

namespace Sys2Proof.Machine

/-! ## The descriptor -/

/-- Byte k of a descriptor. -/
def descByte (d : List Byte) (k : Nat) : Nat := (d.getD k 0).toNat

/-- The 64 bytes read from the EEPROM (R52). -/
def descBytes (l : List Byte) : List Byte := (List.range 64).map fun k => l.getD k 0

/-- The header fields, the reserved bytes and the CRC of a descriptor are right (R52, R53). -/
def descFormatOk (d : List Byte) : Bool :=
  descByte d 0 == 0x57 && descByte d 1 == 0x50 && descByte d 2 == 1 && descByte d 3 == 64 &&
  (d.drop 0x38).take 6 == List.replicate 6 0 && leAt d 0x3E 2 == (crc16 (d.take 0x3E)).toNat

/-- The number of channels, the map and the attenuations of fitted channels are in range (R53). -/
def descFieldsOk (d : List Byte) : Bool :=
  1 ≤ descByte d 0x0B && descByte d 0x0B ≤ 8 &&
  (List.range 8).all fun k =>
    let m := descByte d (0x2C + k)
    m == 0xFF || (m ≤ 7 && 0x100 ≤ leAt d (0x0C + 2 * k) 2)

/-- What the device reports of a descriptor read: the 64 bytes, and 0 absent, 1 invalid, 2 valid (R53). -/
def readDescriptor : Option (List Byte) → List Byte × BitVec 2
  | none => (defaultDescriptor, 0)
  | some l => (descBytes l, if descFormatOk (descBytes l) && descFieldsOk (descBytes l) then 2 else 1)

/-- The fields that tell one pod from another: `pod_type`, `serial` and the per-channel values (R57). -/
def descKey (d : List Byte) : List Byte := (d.drop 4).take 6 ++ (d.drop 0x0C).take 40

/-! ## Events of a port -/

/-- An event about a port to its stalls, each with its own channels, and to the physical function with all eight (R58, R460). -/
def podEvent (s : State) (p : Fin 6) (code : Nat) (t : Time) (p4 p5 p6 p7 : Dword) : State :=
  sendEvents s ((withPf (stallsOfPort s p)).map fun n =>
    (n, event code n.val t (p4 ||| fld (if n = 0 then 0xFF else portChansOf s p n) 8 ||| fld p.val 0) p5 p6 p7))

/-- The descriptor's bytes are taken over and `pod_plug` is sent (R57, R460). -/
def reportPlug (s : State) (p : Fin 6) (bytes : Option (List Byte)) : State :=
  let d := readDescriptor bytes
  let changed := match s.ports[p].last with
    | none => true
    | some l => descKey l != descKey d.1
  let s := modPort s p fun x => { x with desc := d.1, descState := d.2, changed := changed, last := some d.1, phase := .idle }
  podEvent s p 0x05 s.ports[p].plugTime (fld d.2.toNat 4 ||| flag changed 3) (fld (leAt d.1 0x3E 2) 16 ||| fld (leAt d.1 4 2) 0)
    (fld (leAt d.1 6 4) 0) (fld (descByte d.1 0x0B) 8 ||| fld (descByte d.1 0x0A) 0)

/-- Every channel of a port is forced to 0 without a transition, its latches clear and inactive, and the latch terms with them (R56, R57,
R161). -/
def forcePort (s : State) (p : Fin 6) : State :=
  let s := { s with chans := vmap s.chans fun i c =>
      if i.val / 8 = p.val then
        { restartDwell (clearLatches c) s.tb.now with
          forced := true, level := false, before := false, samples := 0, trans := 0, edge := 0, line := [], base := false, overs := 0, unders := 0 }
      else c }
  (stallsOfPort s p).foldl dropLatchTerms s

/-- Ports with a channel of some teams (R32). -/
def portsOf (teams : BitVec 8) : BitVec 6 := maskOf 6 fun p => (List.range 8).any fun k => bit teams ((8 * p + k) / 6)

/-- A port may be powered: not one without a watched team in Dikewatch, which is as in Dormant (R508). -/
def mayPower (s : State) (p : Fin 6) : Bool := s.power.st != .dikewatch || bit (portsOf s.dike.teams) p.val

/-- A plug is recognised: power on, the settling begins, the channels stay forced until their release; on a port with no unplug before it
they are forced from here on (R57, log entry 253). -/
def recognisePlug (s : State) (p : Fin 6) (t : Time) : State :=
  modPort (forcePort s p) p fun x => { x with present := true, pwr := mayPower s p, phase := .settling, plugTime := t, overcurrent := false, desc := defaultDescriptor, descState := 0 }

/-- A plug whose descriptor has not been read is reported without one before its unplug (R33). -/
def reportUnread (s : State) (p : Fin 6) : State := if s.ports[p].phase = .idle then s else reportPlug s p none

/-- The five steps of an unplug (R56). -/
def recogniseUnplug (s : State) (p : Fin 6) (t : Time) (overcurrent : Bool) : State :=
  let s := modPort (forcePort s p) p fun x => { x with
    present := false, pwr := false, phase := .idle, overcurrent := overcurrent, seenHigh := !overcurrent
    desc := defaultDescriptor, descState := 0 }
  let s := (stallsOfPort s p).foldl (fun s n =>
    marker s n 0x4 t (BitVec.ofNat 64 (p.val * 2 ^ 56 + portChansOf s p n * 2 ^ (8 * p.val)))) s
  podEvent s p 0x06 t (flag overcurrent 6) 0 0 0

/-- Something recognised in Dormant is held, at most 16 of each sort, the newest kept (R510). -/
def holdPress (s : State) (kind : BitVec 2) (index : Nat) (t : Time) : State :=
  let sort (k : BitVec 2) : Nat := min k.toNat 2
  let old := s.power.heldKeys
  let same := old.filter fun h => sort h.kind == sort kind
  let kept := if same.length < 16 then old else old.eraseP fun h => h == same.getLastD h
  { s with power := { s.power with heldKeys := { kind := kind, index := index, time := t } :: kept } }

/-- Pins of pods and buttons are recognised: from boot step 12 on, and in every Dormant (R55, R508). -/
def recognises (s : State) : Bool := s.boot.phase == .ready || s.power.st == .dormant

/-! ## The rows -/

/-- POD_PLUG: a plug is recognised; in Dormant it is held; after an overcurrent PRESENT# must have been high (R33, R55, R57, R510). -/
def execPodPlug (p : Fin 6) (t : Time) (s : State) : Host.Outcome State Fault Refusal :=
  .next (
    if !recognises s || s.ports[p].present || !s.ports[p].seenHigh then s
    else if s.power.st = .dormant then holdPress (modPort s p fun x => { x with present := true }) 2 p.val t
    else recognisePlug s p t)

/-- POD_PWR_SETTLED: the descriptor read begins (R57). -/
def execPodPwrSettled (p : Fin 6) (s : State) : Host.Outcome State Fault Refusal :=
  .next (if s.ports[p].phase = .settling ∧ s.ports[p].pwr ∧ s.power.st ≠ .dormant then modPort s p fun x => { x with phase := .reading } else s)

/-- POD_DESCRIPTOR_READ: the report, then the release of the channels whose stall is not capturing (R53, R57). -/
def execPodDescriptorRead (p : Fin 6) (bytes : Option (List Byte)) (seed : SeedIn) (s : State) : Host.Outcome State Fault Refusal :=
  .next (if s.ports[p].phase = .reading ∧ s.power.st ≠ .dormant then releaseIdle (reportPlug s p bytes) p seed else s)

/-- POD_UNPLUG: an unplug is recognised; a port switched off for overcurrent only notes the high level (R33, R56, R510). -/
def execPodUnplug (p : Fin 6) (t : Time) (s : State) : Host.Outcome State Fault Refusal :=
  .next (
    if !recognises s then s
    else if !s.ports[p].present then modPort s p fun x => { x with seenHigh := true }
    else if s.power.st = .dormant then holdPress (modPort s p fun x => { x with present := false }) 3 p.val t
    else recogniseUnplug s p t false)

/-- POD_OVERCURRENT: an unread descriptor is reported absent, then the port is unplugged (R33). -/
def execPodOvercurrent (p : Fin 6) (t : Time) (s : State) : Host.Outcome State Fault Refusal :=
  .next (
    if !s.ports[p].pwr then s
    else
      recogniseUnplug (reportUnread s p) p t true)

/-- The spur press as markers, events and term pulses (R59, R116, R461). -/
def reportSpur (s : State) (p : Fin 6) (t : Time) : State :=
  let l := stallsOfPort s p
  let s := l.foldl (fun s n => marker s n 0x1 t (BitVec.ofNat 64 p.val)) s
  sendEvents s (l.map fun n => (n, event 0x08 n.val t (fld (portChansOf s p n) 8 ||| fld p.val 0) 0 0 0))

/-- The stalls whose engine runs or may run in the next stride: those with a capture (R152, R161). -/
def engineStalls (s : State) : List Stall := allStalls.filter fun n => s.stalls[n].eng.running || s.stalls[n].cap.isSome

/-- The spur term of a port is raised in every engine for the next stride (R59, R161, R162). -/
def raiseSpur (s : State) (p : Fin 6) : State :=
  (engineStalls s).foldl (fun s n => raisePulse s n .spur p.val (s.tb.now + 256) (s.tb.now + 256) false) s

/-- SPUR_PRESS: ignored without a recognised pod; held in Dormant (R59, R510). -/
def execSpurPress (p : Fin 6) (t : Time) (s : State) : Host.Outcome State Fault Refusal :=
  .next (
    if !recognises s || s.ports[p].spur then s
    else
      let s := modPort s p fun x => { x with spur := true }
      if !s.ports[p].present then s
      else if s.power.st = .dormant then holdPress s 1 p.val t
      else raiseSpur (reportSpur s p t) p)

/-- SPUR_RELEASE (R59). -/
def execSpurRelease (p : Fin 6) (s : State) : Host.Outcome State Fault Refusal :=
  .next (modPort s p fun x => { x with spur := false })

end Sys2Proof.Machine
end

