-- ==== Sys2Proof/Machine/Probe.lean ====
section
/-!
DEFINITION. The probe commands: settings of a team, the probe query, and the clearing of latches.
-/

namespace Sys2Proof.Machine

/-- The channels that a running `selftest` or `calibrate` names (R61). -/
def testedChans (s : State) : ChanMask :=
  let cal : ChanMask := maskOf 48 fun c =>
    s.jobs.cal.any fun j => bit j.passed (c / 8) || bit j.failedT (c / 8) || j.todo.any fun p => p.val == c / 8
  s.jobs.tests.foldl (fun m t => m ||| t.chans) cal

/-- Channel k of team t. -/
def teamChan (t : Fin 8) (k : Fin 6) : Fin 48 := ⟨6 * t.val + k.val, by omega⟩

/-- The bit of a setting at which R36 or R37 refuses it. -/
def settingFault (w : BitVec 64) : Option Nat :=
  if bits w 43 41 ≠ 0 then some 41
  else if bits w 58 57 ≠ 0 then some 57
  else if chUpper w < chLower w + 2 then some 12
  else if chDeskew w < -2048 ∨ 2048 < chDeskew w then some 44
  else if chDwell w = 0 ∨ 100000 < chDwell w then some 24
  else none

/-- The team of `probe_config` (R421). -/
def configTeam (e : SqEntry) : Fin 8 := ⟨bits (dw e 2) 2 0, by unfold bits; simp; omega⟩

/-- The setting given for channel k (R421). -/
def configSetting (e : SqEntry) (k : Fin 6) : BitVec 64 := wide e (4 + 2 * k.val)

/-- The field of `probe_config` that is at fault (R36, R37, R409). -/
def configFault (e : SqEntry) : Option (Nat × Nat) :=
  match reservedBit e ([7, 0x3F] ++ List.replicate 12 0xFFFFFFFF) with
  | some x => some x
  | none => (List.finRange 6).findSome? fun k =>
    if bit (dw e 3) k.val then none
    else (settingFault (configSetting e k)).map fun b => (4 + 2 * k.val + b / 32, b % 32)

/-- The settings of a team are written: now, or held for the next segment boundary (R38). -/
def writeSettings (s : State) (n : Stall) (e : SqEntry) (seed : SeedIn) : State :=
  (List.finRange 6).foldl (fun s k =>
    if bit (dw e 3) k.val then s
    else if capturing s n || segmentOpen s n then modChan s (teamChan (configTeam e) k) fun x => { x with pend := some (configSetting e k) }
    else applySetting s seed (teamChan (configTeam e) k) (configSetting e k)) s

/-- PROBE_CONFIG (R36 to R38, R47, R421). -/
def execProbeConfig (seed : SeedIn) (s : State) : Host.Outcome State Fault Refusal :=
  .next (withCmd s (isOp 0x20) fun s t =>
    let team := configTeam t.e
    if !bit s.stalls[t.fn].grant.teams team.val then deny s t .notGranted 2 team.val
    else if testedChans s &&& teamChans (BitVec.ofNat 8 (2 ^ team.val)) ≠ 0 then complete s t .busy
    else match configFault t.e with
      | some (d, b) => invalidAt s t d b
      | none => completeAt (writeSettings s t.fn t.e seed) t .ok
          { p4 := flag (capturing s t.fn && bits (dw t.e 3) 5 0 != 0x3F) 0 })

/-- The `channel_state` byte (R422). -/
def channelByte (s : State) (c : Fin 48) : Byte :=
  let x := s.chans[c]
  BitVec.ofNat 8 (x.above.toNat + 2 * x.below.toNat + 4 * x.band.toNat + 8 * x.open_.toNat + 16 * x.seedBand.toNat +
    32 * s.tiles[portOf c].uncal.toNat + 64 * x.forced.toNat)

/-- The `port_status` dword (R422). -/
def portDword (x : PodPort) : Dword := flag x.present 31 ||| flag x.pwr 30 ||| fld x.descState.toNat 28 ||| flag x.overcurrent 27

/-- The 880 bytes of `probe_query` (R422). -/
def probeResult (s : State) (n : Stall) : List Byte :=
  let carries (p : Fin 6) : Bool := portChansOf s p n != 0
  allChans.flatMap (fun c => leBytes (if ownsChan s n c then s.chans[c].setting else 0) 8) ++
  allChans.map (fun c => if ownsChan s n c then channelByte s c else 0) ++
  dwBytes ((List.finRange 6).map fun p => if carries p then portDword s.ports[p] else 0) ++
  dwBytes ((List.finRange 8).map fun k => if bit s.stalls[n].grant.chains k.val then chainWord s.chains[k] else 0) ++
  List.replicate 8 0 ++
  (List.finRange 6).flatMap fun p => if carries p then descBytes s.ports[p].desc else List.replicate 64 0

/-- PROBE_QUERY (R411, R422). -/
def execProbeQuery (s : State) : Host.Outcome State Fault Refusal :=
  .next (withCmd s (isOp 0x21) fun s t => resultCommand s t (probeResult s t.fn) {})

/-- `latch_clear` for the channels a command names: a channel the stall does not own turns it away; otherwise the
named conditions' latches of all of them are released together, and the completion carries the channels that had one
set. Follows: R42, R43, R423. -/
def clearNamed (s : State) (t : Taken) (named : ChanMask) (conds : BitVec 4) : State :=
  match allChans.find? fun c => bit named c.val && !ownsChan s t.fn c with
  | some c => deny s t .notGranted 1 c.val
  | none =>
    let l := allChans.filter fun c => bit named c.val
    let had := chanMaskOf (l.filter fun c =>
      (bit conds 0 && s.chans[c].above) || (bit conds 1 && s.chans[c].below) || (bit conds 2 && s.chans[c].band) ||
      (bit conds 3 && s.chans[c].open_))
    let s := clearChans s conds l
    completeAt s t .ok { p4 := (chanPay had).1, p5 := (chanPay had).2 }

/-- LATCH_CLEAR (R42, R43, R423). -/
def execLatchClear (s : State) : Host.Outcome State Fault Refusal :=
  .next (withCmd s (isOp 0x22) fun s t =>
    match reservedBit t.e [0xFFFFFFFF, 0xFFFF, 0xF] with
    | some (d, b) => invalidAt s t d b
    | none => clearNamed s t (chanField t.e 2) (if bits (dw t.e 4) 3 0 = 0 then 0xF else BitVec.ofNat 4 (bits (dw t.e 4) 3 0)))

end Sys2Proof.Machine
end

