-- ==== Sys2Proof/Machine/Trigger.lean ====
section
/-!
DEFINITION. A requested trigger: taken, masked, missed, or not a trigger at all.
-/

namespace Sys2Proof.Machine

/-- A requested trigger (R181 to R184). -/
structure TrigReq where
  /-- Placement. -/
  time : Time
  /-- `trigger_kind`. -/
  kind : BitVec 2
  /-- `edge_defined`. -/
  exact : Bool
  /-- The fence and exit that fired; none for `capture_force`, a `force` key, or a cross-trigger in re-arm. -/
  source : Option (Nat × Nat)
  /-- Start of the firing sample. -/
  firing : Time
  /-- A cross-trigger delivered more than 2,048 strides after its time (R495). -/
  late : Bool := false
  deriving DecidableEq, Repr

/-- What becomes of it (R193 to R200). -/
inductive TrigFate where
  | nothing
  | taken
  | masked
  | missed
  deriving DecidableEq, Repr

/-- What a request brings waits for the end of its stride (R198). -/
def owe (s : State) (n : Stall) (o : OwedTrig) : State := modCap s n fun c => { c with owed := c.owed ++ [o] }

/-- A missed trigger; reason 1 `post_fill`, 2 `rearm` (R196, R200 to R202; without an exit fence and exit are 0xFF in every case, log entry
292). -/
def missTrigger (s : State) (n : Stall) (c : Capture) (reason : Nat) (q : TrigReq) : State :=
  let seg := if reason = 2 then c.segNo % 2 ^ 20 else c.seg.num.toNat
  owe s n { missed := some {
    time := q.time, seg := BitVec.ofNat 20 seg, reason := BitVec.ofNat 8 reason, exact := q.exact
    fence := match q.source with
      | some x => BitVec.ofNat 8 x.1
      | none => 0xFF
    exit := match q.source with
      | some x => BitVec.ofNat 8 x.2
      | none => 0xFF } }

/-- `require_full` masks a trigger of an exit (R194, R495). -/
def trigMasked (c : Capture) (q : TrigReq) : Bool :=
  c.arm.requireFull && q.source.isSome &&
  (past q.time c.openAt || storedBetween c c.openAt (q.time &&& ~~~ (255 : Time)) < c.arm.pre || (q.kind == 2 && q.late))

/-- The placement lies before the oldest stored data (R188). -/
def trigTruncated (c : Capture) (t : Time) : Bool := match oldestData c with
  | some o => past t o
  | none => true

/-- The `trigger` event (R456). -/
def trigEvent (n : Stall) (c : Capture) (q : TrigReq) (truncated : Bool) : CqEntry :=
  let x := q.source.getD (0, 0)
  event 0x01 n.val q.time
    (flag q.source.isNone 31 ||| flag q.exact 30 ||| flag truncated 29 ||| fld q.kind.toNat 27 ||| fld x.2 25 ||| fld x.1 21 ||| fld c.seg.num.toNat 0)
    (if truncated then 0 else fld (sat 32 (samplesBefore c q.time)) 0) (timePay q.firing).1 (timePay q.firing).2

/-- The trigger is taken: post-trigger fill, marker and event (R182, R188, R195). -/
def takeTrigger (s : State) (n : Stall) (c : Capture) (q : TrigReq) : State :=
  let truncated := trigTruncated c q.time
  let x := q.source.getD (0, 0)
  let stop := (q.time &&& ~~~ (255 : Time)) + strides c.arm.post
  let fill := if later stop s.tb.now then stop else s.tb.now
  let s := modCap s n fun c => { c with seg := { c.seg with
    trig := some { time := q.time, kind := q.kind, exact := q.exact, truncated := truncated, fillEnd := fill } } }
  owe s n { event := some (trigEvent n c q truncated), at_ := q.time
            detail := BitVec.ofNat 64 (q.exact.toNat * 2 ^ 63 + truncated.toNat * 2 ^ 62 + x.1 * 2 ^ 32 + x.2 * 2 ^ 28 + c.seg.num.toNat) }

/-- A trigger requested while a segment is open (R193 to R196). -/
def requestOpen (s : State) (n : Stall) (c : Capture) (q : TrigReq) : State × TrigFate :=
  if c.seg.trig.isSome then (missTrigger s n c 1 q, .missed)
  else if trigMasked c q then (owe s n {}, .masked)
  else (takeTrigger s n c q, .taken)

/-- A trigger is requested in the current stride (R193 to R200). -/
def requestTrigger (s : State) (n : Stall) (q : TrigReq) : State × TrigFate :=
  let s := match s.stalls[n].cap with
    | some c => if fillOver s c then closeFill s n c else s
    | none => s
  match s.stalls[n].cap with
  | none => (s, .nothing)
  | some c =>
    match c.phase with
    | .armed => (s, .nothing)
    | .running => requestOpen s n c q
    | .closing => if c.closeCause = some 1 then (missTrigger s n c 1 q, .missed) else (s, .nothing)
    | .rearm => if c.ended.isSome then (s, .nothing) else (missTrigger s n c 2 q, .missed)

/-- A trigger forced by `capture_force` or a key (R184). -/
def forceTrigger (s : State) (n : Stall) : State × TrigFate :=
  requestTrigger s n { time := s.tb.now, kind := 3, exact := false, source := none, firing := s.tb.now }

end Sys2Proof.Machine
end

