-- ==== Sys2Proof/Machine/Arm.lean ====
section
/-!
DEFINITION. `capture_arm` with admission, `capture_stop`, `capture_force` and `capture_mark`, each as an operation that a command and a
front-panel key share.
-/

namespace Sys2Proof.Machine

/-! ## Charges -/

/-- A chain is charged: owned and enabled (R224). -/
def chargedChains (s : State) (n : Stall) : List (Fin 8) := (chainsOf s n).filter fun k => chainEnable s.chains[k].setting

/-- The record rate h of a chain at ratio K, records per stride (R224). -/
def chainRate (k : Nat) : Rat := 8 / (3 * (k : Rat)) + 1 / 128 + 1 / 512 + 1 / 32768

/-- Σ h of a stall (R224). -/
def sumRate (s : State) (n : Stall) : Rat := ((chargedChains s n).map fun k => chainRate (chainK s.chains[k].setting)).sum

/-- The side-block count s of Gallop (R129, R224). -/
def sideBlocksOf (hs : Rat) (t : Nat) : Nat :=
  (((List.range 63).map fun i => i + 1).find? fun x => decide (hs * ((64 - x : Nat) : Rat) * ((denseStrides t : Nat) : Rat) ≤ 16 * (x : Rat))).getD 63

/-- The side blocks of an arm; 0 outside Gallop. -/
def armSide (s : State) (n : Stall) (a : ArmParams) : Nat :=
  if a.gait = .gallop then sideBlocksOf (sumRate s n + 1 / 32) (storedTeams (popcount s.stalls[n].grant.teams)) else 0

/-- The gait charge Dg in GB/s (R223). -/
def gaitCharge (s : State) (n : Stall) (a : ArmParams) : Rat :=
  let teams := popcount s.stalls[n].grant.teams
  let extra : Rat := 375 / 10000 * (teams : Rat)
  match a.gait with
  | .gallop => 6 * ((storedTeams teams : Nat) : Rat) * 64 / ((64 - armSide s n a : Nat) : Rat) + extra
  | .canter => 90375 / 10000 * (teams : Rat)
  | .trot => 9 * (a.gaitParam.toNat : Rat) / 1000000 + extra
  | .walk => 9 / ((bits a.gaitParam 23 0 + 1 : Nat) : Rat) + extra

/-- D′ (R224). -/
def laneDemand (s : State) (n : Stall) (a : ArmParams) : Rat :=
  if a.gait = .gallop then gaitCharge s n a else gaitCharge s n a + 9 * sumRate s n

/-- D (R224). -/
def writeDemand (s : State) (n : Stall) (a : ArmParams) : Rat :=
  if a.gait = .gallop then laneDemand s n a else laneDemand s n a + 28125 / 100000

/-- The loaded course holds a `reference_start` action (R230). -/
def startsReference (s : State) (n : Stall) : Bool :=
  hasRefStart (courseOf s n)

/-- R of an arming stall (R230). -/
def playCharge (s : State) (n : Stall) : Rat :=
  if startsReference s n && s.stalls[n].ref.valid then 6 * (s.stalls[n].ref.stored : Rat) else 0

/-- ΣD′ + ΣR of the stalls admitted, but for one (R230). -/
def admittedSum (s : State) (n : Stall) : Rat :=
  ((allStalls.filter fun k => k != n).map fun k => match s.stalls[k].cap with
    | some c => c.demand + c.play
    | none => 0).sum

/-- The inequality of R230 for a stall with D′ + R; a lane that must be retrained carries no guaranteed load (R229, R231). -/
def admits (s : State) (n : Stall) (d : Rat) : Bool :=
  decide (3 ≤ (usableLanes s).length) && !((usableLanes s).any fun l => s.lanes[l].unstable) && decide (admittedSum s n + d + 28125 / 100000 ≤ ((reportedG s : Nat) : Rat))

/-- The credits per slice (R213). -/
def creditOf (s : State) (d : Rat) : Nat := 8 + (7073 * d / ((reportedG s : Nat) : Rat)).floor.toNat

/-! ## The parameters -/

/-- The gait of a code (R428). -/
def gaitOf (n : Nat) : Gait := if n = 0 then .gallop else if n = 1 then .canter else if n = 2 then .trot else .walk

/-- The parameters of `capture_arm` (R428). -/
def armParams (e : SqEntry) : ArmParams := {
  gait := gaitOf (bits (dw e 2) 1 0), wrap := bit (dw e 2) 2, requireFull := bit (dw e 2) 3
  clockChan := BitVec.ofNat 6 (bits (dw e 2) 13 8), clockEdge := BitVec.ofNat 2 (bits (dw e 2) 17 16), gaitParam := dw e 3
  pre := field40 e 4, post := field40 e 6, region := bits (dw e 8) 28 0, segments := bits (dw e 9) 20 0, armTime := wide e 10
  onWake := bit (dw e 0) 9 }

/-- The clock channel is one of the stall's own, enabled (R103). -/
def clockOwned (s : State) (n : Stall) (a : ArmParams) : Bool :=
  if h : a.clockChan.toNat < 48 then ownsChan s n ⟨_, h⟩ && chEnable s.chans[a.clockChan.toNat].setting else false

/-- The least `region_blocks` (R190). -/
def leastRegion (s : State) (n : Stall) (a : ArmParams) : Nat :=
  let q := if a.requireFull then a.pre else 0
  (((q + a.post + 2048 : Nat) : Rat) * writeDemand s n a / 144).ceil.toNat + 128

/-- The delay of an analogue source (R311, R313). -/
def sourceDelay (s : State) (k : Nat) : Nat :=
  let c := s.chains[Fin.ofNat 8 (k % 8)]
  if k < 8 then c.delayO else c.delayD

/-- The course has an analogue term whose delay passes the margin (R313). -/
def slowTerm (s : State) (n : Stall) (a : ArmParams) : Bool :=
  a.requireFull && (courseOf s n).analogues.any fun t => a.post + 2048 < sourceDelay s t.source

/-- The course stores from later than the open, or can stop storing (R165). -/
def qualifies (p : Course) : Bool := !p.startStored || p.fences.any fun f => f.any fun x => exitEnabled x && (bit x.actions 3 || bit x.actions 4)

/-- Check 3 of R429 on the parameters: the payload of the `invalid`, or none. -/
def armFault (s : State) (n : Stall) (a : ArmParams) : Option Pay :=
  let at_ (d b : Nat) : Option Pay := some (fieldPay d b)
  let p := polderSize s.stalls[n].grant
  if a.gait ≠ .trot ∧ a.clockEdge ≠ 0 ∨ a.clockEdge = 3 then at_ 2 16
  else if a.gait ≠ .trot ∧ a.clockChan ≠ 0 ∨ a.gait = .trot ∧ ¬ clockOwned s n a then at_ 2 8
  else if a.gait = .trot ∧ (a.gaitParam = 0 ∨ 2500000 < a.gaitParam.toNat) ∨ a.gait = .walk ∧ 0xFFFFFF < a.gaitParam.toNat ∨
      (a.gait = .gallop ∨ a.gait = .canter) ∧ a.gaitParam ≠ 0 then at_ 3 0
  else if a.region ≠ 0 ∧ (a.region % 64 ≠ 0 ∨ p < a.region + 1 ∨ a.region < leastRegion s n a) then at_ 8 0
  else if 2 ^ 20 < a.segments then at_ 9 0
  else if bits a.armTime 7 0 ≠ 0 then at_ 10 0
  else if a.segments ≠ 1 ∧ a.post < 32768 then some noField
  else if slowTerm s n a then some noField
  else if a.gait = .gallop ∧ (s.stalls[n].grant.teams = 0 ∨ qualifies (courseOf s n)) then some noField
  else if a.onWake ∧ (a.armTime ≠ 0 ∨ a.gait ≠ .walk) then some noField
  else none

/-- The declared rates of the Trot stalls with a capture, but for one, in thousands of edges per second; one that is armed counts as capturing
(R103, log entry 256). -/
def trotRates (s : State) (n : Stall) : Nat :=
  ((allStalls.filter fun k => k != n).map fun k => match s.stalls[k].cap with
    | some c => if c.arm.gait = .trot then c.arm.gaitParam.toNat else 0
    | none => 0).sum

/-- The Trot rate is too high (R103). -/
def trotTooFast (s : State) (n : Stall) (a : ArmParams) : Bool :=
  a.gait == .trot && (1000000 * popcount s.stalls[n].grant.teams < a.gaitParam.toNat || 2500000 < trotRates s n + a.gaitParam.toNat)

/-- Why an arm cannot be: check 1 of R429. -/
def armBusy (s : State) (n : Stall) : Bool :=
  armedOrCapturing s n || (testedChans s &&& teamChans s.stalls[n].grant.teams) != 0 || s.tb.bypass

/-- `arm_time` is late against the stride in which the command counts as taken (R209, R414). -/
def armLate (a : ArmParams) (when_ : Time) : Bool := a.armTime != 0 && !leads a.armTime when_ 4096

/-- The open time of the first segment (R208 to R210). -/
def firstOpen (a : ArmParams) (when_ : Time) : Time :=
  if a.onWake then 0 else if a.armTime = 0 ∨ armLate a when_ then when_ + strides 4096 else a.armTime

/-- The checks of R429 from the second on: the status and payload of a refusal. -/
def armRefused (s : State) (n : Stall) (a : ArmParams) (runNow : Bool) (when_ : Time) (reserved : Option Pay) : Option (Status × Pay) :=
  if s.stalls[n].grant.engine.isNone then some (.noResource, {})
  else match reserved.or (armFault s n a) with
    | some p => some (.invalid, p)
    | none =>
      if trotTooFast s n a then some (.noResource, {})
      else if !admits s n (laneDemand s n a + playCharge s n) then some (.admissionRefused, {})
      else if armLate a when_ && !runNow then some (.late, {})
      else none

/-- The arm takes hold (R42, R189, R201, R209, R213, R222, R234). -/
def armApply (s : State) (n : Stall) (a : ArmParams) (when_ : Time) : State :=
  let d := laneDemand s n a
  let credit := creditOf s d
  let cap : Capture := {
    arm := a, phase := .armed, openAt := firstOpen a when_, late := armLate a when_, teams := s.stalls[n].grant.teams
    chains := maskOf 8 fun k => bit s.stalls[n].grant.chains k && chainEnable s.chains[Fin.ofNat 8 k].setting
    demand := d, play := playCharge s n, charged := playCharge s n != 0, refAtArm := s.stalls[n].ref.valid, credit := credit, sideBlocks := armSide s n a }
  let s := clearStall s n
  let s := modStall s n fun x => { x with
    st := .armed, cap := some cap, missedLog := [], masked := 0, missedTotal := 0, segsClosed := 0, armSegs := 0, fbPeak := 0 }
  if holdsSlice s.stalls[n] && s.stalls[n].ref.play.isNone then fillSlice s n else s

/-- The payload of an arm's `ok` (R429). -/
def armPay (s : State) (n : Stall) (a : ArmParams) (when_ : Time) : Pay :=
  let d := laneDemand s n a
  let t := firstOpen a when_
  { p4 := fld (1024 * writeDemand s n a).ceil.toNat 0, p5 := flag (armLate a when_) 31 ||| fld (creditOf s d) 0
    p6 := (timePay t).1, p7 := (timePay t).2 }

/-- The named bits of `capture_arm` (R428). -/
def armBits : List Dword :=
  [0x00033F0F, 0xFFFFFFFF, 0xFFFFFFFF, 0xFF, 0xFFFFFFFF, 0xFF, 0x1FFFFFFF, 0x1FFFFF, 0xFFFFFFFF, 0xFFFFFFFF]

/-- The decision on a `capture_arm`; the context keeps the parameters of the last one with `ok` (R429, R445). -/
def decideArm (s : State) (t : Taken) : State :=
  let a := armParams t.e
  if armBusy s t.fn then complete s t .busy
  else match armRefused s t.fn a (latePolicy t.e = 1) t.when ((reservedBit t.e armBits).map fun x => fieldPay x.1 x.2) with
    | some (st, p) => completeAt s t st p
    | none =>
      completeAt (modStall (armApply s t.fn a t.when) t.fn fun x => { x with lastArm := some a }) t .ok (armPay s t.fn a t.when)

/-- CAPTURE_ARM: decided now, or when the running soft repair ends (R272, R429). -/
def execCaptureArm (s : State) : Host.Outcome State Fault Refusal :=
  .next (withCmd s (isOp 0x38) fun s t =>
    if s.dram.repairing.isSome then { s with jobs := { s.jobs with waitArms := s.jobs.waitArms ++ [t] } } else decideArm s t)

/-! ## Stop -/

/-- What a stop now would close: an open segment whose close is not decided (R430). -/
def stopCloses (s : State) (n : Stall) : Option (BitVec 20) :=
  match s.stalls[n].cap with
  | some c => if c.phase = .running ∧ ¬ fillOver s c then some c.seg.num else none
  | none => none

/-- A stall's capture is stopped (R430). -/
def stopCapture (s : State) (n : Stall) : State := closeCapture s n 0x02 (some 3)

/-- CAPTURE_STOP (R430). -/
def execCaptureStop (s : State) : Host.Outcome State Fault Refusal :=
  .next (withCmd s (isOp 0x39) fun s t =>
    match reservedBit t.e [] with
    | some (d, b) => invalidAt s t d b
    | none =>
      if s.stalls[t.fn].cap.isNone then completeAt s t .ok { p5 := fld s.stalls[t.fn].segsClosed 0 }
      else
        let num := stopCloses s t.fn
        let s := modCap (handOff s t .stop 0) t.fn fun c => { c with
          stops := c.stops ++ [{ tag := tagOf t.e, fn := t.fn, closed := num.isSome, num := num.getD 0 }] }
        stopCapture s t.fn)

/-! ## Force -/

/-- The payload of a `capture_force` (R431). -/
def forcePay (fate : TrigFate) (t : Time) : Pay :=
  { p4 := flag (fate == .taken) 0 ||| flag (fate == .missed) 1
    p5 := if fate = .taken then (timePay t).1 else 0, p6 := if fate = .taken then (timePay t).2 else 0 }

/-- CAPTURE_FORCE (R184, R431). -/
def execCaptureForce (s : State) : Host.Outcome State Fault Refusal :=
  .next (withCmd s (isOp 0x3A) fun s t =>
    if s.stalls[t.fn].st = .armed then complete s t .busy
    else match reservedBit t.e [] with
      | some (d, b) => invalidAt s t d b
      | none =>
        if s.stalls[t.fn].st ≠ .capturing then invalid s t
        else
          let r := forceTrigger s t.fn
          completeAt r.1 t .ok (forcePay r.2 s.tb.now))

/-! ## Mark -/

/-- The segment that a flush waits for: the open one, or the one that closed last (R221, R432). -/
def flushSeg (s : State) (n : Stall) : BitVec 20 × Bool :=
  match s.stalls[n].cap with
  | some c =>
    if c.phase = .rearm then
      match s.stalls[n].held.getLast? with
      | some x => (x.num, x.closed)
      | none => (BitVec.ofNat 20 (c.segNo - 1), true)
    else (c.seg.num, false)
  | none => (0, true)

/-- The mark of a capturing stall, written while it records: dated to the command's time, or to its completion, which with `flush` is the acknowledged close (R116,
R123, R432, log entry 153). -/
def doMark (s : State) (t : Taken) : State :=
  let n := t.fn
  let flush := bit (dw t.e 0) 9
  let owed := flush && wide t.e 4 == 0 && !(flushSeg s n).2
  let mark := !bit (dw t.e 0) 10
  let now := mark && !owed && recording s n
  let lost := now && !queueTakes s n 2
  let s := if now then marker s n 0x0 (if wide t.e 4 = 0 then s.tb.now else wide t.e 4) (wide t.e 2) else s
  let f := flushSeg s n
  let pay : Pay := { p4 := flag lost 1 ||| flag (now && !lost) 0 }
  if !flush then completeAt s t .ok pay
  else
    let s := modCap s n fun c => { c with flushed := true }
    if f.2 then completeAt s t .ok { pay with p5 := fld f.1.toNat 0 }
    else modCap (handOff s t .mark 0) n fun c => { c with
      flush := c.flush ++ [{ tag := tagOf t.e, fn := n, seg := f.1, written := now && !lost, lost := lost
                             owed := if mark && owed then some (wide t.e 2) else none }] }

/-- CAPTURE_MARK (R221, R432). -/
def execCaptureMark (s : State) : Host.Outcome State Fault Refusal :=
  .next (withCmd s (isOp 0x3B) fun s t =>
    match reservedBit t.e [0xFFFFFFFF, 0xFFFFFFFF, 0xFFFFFFFF, 0xFFFFFFFF] with
    | some (d, b) => invalidAt s t d b
    | none =>
      if !capturing s t.fn then invalid s t
      else if bit (dw t.e 0) 10 && !bit (dw t.e 0) 9 then invalidAt s t 0 10
      else doMark s t)

/-! ## Keys -/

/-- An entry of which only the opcode matters. -/
def bareEntry (op : Nat) : SqEntry := zeroEntry.set 0 (BitVec.ofNat 32 op)

/-- `key` to the key's stall and the physical function; both copies name the key's stall (R451, R461). -/
def keyEvent (s : State) (w : KeyWait) (status : BitVec 8) : State :=
  sendEvents s ((withPf [w.stall]).map fun f =>
    (f, event 0x07 w.stall.val w.time (fld w.stall.val 16 ||| fld status.toNat 8 ||| fld w.action 4 ||| fld w.key 0) 0 0 0))

/-- A key's stall is absent or in its reset sequence: the status (R351, R518). -/
def keyStallBars (s : State) (n : Stall) : Option (BitVec 8) :=
  if s.stalls[n].st = .absent then some 3 else if s.stalls[n].st = .resetting then some 1 else none

/-- What R351, R506 and R521 refuse of a local action that stands for a command (R518). -/
def keyRefused (s : State) (n : Stall) (op : Nat) : Option (BitVec 8) :=
  (keyStallBars s n).or ((refusedByState s (bareEntry op)).map statusCode)

/-- A re-arm by key with the stall's last parameters, decided now; what the state refuses was refused at the press, as of a command at its take
(R272, R429, R445, R518). -/
def keyArm (s : State) (w : KeyWait) : State :=
  let n := w.stall
  match keyStallBars s n with
  | some st => keyEvent s w st
  | none =>
    if armedOrCapturing s n then keyEvent s w 1
    else match s.stalls[n].lastArm with
      | none => keyEvent s w 2
      | some p =>
        let a := { p with armTime := 0, onWake := false, segments := if w.action = 3 then 1 else p.segments }
        if armBusy s n then keyEvent s w 1
        else match armRefused s n a false s.tb.now none with
          | some (st, _) => keyEvent s w (statusCode st)
          | none => keyEvent (armApply s n a s.tb.now) w 0

end Sys2Proof.Machine
end

