-- ==== Sys2Proof/Machine/Calib.lean ====
section
/-!
DEFINITION. Calibration, the channel self-test, the shadow comparators, and the limits on the spread of the tiles.
-/

namespace Sys2Proof.Machine

/-! ## calibrate -/

/-- A channel of a mask belongs to a stall that is capturing (R61). -/
def capturedIn (s : State) (m : ChanMask) : Bool :=
  allChans.any fun c => bit m c.val && match ownerOf s c with
    | some n => capturing s n
    | none => false

/-- The channels of a set of tiles (R32). -/
def tileChans (tiles : Nat) : ChanMask := maskOf 48 fun c => tiles.testBit (c / 8)

/-- The completion of `calibrate` when its last tile is done (R93, R439). -/
def finishCal (s : State) (j : CalJob) : State :=
  let s := if j.sysref then { s with tb := { s.tb with sysrefDelayMeasured := true } } else s
  completeTag s 0 j.tag (if j.failedT = 0 then .ok else .checkFailed)
    { p4 := flag j.sysref 16 ||| fld j.failedT.toNat 8 ||| fld j.passed.toNat 0 }

/-- CALIBRATE (R61, R62, R86, R439). -/
def execCalibrate (s : State) : Host.Outcome State Fault Refusal :=
  .next (withCmd s (isOp 0x50) fun s t =>
    let tiles := bits (dw t.e 2) 5 0
    match reservedBit t.e [0x13F] with
    | some (d, b) => invalidAt s t d b
    | none =>
      if tiles = 0 ∧ ¬ bit (dw t.e 2) 8 then invalid s t
      else if capturedIn s (tileChans tiles) ∨ s.tb.bypass then complete s t .busy
      else
        let todo := (List.finRange 6).filter fun p => tiles.testBit p.val
        let j : CalJob := { tag := tagOf t.e, todo := todo, sysref := bit (dw t.e 2) 8 }
        let s := handOff s t .calibrate todo.length
        if todo = [] then finishCal s j
        else { s with jobs := { s.jobs with cal := s.jobs.cal ++ [j] } })

/-- The corrections of a tile's channels become what a measurement says (R51, R62). -/
def takeCorr (s : State) (p : Fin 6) (delay offset : List Int) : State :=
  { s with chans := vmap s.chans fun i c =>
      if i.val / 8 = p.val then
        { c with
          corr := max (-256) (min 256 (delay.getD (i.val % 8) 0)), offs := offset.getD (i.val % 8) 0
          pendCorr := 0, pendOffs := 0, pendAt := 0, driftSent := false }
      else c }

/-- A tile's measurement is stored: path delays, comparator offsets and threshold-DAC gains, with the temperature and the supply (R51, R62,
R66). -/
def storeTile (s : State) (p : Fin 6) (m : CalMeas) : State :=
  takeCorr (modTile s p fun x => { x with
    uncal := false, stored := true, storedCorr := m.delay, storedOffs := m.offset, storedGain := m.gain, calTemp := x.temp, calSupply := x.supply })
    p m.delay m.offset

/-- The job after tile p. -/
def calNext (j : CalJob) (p : Fin 6) (pass : Bool) : CalJob := { j with
  todo := j.todo.drop 1
  passed := if pass then setBit j.passed p.val true else j.passed
  failedT := if pass then j.failedT else setBit j.failedT p.val true }

/-- CALIBRATE_TILE_DONE: the tile of the oldest `calibrate` that is at it (R62, R66, R439). -/
def execCalibrateTileDone (p : Fin 6) (pass : Bool) (meas : CalMeas) (s : State) : Host.Outcome State Fault Refusal :=
  .next (
    match s.jobs.cal.find? fun j => j.todo.head? == some p with
    | none => s
    | some j =>
      let s := if pass then storeTile s p meas else modTile s p fun x => { x with uncal := true }
      let k := calNext j p pass
      let s := modOutst s 0 j.tag fun o => { o with done := o.done + 1 }
      let l := if k.todo = [] then s.jobs.cal.erase j else s.jobs.cal.map fun x => if x == j then k else x
      let s := { s with jobs := { s.jobs with cal := l } }
      if k.todo = [] then finishCal s k else s)

/-! ## selftest -/

/-- SELFTEST: test 0, and the tests refused (R60, R61, R86, R440). -/
def execSelftest (s : State) : Host.Outcome State Fault Refusal :=
  .next (withCmd s (fun t => isOp 0x51 t && bits (dw t.e 2) 3 0 != 1) fun s t =>
    if bits (dw t.e 2) 3 0 ≠ 0 then (if s.tb.bypass then complete s t .busy else invalidAt s t 2 0)
    else
      let m := chanField t.e 3
      match allChans.find? fun c => bit m c.val && !ownsChan s t.fn c with
      | some c => deny s t .notGranted 1 c.val
      | none =>
        if capturedIn s m ∨ s.tb.bypass then complete s t .busy
        else match reservedBit t.e [0xF, 0xFFFFFFFF, 0xFFFF] with
          | some (d, b) => invalidAt s t d b
          | none =>
            let s := handOff s t .test (popcount m)
            { s with jobs := { s.jobs with tests := s.jobs.tests ++ [{ fn := t.fn, stall := t.fn, tag := tagOf t.e, chans := m }] } })

/-- An entry with the request of `retry_lanes` waits for the flash (R440, R535). -/
def queueRetry (s : State) (kind : BitVec 8) (detail : Dword) : State :=
  if s.flash.noMore then s
  else
    let e := journalNow s kind detail
    { s with flash := { s.flash with ops := s.flash.ops ++ [{ entry := some { e with flags := e.flags ||| 1 }, work := .flash }] } }

/-- RETRY_LANES: the request stands in the entry written now and, once that is committed, in the later ones; the command waits for the commit.
Its kind is open between 2 and 7 (R277, R440, R535, R536). -/
def execRetryLanes (s : State) : Host.Outcome State Fault Refusal :=
  .next (withCmd s (fun t => isOp 0x51 t && bits (dw t.e 2) 3 0 == 1) fun s t =>
    if t.fn ≠ 0 then deny s t .privileged 0 0
    else if s.tb.bypass then complete s t .busy
    else match reservedBit t.e [0xF] with
      | some (d, b) => invalidAt s t d b
      | none =>
        let s := handOff s t .flash 0
        let v := drawFree s
        if bit v.1 0 then queueRetry v.2 2 (fld (bits v.1 16 1) 0) else queueRetry v.2 7 0)

/-- SELFTEST_DONE: the test copies' verdict; the channels themselves are unchanged (R60, R440). -/
def execSelftestDone (f : Fn) (tag : BitVec 16) (failed : ChanMask) (checks : BitVec 4) (s : State) : Host.Outcome State Fault Refusal :=
  .next (
    match s.jobs.tests.find? fun j => j.fn == f && j.tag == tag with
    | none => s
    | some j =>
      let bad := failed &&& j.chans
      let s := { s with jobs := { s.jobs with tests := s.jobs.tests.erase j } }
      completeTag s f tag (if bad = 0 then .ok else .checkFailed)
        { p4 := (chanPay bad).1, p5 := (chanPay bad).2, p6 := if bad = 0 then 0 else fld checks.toNat 0 })

/-! ## Drift -/

/-- SHADOW_CYCLE: the pending corrections of a tile's channels for delay and offset, applied at once where no capture runs (R51, R63, R64). -/
def execShadowCycle (p : Fin 6) (corr : List (Int × Int)) (s : State) : Host.Outcome State Fault Refusal :=
  .next ({ s with chans := vmap s.chans fun i c =>
    if i.val / 8 ≠ p.val then c
    else
      let v := (corr.getD (i.val % 8) (0, 0)).1
      let held := match ownerOf s i with
        | some n => capturing s n || segmentOpen s n
        | none => false
      let c := { c with
        pendCorr := v, pendOffs := (corr.getD (i.val % 8) (0, 0)).2
        pendAt := if 2 < v.natAbs && c.pendCorr.natAbs ≤ 2 then s.tb.now else c.pendAt }
      if held then c else applyCorr c })

/-- CALIBRATION_DRIFT_PENDING: a pending correction above 2 ticks is 1 s old; once per channel and segment (R64, R466). -/
def execCalibrationDriftPending (c : Fin 48) (s : State) : Host.Outcome State Fault Refusal :=
  .next (
    let x := s.chans[c]
    match ownerOf s c with
    | none => s
    | some n =>
      if !capturing s n || x.driftSent || x.pendCorr.natAbs ≤ 2 || !passed s.tb.now x.pendAt (1000 * ms) then s
      else
        sendEvent (noteDrift (modChan s c fun x => { x with driftSent := true }) [n]) n
          (event 0x10 n.val s.tb.now (fld (2 ^ (c.val / 8)) 8 ||| fld 1 0) (sfld x.pendCorr 16 16 ||| fld c.val 0) 0 0))

/-! ## Tile limits -/

/-- The tile temperatures as signed quarter degrees (R65). -/
def tileTemps (s : State) : List Int := (List.finRange 6).map fun p => signed 16 s.tiles[p].temp.toNat

/-- The greatest of some numbers. -/
def maxInt (l : List Int) : Int := l.foldl max (l.headD 0)

/-- The least of some numbers. -/
def minInt (l : List Int) : Int := l.foldl min (l.headD 0)

/-- Highest less lowest tile temperature, in quarter degrees (R65). -/
def tempSpread (s : State) : Int := maxInt (tileTemps s) - minInt (tileTemps s)

/-- The sum of the tile supplies. -/
def supplySum (s : State) : Int := ((List.finRange 6).map fun p => s.tiles[p].supply).sum

/-- Six times the distance of a tile's supply from the mean. -/
def supplyOff (s : State) (p : Fin 6) : Nat := (6 * s.tiles[p].supply - supplySum s).natAbs

/-- A tile's supply is beyond 3 % of the mean (R65). -/
def supplyBad (s : State) (p : Fin 6) : Bool := 3 * (supplySum s).natAbs < 100 * supplyOff s p

/-- The tiles concerned: the coldest and the hottest when the temperatures spread too far, those whose supply is beyond its limit. -/
def tilesConcerned (s : State) : Nat :=
  (maskOf 6 fun k =>
    let t := (tileTemps s).getD k 0
    (60 < tempSpread s && (t == maxInt (tileTemps s) || t == minInt (tileTemps s))) ||
    (if h : k < 6 then supplyBad s ⟨k, h⟩ else false)).toNat

/-- The worst supply difference from the mean in 0.01 % (R466). -/
def worstSupply (s : State) : Nat :=
  if supplySum s = 0 then 0
  else (((List.finRange 6).map fun p => supplyOff s p).foldl max 0) * 10000 / (supplySum s).natAbs

/-- A `calibration_drift` event of the tiles, to the physical function and every capturing stall (R65, R466). -/
def tileEvent (s : State) (reason tiles : Nat) : State :=
  sendRated (noteDrift s (allStalls.filter fun n => capturing s n)) { code := 0x10, sub := reason, fn := 0 } (100 * ms)
    (deviceEvent 0x10 (withPf (allStalls.filter fun n => capturing s n)) s.tb.now (fld tiles 8 ||| fld reason 0)
      (fld (sat 16 (worstSupply s)) 16 ||| fld (tempSpread s).toNat 0) 0 0)

/-- TILE_SENSOR_SAMPLE: an event as either limit is crossed (R65). -/
def execTileSensorSample (temps : Vector (BitVec 16) 6) (supplies : Vector Int 6) (s : State) : Host.Outcome State Fault Refusal :=
  .next (
    let s := { s with tiles := vmap s.tiles fun i x => { x with temp := temps[i], supply := supplies[i] } }
    let hot := 60 < tempSpread s
    let low := (List.finRange 6).any fun p => supplyBad s p
    let new := (hot && !s.fe.crossedT) || (low && !s.fe.crossedV)
    let good := if hot || low then none else s.fe.goodSince.or (some s.tb.now)
    let s := { s with fe := { s.fe with crossedT := hot, crossedV := low, spread := s.fe.spread || new, goodSince := good } }
    if new then tileEvent s 2 (tilesConcerned s) else s)

/-- TILE_SPREAD_RESTORED: both limits have been met for 100 ms after a crossing (R65). -/
def execTileSpreadRestored (s : State) : Host.Outcome State Fault Refusal :=
  .next (
    match s.fe.goodSince with
    | none => s
    | some t =>
      if s.fe.spread && passed s.tb.now t (100 * ms) then
        tileEvent { s with fe := { s.fe with spread := false } } 3 (tilesConcerned s)
      else s)

end Sys2Proof.Machine
end

