-- ==== Sys2Proof/Machine/Inflate.lean ====
section
/-!
DEFINITION. DEFLATE (RFC 1951) as the decompressors read it: bits lowest first, Huffman codes from their lengths, the three block types, and
the guards of R332.
-/

namespace Sys2Proof.Machine

/-- The bits of bytes, the lowest bit of each first (RFC 1951, 3.1.1). -/
def bitsOf (l : List Byte) : List Bool := l.flatMap fun b => (List.range 8).map fun i => bit b i

/-- Bytes from bits, lowest first; a last byte that is not whole is filled with zero bits (R318). -/
def bytesOfBits : Nat → List Bool → List Byte
  | 0, _ => []
  | k + 1, l => if l = [] then [] else BitVec.ofNat 8 (((l.take 8).zipIdx).map fun x => x.1.toNat * 2 ^ x.2).sum :: bytesOfBits k (l.drop 8)

/-- How an inflation stops short (R332, R333). -/
inductive InflateStop where
  /-- The stream breaks RFC 1951, or ends early. -/
  | corrupt
  /-- A guard of R332. -/
  | limit
  deriving DecidableEq, Repr

/-- An inflation under way. -/
structure Inflater where
  /-- Bits of the stream still to be read. -/
  rest : List Bool
  /-- Bits read, counted from the byte boundary at which the stream began. -/
  used : Nat
  /-- Output so far, newest byte first. -/
  out : List Byte
  /-- Its length. -/
  n : Nat
  deriving DecidableEq, Repr

/-- The next k bits as a number, lowest first; none when the stream ends (RFC 1951, 3.1.1). -/
def takeBits : Nat → Inflater → Option (Nat × Inflater)
  | 0, x => some (0, x)
  | k + 1, x =>
    match x.rest with
    | [] => none
    | b :: r =>
      match takeBits k { x with rest := r, used := x.used + 1 } with
      | none => none
      | some v => some (b.toNat + 2 * v.1, v.2)

/-- A byte of output. -/
def putByte (x : Inflater) (b : Byte) : Inflater := { x with out := b :: x.out, n := x.n + 1 }

/-- The guards of R332: the output within `ulen`, and within 1,032 times the stream bytes begun. -/
def guardOk (ulen : Nat) (x : Inflater) : Bool := x.n ≤ ulen && x.n ≤ 1032 * ceilDiv x.used 8

/-! ## Huffman codes -/

/-- The symbols of a code in the order of their codes, from the code length of each symbol (RFC 1951, 3.2.2). -/
def symbolsOf (lens : List Nat) : List Nat :=
  (List.range 15).flatMap fun k => (List.range lens.length).filter fun i => lens.getD i 0 == k + 1

/-- The next symbol of a code: at each length the codes used so far stand before `first`, their symbols before `index` (RFC 1951,
3.2.2). -/
def symbolFrom (lens syms : List Nat) : Nat → Nat → Nat → Nat → Inflater → Option (Nat × Inflater)
  | 0, _, _, _, _ => none
  | k + 1, code, first, index, x =>
    match takeBits 1 x with
    | none => none
    | some (b, y) =>
      let c := 2 * code + b
      let count := lens.count (15 - k)
      if c < first + count then (syms[index + (c - first)]?).map fun v => (v, y)
      else symbolFrom lens syms k c (2 * (first + count)) (index + count) y

/-- The next symbol of a code. -/
def nextSymbol (lens : List Nat) (x : Inflater) : Option (Nat × Inflater) := symbolFrom lens (symbolsOf lens) 15 0 0 0 x

/-- The share of the code space that code lengths take, in units of 2^-15. -/
def codeSpace (lens : List Nat) : Nat := (lens.map fun k => if k = 0 then 0 else 2 ^ (15 - k)).sum

/-- The code lengths make a whole code (log entry 250). -/
def wholeCode (lens : List Nat) : Bool := codeSpace lens == 2 ^ 15

/-- The distance code lengths make a code: whole, or one code of one bit, or none at all (RFC 1951, 3.2.7). -/
def distCodeOk (lens : List Nat) : Bool := wholeCode lens || codeSpace lens == 0 || (lens.filter fun k => k != 0) == [1]

/-- The fixed literal and length code (RFC 1951, 3.2.6). -/
def fixedLens : List Nat := List.replicate 144 8 ++ List.replicate 112 9 ++ List.replicate 24 7 ++ List.replicate 8 8

/-- The fixed distance code; its codes 30 and 31 name nothing (RFC 1951, 3.2.6). -/
def fixedDists : List Nat := List.replicate 30 5

/-- Base and extra bits of the length symbols 257 to 285 (RFC 1951, 3.2.5). -/
def lengthCodes : List (Nat × Nat) :=
  [(3, 0), (4, 0), (5, 0), (6, 0), (7, 0), (8, 0), (9, 0), (10, 0), (11, 1), (13, 1), (15, 1), (17, 1), (19, 2), (23, 2), (27, 2), (31, 2)] ++
  [(35, 3), (43, 3), (51, 3), (59, 3), (67, 4), (83, 4), (99, 4), (115, 4), (131, 5), (163, 5), (195, 5), (227, 5), (258, 0)]

/-- Base and extra bits of the distance symbols (RFC 1951, 3.2.5). -/
def distCodes : List (Nat × Nat) :=
  [(1, 0), (2, 0), (3, 0), (4, 0), (5, 1), (7, 1), (9, 2), (13, 2), (17, 3), (25, 3), (33, 4), (49, 4), (65, 5), (97, 5), (129, 6)] ++
  [(193, 6), (257, 7), (385, 7), (513, 8), (769, 8), (1025, 9), (1537, 9), (2049, 10), (3073, 10), (4097, 11), (6145, 11), (8193, 12)] ++
  [(12289, 12), (16385, 13), (24577, 13)]

/-! ## Blocks -/

/-- A value of a symbol with its extra bits. -/
def withExtra (l : List (Nat × Nat)) (k : Nat) (x : Inflater) : Option (Nat × Inflater) :=
  match l[k]? with
  | none => none
  | some (base, extra) => (takeBits extra x).map fun v => (base + v.1, v.2)

/-- k bytes copied from a distance behind the end of the output. -/
def copyBytes (d : Nat) : Nat → Inflater → Inflater
  | 0, x => x
  | k + 1, x => copyBytes d k (putByte x (x.out.getD (d - 1) 0))

/-- A match: its length symbol is read, its distance must lie within the output so far (R333). -/
def copyMatch (dists : List Nat) (sym : Nat) (x : Inflater) : Option Inflater :=
  match withExtra lengthCodes (sym - 257) x with
  | none => none
  | some (len, y) =>
    match nextSymbol dists y with
    | none => none
    | some (d, z) =>
      match withExtra distCodes d z with
      | none => none
      | some (dist, w) => if x.n < dist then none else some (copyBytes dist len w)

/-- The symbols of a compressed block up to its end, at most k of them. -/
def runSymbols (ulen : Nat) (lens dists : List Nat) : Nat → Inflater → Except InflateStop Inflater
  | 0, _ => .error .corrupt
  | k + 1, x =>
    match nextSymbol lens x with
    | none => .error .corrupt
    | some (sym, y) =>
      if sym = 256 then .ok y
      else
        match (if sym < 256 then some (putByte y (BitVec.ofNat 8 sym)) else copyMatch dists sym y) with
        | none => .error .corrupt
        | some z => if guardOk ulen z then runSymbols ulen lens dists k z else .error .limit

/-- A compressed block with its codes. -/
def codedBlock (ulen : Nat) (lens dists : List Nat) (x : Inflater) : Except InflateStop Inflater :=
  runSymbols ulen lens dists (x.rest.length + 1) x

/-- A stored block: the rest of the byte is skipped, then the length and its complement (RFC 1951, 3.2.4). -/
def storedIn (ulen : Nat) (x : Inflater) : Except InflateStop Inflater :=
  match takeBits ((8 - x.used % 8) % 8) x with
  | none => .error .corrupt
  | some (_, y) =>
    match takeBits 32 y with
    | none => .error .corrupt
    | some (v, z) =>
      let n := v % 2 ^ 16
      if v / 2 ^ 16 ≠ 2 ^ 16 - 1 - n ∨ z.rest.length < 8 * n then .error .corrupt
      else
        let l := bytesOfBits n (z.rest.take (8 * n))
        let w : Inflater := { rest := z.rest.drop (8 * n), used := z.used + 8 * n, out := l.reverse ++ z.out, n := z.n + n }
        if guardOk ulen w then .ok w else .error .limit

/-- k numbers of 3 bits. -/
def takeThrees : Nat → Inflater → Option (List Nat × Inflater)
  | 0, x => some ([], x)
  | k + 1, x =>
    match takeBits 3 x with
    | none => none
    | some (v, y) => (takeThrees k y).map fun r => (v :: r.1, r.2)

/-- The order of the code lengths of the code length code (RFC 1951, 3.2.7). -/
def clenOrder : List Nat := [16, 17, 18, 0, 8, 7, 9, 6, 10, 5, 11, 4, 12, 3, 13, 2, 14, 1, 15]

/-- The code length code from its lengths in their order. -/
def clenLens (l : List Nat) : List Nat := (List.range 19).map fun i => ((clenOrder.zip l).find? fun x => x.1 == i).elim 0 fun x => x.2

/-- The code lengths of both codes, `total` of them, in at most k symbols (RFC 1951, 3.2.7). -/
def runLens (cl : List Nat) (total : Nat) : Nat → List Nat → Inflater → Option (List Nat × Inflater)
  | 0, _, _ => none
  | k + 1, l, x =>
    if total ≤ l.length then (if l.length = total then some (l, x) else none)
    else
      match nextSymbol cl x with
      | none => none
      | some (sym, y) =>
        if sym < 16 then runLens cl total k (l ++ [sym]) y
        else if sym = 16 then
          match l.getLast?, takeBits 2 y with
          | some v, some (n, z) => runLens cl total k (l ++ List.replicate (3 + n) v) z
          | _, _ => none
        else
          match takeBits (if sym = 17 then 3 else 7) y with
          | none => none
          | some (n, z) => runLens cl total k (l ++ List.replicate ((if sym = 17 then 3 else 11) + n) 0) z

/-- The two codes of a dynamic block: 1 to 32 distance codes, of which 30 and 31 name nothing (RFC 1951, 3.2.6 and 3.2.7). -/
def dynamicCodes (x : Inflater) : Option (List Nat × List Nat × Inflater) :=
  match takeBits 14 x with
  | none => none
  | some (v, y) =>
    let hlit := v % 32 + 257
    let hdist := v / 32 % 32 + 1
    match takeThrees (v / 1024 + 4) y with
    | none => none
    | some (three, z) =>
      if 286 < hlit ∨ !wholeCode (clenLens three) then none
      else
        match runLens (clenLens three) (hlit + hdist) (hlit + hdist + 1) [] z with
        | none => none
        | some (l, w) =>
          let lens := l.take hlit
          let dists := l.drop hlit
          if wholeCode lens && distCodeOk dists && lens.getD 256 0 != 0 then some (lens, dists, w) else none

/-- One block: BFINAL, its type, and what stands after it (RFC 1951, 3.2.3). -/
def inflateBlock (ulen : Nat) (x : Inflater) : Except InflateStop (Bool × Nat × Inflater) :=
  match takeBits 3 x with
  | none => .error .corrupt
  | some (v, y) =>
    let r :=
      match v / 2 with
      | 0 => storedIn ulen y
      | 1 => codedBlock ulen fixedLens fixedDists y
      | 2 =>
        match dynamicCodes y with
        | none => .error .corrupt
        | some (lens, dists, z) => codedBlock ulen lens dists z
      | _ => .error .corrupt
    match r with
    | .error e => .error e
    | .ok z => .ok (v % 2 == 1, v / 2, z)

/-- Blocks up to the final one, at most k of them; whole bytes after it are a fault (R333). -/
def inflateBlocks (ulen : Nat) : Nat → Inflater → Except InflateStop Inflater
  | 0, _ => .error .corrupt
  | k + 1, x =>
    match inflateBlock ulen x with
    | .error e => .error e
    | .ok (last, _, y) => if last then (if 8 ≤ y.rest.length then .error .corrupt else .ok y) else inflateBlocks ulen k y

/-- A raw DEFLATE stream inflated: its output, or what stopped it (R331 to R333). -/
def inflate (ulen : Nat) (stream : List Byte) : Except InflateStop (List Byte) :=
  match inflateBlocks ulen (8 * stream.length + 1) { rest := bitsOf stream, used := 0, out := [], n := 0 } with
  | .error e => .error e
  | .ok x => .ok x.out.reverse

/-- A DEFLATE block that spells exactly some bytes, without reference to anything before it: it begins `at_` bits after a byte boundary, is
final or not, and has the type of its mode or is stored (R318). -/
def blockSpells (mode at_ : Nat) (last : Bool) (block : List Bool) (bytes : List Byte) : Bool :=
  match inflateBlock bytes.length { rest := block, used := at_, out := [], n := 0 } with
  | .error _ => false
  | .ok (final, type, x) => final == last && (type == mode || type == 0) && x.rest.isEmpty && x.out.reverse == bytes

/-- The bits of a stored block of n bytes that begins `at_` bits after a byte boundary (R318). -/
def storedBits (at_ n : Nat) : Nat := 3 + (8 - (at_ + 3) % 8) % 8 + 32 + 8 * n

end Sys2Proof.Machine
end

