-- ==== Sys2Proof/Machine/RefLoad.lean ====
section
/-!
DEFINITION. `reference_load`: the checks at take, the walk over the bales, the reference area, the inflation bale by bale, and the end of
a load.
-/

namespace Sys2Proof.Machine

/-! ## The bales -/

/-- A bale of a buffer: the offset of its stream, and the header's lengths and CRC (R317). -/
structure BaleIn where
  off : Nat
  ulen : Nat
  clen : Nat
  crc : BitVec 32
  poisoned : Nat
  deriving DecidableEq, Repr

/-- A number rounded up to a multiple of 8 (R322). -/
def up8 (n : Nat) : Nat := (n + 7) / 8 * 8

/-- The offset in a bale header of the first field that breaks R317, or breaks R328 as part k (R317, R328). -/
def headerBad (l : List Byte) (o k : Nat) : Option Nat :=
  firstBad [(o, leAt l o 1 != 0x42), (o + 1, leAt l (o + 1) 1 != 0x4C), (o + 2, leAt l (o + 2) 1 != 1),
    (o + 3, leAt l (o + 3) 1 % 4 == 3 || 8 ≤ leAt l (o + 3) 1), (o + 4, leAt l (o + 4) 4 % 144 != 0), (o + 0x14, leAt l (o + 0x14) 2 != k),
    (o + 0x17, leAt l (o + 0x17) 1 != 0)]

/-- A bale header (R317). -/
def baleIn (l : List Byte) (o : Nat) : BaleIn :=
  { off := o + 32, ulen := leAt l (o + 4) 4, clen := leAt l (o + 8) 4, crc := BitVec.ofNat 32 (leAt l (o + 0x0C) 4), poisoned := leAt l (o + 0x1C) 2 }

/-- The walk over the headers from offset o, at most i of them: the offset of a fault, or the bales (R322, R328, R333, R437). -/
def walkBales (l : List Byte) : Nat → Nat → Nat → Except Nat (List BaleIn)
  | 0, o, _ => .error o
  | i + 1, o, k =>
    if l.length < o + 32 then .error o
    else match headerBad l o k with
      | some x => .error x
      | none =>
        let b := baleIn l o
        if l.length < o + 32 + b.clen then .error (o + 8)
        else if leAt l (o + 3) 1 / 4 % 2 = 1 then (if up8 (o + 32 + b.clen) < l.length then .error (o + 3) else .ok [b])
        else match walkBales l i (up8 (o + 32 + b.clen)) (k + 1) with
          | .error x => .error x
          | .ok r => .ok (b :: r)

/-- The bales of a whole buffer. -/
def balesOf (l : List Byte) : Except Nat (List BaleIn) := walkBales l (l.length / 32 + 1) 0 0

/-! ## The area -/

/-- The grant with the highest-numbered parcels, k of them, as the reference area; parcels that wait for their retirement leave it (R235,
R329). -/
def areaGrant (s : State) (n : Stall) (k : Nat) : Grant :=
  let g := s.stalls[n].grant
  let l := g.parcels.filter fun p => !s.dram.retirePend.contains p
  { g with parcels := l, refArea := l.drop (l.length - k) }

/-- An area of k parcels would change the polder (R234). -/
def areaMoves (s : State) (n : Stall) (k : Nat) : Bool := polderOf (areaGrant s n k) != polderOf s.stalls[n].grant

/-- The reference area takes the highest-numbered parcels of the grant; held segments there are deleted (R233, R329). Answers how many
were. -/
def takeArea (s : State) (n : Stall) (k : Nat) : State × Nat :=
  let g := areaGrant s n k
  if areaMoves s n k then
    let parcels := s.stalls[n].grant.parcels
    changePolder { s with dram := { s.dram with retirePend := s.dram.retirePend.filter fun p => !parcels.contains p } } n g.parcels g.refArea
  else (modStall s n fun x => { x with grant := { x.grant with refArea := g.refArea } }, 0)

/-- The reference of a stall is lost, with what a playback holds of it (R330, R343, R345). -/
def loseReference (s : State) (n : Stall) : State :=
  modRef s n fun r => { ({} : Reference) with loading := r.loading, timed := r.timed, lagSent := r.lagSent }

/-! ## The load -/

/-- A load is over: its status. -/
def endLoad (s : State) (j : LoadJob) (st : Status) (p : Pay) : State :=
  let s := dropLoadWrites s j.stall
  let s := { s with jobs := { s.jobs with loads := s.jobs.loads.filter fun x => x != j } }
  completeTag (modRef s j.stall fun r => { r with loading := false }) j.fn j.tag st p

/-- `invalid` of a `reference_load`: the field or none, and the offset in the buffer (R409). -/
def refInvalid (p : Pay) (off : Dword) : Pay := { p with p5 := off }

/-- What ends a load before its inflation, in the order of R333: the walk, the sum, poison, and a grant too small when it started. -/
def bufferFault (j : LoadJob) (l : List Byte) : Option (Status × Pay) :=
  match balesOf l with
  | .error o => some (.invalid, refInvalid noField (fld o 0))
  | .ok b =>
    if (b.map fun x => x.ulen).sum ≠ j.declared then some (.invalid, refInvalid (fieldPay 6 0) 0xFFFFFFFF)
    else if b.any fun x => x.poisoned ≠ 0 then some (.dataError, {})
    else if j.short then some (.noResource, {})
    else none

/-- The bales of a buffer that passes. -/
def goodBales (l : List Byte) : List BaleIn := match balesOf l with
  | .error _ => []
  | .ok b => b

/-- The buffer of a `reference_load` has been read, or its read has failed: the checks before the inflation (R331 to R333, R381, R409). -/
def loadRead (s : State) (f : Fn) (tag : BitVec 16) (data : HostData) : State :=
  match s.jobs.loads.find? fun j => j.fn == f && j.tag == tag with
  | none => s
  | some j =>
    match data with
    | .failed => giveDecs (endLoad s j .dataError {})
    | .bytes l =>
      match bufferFault j l with
      | some (st, p) => giveDecs (endLoad s j st p)
      | none =>
        let b := goodBales l
        let k := { j with data := l, bales := b.map (fun x => (x.off, x.ulen, x.crc)), clens := b.map fun x => x.clen }
        { s with jobs := { s.jobs with loads := s.jobs.loads.map fun x => if x == j then k else x } }

/-- The named bits of `reference_load` (R437). -/
def loadBits : List Dword := [0xFFFFFFFF, 0xFFFFFFFF, 0xFFFFFFFF, 0xFF, 0xFFFFFFFF, 0xFF]

/-- The field of `reference_load` at fault (R333, R409, R437). -/
def loadFault (e : SqEntry) : Option (Nat × Nat) :=
  match reservedBit e loadBits with
  | some x => some x
  | none =>
    if bits (dw e 2) 2 0 ≠ 0 then some (2, 0)
    else if field40 e 4 = 0 then some (4, 0)
    else if field40 e 6 % 144 ≠ 0 then some (6, 0)
    else none

/-- A load of an area of k parcels is refused for now: while the stall captures, while it is armed and its polder would change, and while a
load of it is outstanding (R234, R329, R437). -/
def loadBusy (s : State) (n : Stall) (k : Nat) : Bool :=
  capturing s n || s.stalls[n].ref.loading || (s.stalls[n].st == .armed && areaMoves s n k)

/-- REFERENCE_LOAD: the checks that need no buffer; then the load starts: the previous reference is lost, the area is fixed where the grant
holds it, and the buffer is read (R13, R329 to R331, R333, R437). -/
def execReferenceLoad (s : State) : Host.Outcome State Fault Refusal :=
  .next (withCmd s (isOp 0x48) fun s t =>
    let n := t.fn
    let declared := field40 t.e 6
    let area := ceilDiv declared (144 * parcelBlocks)
    if loadBusy s n area then complete s t .busy
    else match loadFault t.e with
      | some (d, b) =>
        completeAt (if (reservedBit t.e loadBits).isSome then s else loseReference s n) t .invalid (refInvalid (fieldPay d b) 0xFFFFFFFF)
      | none =>
        let short := decide ((areaGrant s n area).parcels.length < area)
        let r := if short then (loseReference s n, 0) else takeArea (loseReference s n) n area
        let s := modRef (handOff r.1 t .load declared) n fun r => { r with loading := true }
        let j : LoadJob := { fn := n, stall := n, tag := tagOf t.e, declared := declared, short := short, area := area, deleted := r.2 }
        let s := giveDecs { s with jobs := { s.jobs with loads := s.jobs.loads ++ [j] } }
        issueRead s n (tagOf t.e) .bales (wide t.e 2) (field40 t.e 4))

/-! ## The inflation -/

/-- Blocks of 144 bytes as records (R10). -/
def recordsOf (l : List Byte) : List Rec := (List.range 16).map fun k => BitVec.ofNat 72 (leAt l (9 * k) 9)

/-- A block of the load's content waits on P2 (R251, R331). -/
def writeRef (s : State) (n : Stall) (k : Nat) (recs : List Rec) : State :=
  let blk := refBlock s.stalls[n].grant k
  match laneOf s blk with
  | none => s
  | some l => modLane s l fun x => { x with p2w := x.p2w ++ [{ blk := blk, recs := recs, owner := .load n, when := s.tb.now }] }

/-- A bale's output goes to the reference area from block `at_` of the content on (R331). -/
def writeOut (s : State) (n : Stall) (at_ : Nat) (out : List Byte) : State :=
  (List.range (out.length / 144)).foldl (fun s k => writeRef s n (at_ + k) (recordsOf (out.drop (144 * k)))) s

/-- The header records of a segment's content. -/
def contentHeader (out : List Byte) : List Rec := recordsOf out

/-- A field of a header record. -/
def headerField (h : List Rec) (k hi lo : Nat) : Nat := bits (h.getD k 0) hi lo

/-- The header block passes R139 and is one of a Gallop segment whose lengths agree with the blocks loaded (R139, R333, log entry 64). -/
def contentOk (out : List Byte) : Bool :=
  let h := contentHeader out
  let blocks := out.length / 144 - 1
  let f := headerField h
  144 ≤ out.length && (List.range 16).all (fun k => bits (h.getD k 0) 71 64 == 0xF0 + k) && f 0 63 48 == 1 && f 0 23 20 == 0 &&
  f 15 57 29 == blocks && f 15 28 0 ≤ blocks && (blocks - f 15 28 0) % 64 == 0

/-- The length in samples of dense blocks; where the samples of the `stored_teams` fill no block, the spec states none (R126, R334, log entry
252). -/
def refLength (stored dense : Nat) : Nat := if storedOk stored then dense * (192 / stored) else Config.oddLength stored dense

/-- The reference that a load's content makes (R129, R131, R334). -/
def referenceOf (r : Reference) (out : List Byte) : Reference :=
  let f := headerField (contentHeader out)
  let stored := f 2 55 52
  let data := f 15 57 29 - f 15 28 0
  { r with
    valid := true, teams := BitVec.ofNat 8 (f 2 63 56), stored := stored, side := f 2 43 38, dataBlocks := data
    length := refLength stored (data / 64 * (64 - f 2 43 38)) }

/-- A load whose checks have passed ends when its last block is acknowledged (R330, R333, log entry 65). -/
def finishLoad (s : State) (j : LoadJob) : State :=
  if !j.done || loadWaits s j.stall then s
  else
    let s := modRef s j.stall fun r => referenceOf r j.out
    let n := s.stalls[j.stall].ref.length
    giveDecs (endLoad s j .ok { p4 := fld j.area 0, p5 := fld j.deleted 0, p6 := fld n 0, p7 := fld (n / 2 ^ 32) 0 })

/-- A bale inflated and checked: its output, or the status that ends the load (R332, R333). -/
def baleOut (stream : List Byte) (ulen : Nat) (crc : BitVec 32) : Except Status (List Byte) :=
  match inflate ulen stream with
  | .error .corrupt => .error .dataError
  | .error .limit => .error .limitExceeded
  | .ok out => if out.length < ulen then .error .dataError else if crc32c out ≠ crc then .error .checkFailed else .ok out

/-- A bale that passed: its blocks written, the next one, or the checks after the last (R331, R333). -/
def takeBale (s : State) (j : LoadJob) (out : List Byte) : State :=
  let k : LoadJob := { j with
    bales := j.bales.drop 1, clens := j.clens.drop 1, out := j.out ++ out }
  let s := writeOut s j.stall (j.out.length / 144) out
  let s := modOutst s j.fn j.tag fun o => { o with done := o.done + out.length }
  let put (k : LoadJob) : State := { s with jobs := { s.jobs with loads := s.jobs.loads.map fun x => if x == j then k else x } }
  if k.bales ≠ [] then put k
  else if !contentOk k.out then giveDecs (endLoad (put k) k .invalid (refInvalid noField 0))
  else finishLoad (put { k with done := true }) { k with done := true }

/-- DECOMPRESSOR_BALE_DONE: the decompressor's next bale is inflated; `ecc` is what the compression buffers read as (R331 to R333, R404). -/
def execDecompressorBaleDone (d : Fin 2) (ecc : Ecc) (s : State) : Host.Outcome State Fault Refusal :=
  .next (
    match s.jobs.loads.find? fun j => j.dec == some d with
    | none => s
    | some j =>
      match j.bales with
      | [] => s
      | (off, ulen, crc) :: _ =>
        let s := noteEcc s 4 ecc
        if ecc = .uncorrectable then giveDecs (endLoad s j .dataError {})
        else match baleOut ((j.data.drop off).take (j.clens.headD 0)) ulen crc with
          | .error st => giveDecs (endLoad s j st {})
          | .ok out => takeBale s j out)

/-- A block of a load is acknowledged (R331). -/
def ackLoad (s : State) (n : Stall) : State :=
  match s.jobs.loads.find? fun j => j.stall == n with
  | none => s
  | some j => finishLoad s j

end Sys2Proof.Machine
end

