-- ==== Sys2Proof/Machine/Lanes.lean ====
section
/-!
DEFINITION. A DRAM lane at work: the place of a block in the components, the lane writer, the scheduler with its ports, urgencies and
directions, the activate table, acknowledgements, returning reads, breach candidates, and the retirement of parcels.
-/

namespace Sys2Proof.Machine

/-! ## Places -/

/-- Where a lane address lies in the components (R246). -/
structure Place where
  bg : Nat
  bank : Nat
  row : Nat
  col : Nat
  deriving DecidableEq, Repr

/-- The place of a lane address by map order and density (R246). -/
def placeOf (order : BitVec 2) (dense : Bool) (a : Nat) : Place :=
  if order = 0 then { bg := a % 4, bank := a / 4 % 4, row := a / 1024, col := a / 16 % 64 }
  else if order = 1 then { bg := a / 4 % 4, bank := a % 4, row := a / 1024, col := a / 16 % 64 }
  else
    let r := if dense then 131072 else 65536
    { bg := a / (64 * r * 4) % 4, bank := a / (64 * r) % 4, row := a / 64 % r, col := a % 64 }

/-- Bank group, bank and row as a breach-map entry packs them (R274). -/
def rowId (p : Place) : BitVec 21 := BitVec.ofNat 21 (p.bg * 2 ^ 19 + p.bank * 2 ^ 17 + p.row)

/-- A lane of 32 Gb components (R239, R279). -/
def isDense (x : Lane) : Bool := x.density == 1

/-- The place of a lane address on a lane. -/
def placeOn (s : State) (l : Fin 4) (a : Nat) : Place := placeOf s.dram.mapOrder (isDense s.lanes[l]) a

/-- The row of a device block (R245, R246). -/
def rowOfBlock (s : State) (l : Fin 4) (blk : Nat) : BitVec 21 := rowId (placeOn s l (laneAddr s blk))

/-- The lane address of column burst c of a row (R246). -/
def rowAddr (order : BitVec 2) (dense : Bool) (row : BitVec 21) (c : Nat) : Nat :=
  let bg := bits row 20 19
  let bank := bits row 18 17
  let r := bits row 16 0
  if order = 0 then r * 1024 + c * 16 + bank * 4 + bg
  else if order = 1 then r * 1024 + c * 16 + bg * 4 + bank
  else
    let n := if dense then 131072 else 65536
    ((bg * 4 + bank) * n + r) * 64 + c

/-- The position of a lane in the interleave (R245). -/
def laneIndex (s : State) (l : Fin 4) : Nat := (usableLanes s).findIdx (· == l)

/-- The device block of column burst c of a row of a lane (R245, R246). -/
def rowBlock (s : State) (l : Fin 4) (row : BitVec 21) (c : Nat) : Nat :=
  rowAddr s.dram.mapOrder (isDense s.lanes[l]) row c * (usableLanes s).length + laneIndex s l

/-- The parcels that hold a block of a row (R271). -/
def rowParcels (s : State) (l : Fin 4) (row : BitVec 21) : List Nat :=
  ((List.range 64).map fun c => rowBlock s l row c / parcelBlocks).eraseDups

/-- Lane addresses of a lane (R239). -/
def laneSize (x : Lane) : Nat := if isDense x then 2 ^ 27 else 2 ^ 26

/-! ## What a lane may do -/

/-- The lane carries traffic: usable, out of self-refresh, and not stopped for a soft repair (R265, R272). -/
def laneRuns (s : State) (l : Fin 4) : Bool :=
  s.lanes[l].usable && !s.dram.selfRefresh && !(s.dram.repairing.any fun r => r.lane == l)

/-- The lane may access DRAM: it runs, ALERT_n is high and no stop runs (R255, R257, R267). -/
def laneOpen (s : State) (l : Fin 4) : Bool := laneRuns s l && !s.lanes[l].alert && !past s.tb.now s.lanes[l].stopUntil

/-- At most 22 activates in any 25 consecutive slots (R248). -/
def mayActivate (x : Lane) : Bool := (x.acts.filter fun k => x.slot < k + 25).length < 22

/-- An activate in the current slot (R248). -/
def pushAct (x : Lane) : Lane := { x with acts := (x.slot :: x.acts).take 22 }

/-! ## The activate table -/

/-- An entry after its count has risen: at the threshold the row's neighbours are due (R259). -/
def bumpEntry (t : Nat) (i : Nat) (e : NrEntry) (x : Lane) : Lane :=
  if t ≤ e.count then { x with nrTable := x.nrTable.set i { e with count := x.nrFloor }, nrDue := x.nrDue ++ [e.row] }
  else { x with nrTable := x.nrTable.set i e }

/-- The index of the entry with the least count, the lowest on a tie (R259). -/
def leastEntry (l : List NrEntry) : Nat := l.findIdx fun e => l.all fun f => e.count ≤ f.count

/-- An activate of a counted access in a row (R259). -/
def countRow (t : Nat) (row : BitVec 21) (x : Lane) : Lane :=
  match x.nrTable.findIdx? fun e => e.row == row with
  | some i => bumpEntry t i { row := row, count := (x.nrTable.getD i {}).count + 1 } x
  | none =>
    if x.nrTable.length < 512 then
      bumpEntry t x.nrTable.length { row := row, count := x.nrFloor + 1 } { x with nrTable := x.nrTable ++ [{ row := row }] }
    else
      let i := leastEntry x.nrTable
      let f := (x.nrTable.getD i {}).count
      bumpEntry t i { row := row, count := f + 1 } { x with nrFloor := f }

/-- An access to a block: one activate, counted (R248, R259). -/
def access (s : State) (l : Fin 4) (blk : Nat) : State :=
  let row := rowOfBlock s l blk
  modLane s l fun x => countRow s.dram.nrThreshold row (pushAct x)

/-! ## The lane writer -/

/-- The bank queue of a block, in the rotation's order: bank group first (R249). -/
def bankOf (s : State) (l : Fin 4) (blk : Nat) : Fin 16 :=
  let p := placeOn s l (laneAddr s blk)
  Fin.ofNat 16 (p.bank * 4 + p.bg)

/-- A data block of a segment still waits, in a slice or for one (R219). -/
def dataWaits (s : State) (n : Stall) (uid : Nat) : Bool :=
  (List.finRange 4).any fun l => (s.fbd.slices[l] ++ s.fbd.outbox[l]).any fun b => b.stall == n && b.uid == uid && b.part != .header

/-- The owner of a freeboard block's write. -/
def fbOwner (b : FbBlock) : WrOwner := if b.part = .header then .header b.stall b.uid else .data b.stall b.uid

/-- The oldest block of a slice goes to the controller: its credit returns (R213, R218, R404, R266). -/
def issueBlock (s : State) (l : Fin 4) (b : FbBlock) (rest : List FbBlock) (bad : Bool) : State :=
  let s := { s with fbd := { s.fbd with slices := s.fbd.slices.set l rest } }
  let s := if b.part = .credit then modCap s b.stall fun c => { c with inUse := vmod c.inUse l fun k => k - 1 } else s
  let w : WrReq := { blk := b.blk, recs := b.recs, owner := fbOwner b, bad := bad, when := s.tb.now }
  let k := bankOf s l b.blk
  modLane s l fun x => { x with banks := vmod x.banks k fun q => q ++ [w], lastIssue := s.tb.now }

/-- LANE_WRITE_ISSUE: the oldest block of the slice, when its bank queue has room; a header block only after every data block of its
segment (R212, R218, R219, R245, R249, R404). -/
def execLaneWriteIssue (l : Fin 4) (ecc : Ecc) (s : State) : Host.Outcome State Fault Refusal :=
  match s.fbd.slices[l] with
  | [] => .next s
  | b :: rest =>
    if !laneRuns s l || 8 ≤ s.lanes[l].banks[bankOf s l b.blk].length || (b.part == .header && dataWaits s b.stall b.uid) then .next s
    else if laneSize s.lanes[l] ≤ laneAddr s b.blk then .fault .noSuchBlock
    else .next (issueBlock (if ecc = .corrected then countSram s 0 else s) l b rest (ecc = .uncorrectable))

/-! ## The code of a beat -/

/-- A check column: of odd weight, and for a check bit its own (R243; log entry 268). -/
def checkColumn (i : Nat) : BitVec 8 :=
  if i < 72 then
    let c := Config.checkColumn i
    if popcount c % 2 = 1 then c else c ^^^ 1
  else 1 <<< (i - 72)

/-- The syndrome of a beat; that of a codeword is 0 (R243). -/
def syndrome (b : BitVec 80) : BitVec 8 :=
  (List.range 80).foldl (fun s i => if bit b i then s ^^^ checkColumn i else s) 0

/-- A record as the beat that carries it, its check bits above it (R242, R243). -/
def beatOf (r : Rec) : BitVec 80 := syndrome (r.zeroExtend 80) ++ r

/-- A beat read with the bits of `f` flipped: one is corrected, two are detected, of three or more the code's columns decide whether they are
detected or miscorrected; the code is linear, so the syndrome is that of the flips (R243; log entry 268). -/
def readBeat (r : Rec) (f : BitVec 80) : Rec × Ecc :=
  match popcount f with
  | 0 => (r, .clean)
  | 1 => (r, .corrected)
  | 2 => (r ^^^ f.truncate 72, .uncorrectable)
  | _ =>
    if syndrome f = 0 then (r ^^^ f.truncate 72, .clean)
    else match (List.range 80).find? fun i => checkColumn i == syndrome f with
      | some i => (r ^^^ (f ^^^ BitVec.ofNat 80 (2 ^ i)).truncate 72, .corrected)
      | none => (r ^^^ f.truncate 72, .uncorrectable)

/-- A block read with some bits of its beats flipped: its records, and the worst that a beat shows (R242, R269). -/
def readBeats (l : List Rec) (flips : List (BitVec 80)) : List Rec × Ecc :=
  let b := (l.zipIdx).map fun x => readBeat x.1 (flips.getD x.2 0)
  (b.map fun x => x.1,
    if b.any fun x => x.2 == .uncorrectable then .uncorrectable else if b.any fun x => x.2 == .corrected then .corrected else .clean)

/-! ## Ports -/

/-- The urgency of a request that entered its port at t, by the port's target in nanoseconds (R251). -/
def urgency (now : Time) (target : Nat) (t : Time) : Nat :=
  let age := strideOf (now - t)
  if 4 * age < target then 0 else if 2 * age < target then 1 else if age < target then 2 else 3

/-- A read of a block that the lane accepted before a time, or has issued, has not its data yet (R254). -/
def readOwed (x : Lane) (blk : Nat) (t : Time) : Bool :=
  (x.retry.any fun c => !c.done && c.rd.any fun r => r.blk == blk) ||
    (x.p1 ++ x.p2r ++ x.p3r).any fun r => r.blk == blk && later t r.when

/-- The write at the head of a bank queue, if it may go (R254). -/
def bankHead (x : Lane) (i : Fin 16) : Option WrReq := match x.banks[i] with
  | [] => none
  | w :: _ => if readOwed x w.blk w.when then none else some w

/-- The urgency of P0: that of its oldest write; one that waits for a read of its block is left out, as it cannot go (R250, R251, R254; log
entry 269). -/
def urgency0 (now : Time) (x : Lane) : Nat :=
  ((List.finRange 16).map fun i => match bankHead x i with
    | none => 0
    | some w => urgency now 800 w.when).foldl max 0

/-- The bank queue whose turn it is: the first from the rotation on whose oldest write may go (R249, R254). -/
def turnBank (x : Lane) : Option (Fin 16) :=
  ((List.range 16).map fun k => Fin.ofNat 16 (x.bankRot + k)).find? fun i => (bankHead x i).isSome

/-- The k-th block of a parcel on a lane (R245, R371). -/
def wipeBlock (s : State) (l : Fin 4) (p k : Nat) : Nat :=
  let n := (usableLanes s).length
  let base := p * parcelBlocks
  base + (laneIndex s l + n - base % n) % n + k * n

/-- The parcel of the wipe queue that a lane is at: the oldest one whose share it has not issued (R371). -/
def wipeNow (s : State) (l : Fin 4) : Option WipeReq := s.dram.wipeQ.find? fun q => !s.lanes[l].wiped.contains q.parcel

/-- The next write of the wipe on a lane, if it may go (R254, R371). -/
def nextWipe (s : State) (l : Fin 4) : Option (Nat × WipeReq) :=
  match wipeNow s l with
  | none => none
  | some q =>
    let b := wipeBlock s l q.parcel s.lanes[l].wipeAt
    if b < (q.parcel + 1) * parcelBlocks ∧ ¬ readOwed s.lanes[l] b q.when then some (b, q) else none

/-- What a slot serves (R252). -/
inductive Pick where
  | bank (i : Fin 16)
  | play
  | upRead
  | loadWrite
  | wipe
  | scrubRead
  | scrubWrite
  | nothing
  deriving DecidableEq, Repr

/-- MT/s of a speed code (R279). -/
def gradeOf (speed : BitVec 2) : Nat := if speed = 0 then 4800 else if speed = 1 then 5600 else 6400

/-- A time lies within the next 100 slots, or has come (R248, R250). -/
def slotsAway (now : Time) (x : Lane) (t : Time) : Bool := past t now || (t - now).toNat * gradeOf x.speed ≤ 409600000

/-- A refresh or maintenance stop is due within the next 100 slots (R250, R263). -/
def stopSoon (now : Time) (x : Lane) : Bool :=
  slotsAway now x x.nextRefresh || slotsAway now x x.nextDqs || x.fixAt.any fun t => slotsAway now x t

/-- The urgency of P1 (R251). -/
def urgency1 (now : Time) (x : Lane) : Nat := match x.p1 with
  | [] => 0
  | r :: _ => urgency now 1600 r.when

/-- The urgency of P2 (R251). -/
def urgency2 (now : Time) (x : Lane) : Nat :=
  max ((x.p2r.head?.map fun q => urgency now 100000 q.when).getD 0) ((x.p2w.head?.map fun q => urgency now 100000 q.when).getD 0)

/-- The entry times of what waits on P3 for a lane, neighbour refresh aside: the wipe, the patrol and a queued repair (R251, R272). -/
def waits3 (s : State) (l : Fin 4) : List Time :=
  let x := s.lanes[l]
  (wipeNow s l).toList.map (fun q => q.when) ++ x.p3w.map (fun q => q.when) ++ x.p3r.map (fun q => q.when) ++
    (s.dram.repairQ.filter fun r => r.lane == l).map fun r => r.when

/-- The urgency of P3, neighbour refresh aside (R251). -/
def urgency3 (s : State) (l : Fin 4) : Nat := ((waits3 s l).map fun t => urgency s.tb.now 10000000 t).foldl max 0

/-- The next write of P2, if it may go (R254). -/
def write2 (x : Lane) : Option WrReq := x.p2w.head?.filter fun w => !readOwed x w.blk w.when

/-- The patrol's write-back, if it may go (R254). -/
def write3 (x : Lane) : Option WrReq := x.p3w.head?.filter fun w => !readOwed x w.blk w.when

/-- The urgency of the oldest writes of P2 and P3 that may go (R250, R251). -/
def urgencyLate (s : State) (l : Fin 4) : Nat :=
  let x := s.lanes[l]
  (((write2 x).toList.map fun w => urgency s.tb.now 100000 w.when) ++ (nextWipe s l).toList.map (fun q => urgency s.tb.now 10000000 q.2.when) ++
    (write3 x).toList.map fun w => urgency s.tb.now 10000000 w.when).foldl max 0

/-- The lane leaves read mode: after 64 reads, without a read left, for a write of P0 at urgency 2, and for one of P2 or P3 once no playback read
is left, since these take only what P0 and P1 leave (R22, R250, R252, R371; log entry 113). -/
def leavesRead (s : State) (l : Fin 4) : Bool :=
  let x := s.lanes[l]
  x.reading && (64 ≤ x.readRun || (x.p1.isEmpty && x.p2r.isEmpty && x.p3r.isEmpty) || 2 ≤ urgency0 s.tb.now x ||
    (x.p1.isEmpty && 2 ≤ urgencyLate s l))

/-- Playback reads may be served: the lane is in read mode, or may enter it (R250). -/
def mayRead (now : Time) (x : Lane) : Bool := x.reading || (urgency0 now x == 0 && !stopSoon now x)

/-- Reads of P2 and P3 may be served: a write of theirs at urgency 1 bars read mode too (R250, log entry 113). -/
def mayReadLate (s : State) (l : Fin 4) : Bool :=
  mayRead s.tb.now s.lanes[l] && (s.lanes[l].reading || urgencyLate s l == 0)

/-- The oldest of some choices. -/
def oldestPick : List (Time × Pick) → Pick
  | [] => .nothing
  | a :: l => (l.foldl (fun x y => if later x.1 y.1 then y else x) a).2

/-- The oldest request of P2 that may go (R251, R254). -/
def pick2 (s : State) (l : Fin 4) : Pick :=
  let x := s.lanes[l]
  let reads := if mayReadLate s l then (x.p2r.head?.map fun q => (q.when, Pick.upRead)).toList else []
  let writes := if x.reading then [] else ((write2 x).map fun q => (q.when, Pick.loadWrite)).toList
  oldestPick (reads ++ writes)

/-- The oldest request of P3 that may go, neighbour refresh aside (R251, R254, R270, R371). -/
def pick3 (s : State) (l : Fin 4) : Pick :=
  let x := s.lanes[l]
  let reads := if mayReadLate s l then (x.p3r.head?.map fun q => (q.when, Pick.scrubRead)).toList else []
  let writes := if x.reading then [] else
    ((nextWipe s l).map fun q => (q.2.when, Pick.wipe)).toList ++ ((write3 x).map fun q => (q.when, Pick.scrubWrite)).toList
  oldestPick (writes ++ reads)

/-- The choice of a slot, no neighbour refresh being due and the mode being settled (R250 to R252). -/
def pick (s : State) (l : Fin 4) : Pick :=
  let x := s.lanes[l]
  let now := s.tb.now
  let c0 := if x.reading then none else turnBank x
  let c1 := mayRead now x && !x.p1.isEmpty
  match c0 with
  | some i => if c1 && urgency0 now x < urgency1 now x then .play else .bank i
  | none =>
    if c1 then .play
    else
      let c2 := pick2 s l
      let c3 := pick3 s l
      if c3 != .nothing && (c2 == .nothing || urgency2 now x ≤ urgency3 s l) then c3 else c2

/-! ## Issuing -/

/-- A command enters the retry buffer (R266). -/
def pushCmd (s : State) (l : Fin 4) (wr : Option WrReq) (rd : Option RdReq) : State :=
  modLane s l fun x => { x with
    retry := x.retry ++ [{ id := x.nextId, wr := wr, rd := rd, when := s.tb.now }], nextId := x.nextId + 1 }

/-- A write is issued (R248, R266). -/
def issueWrite (s : State) (l : Fin 4) (w : WrReq) : State :=
  pushCmd (access (modLane s l fun x => { x with reading := false, readRun := 0 }) l w.blk) l (some w) none

/-- Writes of a block that the lane holds, oldest first (R253). -/
def writesOf (s : State) (l : Fin 4) (blk : Nat) : List WrReq :=
  let x := s.lanes[l]
  ((x.retry.filterMap fun c => c.wr) ++ x.p3w ++ x.p2w ++ x.banks[bankOf s l blk]).filter fun w => w.blk == blk

/-- The newest write of a block that the lane holds since before a read came (R253, R254). -/
def heldWrite (s : State) (l : Fin 4) (blk : Nat) (t : Time) : Option WrReq :=
  ((writesOf s l blk).filter fun w => !later w.when t).getLast?

/-- A read is answered from a write the lane holds, or issued (R250, R253, R266). -/
def issueRd (s : State) (l : Fin 4) (q : RdReq) : State :=
  let s := modLane s l fun x => { x with readRun := if x.reading then x.readRun + 1 else 1, reading := true }
  match heldWrite s l q.blk q.when with
  | some w => modLane s l fun x => { x with answered := x.answered ++ [(q, if w.bad then none else some w.recs)] }
  | none => pushCmd (access s l q.blk) l none (some q)

/-- The patrol moves on; at the end of a pass it is counted (R270, R280). -/
def scrubOn (s : State) (l : Fin 4) : State :=
  modLane s l fun x =>
    let x := { x with scrubbing := none, scrubStale := false, p3r := [], p3w := [] }
    if x.scrubAddr + 1 < laneSize x then { x with scrubAddr := x.scrubAddr + 1 }
    else { x with scrubAddr := 0, scrubRows := [], scrubPasses := satAdd 32 x.scrubPasses 1, scrubLast := BitVec.ofNat 32 (bits s.tb.now 63 32) }

/-- The next block of the wipe is written; a lane done with its share of the parcel goes on to the next (R371). -/
def issueWipe (s : State) (l : Fin 4) (b : Nat) (q : WipeReq) : State :=
  let s := issueWrite s l { blk := b, recs := List.replicate 16 0, owner := .wipe q.parcel, when := q.when }
  modLane s l fun x =>
    if (q.parcel + 1) * parcelBlocks ≤ wipeBlock s l q.parcel (x.wipeAt + 1) then { x with wipeAt := 0, wiped := x.wiped ++ [q.parcel] }
    else { x with wipeAt := x.wipeAt + 1 }

/-- Serves a choice; a write-back of the patrol gives way to any write of its block that followed the patrol's read (R254). -/
def serve (s : State) (l : Fin 4) (p : Pick) : State :=
  let x := s.lanes[l]
  match p with
  | .nothing => s
  | .bank i => match x.banks[i] with
    | [] => s
    | w :: q => issueWrite (modLane s l fun x => { x with banks := x.banks.set i q, bankRot := (i.val + 1) % 16 }) l w
  | .play => match x.p1 with
    | [] => s
    | r :: q => issueRd (modLane s l fun x => { x with p1 := q }) l r
  | .upRead => match x.p2r with
    | [] => s
    | r :: q => issueRd (modLane s l fun x => { x with p2r := q }) l r
  | .loadWrite => match x.p2w with
    | [] => s
    | w :: q => issueWrite (modLane s l fun x => { x with p2w := q }) l w
  | .wipe => match nextWipe s l with
    | none => s
    | some (b, q) => issueWipe s l b q
  | .scrubRead => match x.p3r with
    | [] => s
    | r :: q => issueRd (modLane s l fun x => { x with p3r := q, scrubStale := false }) l r
  | .scrubWrite => match x.p3w with
    | [] => s
    | w :: _ => if x.scrubStale || 1 < (writesOf s l w.blk).length then scrubOn s l else issueWrite (scrubOn s l) l w

/-- A recovery after ALERT_n ends here: it is a stop, from whose end the next maintenance stop keeps its distance (R257). -/
def endRecovery (now : Time) (x : Lane) : Lane := if later now x.stopUntil then { x with stopUntil := now } else x

/-- The oldest command still to be re-issued in a replay goes again; with the last of them the recovery ends (R257, R267). -/
def replayNext (s : State) (l : Fin 4) : State :=
  match s.lanes[l].replaying with
  | [] => s
  | i :: rest =>
    let s := modLane s l fun x =>
      let x := { x with
        replaying := rest
        retry := x.retry.map fun c => if c.id = i then { c with when := s.tb.now, again := min 3 (c.again + 1) } else c }
      if rest = [] then endRecovery s.tb.now x else x
    match s.lanes[l].retry.find? fun c => c.id == i with
    | none => s
    | some c => access s l (match c.wr, c.rd with
      | some w, _ => w.blk
      | none, some r => r.blk
      | none, none => 0)

/-- 40 ns have passed after the last data beat of a command, which takes one slot (R248, R266). -/
def beatsPast (now : Time) (x : Lane) (c : LaneCmd) : Bool :=
  !past now c.when && 10240 * gradeOf x.speed + 4096000 ≤ (now - c.when).toNat * gradeOf x.speed

/-- Reads that have their data leave the retry buffer once they are acknowledged (R266). -/
def settled (now : Time) (x : Lane) : Lane :=
  if x.alert then x else { x with retry := x.retry.filter fun c => !(c.done && !x.replaying.contains c.id && beatsPast now x c) }

/-- One slot: a replay goes on first; a neighbour refresh that is due keeps the slot; else the choice of R252, as far as the activates
and the retry buffer allow (R248, R252, R266, R267). -/
def slotStep (s : State) (l : Fin 4) : State :=
  let s := modLane s l (settled s.tb.now)
  let x := s.lanes[l]
  if !mayActivate x then s
  else if x.replaying ≠ [] then replayNext s l
  else if x.nrDue ≠ [] ∨ 64 ≤ x.retry.length then s
  else
    let s := if leavesRead s l then modLane s l fun x => { x with reading := false, readRun := 0 } else s
    serve s l (pick s l)

/-- DRAM_SCHEDULE: one slot of a lane (R248 to R254). -/
def execDramSchedule (l : Fin 4) (s : State) : Host.Outcome State Fault Refusal :=
  .next (if laneOpen s l then slotStep (modLane s l fun x => { x with slot := x.slot + 1 }) l else s)

/-! ## Acknowledgement -/

/-- A segment of a stall, open or held, updated by its number. -/
def modSeg (s : State) (n : Stall) (uid : Nat) (f : Seg → Seg) : State :=
  modStall s n fun x => { x with
    cap := x.cap.map fun c => if (c.phase = .running ∨ c.phase = .closing) ∧ c.seg.uid = uid then { c with seg := f c.seg } else c
    held := x.held.map fun h => if h.uid = uid then f h else h }

/-- The content of a written block; the check pattern marks the block (R242, R272). -/
def storeBlock (s : State) (w : WrReq) : State :=
  { s with dram := { s.dram with
      mem := blockWrite s.dram.mem w.blk w.recs
      bad := (s.dram.bad.filter fun b => b != w.blk) ++ (if w.bad then [w.blk] else []) } }

/-- A write's owner learns of its acknowledgement; a header that a later one replaces counts with that one (R217, R220, R331, R371). -/
def ackOwner (s : State) : WrOwner → State
  | .data n uid => modSeg s n uid fun g => { g with unacked := g.unacked - 1 }
  | .header n uid => if headerWaits s n uid then s else modSeg s n uid fun g => { g with hdrAcked := true }
  | .wipe _ => s
  | .load n => ackLoad s n
  | .scrub => s

/-- A block whose read by the patrol has been issued has been written since (R254). -/
def noteWritten (s : State) (l : Fin 4) (w : WrReq) : State :=
  modLane s l fun x => if x.scrubbing = some w.blk ∧ w.owner ≠ .scrub then { x with scrubStale := true } else x

/-- WRITE_ACK: 40 ns with ALERT_n high have passed since the last data beat, and no older write of the block waits for its own; a failed lane
stores nothing (R220, R266, R276). -/
def execWriteAck (l : Fin 4) (id : Nat) (s : State) : Host.Outcome State Fault Refusal :=
  .next (
    let x := s.lanes[l]
    match x.retry.find? fun c => c.id == id with
    | none => s
    | some c =>
      match c.wr with
      | none => s
      | some w =>
        if x.alert || x.replaying.contains id || !beatsPast s.tb.now x c || x.retry.any (fun d => d.id < id && d.wr.any fun v => v.blk == w.blk) then s
        else
          let s := modLane (noteWritten s l w) l fun x => { x with retry := x.retry.filter fun c => c.id != id }
          ackOwner (if x.failed then s else storeBlock s w) w.owner)

/-! ## dram_degraded -/

/-- The speed code of a lane as `dram_degraded` gives it (R279, R281). -/
def speedCode (x : Lane) : Nat := if x.failed then 3 else x.speed.toNat

/-- Parcels of a stall's polder once the pending retirements have taken effect (R235, R281). -/
def polderLeft (s : State) (n : Stall) : Nat := ((polderOf s.stalls[n].grant).filter fun p => !s.dram.retirePend.contains p).length

/-- `dram_degraded` to the physical function and some stalls, with its time of detection; for a device-wide cause the `speed` field carries that of
lane 0, which the `lane` field names (R281; DESIGN CHOICE, log entry 298). -/
def dramEventAt (s : State) (t : Time) (who : List Stall) (cause : Nat) (l : Fin 4) (detail : Nat) : State :=
  let lane : Fin 4 := if cause = 8 ∨ cause = 9 then 0 else l
  sendRated s { code := 0x0C, sub := 4 * cause + lane.val, fn := 0 } ms ((withPf who).eraseDups.map fun f =>
    (f, event 0x0C f.val t (fld cause 24 ||| fld lane.val 22 ||| fld (speedCode s.lanes[lane]) 20)
      (fld (reportedG s) 16 ||| fld (sat 16 (usableParcels s)) 0) (fld detail 0) (if f = 0 then 0 else fld (polderLeft s f) 0)))

/-- `dram_degraded` of something detected now (R281). -/
def dramEvent (s : State) (who : List Stall) (cause : Nat) (l : Fin 4) (detail : Nat) : State := dramEventAt s s.tb.now who cause l detail

/-- G of R228 by usable lanes and the speed code of the slowest. -/
def guaranteeOf (lanes speed : Nat) : Nat :=
  if lanes = 4 then (if speed = 2 then 136 else if speed = 1 then 120 else 103)
  else if lanes = 3 then (if speed = 2 then 103 else if speed = 1 then 90 else 77)
  else 0

/-! ## Retirement -/

/-- A parcel is retired for a lane: never wiped further nor granted again; it leaves a polder at once, or at the next open of a stall
with a capture (R233, R235, R271, R273, R371). -/
def retireParcel (s : State) (l : Fin 4) (p : Nat) : State :=
  if s.dram.retired.contains p ∨ s.dram.total ≤ p then s
  else
    let owner := allStalls.find? fun n => s.stalls[n].grant.parcels.contains p
    let holder := owner.toList.filter fun n => (polderOf s.stalls[n].grant).contains p
    let s := { s with lanes := vmap s.lanes fun k x =>
      { x with wipeAt := if (wipeNow s k).any (fun (q : WipeReq) => q.parcel == p) then 0 else x.wipeAt, wiped := x.wiped.filter fun q => q != p } }
    let s := { s with dram := { s.dram with retired := s.dram.retired ++ [p], wipeQ := s.dram.wipeQ.filter fun q => q.parcel != p } }
    let s := modLane s l fun x => { x with retired := x.retired + 1 }
    let s := match owner with
      | none => s
      | some n =>
        let s := { s with dram := { s.dram with retirePend := s.dram.retirePend ++ [p] } }
        if s.stalls[n].cap.isSome then s else applyRetire s n
    let s := dramEvent s (armedStalls s ++ holder) 5 l p
    if 64 < s.lanes[l].retired ∧ ¬ s.lanes[l].degraded then
      let s := modLane s l fun x => { x with degraded := true }
      dramEvent s (armedStalls s) 6 l 0
    else s

/-- An entry of the breach map is added or replaced; a full map takes no more (R274). -/
def putBreach (s : State) (e : BreachEntry) : State :=
  let old := s.flash.breach
  let new := if old.any fun b => b.lane == e.lane && b.row == e.row then
      old.map fun b => if b.lane == e.lane && b.row == e.row then e else b
    else if old.length < 1024 then old ++ [e] else old
  queueBreach { s with flash := { s.flash with breach := new } }

/-- Every component reports an unclaimed repair resource for a bank group (R271). -/
def spareLeft (x : Lane) (bg : Nat) : Bool := (List.range 5).all fun j => x.spares.getD (5 * bg + j) 0 != 0

/-- One resource of a bank group is claimed on each component (R271, R279). -/
def claimSpares (x : Lane) (bg : Nat) : Lane :=
  { x with spares := x.spares.zipIdx.map fun k => if k.2 / 5 = bg then k.1 - 1 else k.1 }

/-- A soft repair of a row is queued or running. -/
def queuedRepair (s : State) (l : Fin 4) (row : BitVec 21) : Bool :=
  (s.dram.repairing.toList ++ s.dram.repairQ).any fun r => r.lane == l && r.row == row

/-- A breach candidate: a soft repair, or the row's parcels retired; a row whose repair is queued or whose parcels are retired stays as
it is (R271, R273, R274). -/
def breachCandidate (s : State) (l : Fin 4) (row : BitVec 21) (cause : BitVec 3) : State :=
  let old := s.flash.breach.find? fun b => b.lane == l && b.row == row
  if queuedRepair s l row || old.any fun b => b.state == 3 then s
  else
    let bg := bits row 20 19
    if spareLeft s.lanes[l] bg then
      let s := modLane s l fun x => claimSpares x bg
      putBreach { s with dram := { s.dram with repairQ := s.dram.repairQ ++ [{ lane := l, row := row, when := s.tb.now }] } }
        { lane := l, row := row, state := 0, cause := cause }
    else
      putBreach ((rowParcels s l row).foldl (fun s p => retireParcel s l p) s) { lane := l, row := row, state := 3, cause := cause }

/-! ## Reads -/

/-- The header of a held segment that the stall context keeps since a lane failed, by its device block (R276). -/
def keptHeader (s : State) (o : RdOwner) (blk : Nat) : Option (List Rec) :=
  match o with
  | .upload f _ _ => (s.stalls[f].held.find? fun x => x.cause == 8 && devBlock s.stalls[f].grant x.start == blk).map fun x => x.header
  | .play _ _ => none
  | .scrub => none

/-- A read's data, or poison, goes to its requester; the patrol keeps nothing (R118, R269, R342). -/
def deliver (s : State) (l : Fin 4) (q : RdReq) (recs : Option (List Rec)) : State :=
  match q.owner with
  | .upload f tag k => uploadData s f tag k q.blk recs
  | .play n k => stageBlock s n k (recs.getD []) recs.isNone
  | .scrub => scrubOn s l

/-- A block is delivered as poisoned (R269, R280). -/
def deliverPoison (s : State) (l : Fin 4) (q : RdReq) : State :=
  deliver (modLane s l fun x => { x with uncorrectable := satAdd 32 x.uncorrectable 1 }) l q none

/-- An uncorrectable read: issued once more, or poisoned with its row a breach candidate (R269). -/
def readFailed (s : State) (l : Fin 4) (q : RdReq) : State :=
  if q.again then breachCandidate (deliverPoison s l q) l (rowOfBlock s l q.blk) 0
  else
    let r := { q with again := true }
    modLane s l fun x => match q.owner with
      | .upload _ _ _ => { x with p2r := r :: x.p2r }
      | .play _ _ => { x with p1 := r :: x.p1 }
      | .scrub => { x with p3r := r :: x.p3r }

/-- The patrol finds a corrected error: the block waits to be written back corrected, and the fourth of a row in a pass makes the row a
breach candidate (R254, R270). -/
def scrubFix (s : State) (l : Fin 4) (q : RdReq) (recs : List Rec) : State :=
  let row := rowOfBlock s l q.blk
  let s := modLane s l fun x => { x with
    scrubRows := x.scrubRows ++ [row], p3w := [{ blk := q.blk, recs := recs, owner := .scrub, when := s.tb.now }] }
  if (s.lanes[l].scrubRows.filter fun r => r == row).length = 4 then breachCandidate s l row 1 else s

/-- The data of an issued read, its beats read with some bits flipped (R243, R269, R270, R272, R276, R280). -/
def readBack (s : State) (l : Fin 4) (q : RdReq) (flips : List (BitVec 80)) : State :=
  if s.lanes[l].failed then
    match keptHeader s q.owner q.blk with
    | some h => deliver s l q (some h)
    | none => deliverPoison s l q
  else
    let r := readBeats (blockRead s.dram.mem q.blk) flips
    if r.2 = .uncorrectable ∨ s.dram.bad.contains q.blk then readFailed s l q
    else if r.2 = .corrected then
      let s := modLane s l fun x => { x with corrected := satAdd 32 x.corrected 1 }
      if q.owner = .scrub then scrubFix s l q r.1 else deliver s l q (some r.1)
    else deliver s l q (some r.1)

/-- DRAM_READ_DATA: the oldest read answered from a held write, else the oldest issued one without its data, whose beats come with some bits
flipped; it stays in the retry buffer until it is acknowledged (R243, R253, R266, R269). -/
def execDramReadData (l : Fin 4) (flips : List (BitVec 80)) (s : State) : Host.Outcome State Fault Refusal :=
  .next (
    let x := s.lanes[l]
    if !laneRuns s l then s
    else match x.answered with
      | (q, some recs) :: rest => deliver (modLane s l fun x => { x with answered := rest }) l q (some recs)
      | (q, none) :: rest => readFailed (modLane s l fun x => { x with answered := rest }) l q
      | [] =>
        match x.retry.find? fun c => c.rd.isSome && !c.done with
        | none => s
        | some c =>
          match c.rd with
          | none => s
          | some q =>
            if x.alert || x.replaying.contains c.id then s
            else readBack (modLane s l fun x => { x with retry := x.retry.map fun k => if k.id = c.id then { k with done := true } else k }) l q flips)

end Sys2Proof.Machine
end

