-- ==== Sys2Proof/Machine/LaneFaults.lean ====
section
/-!
DEFINITION. What the DRAM controller does beside its accesses: lane faults, refresh, temperatures, neighbour refresh, retraining,
ALERT_n, unstable and failed lanes, soft repair, the patrol's steps, and the end of a wipe.
-/

namespace Sys2Proof.Machine

/-! ## Lane fault -/

/-- A block's segment has lost it: it waits for no acknowledgement of it (R217, R220). -/
def loseBlock (s : State) (n : Stall) (uid blk : Nat) : State :=
  modSeg s n uid fun g => { g with unacked := g.unacked - 1, lost := g.lost ++ [blk] }

/-- The segments of a stall that end before a lost block, as they now read. -/
def cutSegs (y : StallState) : List Seg :=
  (y.held.filter fun x => !x.closed && x.lost != []).map fun x => cutSegment y.grant x

/-- Segments with lost blocks end before the first of them, and their headers say so wherever they are (R217, log entry 68). -/
def cutHeld (s : State) : State :=
  let old := s.stalls
  let s := syncHeaders { s with stalls := vmap s.stalls fun _ y =>
    { y with held := y.held.map fun (x : Seg) => if x.closed || x.lost == [] then x else cutSegment y.grant x } }
  allStalls.foldl (fun s n =>
    ((cutSegs old[n]).filter fun x => !old[n].held.any fun h => h.uid == x.uid && h.header == x.header).foldl (renewHeader n) s) s

/-- What a lane with a fault has not issued cannot reach DRAM: the data blocks in its slice, those that wait for it and those in its bank
queues are given up, their credits return, and the closed segments end before the first of them (R213, R217, log entry 68). -/
def giveUp (s : State) (l : Fin 4) : State :=
  let isData (b : FbBlock) : Bool := b.part != .header
  let queued := (s.lanes[l].banks.toArray.toList.flatten).filter fun w => match w.owner with
    | .data _ _ => true
    | _ => false
  let gone := (s.fbd.slices[l] ++ s.fbd.outbox[l]).filter isData
  let s := (s.fbd.slices[l].filter fun b => b.part == .credit).foldl
    (fun s b => modCap s b.stall fun c => { c with inUse := vmod c.inUse l fun k => k - 1 }) s
  let s := { s with fbd := { s.fbd with
    slices := vmod s.fbd.slices l fun q => q.filter fun b => !isData b
    outbox := vmod s.fbd.outbox l fun q => q.filter fun b => !isData b } }
  let s := modLane s l fun x => { x with banks := x.banks.map fun q => q.filter fun w => !queued.contains w }
  let s := gone.foldl (fun s b => loseBlock s b.stall b.uid b.blk) s
  let s := queued.foldl (fun s w => match w.owner with
    | .data n uid => loseBlock s n uid w.blk
    | _ => s) s
  cutHeld s

/-- LANE_FAULT: no write for 20 µs while blocks wait: every capture closes with cause 0x08, and what waits for the lane is not reported as
stored (R217, R281). -/
def execLaneFault (l : Fin 4) (s : State) : Host.Outcome State Fault Refusal :=
  .next (
    if !s.lanes[l].usable || s.dram.selfRefresh || s.fbd.slices[l].isEmpty || !passed s.tb.now s.lanes[l].lastIssue 20000 then s
    else
      let who := armedStalls s
      dramEvent (giveUp (closeAll s 0x08 7) l) who 1 l 0)

/-! ## Refresh -/

/-- tREFI in ticks (R255). -/
def refi (hot : Bool) : Nat := if hot then 499200 else 998400

/-- A refresh stop: tRFC and 30 ns of entry (R255). -/
def refreshStop (x : Lane) : Time := strides (if isDense x then 440 else 325)

/-- The latest point of a lane's refresh schedule not after a time: every interval from the base, lane n a quarter of it times n later
(R255). -/
def refreshPoint (base : Time) (l : Fin 4) (hot : Bool) (t : Time) : Time :=
  t - BitVec.ofNat 64 ((t - (base + BitVec.ofNat 64 (l.val * (refi hot / 4)))).toNat % refi hot)

/-- The next refresh of a lane whose interval has changed: that interval after the last, and not in the past; the refresh after it is back in the
lanes' order (R255, R256; log entry 270). -/
def rePhase (s : State) (hot : Bool) (x : Lane) : Time :=
  let p := x.nextRefresh - BitVec.ofNat 64 (refi x.hot) + BitVec.ofNat 64 (refi hot)
  if past p s.tb.now then s.tb.now else p

/-- DRAM_REFRESH: due by the lane's schedule, and postponed by an ALERT_n recovery alone (R255, R257). -/
def execDramRefresh (l : Fin 4) (s : State) : Host.Outcome State Fault Refusal :=
  .next (
    let x := s.lanes[l]
    if !x.usable || s.dram.selfRefresh || x.alert || x.replaying ≠ [] || past s.tb.now x.nextRefresh then s
    else modLane s l fun x => { x with
      refreshes := x.refreshes + 1, nextRefresh := refreshPoint s.dram.refreshBase l x.hot (x.nextRefresh + BitVec.ofNat 64 (refi x.hot))
      stopUntil := s.tb.now + refreshStop x, reading := false, readRun := 0 })

/-! ## Temperature -/

/-- The lane becomes hot, and its refreshes follow the short interval (R255, R256). -/
def makeHot (s : State) (x : Lane) : Lane :=
  if x.hot then { x with coolSince := none } else { x with hot := true, coolSince := none, nextRefresh := rePhase s true x }

/-- Every component has reported 85 °C or below: after 100 ms the lane is cool again (R255, R256). -/
def makeCool (s : State) (x : Lane) : Lane :=
  match x.coolSince with
  | none => if x.hot then { x with coolSince := some s.tb.now } else x
  | some t =>
    if x.hot && passed s.tb.now t (100 * ms) then { x with hot := false, coolSince := none, nextRefresh := rePhase s false x } else x

/-- MR4_READ: a slot for each of the five components; hot or cool, and above the operating range the thermal capture close (R237, R248, R256,
R281). -/
def execMr4Read (l : Fin 4) (temps : Vector CompTemp 5) (s : State) : Host.Outcome State Fault Refusal :=
  .next (
    if !laneOpen s l || s.lanes[l].replaying ≠ [] then s
    else
      let t := temps.toArray.toList
      let s := modLane s l fun x => { (if t.all fun c => c == .normal then makeCool s x else makeHot s x) with slot := x.slot + 5 }
      if t.any fun c => c == .beyond then
        let who := armedStalls s
        shedClose (dramEvent s who 7 l 0) 3 0x06 5
      else s)

/-! ## Neighbour refresh -/

/-- NR_TABLE_CLEAR: every 1 ms (R259). -/
def execNrTableClear (l : Fin 4) (s : State) : Host.Outcome State Fault Refusal :=
  .next (modLane s l fun x => { x with nrTable := [], nrFloor := 0 })

/-- The rows r - 2, r - 1, r + 1 and r + 2 that exist (R261). -/
def neighbours (rows r : Nat) : List Nat :=
  (if 2 ≤ r then [r - 2] else []) ++ (if 1 ≤ r then [r - 1] else []) ++ [r + 1, r + 2].filter fun x => x < rows

/-- Rows per bank (R239). -/
def rowsOf (x : Lane) : Nat := if isDense x then 131072 else 65536

/-- NEIGHBOUR_REFRESH: the neighbours of the oldest due row are activated, uncounted, in at most 8 slots (R252, R259, R261). -/
def execNeighbourRefresh (l : Fin 4) (s : State) : Host.Outcome State Fault Refusal :=
  .next (
    let x := s.lanes[l]
    match x.nrDue with
    | [] => s
    | row :: rest =>
      let n := (neighbours (rowsOf x) (bits row 16 0)).length
      if !laneOpen s l || x.replaying ≠ [] || 22 < (x.acts.filter fun k => x.slot < k + 25).length + n then s
      else modLane s l fun x => { x with
        nrDue := rest, nrCount := satAdd 32 x.nrCount 1, slot := x.slot + 8
        acts := (((List.range n).map fun k => x.slot + 2 * k).reverse ++ x.acts).take 22 })

/-! ## Unstable lanes -/

/-- A lane becomes unstable: every capture closes with cause 0x08 (R275). -/
def markUnstable (s : State) (l : Fin 4) : State :=
  if s.lanes[l].unstable then s else closeAll (modLane s l fun x => { x with unstable := true }) 0x08 7

/-- A lane becomes unstable by its replays (R268, R275, R281). -/
def replayLimit (s : State) (l : Fin 4) : State :=
  if s.lanes[l].unstable then s
  else
    let who := armedStalls s
    markUnstable (dramEvent s who 2 l 0) l

/-- A maintenance stop of at most k ns may begin now (R257). -/
def mayMaintain (s : State) (l : Fin 4) (k : Nat) : Bool :=
  let x := s.lanes[l]
  laneRuns s l && !x.alert && x.replaying == [] && passed s.tb.now x.stopUntil 200 && leads x.nextRefresh s.tb.now (k + 200)

/-- A maintenance stop of k ns (R250, R257). -/
def maintain (now : Time) (k : Nat) (x : Lane) : Lane := { x with stopUntil := now + strides k, reading := false, readRun := 0 }

/-- The timing is corrected (R263). -/
def correctLane (now : Time) (x : Lane) : Lane :=
  { maintain now 400 x with drift := 0, fixAt := none, lastFix := some now, corrections := satAdd 32 x.corrections 1 }

/-- When a correction found necessary is due: 200 ns after the stop of the check, and 2 ms after the last correction (R257, R263). -/
def fixDue (now : Time) (x : Lane) : Time :=
  let a := now + strides 320
  match x.lastFix with
  | none => a
  | some t => if later (t + strides (2 * ms)) a then t + strides (2 * ms) else a

/-- The delay has been read: it has moved by `drift` since the last read, and a movement beyond 1/16 since the last correction is to be corrected
(R263). -/
def checkLane (now : Time) (drift : Rat) (x : Lane) : Lane :=
  let d := x.drift + drift
  { maintain now 120 x with
    drift := d, driftTrain := x.driftTrain + drift, nextDqs := now + strides (2 * ms)
    fixAt := if 1 / 16 < d ∨ d < -1 / 16 then some (x.fixAt.getD (fixDue now x)) else none }

/-- DQS_OSC_CHECK: the stop of a correction that is due, else that of the check that is due, in which the delay has moved by `drift` unit
intervals since the last; beyond 1/4 since the last full training the lane is unstable (R257, R263, R264; log entry 293). -/
def execDqsOscCheck (l : Fin 4) (drift : Rat) (s : State) : Host.Outcome State Fault Refusal :=
  .next (
    let x := s.lanes[l]
    if (x.fixAt.any fun t => !past s.tb.now t) && mayMaintain s l 400 then modLane s l (correctLane s.tb.now)
    else if past s.tb.now x.nextDqs || !mayMaintain s l 120 then s
    else
      let s := modLane s l (checkLane s.tb.now drift)
      if 1 / 4 < s.lanes[l].driftTrain ∨ s.lanes[l].driftTrain < -1 / 4 then markUnstable s l else s)

/-! ## ALERT_n -/

/-- ALERT_N_FALL: issuing stops, a read run is abandoned, a replay is broken off; a command re-issued in three consecutive replays makes
the lane unstable (R267, R268). -/
def execAlertNFall (l : Fin 4) (s : State) : Host.Outcome State Fault Refusal :=
  .next (
    if !laneRuns s l || s.lanes[l].alert then s
    else
      let s := modLane s l fun x => { x with
        alert := true, reading := false, readRun := 0, replaying := []
        retry := (settled s.tb.now x).retry.map fun c => if x.replaying.contains c.id then { c with again := 0 } else c }
      if s.lanes[l].retry.any fun c => 3 ≤ c.again then replayLimit s l else s)

/-- ALERT_N_RISE: the replay of every command not acknowledged begins, and without one the recovery ends; the 33rd within 1 ms makes the lane
unstable (R257, R267, R268, R280). -/
def execAlertNRise (l : Fin 4) (s : State) : Host.Outcome State Fault Refusal :=
  .next (
    if !s.lanes[l].alert then s
    else
      let s := modLane s l fun x =>
        let x := { x with
          alert := false, replaying := x.retry.map fun c => c.id, replays := satAdd 32 x.replays 1
          replayTimes := s.tb.now :: x.replayTimes.filter fun t => !passed s.tb.now t ms }
        if x.retry = [] then endRecovery s.tb.now x else x
      if 32 < s.lanes[l].replayTimes.length then replayLimit s l else s)

/-! ## Demotion and failure -/

/-- A write carries a block of a segment. -/
def isSegWrite (w : WrReq) : Bool := match w.owner with
  | .data _ _ => true
  | .header _ _ => true
  | _ => false

/-- Writes that a lane holds in its bank queues or has issued. -/
def laneWrites (x : Lane) : List WrReq := x.banks.toArray.toList.flatten ++ x.retry.filterMap fun c => c.wr

/-- Every block held in the freeboard has been written and acknowledged, those of the unstable lane too (R275, log entry 67). -/
def drained (s : State) : Bool :=
  (usableLanes s).all fun k => (s.fbd.slices[k] ++ s.fbd.outbox[k]).isEmpty && !(laneWrites s.lanes[k]).any isSegWrite

/-- A lane trained anew: its drift, instability and replays are over; what is not acknowledged is issued again (R265, R275). -/
def trained (x : Lane) : Lane :=
  { x with drift := 0, driftTrain := 0, fixAt := none, unstable := false, alert := false, replayTimes := [], replaying := x.retry.map (fun c => c.id)
           retry := x.retry.map fun c => { c with again := 0 } }

/-- The speed code of the slowest usable lane (R228). -/
def slowest (s : State) : Nat := ((usableLanes s).map fun l => s.lanes[l].speed.toNat).foldl min 2

/-- `guarantee_changed` when G differs from what it was (R231). -/
def noteG (s : State) (old : Nat) : State := if reportedG s = old then s else dramEvent s (armedStalls s) 9 0 0

/-- The unstable lane passes training at a lower grade (R231, R275). -/
def slowLane (s : State) (l : Fin 4) (speed : BitVec 2) : State :=
  let old := reportedG s
  let s := modLane s l fun x => { trained x with speed := speed }
  let s := { s with dram := { s.dram with g := guaranteeOf (usableLanes s).length (slowest s) } }
  noteG (dramEvent s (armedStalls s) 3 l 0) old

/-- A lane fails in service (R231, R276, R536). -/
def failLane (s : State) (l : Fin 4) : State :=
  let old := reportedG s
  let s := modLane s l fun x => trained { x with failed := true, speed := 3 }
  let s := { s with dram := { s.dram with admFail := true } }
  let s := queueJournal s 2 (fld l.val 0 ||| fld 4 8) .none
  noteG (dramEvent s (armedStalls s) 4 l 0) old

/-- LANE_DEMOTE: an unstable lane, once the freeboard has drained, is trained at a lower grade, `passed`, or fails at 4800 MT/s (R275,
R276). -/
def execLaneDemote (l : Fin 4) (passed : Option (BitVec 2)) (s : State) : Host.Outcome State Fault Refusal :=
  .next (
    if !laneRuns s l || !s.lanes[l].unstable || s.lanes[l].failed || !drained s then s
    else match passed with
      | some v => if v < s.lanes[l].speed then slowLane s l v else s
      | none => failLane s l)

/-! ## Soft repair -/

/-- A stall is about to capture: an arm opens within the 2 ms that a repair may last (R272, log entry 271). -/
def opensSoon (s : State) (n : Stall) : Bool := s.stalls[n].cap.any fun c => !c.arm.onWake && !leads c.openAt s.tb.now (2 * ms)

/-- P0, P1 and a more urgent P2 go before a repair, a request of P3 (R251, R252). -/
def repairWaits (s : State) (r : Repair) : Bool :=
  let x := s.lanes[r.lane]
  !(x.banks.toArray.toList.all fun q => q.isEmpty) || x.p1 != [] || urgency3 s r.lane < urgency2 s.tb.now x

/-- A row's 64 blocks are read into the lane's repair buffer (R265, R272). -/
def rowToBuffer (s : State) (l : Fin 4) (row : BitVec 21) : State :=
  modLane s l fun x => { x with repairBuf := (List.range 64).map fun c =>
    { recs := blockRead s.dram.mem (rowBlock s l row c), bad := s.dram.bad.contains (rowBlock s l row c) } }

/-- A block of the buffer as its read, in which some bits of its beats had flipped, gave it (R243, R269, R272). -/
def bufferedAs (flips : List (List (BitVec 80))) (x : BufBlock × Nat) : BufBlock :=
  let v := readBeats x.1.recs (flips.getD x.2 [])
  { recs := v.1, bad := x.1.bad || v.2 == .uncorrectable }

/-- A block of the buffer was read with an error that the code corrected (R269, R280). -/
def bufferedCorrected (flips : List (List (BitVec 80))) (x : BufBlock × Nat) : Bool :=
  !x.1.bad && (readBeats x.1.recs (flips.getD x.2 [])).2 == .corrected

/-- The repair buffer as the reads of its row gave it (R272, R280). -/
def bufferRead (flips : List (List (BitVec 80))) (x : Lane) : Lane :=
  { x with
    repairBuf := x.repairBuf.zipIdx.map (bufferedAs flips)
    corrected := satAdd 32 x.corrected (x.repairBuf.zipIdx.filter (bufferedCorrected flips)).length }

/-- A block of the repair buffer goes back to its row: with the check pattern when it was uncorrectable (R265, R272). -/
def putBack (l : Fin 4) (row : BitVec 21) (s : State) (x : BufBlock × Nat) : State :=
  let blk := rowBlock s l row x.2
  if x.1.bad then (if s.dram.bad.contains blk then s else { s with dram := { s.dram with bad := s.dram.bad ++ [blk] } })
  else { s with dram := { s.dram with mem := blockWrite s.dram.mem blk x.1.recs } }

/-- The repair buffer goes back to its row (R265, R272). -/
def bufferToRow (s : State) (l : Fin 4) (row : BitVec 21) : State :=
  modLane (s.lanes[l].repairBuf.zipIdx.foldl (putBack l row) s) l fun x => { x with repairBuf := [] }

/-- SOFT_REPAIR: the oldest queued repair starts while no stall captures or is about to and no playback runs; its row is read into the repair
buffer (R252, R272). -/
def execSoftRepair (s : State) : Host.Outcome State Fault Refusal :=
  .next (
    match s.dram.repairQ with
    | [] => s
    | r :: rest =>
      if s.dram.repairing.isSome || (allStalls.any fun n => capturing s n || opensSoon s n || s.stalls[n].ref.play.isSome) || !laneRuns s r.lane ||
          s.lanes[r.lane].alert || repairWaits s r then s
      else rowToBuffer { s with dram := { s.dram with repairing := some r, repairQ := rest } } r.lane r.row)

/-- SOFT_REPAIR_END: the row, as it was read, is back, the map tells of the repair, and the waiting `capture_arm` commands and keys are decided (R272,
R274). -/
def execSoftRepairEnd (flips : List (List (BitVec 80))) (s : State) : Host.Outcome State Fault Refusal :=
  .next (
    match s.dram.repairing with
    | none => s
    | some r =>
      let cause := ((s.flash.breach.find? fun b => b.lane == r.lane && b.row == r.row).map fun b => b.cause).getD 0
      let s := modLane { s with dram := { s.dram with repairing := none } } r.lane (bufferRead flips)
      let s := bufferToRow s r.lane r.row
      let s := putBreach s { lane := r.lane, row := r.row, state := 1, cause := cause }
      let arms := s.jobs.waitArms
      let keys := s.jobs.waitKeys
      keys.foldl keyArm (arms.foldl decideArm { s with jobs := { s.jobs with waitArms := [], waitKeys := [] } }))

/-! ## Patrol scrub -/

/-- SCRUB_STEP: the patrol's read of its next block waits on P3, which it entered `ago` ticks before this stride, unless the patrol is still at
one (R251, R270). -/
def execScrubStep (l : Fin 4) (ago : BitVec 8) (s : State) : Host.Outcome State Fault Refusal :=
  .next (
    let x := s.lanes[l]
    if !laneRuns s l || x.failed || x.scrubbing.isSome then s
    else
      let blk := x.scrubAddr * (usableLanes s).length + laneIndex s l
      modLane s l fun x => { x with scrubbing := some blk, scrubStale := false, p3r := [{ blk := blk, owner := .scrub, when := s.tb.now - ago.zeroExtend 64 }] })

/-! ## Wipe -/

/-- Every block of a parcel has been written on a lane, and acknowledged (R371). -/
def wipedOn (s : State) (l : Fin 4) (p : Nat) : Bool :=
  s.lanes[l].wiped.contains p && !s.lanes[l].retry.any fun c => c.wr.any fun w => w.owner == .wipe p

/-- WIPE_PARCEL_DONE: the oldest parcel of the queue is wiped on every lane and becomes free (R371). -/
def execWipeParcelDone (p : Fin 4096) (s : State) : Host.Outcome State Fault Refusal :=
  .next (
    match s.dram.wipeQ with
    | [] => s
    | q :: rest =>
      if q.parcel ≠ p.val ∨ !(usableLanes s).all fun l => wipedOn s l q.parcel then s
      else { s with dram := { s.dram with wipeQ := rest }, lanes := s.lanes.map fun x => { x with wiped := x.wiped.filter fun k => k != q.parcel } })

end Sys2Proof.Machine
end

