-- ==== Sys2Proof/Machine/Panel.lean ====
section
/-!
DEFINITION. The front panel: `panel_config`, the keys and their actions, and the blinking of the LEDs.
-/

namespace Sys2Proof.Machine

/-! ## `panel_config` -/

/-- The named bits of `panel_config` (R445). -/
def panelBits : List Dword := [0xFFFFFFFF, 0x3F3F3F3F, 0x3F3F3F3F, 0xFFFFFF, 3]

/-- Key k's action in the entry (R445). -/
def panelAction (e : SqEntry) (k : Nat) : Nat := bits (dw e 2) (4 * k + 3) (4 * k)

/-- Key k's stall in the entry (R445). -/
def panelStall (e : SqEntry) (k : Nat) : Stall :=
  ⟨bits (dw e (3 + k / 4)) (8 * (k % 4) + 5) (8 * (k % 4)), by unfold bits; simp; omega⟩

/-- The field of the key settings at fault: a refused action, or an absent key stall (R445). -/
def panelFault (s : State) (e : SqEntry) : Option (Nat × Nat) :=
  if !bit (dw e 6) 0 then none
  else match (List.range 8).find? fun k => 4 < panelAction e k with
    | some k => some (2, 4 * k)
    | none =>
      match (List.range 8).find? fun k => s.stalls[panelStall e k].st == .absent with
      | some k => some (3 + k / 4, 8 * (k % 4))
      | none => none

/-- The settings asked for take hold (R445, R519). -/
def applyPanel (s : State) (e : SqEntry) : State :=
  let d := dw e 5
  let s := if bit (dw e 6) 0 then { s with panel := { s.panel with
      action := Vector.ofFn fun k => BitVec.ofNat 4 (panelAction e k.val)
      keyStall := Vector.ofFn fun k => BitVec.ofNat 6 (panelStall e k.val).val } } else s
  if bit (dw e 6) 1 then
    let m : BitVec 8 := BitVec.ofNat 8 (bits d 15 8)
    { s with panel := { s.panel with
        led := (s.panel.led &&& ~~~ m) ||| (BitVec.ofNat 8 (bits d 7 0) &&& m), blink := BitVec.ofNat 8 (bits d 23 16) } }
  else s

/-- A `panel_config` in hand (R445). -/
def panelCommand (s : State) (t : Taken) : State :=
  match (reservedBit t.e panelBits).or (panelFault s t.e) with
  | some (d, b) => invalidAt s t d b
  | none => complete (applyPanel s t.e) t .ok

/-- PANEL_CONFIG_KEYS: without `set_leds` (R445). -/
def execPanelConfigKeys (s : State) : Host.Outcome State Fault Refusal :=
  .next (withCmd s (fun t => isOp 0x69 t && !bit (dw t.e 6) 1) panelCommand)

/-- PANEL_CONFIG_LEDS: with `set_leds` (R445). -/
def execPanelConfigLeds (s : State) : Host.Outcome State Fault Refusal :=
  .next (withCmd s (fun t => isOp 0x69 t && bit (dw t.e 6) 1) panelCommand)

/-! ## Keys -/

/-- The key term of every engine is true in the next stride (R161, R445). -/
def raiseKey (s : State) (k : Nat) : State :=
  (engineStalls s).foldl (fun s n => raisePulse s n .key k (s.tb.now + 256) (s.tb.now + 256) false) s

/-- `force` by key (R431, R445, R518). -/
def keyForce (s : State) (w : KeyWait) : State :=
  match keyRefused s w.stall 0x3A with
  | some st => keyEvent s w st
  | none =>
    if s.stalls[w.stall].st = .armed then keyEvent s w 1
    else if s.stalls[w.stall].st ≠ .capturing then keyEvent s w 2
    else keyEvent (forceTrigger s w.stall).1 w 0

/-- A re-arm by key: refused at once in the stall's or the device's state and for want of parameters, else decided now or when the running soft
repair ends (R272, R351, R445, R506, R518; log entry 309). -/
def keyRearm (s : State) (w : KeyWait) : State :=
  match keyRefused s w.stall 0x38 with
  | some st => keyEvent s w st
  | none =>
    if s.stalls[w.stall].lastArm.isNone ∧ ¬ armedOrCapturing s w.stall then keyEvent s w 2
    else if s.dram.repairing.isSome then { s with jobs := { s.jobs with waitKeys := s.jobs.waitKeys ++ [w] } }
    else keyArm s w

/-- `run_stop` by key (R430, R445, R518). -/
def keyRunStop (s : State) (w : KeyWait) : State :=
  if armedOrCapturing s w.stall then
    match keyRefused s w.stall 0x39 with
    | some st => keyEvent s w st
    | none => stopCapture (keyEvent s w 0) w.stall
  else keyRearm s w

/-- The status that a press on a key of action 1 reports (R445, R461, R518). -/
def keyEventStatus (s : State) (n : Stall) : BitVec 8 :=
  if s.stalls[n].st = .absent then 3 else if s.stalls[n].st = .resetting then 1 else 0

/-- The action of a press (R445, R518). -/
def keyAct (s : State) (w : KeyWait) : State :=
  if w.action = 0 then s
  else
    let s := marker s w.stall 2 w.time (BitVec.ofNat 64 w.key)
    if w.action = 1 then keyEvent (raiseKey s w.key) w (keyEventStatus s w.stall)
    else if w.action = 2 then keyRunStop s w
    else if w.action = 3 then keyRearm s w
    else keyForce s w

/-- A press of key k as its settings stand. -/
def pressOf (s : State) (k : Fin 8) (t : Time) : KeyWait :=
  { key := k.val, action := s.panel.action[k].toNat, stall := s.panel.keyStall[k].toFin, time := t }

/-- KEY_PRESS: acted on in its stride; held in Dormant (R445, R510, R517, R518). -/
def execKeyPress (k : Fin 8) (t : Time) (s : State) : Host.Outcome State Fault Refusal :=
  .next (
    if !recognises s || bit s.panel.down k.val then s
    else
      let s := { s with panel := { s.panel with down := setBit s.panel.down k.val true } }
      if s.power.st = .dormant then holdPress s 0 k.val t else keyAct s (pressOf s k t))

/-- KEY_RELEASE (R517). -/
def execKeyRelease (k : Fin 8) (s : State) : Host.Outcome State Fault Refusal :=
  .next { s with panel := { s.panel with down := setBit s.panel.down k.val false } }

/-! ## What was held in Dormant -/

/-- A later unplug of the same port is held (R510). -/
def unpluggedLater (l : List HeldPress) (p : Nat) : Bool := l.any fun h => h.kind == 3 && h.index == p

/-- A held plug: recognised with its own time when the pod is still there, else reported without a descriptor (R57, R510). -/
def reportHeldPlug (s : State) (p : Fin 6) (t : Time) (gone : Bool) : State :=
  if gone then reportPlug (modPort s p fun x => { x with plugTime := t }) p none else recognisePlug s p t

/-- One thing held in Dormant is reported, with the time at which the device has time again; a plug recognised before it comes first (R33, R55,
R510). -/
def reportHeld (s : State) (h : HeldPress) (rest : List HeldPress) : State :=
  let p : Fin 6 := Fin.ofNat 6 h.index
  let t := s.tb.now
  if h.kind = 0 then
    let w := pressOf s (Fin.ofNat 8 h.index) t
    if w.action = 0 then s else keyEvent s w (if w.action = 1 then keyEventStatus s w.stall else 1)
  else if h.kind = 1 then reportSpur s p t
  else if h.kind = 2 then reportHeldPlug s p t (unpluggedLater rest h.index)
  else recogniseUnplug (reportUnread s p) p t false

/-- What was held is reported, oldest first (R510). -/
def reportAll : State → List HeldPress → State
  | s, [] => s
  | s, h :: l => reportAll (reportHeld s h l) l

/-- What the always-on domain holds is reported and held no longer (R510). -/
def giveHeld (s : State) : State := reportAll { s with power := { s.power with heldKeys := [] } } s.power.heldKeys.reverse

/-! ## The LEDs -/

/-- LED_BLINK_TOGGLE: the common phase of all blinking LEDs turns over (R519). -/
def execLedBlinkToggle (s : State) : Host.Outcome State Fault Refusal :=
  .next { s with panel := { s.panel with phase := !s.panel.phase } }

/-- The LEDs that sink current: a blinking one in the phase in which it is lit, another by its level; none in reset, in Dormant and in the
safe halt (R445, R519, R570, log entry 281). -/
def ledsLit (s : State) : BitVec 8 :=
  if s.boot.phase = .inReset ∨ s.boot.phase = .halted ∨ s.power.st = .dormant then 0
  else (s.panel.led &&& ~~~ s.panel.blink) ||| (if s.panel.phase then s.panel.blink else 0)

end Sys2Proof.Machine
end

