-- ==== Sys2Proof/Machine/Quera.lean ====
section
/-!
DEFINITION. The Quera link's shared parts: its messages and their CRC, ring states, election and epochs as one device sees them, and the
emission and delivery of cross-triggers.
-/

namespace Sys2Proof.Machine

/-! ## Messages -/

/-- A bit into the CRC-8, polynomial 0x07 (R475). -/
def crc8Bit (c : BitVec 8) (b : Bool) : BitVec 8 :=
  if bit c 7 != b then (c <<< 1) ^^^ 0x07 else c <<< 1

/-- The CRC-8 of bits [111:8] of a message, from bit 111 downward (R475). -/
def crc8 (m : BitVec 112) : BitVec 8 := (List.range 104).foldl (fun c i => crc8Bit c (bit m (111 - i))) 0

/-- A message of bits [111:8] with its CRC (R475). -/
def withCrc (v : Nat) : BitVec 112 :=
  let m := BitVec.ofNat 112 (v / 2 ^ 8 * 2 ^ 8)
  m ||| (crc8 m).zeroExtend 112

/-- The CRC of a message holds. -/
def crcOk (m : BitVec 112) : Bool := crc8 m == m.truncate 8

/-- The kind of a message (R476). -/
def msgKind (m : BitVec 112) : Nat := bits m 111 108

/-- A message waits on a port for its turn (R478). -/
def sendMsg (s : State) (p : Fin 4) (v : Nat) : State := modQport s p fun q => { q with queue := q.queue ++ [{ msg := withCrc v }] }

/-- A port is up. -/
def portUp (s : State) (p : Fin 4) : Bool := s.quera.ports[p].up

/-- Every port, ascending. -/
def allPorts : List (Fin 4) := List.finRange 4

/-- The other port of the same ring (R472). -/
def opposite (p : Fin 4) : Fin 4 := if p = 0 then 1 else if p = 1 then 0 else if p = 2 then 3 else 2

/-- A port on the root ring (R472). -/
def isRootPort (p : Fin 4) : Bool := 2 ≤ p.val

/-- The role uses a port (R473). -/
def roleUses (role : BitVec 2) (p : Fin 4) : Bool :=
  if role = 0 then !isRootPort p else if role = 1 then true else if role = 2 then isRootPort p else false

/-- `reach` of a topology message on a port: the devices away from the receiver, this one included (R489). -/
def reachOn (s : State) (p : Fin 4) : Nat :=
  let o := s.quera.ports[opposite p]
  if o.up then min 63 (o.farReach + 1) else 1

/-- The topology message of a port (R489, R490). -/
def topologyMsg (s : State) (p : Fin 4) : Nat :=
  let q := s.quera
  let root := isRootPort p
  0x3 * 2 ^ 108 + (q.nextEpoch.getD q.epoch).toNat * 2 ^ 76 + (q.master.getD 0).toNat * 2 ^ 64 + min 127 q.hops * 2 ^ 57 + q.deviceId.toNat * 2 ^ 45 +
    q.role.toNat * 2 ^ 43 + (if root then q.rootRing else q.ring).toNat * 2 ^ 41 + (if root then q.rootSize else q.ringSize) % 128 * 2 ^ 34 +
    reachOn s p * 2 ^ 27 + q.nextEpoch.isSome.toNat * 2 ^ 26

/-- A port's topology message waits; it takes the place of an older one that has not left (R476; log entry 287). -/
def sendTopology (s : State) (p : Fin 4) : State :=
  sendMsg (modQport s p fun q => { q with queue := q.queue.filter fun m => msgKind m.msg != 3 }) p (topologyMsg s p)

/-- A topology message leaves at once on every up port whose message has changed, or that has come up (R476, R496). -/
def announce (old s : State) : State :=
  (allPorts.filter fun p => portUp s p && (!portUp old p || topologyMsg old p != topologyMsg s p)).foldl sendTopology s

/-! ## Events -/

/-- Stalls with a route (R455). -/
def routedStalls (s : State) : List Stall := allStalls.filter fun n => s.quera.routes.any fun r => r.stall == n

/-- `quera_topology` (R464). -/
def topoEvent (s : State) (cause : Nat) (port : Nat) (far : BitVec 12) : State :=
  sendRated s { code := 0x0D, sub := cause, fn := 0 } ms
    (deviceEvent 0x0D (withPf (routedStalls s)) s.tb.now (flag s.tb.freeRunning 10 ||| fld s.quera.ring.toNat 8 ||| fld cause 0)
      (fld s.quera.deviceId.toNat 0) (fld s.quera.epoch.toNat 0) (fld port 12 ||| fld far.toNat 0))

/-! ## Election and epochs -/

/-- The device takes no part: `alone` (R480, R481). -/
def isAlone (s : State) : Bool := s.quera.clash || (s.quera.role == 0 && s.quera.autoId && !s.quera.placed)

/-- The master of an epoch (R489). -/
def epochMaster (e : BitVec 32) : Nat := bits e 31 20

/-- A new epoch of this device as master, its count above the given ones (R489). -/
def newEpoch (s : State) (counts : List Nat) : State :=
  let c := counts.foldl max (bits s.quera.epoch 19 0)
  { s with quera := { s.quera with
      epoch := s.quera.deviceId ++ BitVec.ofNat 20 (c + 1), nextEpoch := none } }

/-- This device is its domain's master. -/
def selfMaster (s : State) : Bool := s.quera.master == some s.quera.deviceId

/-- The neighbour on a port has a domain of its own alone since it started: a device that joins, whose mastership no incumbent yields to
(R482, R500; log entry 282). -/
def joins (q : QPort) : Bool := q.farHops == 0 && q.farReach ≤ 1 && bits q.farEpoch 19 0 == 1

/-- This device itself has been alone since it started (R482, R500; log entry 282). -/
def joiner (s : State) : Bool :=
  selfMaster s && bits s.quera.epoch 19 0 == 1 && (allPorts.filter fun p => portUp s p).length ≤ 1

/-- The up ports that offer a master, with it; a device that joins offers none to one that is no joiner itself (R482, R483). -/
def offers (s : State) : List (Fin 4) :=
  allPorts.filter fun p => portUp s p && s.quera.ports[p].farHops < 126 &&
    s.quera.ports[p].farMaster != s.quera.deviceId && (joiner s || !joins s.quera.ports[p])

/-- The order of R482's first rule: devices aligned under the current epoch first, then those on the root ring, then the lowest ID. -/
def electKey (pending leaf : Bool) (id : BitVec 12) : Nat := pending.toNat * 2 ^ 13 + leaf.toNat * 2 ^ 12 + id.toNat

/-- This device stands before each neighbour that takes part (R482; log entry 50). -/
def standsFirst (s : State) : Bool :=
  (allPorts.filter fun p => portUp s p && s.quera.ports[p].farRing != 3).all fun p =>
    let q := s.quera.ports[p]
    electKey s.quera.nextEpoch.isSome (s.quera.role == 0) s.quera.deviceId < electKey q.farPending (q.farRole == 0) q.farId

/-- The master of an offer is a root-ring device: as far as a neighbour itself is the master (R482; log entry 50). -/
def rootOffer (s : State) (p : Fin 4) : Bool := s.quera.ports[p].farHops == 0 && s.quera.ports[p].farRole != 0

/-- The lowest of some IDs. -/
def lowestId : List (BitVec 12) → Option (BitVec 12)
  | [] => none
  | a :: l => some (l.foldl (fun x y => if y.toNat < x.toNat then y else x) a)

/-- The upstream port towards a master: the least hops, `ref_port` on a tie (R483). -/
def upstreamTo (s : State) (m : BitVec 12) : Option (Fin 4) :=
  let l := (offers s).filter fun p => s.quera.ports[p].farMaster == m
  match l with
  | [] => none
  | a :: r => some (r.foldl (fun x y =>
      let hx := s.quera.ports[x].farHops
      let hy := s.quera.ports[y].farHops
      if hy < hx || (hy == hx && y.val == s.quera.refPort.toNat) then y else x) a)

/-- The device follows a master through its best port; offsets against another master count no longer (R483, R490). -/
def follow_ (s : State) (m : BitVec 12) : State :=
  match upstreamTo s m with
  | none => s
  | some p =>
    let same := s.quera.master == some m
    { s with
      tb := { s.tb with steer := if same then s.tb.steer else 0 }
      quera := { s.quera with
        master := some m, upstream := some p, hops := s.quera.ports[p].farHops + 1
        hist := if same then s.quera.hist else [], aligned := if same then s.quera.aligned else 0
        step := if same then s.quera.step else none } }

/-- The counts of the epochs that the neighbours announce. -/
def farCounts (s : State) : List Nat := (allPorts.filter fun p => portUp s p).map fun p => bits s.quera.ports[p].farEpoch 19 0

/-- The device becomes the master of its domain, with a new epoch; a master neither steps nor steers (R482, R489). -/
def becomeMaster (s : State) : State :=
  let s := newEpoch s (farCounts s)
  { s with
    tb := { s.tb with steer := 0, steerFine := 0, steerRate := 0 }
    quera := { s.quera with master := some s.quera.deviceId, hops := 0, upstream := none, step := none, hist := [] } }

/-- The device has no master. -/
def noMaster (s : State) : State :=
  { s with quera := { s.quera with master := none, hops := 127, upstream := none } }

/-- In a domain that has no master: a root-ring master that is offered, else the lowest one; without an offer the device that stands first
becomes it (R482, log entry 50). -/
def electNew (s : State) : State :=
  let l := offers s
  match lowestId ((l.filter fun p => rootOffer s p).map fun p => s.quera.ports[p].farMaster),
      lowestId (l.map fun p => s.quera.ports[p].farMaster) with
  | some m, _ => follow_ s m
  | none, some m => follow_ s m
  | none, none => if s.quera.portEnable ≠ 0 ∧ standsFirst s then becomeMaster s else noMaster s

/-- The device's master is offered no longer, and none that would have taken its place: every path to it is lost (R497). -/
def masterLost (s : State) : Bool :=
  let l := (offers s).map fun p => s.quera.ports[p].farMaster
  match s.quera.master with
  | none => false
  | some m => !selfMaster s && !l.contains m && !l.any fun b => b.toNat < m.toNat

/-- Election as this device sees it: an incumbent stays, of two domains that merge the lower master stays, a device that has been alone
follows whom it joins, and a domain without a master elects one (R482, R483, R497; log entry 50). -/
def elect (s : State) : State :=
  if isAlone s then
    { s with quera := { s.quera with master := none, hops := 127, upstream := none, nextEpoch := none } }
  else
    let l := offers s
    match s.quera.master, lowestId (l.map fun p => s.quera.ports[p].farMaster) with
    | some m, some b =>
      if selfMaster s then
        match lowestId ((l.filter fun p => !joins s.quera.ports[p]).map fun p => s.quera.ports[p].farMaster) with
        | some k => if joiner s || k.toNat < m.toNat then follow_ { s with quera := { s.quera with cut := false } } k else s
        | none => if b.toNat < m.toNat then follow_ { s with quera := { s.quera with cut := false } } b else s
      else if b.toNat < m.toNat then follow_ { s with quera := { s.quera with cut := false } } b
      else if masterLost s then electNew { s with quera := { s.quera with cut := true } }
      else follow_ s m
    | some _, none => if selfMaster s then s else electNew { s with quera := { s.quera with cut := true } }
    | none, _ => electNew s

/-- A pending epoch is adopted (R490). -/
def adopt (s : State) : State :=
  match s.quera.nextEpoch with
  | none => s
  | some e => topoEvent (setFreeRunning { s with quera := { s.quera with epoch := e, nextEpoch := none } }) 5 0 0

/-- The epoch that the upstream announces: adopted at once by a device that has adopted its master's epoch before, else pending (R490; log
entry 283). -/
def trackEpoch (s : State) : State :=
  match s.quera.upstream with
  | none => s
  | some p =>
    let e := s.quera.ports[p].farEpoch
    if e = s.quera.epoch ∨ s.quera.master.map BitVec.toNat ≠ some (epochMaster e) then s
    else
      let held := epochMaster s.quera.epoch == epochMaster e && s.quera.nextEpoch.isNone
      let s := { s with quera := { s.quera with nextEpoch := some e } }
      if held then adopt s else s

/-! ## Ring states -/

/-- The state of the ring of a pair of ports (the root ring when `root`). -/
def ringOf (s : State) (root : Bool) : BitVec 2 := if root then s.quera.rootRing else s.quera.ring

/-- The ring that decides the device's own state: the root ring for a root member (R442, R473). -/
def putRing (s : State) (root : Bool) (r : BitVec 2) : State :=
  { s with quera := { s.quera with
      rootRing := if root then r else s.quera.rootRing
      ring := if !root || s.quera.role == 2 then r else s.quera.ring } }

/-- The first port of a ring. -/
def firstPort (root : Bool) : Fin 4 := if root then 2 else 0

/-- Both ports of a ring are up. -/
def bothUp (s : State) (root : Bool) : Bool := portUp s (firstPort root) && portUp s (opposite (firstPort root))

/-- One of the two ports of a ring is up. -/
def oneUp (s : State) (root : Bool) : Bool := portUp s (firstPort root) || portUp s (opposite (firstPort root))

/-- The ring's own count: N, or M on the root ring (R480). -/
def sizeOf_ (s : State) (root : Bool) : Nat := if root then s.quera.rootSize else s.quera.ringSize

/-- The devices of a ring that a port reaches. -/
def reaches (s : State) (p : Fin 4) : Nat := if portUp s p then s.quera.ports[p].farReach else 0

/-- The state of a ring by what its two ports reach: whole where both counts run round it and saturate, a line where at most one member is
missing, else partitioned (R489, R496 to R498, R500; log entry 266). -/
def ringCount (s : State) (root : Bool) : BitVec 2 :=
  let a := reaches s (firstPort root)
  let b := reaches s (opposite (firstPort root))
  if !oneUp s root then 2
  else if bothUp s root && 63 ≤ a && 63 ≤ b then 0
  else if sizeOf_ s root ≤ a + b + 2 then 1
  else 2

/-- The state a ring has for the device: alone, partitioned while its part of the domain is cut off, else as its ports reach (R480, R496,
R497). -/
def ringNow (s : State) (root : Bool) : BitVec 2 := if isAlone s then 3 else if s.quera.cut then 2 else ringCount s root

/-- The role uses a ring (R473). -/
def usesRing (s : State) (root : Bool) : Bool := roleUses s.quera.role (firstPort root)

/-- The device anchors a ring: the bridge of a leaf ring, else the fixed-ID device with the lowest ID; on the root ring the lowest ID. Lower
ones are known as neighbours and from the census they start (R480, log entry 51). -/
def isAnchor (s : State) (root : Bool) : Bool :=
  let near := [firstPort root, opposite (firstPort root)].filter fun p => portUp s p
  let lower (p : Fin 4) : Bool := s.quera.ports[p].farId.toNat < s.quera.deviceId.toNat
  let told := ((if root then s.quera.rootAnchor else s.quera.leafAnchor).map fun a => decide (a.toNat < s.quera.deviceId.toNat)).getD false
  if root then s.quera.role != 0 && !told && !near.any fun p => lower p
  else if s.quera.role = 1 then true
  else s.quera.role == 0 && !s.quera.autoId && !told &&
    !near.any fun p => s.quera.ports[p].farRole == 1 || (!s.quera.ports[p].farAuto && lower p)

/-- A census message (R481). -/
def censusMsg (ring position count : Nat) (root : Bool) : Nat :=
  0x5 * 2 ^ 108 + ring % 64 * 2 ^ 102 + position % 64 * 2 ^ 96 + count % 128 * 2 ^ 89 + root.toNat * 2 ^ 88

/-- The anchor starts the census of a whole ring (R480, R501). -/
def startCensus (s : State) (root : Bool) : State :=
  if !isAnchor s root || !bothUp s root || 2 ≤ shedStage s then s
  else sendMsg s (firstPort root) (censusMsg (s.quera.deviceId.toNat / 64) (s.quera.deviceId.toNat + 1) 1 root)

/-- A ring has become whole: its anchor starts the census, and a member with `auto_id` waits for it; one that is no longer whole has no
anchor known (R480; log entry 284). -/
def ringTurned (s : State) (root : Bool) : State :=
  if ringOf s root = 0 then
    startCensus (if root ∨ ¬ s.quera.autoId then s else { s with quera := { s.quera with censusWait := some s.tb.now } }) root
  else { s with quera := { s.quera with
    leafAnchor := if root then s.quera.leafAnchor else none, rootAnchor := if root then none else s.quera.rootAnchor
    censusWait := if root then s.quera.censusWait else none } }

/-- The cause that `quera_topology` gives for a ring state (R464). -/
def ringCause (r : BitVec 2) : Nat := if r = 0 then 3 else if r = 1 then 1 else 2

/-- The ring state that an event gives, with the port that faces the break (R464, R496 to R498). -/
def ringEvent (s : State) (root : Bool) (port : Fin 4) : State :=
  let r := ringOf s root
  topoEvent s (ringCause r) (if r = 0 then 0 else port.val) (if r = 0 then 0 else s.quera.ports[port].farId)

/-- The rings the role uses take their states; a master announces a new epoch when its domain parts or rejoins; the change is an event, one for a partition of
both rings of a bridge, and none for ports that are only enabled (R489, R496 to R498). -/
def settleRings (old s : State) (port : Fin 4) : State :=
  let turned (root : Bool) : Bool := usesRing s root && ringNow s root != ringOf old root
  let leaf := turned false
  let root := turned true
  if !leaf && !root then s
  else
    let s := if leaf then putRing s false (ringNow s false) else s
    let s := if root then putRing s true (ringNow s true) else s
    let parted (root : Bool) : Bool := (ringOf s root == 2) != (ringOf old root == 2) && ringOf old root != 3
    let s := if ((leaf && parted false) || (root && parted true)) && selfMaster old && selfMaster s then newEpoch s (farCounts s) else s
    let s := setFreeRunning s
    let quiet (root : Bool) : Bool := isAlone s || isAlone old || (ringOf old root == 3 && ringOf s root == 2)
    let s := if quiet false || !leaf then s else ringEvent s false port
    let s := if quiet true || !root || (leaf && ringOf s false == ringOf s true) then s else ringEvent s true port
    let s := if leaf then ringTurned s false else s
    if root then ringTurned s true else s

/-- After a change of ports, messages or identity: a partition by its own rings ends, master and upstream follow, then the ring states, the
epoch and `free_running` (R482 to R490, R496 to R498). -/
def reconverge (old s : State) (port : Fin 4) : State :=
  let mended (root : Bool) : Bool := usesRing s root && ringCount old root == 2 && ringCount s root != 2
  let s := if mended false || mended true then { s with quera := { s.quera with cut := false } } else s
  setFreeRunning (trackEpoch (settleRings old (elect s) port))

/-- What a port that is down has lost (R479). -/
def portLost (q : QPort) : QPort :=
  { q with up := false, topoOk := 0, exchanges := 0, measured := false, t1 := none, discards := [], farHops := 127, farReach := 0 }

/-- What a port that has lost block lock forgets: the lock and how it is wired (R472, R479). -/
def lockLost (q : QPort) : QPort := { portLost q with lockSince := none, headers := 0, badHeaders := 0, farPort := none }

/-- A port goes down: a break (R477, R479, R496, R497). -/
def takeDown (s : State) (p : Fin 4) : State :=
  if !portUp s p then s else announce s (reconverge s (modQport s p portLost) p)

/-- A message that is discarded: the topology messages before it count no longer, and sixteen within 1 ms take the port down (R477, R479). -/
def discardMsg (s : State) (p : Fin 4) : State :=
  let l := s.tb.now :: s.quera.ports[p].discards.filter fun t => !passed s.tb.now t ms
  let s := modQport s p fun q => { q with discards := l.take 16, topoOk := 0 }
  if 16 ≤ l.length then takeDown s p else s

/-! ## Cross-triggers -/

/-- A cross-trigger message (R491). -/
def xtrigMsg (ch src epoch hops stage : Nat) (exact : Bool) (t : Time) : Nat :=
  0x1 * 2 ^ 108 + ch % 16 * 2 ^ 104 + src % 4096 * 2 ^ 92 + epoch % 256 * 2 ^ 84 + hops % 64 * 2 ^ 78 + stage % 4 * 2 ^ 76 + exact.toNat * 2 ^ 75 +
    t.toNat * 2 ^ 8

/-- The hops for a port of a ring: half of a whole ring, else what the port reaches (R492). -/
def hopsFor (s : State) (p : Fin 4) : Nat :=
  let root := isRootPort p
  let n := sizeOf_ s root
  if ringOf s root = 0 then (if p = firstPort root then n / 2 else (n - 1) / 2) else s.quera.ports[p].farReach

/-- A cross-trigger goes out on both sides of a ring (R492). -/
def spread (s : State) (root : Bool) (m : Nat → Nat) : State :=
  [firstPort root, opposite (firstPort root)].foldl (fun s p =>
    if portUp s p && hopsFor s p != 0 then sendMsg s p (m (hopsFor s p)) else s) s

/-- The route of a stall that a test picks. -/
def routeOf (s : State) (n : Stall) : Option Route := s.quera.routes.find? fun r => r.stall == n

/-- An exit of a stall emits on one channel: without a send route it is counted, with a stale route it is dropped (R353, R443,
R492, R493). -/
def emitXtrig (s : State) (n : Stall) (ch : Nat) (t : Time) (exact : Bool) : State :=
  match (routeOf s n).filter fun r => bit r.send ch with
  | none => modStall s n fun x => { x with xtrigLost := satAdd 32 x.xtrigLost 1 }
  | some r =>
    if r.gen ≠ s.stalls[n].gen then { s with quera := { s.quera with staleDropped := satAdd 32 s.quera.staleDropped 1 } }
    else if isAlone s then s
    else
      let m (stage hops : Nat) : Nat := xtrigMsg ch s.quera.deviceId.toNat s.quera.epoch.toNat hops stage exact t
      let s := { s with quera := { s.quera with sent := satAdd 32 s.quera.sent 1 } }
      let s := if s.quera.role = 2 then s else spread s false (m 0)
      if s.quera.role = 0 then s else spread s true (m 1)

/-- The loaded course of a stall refers to a cross-trigger channel (R200). -/
def refersTo (s : State) (n : Stall) (ch : Nat) : Bool :=
  (courseTerms s n).any fun t => t.kind == 8 && t.index == ch
where
  /-- The terms of the enabled exits of a stall's course. -/
  courseTerms (s : State) (n : Stall) : List TermRef :=
    match s.stalls[n].course with
    | none => []
    | some p => (p.fences.flatten.filter fun x => bit x.actions 0).flatMap fun x => x.terms

/-- A cross-trigger is delivered to a stall: the term, the event, and a miss while no exit is evaluated (R161, R183, R198, R200,
R465, R493). That one that is missed in the last stride of re-arm still holds its term in the first stride of the new segment, and that
fence and exit of a miss in a closing segment are 0xFF, is the model's choice (log entry 285). -/
def deliverXtrig (s : State) (n : Stall) (ch : Nat) (src : Nat) (t : Time) (exact : Bool) : State :=
  let true_ := s.stalls[n].eng.pulses.any fun p => p.index == ch && p.when == s.tb.now
  let s := raisePulse s n .xtrig ch (if true_ then s.tb.now else s.tb.now + 256) t exact
  let idle := (s.stalls[n].cap.map fun c => c.phase == CapPhase.rearm || c.phase == CapPhase.closing).getD false
  let s := if idle && refersTo s n ch then
      (requestTrigger s n { time := t, kind := 2, exact := exact, source := none, firing := s.tb.now }).1 else s
  sendRated s { code := 0x0E, sub := ch, fn := n } ms
    [(n, event 0x0E n.val s.tb.now (fld src 16 ||| flag exact 4 ||| fld ch 0) 0 (timePay t).1 (timePay t).2)]

end Sys2Proof.Machine
end

