-- ==== Sys2Proof/Machine/QueraCmds.lean ====
section
/-!
DEFINITION. The Quera commands: `quera_config`, `quera_status` and `cross_trigger_route`.
-/

namespace Sys2Proof.Machine

/-! ## `quera_config` -/

/-- The named bits of `quera_config` (R441). -/
def queraBits : List Dword := [7, 3, 0xFF, 0x80000FFF]

/-- The reference mode of a code (R69). -/
def modeOf (n : Nat) : RefMode := if n = 0 then .localRef else if n = 1 then .link else .linkOnly

/-- What is wrong with a `quera_config` (R409, R441). -/
def queraFault (e : SqEntry) : Option Pay :=
  let ports := bit (dw e 2) 2
  if bit (dw e 2) 0 && bits (dw e 3) 1 0 == 3 then some (fieldPay 3 0)
  else if ports && bits (dw e 4) 7 6 == 3 then some (fieldPay 4 6)
  else if bits (dw e 2) 2 0 = 0 then some noField
  else if ports && bits (dw e 4) 7 6 == 1 && bits (dw e 4) 3 2 != 3 then some noField
  else none

/-- Ports that are disabled, or that the role does not use, go down (R473, R479). -/
def dropPorts (s : State) : State :=
  allPorts.foldl (fun s p => if bit s.quera.portEnable p.val && roleUses s.quera.role p then s else takeDown s p) s

/-- The settings of `quera_config` as they are asked: ports and role, then identity; a leaf member with `auto_id` keeps the ID it has, every
other device takes the configured one (R441, R473, R480). -/
def queraSettings (q : Quera) (e : SqEntry) : Quera :=
  let q := if bit (dw e 2) 2 then { q with
      role := BitVec.ofNat 2 (bits (dw e 4) 7 6), refPort := BitVec.ofNat 2 (bits (dw e 4) 5 4), portEnable := BitVec.ofNat 4 (bits (dw e 4) 3 0) }
    else q
  let q := if bit (dw e 2) 1 then { q with autoId := bit (dw e 5) 31, configId := BitVec.ofNat 12 (bits (dw e 5) 11 0) } else q
  { q with deviceId := if q.autoId && q.role == 0 then q.deviceId else q.configId, placed := q.placed && q.autoId }

/-- A ring that the role does not use has no state (R473). -/
def clearUnused (s : State) : State :=
  { s with quera := { s.quera with
    ring := if usesRing s false || usesRing s true then s.quera.ring else 3, rootRing := if usesRing s true then s.quera.rootRing else 3 } }

/-- The identity, role or `auto_id` may have changed: a clash ends with a new ID, a master forms a new epoch for a new ID or role, and an anchor with
a new ID counts its rings anew (R480, R481, R489). -/
def identityChanged (old s : State) : State :=
  let id := old.quera.deviceId != s.quera.deviceId
  let s := { s with quera := { s.quera with clash := s.quera.clash && !id } }
  let s := if selfMaster old && (id || old.quera.role != s.quera.role) && !isAlone s then becomeMaster s else s
  let s := reconverge old s 0
  if id then startCensus (startCensus s false) true else s

/-- The parts of `quera_config` that are asked, applied (R69, R441, R473, R476, R479 to R481). -/
def applyQuera (s : State) (e : SqEntry) : State :=
  let s := if bit (dw e 2) 0 then reselect { s with tb := { s.tb with refMode := modeOf (bits (dw e 3) 1 0) } } else s
  announce s (identityChanged s (clearUnused (dropPorts { s with quera := queraSettings s.quera e })))

/-- QUERA_CONFIG (R441). -/
def execQueraConfig (s : State) : Host.Outcome State Fault Refusal :=
  .next (withCmd s (isOp 0x60) fun s t =>
    match reservedBit t.e queraBits with
    | some (d, b) => invalidAt s t d b
    | none =>
      match queraFault t.e with
      | some p => completeAt s t .invalid p
      | none =>
        let s := applyQuera s t.e
        completeAt s t .ok { p4 := timebaseWord s })

/-! ## `quera_status` -/

/-- A port's dword (R442, R485). -/
def portWord (q : QPort) : Dword := flag q.up 31 ||| flag (256 ≤ q.exchanges) 30 ||| fld (sat 16 q.delay) 0

/-- The 64 bytes of `quera_status` (R442). -/
def queraResult (s : State) : List Byte :=
  let q := s.quera
  dwBytes ([flag s.tb.freeRunning 16 ||| fld q.ring.toNat 14 ||| fld q.role.toNat 12 ||| fld q.deviceId.toNat 0, q.epoch] ++
    (allPorts.map fun p => portWord q.ports[p]) ++
    [sfld q.offset 32 0, fld q.staleDropped 0, fld q.received 0, fld q.sent 0, 0, 0, 0, 0, 0, 0])

/-- QUERA_STATUS (R442). -/
def execQueraStatus (s : State) : Host.Outcome State Fault Refusal :=
  .next (withCmd s (isOp 0x61) fun s t => resultCommand s t (queraResult s) {})

/-! ## `cross_trigger_route` -/

/-- A stall's masks in the route table; those bound to an old generation count as none (R353, R443). -/
def masksOf (s : State) (n : Stall) : BitVec 16 × BitVec 16 :=
  match routeOf s n with
  | some r => if r.gen = s.stalls[n].gen then (r.send, r.recv) else (0, 0)
  | none => (0, 0)

/-- A route is written; one without a flag left is removed (R443). -/
def putRoute (s : State) (n : Stall) (send recv : BitVec 16) : State :=
  let rest := s.quera.routes.filter fun r => r.stall != n
  let mine : List Route := if send = 0 ∧ recv = 0 then [] else [{ stall := n, gen := s.stalls[n].gen, send := send, recv := recv }]
  { s with quera := { s.quera with routes := rest ++ mine } }

/-- CROSS_TRIGGER_ROUTE (R353, R443). -/
def execCrossTriggerRoute (s : State) : Host.Outcome State Fault Refusal :=
  .next (withCmd s (isOp 0x62) fun s t =>
    match reservedBit t.e [0x30F, 0xFFFF003F] with
    | some (d, b) => invalidAt s t d b
    | none =>
      let n : Stall := ⟨bits (dw t.e 3) 5 0, by unfold bits; simp; omega⟩
      if s.stalls[n].st = .absent then invalidAt s t 3 0
      else if BitVec.ofNat 16 (bits (dw t.e 3) 31 16) ≠ s.stalls[n].gen then completeAt s t .staleGeneration { p4 := fld s.stalls[n].gen.toNat 0 }
      else
        let ch := bits (dw t.e 2) 3 0
        let m := masksOf s n
        let send := setBit m.1 ch (bit (dw t.e 2) 9)
        let recv := setBit m.2 ch (bit (dw t.e 2) 8)
        completeAt (putRoute s n send recv) t .ok { p4 := fld send.toNat 16 ||| fld recv.toNat 0 })

end Sys2Proof.Machine
end

