-- ==== Sys2Proof/Machine/Firmware.lean ====
section
/-!
DEFINITION. `firmware_update`, `lifecycle` and `journal_read`, and the flash and fuse work of the first two.
-/

namespace Sys2Proof.Machine

/-- The completion of a flash job of stall 0, which a reset of stall 0 discards (R369, R546). -/
def completeJob (s : State) (ended : Bool) (tag : BitVec 16) (st : Status) (p : Pay) : State :=
  if ended then s else completeTag s 0 tag st p

/-- The update at work changed. -/
def setUpd (s : State) (u : Option UpdJob) : State := { s with flash := { s.flash with upd := u } }

/-- The lifecycle job at work changed. -/
def setLife (s : State) (j : Option LifeJob) : State := { s with flash := { s.flash with life := j } }

/-- An image slot: B when b. -/
def slotOf (s : State) (b : Bool) : Image := if b then s.flash.slotB else s.flash.slotA

/-- An image slot changed. -/
def setSlot (s : State) (b : Bool) (i : Image) : State :=
  { s with flash := if b then { s.flash with slotB := i } else { s.flash with slotA := i } }

/-! ## `firmware_update` -/

/-- The greatest body of an image (R543). -/
def maxBody : Nat := 1572864

/-- A stretch of bytes is 0. -/
def zeroBytes (l : List Byte) (o k : Nat) : Bool := ((l.drop o).take k).all fun b => b == 0

/-- The header's form: magic, format, reserved bytes, key slot and version fields in range (R543, R544). -/
def imageFormOk (l : List Byte) : Bool :=
  l.take 5 == [0x57, 0x44, 0x49, 0x4D, 1] && leAt l 5 1 < 2 && zeroBytes l 6 2 && leAt l 0x0C 4 < 64 && leAt l 0x10 4 % 16 == 0 &&
  leAt l 0x10 4 ≤ maxBody && zeroBytes l 0x18 8 && zeroBytes l 0xB1 15 && zeroBytes l 0x120 224

/-- What the device keeps of an image: fields of its header, and the hashes of R544 (R543, R544); not yet verified. -/
def parseImage (l : List Byte) : Image := {
  version := BitVec.ofNat 32 (leAt l 8 4)
  secVer := leAt l 0x0C 4
  subVendor := BitVec.ofNat 16 (leAt l 0x14 2)
  subId := BitVec.ofNat 16 (leAt l 0x16 2)
  bodyHash := (l.drop 0x20).take 48
  keyDigest := sha384 ((l.drop 0x50).take 97)
  bodyOk := sha384 (l.drop 512) == (l.drop 0x20).take 48
  keySlot := BitVec.ofNat 1 (leAt l 5 1)
  valid := false }

/-- The fused hash of key k: image keys 0 and 1, and 2 for the provisioning key (R549). -/
def fusedHash (s : State) (k : Nat) : List Byte := (s.sec.keyHashes.drop (48 * k)).take 48

/-- An image passes R544 but for its form and its signature: the rollback floor, a key slot that is not revoked and whose fused hash is that of
the image's key, and the body's hash. -/
def imageAllowed (s : State) (i : Image) : Bool :=
  decide (s.sec.floor ≤ i.secVer) && !bit s.sec.revoked i.keySlot.toNat && i.keyDigest == fusedHash s i.keySlot.toNat && i.bodyOk

/-- The field of `firmware_update` at fault (R446, R543). -/
def updateFault (e : SqEntry) : Option (Nat × Nat) :=
  match reservedBit e [0xFFFFFFFF, 0xFFFFFFFF, 0xFFFFFFFF, 1] with
  | some x => some x
  | none =>
    let n := (dw e 4).toNat
    if bits (dw e 2) 11 0 ≠ 0 then some (2, 0)
    else if n < 512 ∨ 512 + maxBody < n ∨ n % 16 ≠ 0 then some (4, 0)
    else none

/-- FIRMWARE_UPDATE: the checks, then the read; under the ROM monitor it writes slot A, and after a thermal trip, with no new flash command,
it ends with `aborted` (R446, R529, R542, R546). -/
def execFirmwareUpdate (s : State) : Host.Outcome State Fault Refusal :=
  .next (withCmd s (isOp 0x70) fun s t =>
    if s.flash.upd.isSome ∨ s.flash.life.isSome then complete s t .busy
    else match updateFault t.e with
      | some (d, b) => invalidAt s t d b
      | none =>
        if s.flash.noMore then complete s t .aborted
        else
          let u : UpdJob := { tag := tagOf t.e, slotB := !s.boot.slotB && !s.boot.romMonitor, activate := bit (dw t.e 5) 0 || s.boot.romMonitor }
          issueRead (setUpd (handOff s t .update (dw t.e 4).toNat) (some u)) t.fn (tagOf t.e) .firmware (wide t.e 2) (dw t.e 4).toNat)

/-- The update ends with a status; the slot it had begun to write holds no image that verifies (R546). -/
def failUpdate (s : State) (u : UpdJob) (st : Status) (p : Pay) : State :=
  completeJob (setUpd (setSlot s u.slotB { slotOf s u.slotB with valid := false }) none) u.ended u.tag st p

/-- The image has been read from host memory: the header's form, then the flash work (R446, R546). A header refused leaves the slot as
it was, since nothing has been erased. -/
def updateRead (s : State) (len : Nat) (data : HostData) : State :=
  match s.flash.upd with
  | none => s
  | some u =>
    match data with
    | .failed => failUpdate s u .dataError {}
    | .bytes l =>
      if !imageFormOk l then completeJob (setUpd s none) u.ended u.tag .checkFailed {}
      else if leAt l 0x10 4 + 512 ≠ len then completeJob (setUpd s none) u.ended u.tag .invalid (fieldPay 4 0)
      else setUpd (setSlot s u.slotB { parseImage l with valid := false }) (some { u with image := parseImage l, readOk := true })

/-- The payload of an update's `ok`: the image's version, and the slot written (R446). -/
def updatePay (u : UpdJob) : Pay := { p4 := fld (bits u.image.version 31 16) 16 ||| flag u.slotB 0 }

/-- An update waits for the commit of its entry. -/
def updateCommits (s : State) : Bool := s.flash.ops.any fun o => o.work == .update

/-- The slot has been written and read back as host memory has it: verification, and with `activate` the entry of kind 7 (R544,
R546). -/
def verifyUpdate (s : State) (u : UpdJob) (signed : Bool) : State :=
  if !signed || !imageAllowed s u.image then failUpdate s u .checkFailed {}
  else
    let s := setSlot s u.slotB { u.image with valid := true }
    if u.activate then queueJournal s 7 0 .update else completeJob (setUpd s none) u.ended u.tag .ok (updatePay u)

/-- FIRMWARE_UPDATE_DONE: the end of the flash work (R446, R546). -/
def execFirmwareUpdateDone (verdict : UpdateOut) (s : State) : Host.Outcome State Fault Refusal :=
  .next (
    match s.flash.upd with
    | none => s
    | some u =>
      if !u.readOk || updateCommits s then s
      else match verdict with
        | .whole signed => verifyUpdate s u signed
        | .mismatch => failUpdate s u .dataError {}
        | .timeout => failUpdate s u .timeout {})

/-- The written slot becomes the first; it is a new alternative for steps 4 and 5, and no failed one (R541, R546). -/
def activated (s : State) (u : UpdJob) : State :=
  { s with boot := { s.boot with
      firstB := u.slotB, fails := (s.boot.fails.set 3 0).set 4 0
      aFailed := s.boot.aFailed && u.slotB, bFailed := s.boot.bFailed && !u.slotB } }

/-- The entry of kind 7 has been written, or its flash operation went beyond its limit (R446, R541, R546). -/
def updateCommitted (s : State) (ok : Bool) : State :=
  match s.flash.upd with
  | none => s
  | some u =>
    if ok then completeJob (setUpd (activated s u) none) u.ended u.tag .ok (updatePay u)
    else failUpdate s u .timeout {}

/-- A running update is aborted: by stage 4 and by a thermal trip (R446, R527, R529). -/
def abortUpdate (s : State) : State :=
  match s.flash.upd with
  | none => s
  | some u =>
    let s := { s with flash := { s.flash with ops := s.flash.ops.filter fun o => o.work != .update } }
    let s := modGroom s fun g => { g with reads := g.reads.filter fun r => r.purpose != .firmware }
    failUpdate s u .aborted {}

/-! ## `lifecycle` -/

/-- The transitions of R548. -/
def transitionOk (a b : Nat) : Bool := (a, b) ∈ [(0, 1), (1, 2), (2, 3), (3, 2), (1, 4), (2, 4), (3, 4)]

/-- The field of `lifecycle` at fault: the target with the transition, then the length (R447, R549). -/
def lifeFault (s : State) (e : SqEntry) : Option (Nat × Nat) :=
  match reservedBit e [7, 0xFFFFFFFF, 0xFFFFFFFF, 0xFFFFFFFF] with
  | some x => some x
  | none =>
    let target := bits (dw e 2) 2 0
    if !transitionOk (lifecycleOf s).toNat target then some (2, 0)
    else if 29 ≤ s.sec.slots.length ∧ target ≠ 4 then some (2, 0)
    else if 4096 < (dw e 5).toNat then some (5, 0)
    else none

/-- LIFECYCLE: the checks, then the read of the blob (R447). -/
def execLifecycle (s : State) : Host.Outcome State Fault Refusal :=
  .next (withCmd s (isOp 0x71) fun s t =>
    match lifeFault s t.e with
    | some (d, b) => invalidAt s t d b
    | none =>
      if (allStalls.any fun n => capturing s n) ∨ s.flash.upd.isSome ∨ s.flash.life.isSome then complete s t .busy
      else
        let j : LifeJob := { tag := tagOf t.e, fromSt := lifecycleOf s, target := BitVec.ofNat 3 (bits (dw t.e 2) 2 0) }
        issueRead (setLife (handOff s t .lifecycle 0) (some j)) t.fn (tagOf t.e) .blob (wide t.e 3) (dw t.e 5).toNat)

/-- The job ends with a status. -/
def endLife (s : State) (j : LifeJob) (st : Status) (p : Pay) : State := completeJob (setLife s none) j.ended j.tag st p

/-- The fused hash of the key that signs a transition: the provisioning key's up to Provisioned, from Deployed on the owner's (R548). -/
def signerHash (s : State) (j : LifeJob) : List Byte := if j.fromSt.toNat ≤ 1 then fusedHash s 2 else s.sec.ownerHash

/-- The blob fits the device and the command, and its signer's key the fused hash; its signature is left out (R548, R550). -/
def blobOk (s : State) (j : LifeJob) (l : List Byte) : Bool :=
  let n := leAt l 0x10 2
  let dravzo := j.fromSt.toNat ≤ 1
  l.take 3 == [0x4C, 0x43, 1] && leAt l 3 1 == j.target.toNat && leAt l 4 4 == s.sec.slots.length && leAt l 8 8 == s.sec.serial.toNat &&
  n ≤ 3808 && l.length == 0xC0 + n + 96 && (if dravzo then leAt l 0x12 1 == 0 else 1 ≤ leAt l 0x12 1 && leAt l 0x12 1 ≤ 3) &&
  sha384 ((l.drop 0x20).take 97) == signerHash s j && zeroBytes l 0x13 13 && ((j.fromSt == 1 && j.target == 2) || zeroBytes l 0x81 48) && zeroBytes l 0xB1 15

/-- The blob has been read; after a tamper or a glitch `lifecycle` fails until the next boot (R447, R550, R553). -/
def lifeRead (s : State) (data : HostData) : State :=
  match s.flash.life with
  | none => s
  | some j =>
    match data with
    | .failed => endLife s j .dataError {}
    | .bytes l =>
      if s.sec.tamper || s.sec.glitch || !blobOk s j l then endLife s j .checkFailed {}
      else setLife s (some { j with
        certSlot := BitVec.ofNat 2 (leAt l 0x12 1), chain := (l.drop 0xC0).take (leAt l 0x10 2), owner := (l.drop 0x81).take 48 })

/-- The blob of the running job is still being read. -/
def blobReading (s : State) : Bool := s.groom.reads.any fun r => r.purpose == .blob

/-- The credential's verdict: the wipe begins, or the command fails; a secure bank that reads uncorrectable is wiped and confirms none (R404,
R550, R551; log entry 264). -/
def credential (s : State) (j : LifeJob) (ok : Bool) (ecc : Ecc) : State :=
  if blobReading s || j.passed || s.sec.wiping.isSome then s
  else if ecc = .uncorrectable then endLife (readSecure s ecc) j .checkFailed {}
  else if !ok then endLife (noteEcc s 8 ecc) j .checkFailed {}
  else
    let s := setLife (noteEcc s 8 ecc) (some { j with passed := true })
    { s with sec := { s.sec with wiping := some 0, keys := false, retried := false } }

/-- Step 2: the next slot is programmed, with the owner key's hash when it is Deployed for the first time (R548, R551). -/
def programSlot (s : State) (j : LifeJob) : State :=
  if !j.wiped || j.programmed then s
  else
    let owner := if j.fromSt = 1 ∧ j.target = 2 then j.owner else s.sec.ownerHash
    setLife { s with sec := { s.sec with slots := s.sec.slots ++ [j.target], ownerHash := owner } } (some { j with programmed := true })

/-- An entry of kind 8 waits for the flash. -/
def lifeCommits (s : State) : Bool := s.flash.ops.any fun o => o.work == .lifecycle

/-- Steps 3 to 5: the chain, the keys unless a tamper or a glitch fell in, and the entry of kind 8 (R551, R553, R554). -/
def finishLife (s : State) (j : LifeJob) : State :=
  if !j.programmed || lifeCommits s || s.sec.wiping.isSome then s
  else
    let s := if h : j.certSlot.toNat < 4 then
        (if j.chain = [] then s else { s with flash := { s.flash with certs := s.flash.certs.set j.certSlot.toNat j.chain } }) else s
    let s := { s with sec := { s.sec with keys := !j.tampered } }
    queueJournal s 8 (fld j.fromSt.toNat 0 ||| fld j.target.toNat 8) .lifecycle

/-- LIFECYCLE_DONE: a point of the running job is reached (R550, R551). -/
def execLifecycleDone (verdict : LifeOut) (s : State) : Host.Outcome State Fault Refusal :=
  .next (
    match s.flash.life with
    | none => s
    | some j =>
      match verdict with
      | .credential ok ecc => credential s j ok ecc
      | .programmed => programSlot s j
      | .finished => finishLife s j)

/-- Step 6: `lifecycle` completes; the resets of Returned follow once that completion has been written (R447, R548, R551). -/
def lifeCommitted (s : State) : State :=
  match s.flash.life with
  | none => s
  | some j =>
    let s := endLife s j .ok { p4 := fld j.target.toNat 0 }
    if j.target = 4 then startReturned { s with flash := { s.flash with returned := some j.tag } } else s

/-! ## `journal_read` -/

/-- The committed entries, newest first, at most 32 (R540). -/
def committedEntries (s : State) : List JEntry := (s.flash.journal.filter fun e => e.committed).take 32

/-- The boot journal as a result (R540). -/
def journalResult (s : State) : List Byte :=
  let l := committedEntries s
  leBytes (BitVec.ofNat 32 l.length) 4 ++ leBytes (match l with | [] => 0 | e :: _ => e.seq) 4 ++ List.replicate 8 0 ++ l.flatMap journalBytes

/-- The breach map as a result (R448). -/
def breachResult (s : State) : List Byte := dwBytes (fld s.flash.breachCommitted.length 0 :: s.flash.breachCommitted.map breachDword)

/-- JOURNAL_READ (R410, R411, R448). -/
def execJournalRead (readOk : Bool) (s : State) : Host.Outcome State Fault Refusal :=
  .next (withCmd s (isOp 0x72) fun s t =>
    match reservedBit t.e (resultBits ++ [3]) with
    | some (d, b) => invalidAt s t d b
    | none =>
      let what := bits (dw t.e 5) 1 0
      match badResult t.e with
      | some q => completeAt s t .invalid q
      | none =>
        if what = 3 then invalidAt s t 5 0
        else if !readOk then complete s t .dataError
        else giveResult s t (if what = 0 then journalResult s else if what = 1 then breachResult s else s.flash.boardRec) {})

end Sys2Proof.Machine
end

