-- ==== Sys2Proof/Machine/Secure.lean ====
section
/-!
DEFINITION. The secure bank: tamper and glitch, the wipe and its end; and the end of a flash write outside boot.
-/

namespace Sys2Proof.Machine

/-- The always-on domain has been released in this boot, with the tamper inputs armed at step 1; in Dormant they are watched always (R508,
R531, R552, R554). -/
def armedTamper (s : State) : Bool :=
  match s.boot.phase with
  | .inReset => s.power.st == .dormant
  | .booting => decide (1 < s.boot.step) || s.power.st == .dormant
  | .ready => true
  | .halted => true

/-- The core runs, so the glitch detector watches (R502, R552). -/
def coreRuns (s : State) : Bool := armedTamper s && s.power.st != .dormant

/-- The flash can be written: reached at step 3, not in Dormant, not after a trip (R507, R529, R531). -/
def flashReachable (s : State) : Bool :=
  coreRuns s && !s.flash.noMore && (s.boot.phase != .booting || decide (3 < s.boot.step))

/-- A `lifecycle` at work meets a wipe by tamper or glitch (R554). -/
def lifeTampered (s : State) : State :=
  match s.flash.life with
  | none => s
  | some j =>
    if j.programmed then setLife s (some { j with tampered := true })
    else if blobReading s then s
    else endLife s j .checkFailed {}

/-- A wipe by a source 1 to 3 starts; one already running for tamper or glitch goes on, and covers both (R552 to R554, log entry 71). -/
def startWipe (s : State) (src : BitVec 2) : State :=
  let s := { s with sec := { s.sec with tamper := s.sec.tamper || src != 3, glitch := s.sec.glitch || src == 3, keys := false } }
  if s.sec.wiping.any fun x => x != 0 then s
  else lifeTampered { s with sec := { s.sec with wiping := some src, retried := false } }

/-- TAMPER_ASSERT: TAMPER0#, or TAMPER1# when `which`, in every state with power (R508, R552, R553). -/
def execTamperAssert (which : Bool) (s : State) : Host.Outcome State Fault Refusal :=
  .next (if armedTamper s then startWipe s (if which then 2 else 1) else s)

/-- GLITCH_DETECT (R552, R553). -/
def execGlitchDetect (s : State) : Host.Outcome State Fault Refusal :=
  .next (if coreRuns s then startWipe s 3 else s)

/-- The record of a wipe by tamper or glitch in the always-on domain, kept until its entry of kind 5 is committed; that is written now, or by
the next boot where the flash cannot be written or the entry is lost (R536, R553; log entry 308). -/
def recordWipe (s : State) (src : BitVec 2) (verified : Bool) : State :=
  let s := { s with sec := { s.sec with recTamper := s.sec.recTamper ++ [(src, verified)] } }
  if flashReachable s then queueJournal s 5 (fld src.toNat 0 ||| flag verified 8) .none else s

/-- The read-back of a wipe by source `src` is right. -/
def wipeVerified (s : State) (src : BitVec 2) : State :=
  let s := { s with sec := { s.sec with wiping := none, retried := false } }
  if src = 0 then
    match s.flash.life with
    | none => s
    | some j => if j.passed then setLife s (some { j with wiped := true }) else s
  else recordWipe s src true

/-- The safe halt with cause 4; without a core that runs it follows when the core does, from the always-on record (R542, R553). -/
def bankHalt (s : State) : State :=
  if coreRuns s then safeHalt s s.boot.step 4 else { s with sec := { s.sec with wipeBad := true } }

/-- The read-back has failed twice: the safe halt with cause 4; a `lifecycle` that waited for the wipe fails (R542, R553). -/
def wipeFailed (s : State) (src : BitVec 2) : State :=
  let s := { s with sec := { s.sec with wiping := none, retried := false } }
  let s := if src = 0 then
      match s.flash.life with
      | none => s
      | some j => if j.passed then endLife s j .checkFailed {} else s
    else recordWipe s src false
  bankHalt s

/-- SECURE_WIPE_DONE: a wipe whose read-back fails is repeated once (R551, R553). -/
def execSecureWipeDone (ok : Bool) (s : State) : Host.Outcome State Fault Refusal :=
  .next (
    match s.sec.wiping with
    | none => s
    | some src =>
      if ok then wipeVerified s src
      else if s.sec.retried then wipeFailed s src
      else { s with sec := { s.sec with retried := true } })

/-! ## The flash -/

/-- What an entry tells of the boot: for the one of a `firmware_update`, with the written slot first (R535, R546). -/
def bootAfter (s : State) (w : Work) : State :=
  match s.flash.upd with
  | some u => if w = .update then activated s u else s
  | none => s

/-- A journal entry as it is programmed: its number, slots and failure counts are those of the moment, and it bears the request of
`retry_lanes` that it was queued for or that stands (R535, R537, R440). -/
def entryNow (s : State) (e : JEntry) : JEntry :=
  let n := journalNow s e.kind e.detail
  { e with seq := n.seq, slots := n.slots, fails := n.fails, flags := (e.flags &&& 0xFE) ||| ((e.flags ||| n.flags) &&& 1) }

/-- The always-on record of a wipe goes once its entry is committed (R553). -/
def clearRecord (s : State) (e : JEntry) : State :=
  if e.kind = 5 then { s with sec := { s.sec with
    recTamper := s.sec.recTamper.erase (BitVec.ofNat 2 (bits e.detail 1 0), bit e.detail 8) } } else s

/-- The content of the flash after an operation (R537, R553). -/
def programmed (s : State) (o : FlashOp) (ok : Bool) : State :=
  match o.entry with
  | none => if ok then { s with flash := { s.flash with breachCommitted := s.flash.breach } } else s
  | some e =>
    let s := journalAdd s (entryNow (bootAfter s o.work) e) ok
    if ok then clearRecord s e else s

/-- `selftest` test 1 completes when its entry is committed, and from then on the request stands in every entry (R277, R440, R535). -/
def retryCommitted (s : State) (ok : Bool) : State :=
  match s.stalls[(0 : Fin 64)].outst.find? fun o => o.work == .flash with
  | none => s
  | some o => completeTag { s with boot := { s.boot with retryLanes := s.boot.retryLanes || ok } } 0 o.tag (if ok then .ok else .timeout) {}

/-- The command that waited for an operation goes on. -/
def flashWaiter (s : State) (w : Work) (ok : Bool) : State :=
  match w with
  | .flash => retryCommitted s ok
  | .update => updateCommitted s ok
  | .lifecycle => lifeCommitted s
  | _ => s

/-- Flash work ends for want of time: at stage 4 an operation beyond its 5 ms ends all of it (R528). -/
def dropFlashWork (s : State) : State :=
  if s.power.supply = 4 then { s with flash := { s.flash with ops := [] } } else s

/-- FLASH_WRITE_DONE: the oldest operation ends, or goes beyond its limit and leaves what was committed before (R528, R537, R539). -/
def execFlashWriteDone (ok : Bool) (s : State) : Host.Outcome State Fault Refusal :=
  .next (
    match s.flash.ops with
    | [] => s
    | o :: rest =>
      if !flashReachable s then s
      else
        let s := flashWaiter (programmed { s with flash := { s.flash with ops := rest } } o ok) o.work ok
        if ok then s else dropFlashWork s)

end Sys2Proof.Machine
end

