-- ==== Sys2Proof/Machine/BootRun.lean ====
section
/-!
DEFINITION. Reset, loss of power, and the twelve boot steps with their failures, fallbacks and safe halt.
-/

namespace Sys2Proof.Machine

/-! ## Reset -/

/-- The core in reset: what the flash, the fuses, the always-on domain and the calibration store hold stays; the rest is as at reset
(R28, R510, R520, R530, R533, R549, R553; log entries 72 and 306). -/
def coreReset (s : State) : State :=
  { State.reset with
    tb := { State.reset.tb with timeEstimated := s.tb.timeEstimated }
    flash := { s.flash with ops := [], upd := none, life := none, noMore := false, breach := s.flash.breachCommitted }
    sec := { s.sec with keys := false, tamper := false, glitch := false, fuseBad := false }
    tiles := s.tiles.map fun t => {
      stored := t.stored, storedCorr := t.storedCorr, storedOffs := t.storedOffs, storedGain := t.storedGain
      calTemp := t.calTemp, calSupply := t.calSupply }
    power := { State.reset.power with
      vdd := s.power.vdd, sensors := s.power.sensors, tj := s.power.tj, supply := s.power.supply, supplySrc := s.power.supplySrc
      heldKeys := s.power.heldKeys }
    pins := { State.reset.pins with thermTrip := s.pins.thermTrip }
    out := s.out, free := s.free, pending := s.pending }

/-- RESET_ASSERT (R28, R530, R559). -/
def execResetAssert (s : State) : Host.Outcome State Fault Refusal := .next (coreReset s)

/-- The always-on records go with the supply; a wipe completes from stored energy (R553, R560). -/
def dropAlwaysOn (s : State) : State :=
  { s with tb := { s.tb with timeEstimated := false }, pins := { s.pins with thermTrip := false }
           power := { s.power with supply := 0, supplySrc := 0, heldKeys := [] }
           sec := { s.sec with wiping := none, retried := false, recTamper := [], recTrip := none, wipeBad := false } }

/-- POWER_LOSS (R28, R560). -/
def execPowerLoss (s : State) : Host.Outcome State Fault Refusal := .next (dropAlwaysOn (coreReset s))

/-! ## Progress, fallbacks and failures -/

/-- One byte of a list changed. -/
def setByte (l : List Byte) (k : Nat) (v : Byte) : List Byte := l.set k v

/-- The newest entry of kind 1 with another progress byte. -/
def markEntry (k : Nat) (v : Byte) : List JEntry → List JEntry
  | [] => []
  | e :: l => if e.committed && e.kind == 1 then { e with progress := setByte e.progress k v } :: l else e :: markEntry k v l

/-- The progress of step k: in the boot entry, once step 3 has committed it (R538). -/
def markProgress (s : State) (k : Nat) (v : Byte) : State :=
  let s := { s with boot := { s.boot with progress := setByte s.boot.progress (k - 1) v } }
  if k < 4 then s else { s with flash := { s.flash with journal := markEntry (k - 1) v s.flash.journal } }

/-- Failures of step k on the alternative in use. -/
def failsOf (s : State) (k : Nat) : Nat := s.boot.fails.getD (k - 1) 0

/-- The failures of step k changed. -/
def setFails (s : State) (k n : Nat) : State := { s with boot := { s.boot with fails := s.boot.fails.set (k - 1) n } }

/-- A `boot_fallback` to be sent at step 12, one per cause (R467). -/
def addFallback (s : State) (cause step attempts : Nat) (detail : Dword) : State :=
  if s.boot.fallbacks.any fun x => bits x.1 7 0 == cause then s
  else { s with boot := { s.boot with fallbacks := s.boot.fallbacks ++ [(fld attempts 16 ||| fld step 8 ||| fld cause 0, detail)] } }

/-- Step k has failed: its byte reads so, and the device makes a warm reset (R531, R538, R541). -/
def failStep (s : State) (k : Nat) : State := coreReset (markProgress s k 0x5F)

/-! ## The training of step 8 -/

/-- What the board record says of the memory (R244). -/
structure Board where
  fitted : BitVec 4
  mapOrder : BitVec 2
  density : BitVec 8
  cap : BitVec 8
  threshold : Nat
  ignored : Bool := false

/-- A record of four dwords with its magic, format and CRC-32C (R244, R534). -/
def recordOk (magic : Nat) (l : List Byte) : Bool :=
  l.length == 16 && leAt l 2 2 == magic && leAt l 1 1 == 1 && leAt l 12 4 == (crc32c (l.take 12)).toNat

/-- The two-bit field of a lane. -/
def pair (w : BitVec 8) (l : Nat) : Nat := bits w (2 * l + 1) (2 * l)

/-- The board record, unless its `crc` is bad, a reserved bit is set or a field is refused (R244). -/
def boardOf (l : List Byte) : Option Board :=
  let b : Board := {
    fitted := BitVec.ofNat 4 (leAt l 0 1 / 16), mapOrder := BitVec.ofNat 2 (leAt l 0 1 / 4), density := BitVec.ofNat 8 (leAt l 7 1)
    cap := BitVec.ofNat 8 (leAt l 6 1), threshold := if leAt l 4 2 = 0 then 4096 else leAt l 4 2 }
  let lanesOk := (List.range 4).all fun k => pair b.density k < 2 && pair b.cap k < 3
  if recordOk 0x4452 l && leAt l 0 1 % 4 == 0 && leAt l 8 4 == 0 && b.mapOrder != 3 && lanesOk && 2048 ≤ b.threshold then some b else none

/-- The fields that stand for an ignored record (R244). -/
def defaultBoard : Board := { fitted := 0xF, mapOrder := 0, density := 0, cap := 0, threshold := 4096, ignored := true }

/-- The grade at which a lane's training begins: 4800 without a board record; none for a lane that the journal records as excluded or failed
below its cap (R244, R277). Two cases that R277 leaves open are the model's choice (DESIGN CHOICE, log entry 273): a journal speed above the
present cap starts at the cap, and a lane that the journal records as not fitted starts at the cap. -/
def startGrade (b : Board) (old : Nat) (retry : Bool) (l : Fin 4) : Option Nat :=
  let outcome := old / 4 % 4
  if b.ignored ∨ retry ∨ outcome = 0 ∨ outcome = 3 then some (pair b.cap l.val)
  else if old % 4 = 3 then none
  else some (min (old % 4) (pair b.cap l.val))

/-- The grade a lane trains at, starting from its own (R277). -/
def trainedGrade (b : Board) (old : Nat) (retry : Bool) (l : Fin 4) (t : LaneTrain) : Option Nat :=
  if !bit b.fitted l.val then none
  else match startGrade b old retry l, t.speed with
    | some a, some f => some (min a f.val)
    | _, _ => none

/-- The least of some grades. -/
def leastGrade (l : List Nat) : Nat := l.foldl min 2

/-- The lane left out when three lanes give the larger G: the slowest (R229, R278). -/
def laneLeftOut (g : Vector (Option Nat) 4) : Option (Fin 4) :=
  let l := (List.finRange 4).filterMap fun k => (g[k]).map fun x => (k, x)
  if l.length ≠ 4 then none
  else
    let slow := leastGrade (l.map fun x => x.2)
    match (l.filter fun x => x.2 == slow).getLast? with
    | none => none
    | some x =>
      let rest := (l.filter fun y => y.1 != x.1).map fun y => y.2
      if guaranteeOf 4 slow < guaranteeOf 3 (leastGrade rest) then some x.1 else none

/-- A lane after boot training (R244, R277 to R279). -/
def bootLane (s : State) (b : Board) (dense : Bool) (t : LaneTrain) (k : Fin 4) (grade : Option Nat) (out : Bool) : Lane :=
  let cap := pair b.cap k.val
  let base : Lane := { density := if dense then 1 else 0, fit := grade.isSome, spares := if grade.isSome then t.spares.take 20 else [] }
  match grade with
  | none => { base with speed := 3, outcome := if bit b.fitted k.val then 2 else 3 }
  | some g =>
    if out then { base with speed := 3, outcome := 2 }
    else { base with usable := true, speed := BitVec.ofNat 2 g, outcome := if g < cap then 1 else 0
                     nextRefresh := s.tb.now + BitVec.ofNat 64 (k.val * (refi false / 4)), nextDqs := s.tb.now + strides (2 * ms) }

/-- The lanes after training, G, the map order and the parcels (R228, R229, R232, R244, R262). -/
def trainLanes (s : State) (b : Board) (t : Vector LaneTrain 4) : State :=
  let dense := (List.range 4).all fun k => !bit b.fitted k || pair b.density k == 1
  let old := (newestEntry s).lanes.toNat
  let grades : Vector (Option Nat) 4 := Vector.ofFn fun k => trainedGrade b (old / 2 ^ (8 * k.val)) s.boot.retryLanes k t[k]
  let gone := laneLeftOut grades
  let s := { s with lanes := Vector.ofFn fun k => bootLane s b dense t[k] k grades[k] (gone == some k) }
  let n := (usableLanes s).length
  { s with
    dram := { s.dram with g := guaranteeOf n (slowest s), mapOrder := b.mapOrder, nrThreshold := b.threshold
                          total := n * (if dense then 1024 else 512), selfRefresh := false, refreshBase := s.tb.now } }

/-- A retired parcel is found at boot from its row (R273, R274). -/
def bootRetire (s : State) (l : Fin 4) (p : Nat) : State :=
  if s.dram.retired.contains p ∨ s.dram.total ≤ p then s
  else modLane { s with dram := { s.dram with retired := s.dram.retired ++ [p] } } l fun x =>
    { x with retired := x.retired + 1, degraded := decide (64 < x.retired + 1) }

/-- A row that failed in training is a breach candidate: a repair is claimed and queued, or the row is retired (R271, R274, R277). -/
def trainRow (s : State) (k : Nat) : State :=
  let l : Fin 4 := Fin.ofNat 4 (k / 2 ^ 21)
  let row : BitVec 21 := BitVec.ofNat 21 k
  if !s.lanes[l].usable || (s.flash.breach.any fun b => b.lane == l && b.row == row && b.state == 3) then s
  else if spareLeft s.lanes[l] (bits row 20 19) then
    let s := modLane s l fun x => claimSpares x (bits row 20 19)
    putBreach { s with dram := { s.dram with repairQ := s.dram.repairQ ++ [{ lane := l, row := row, when := s.tb.now }] } }
      { lane := l, row := row, state := 0, cause := 2 }
  else putBreach s { lane := l, row := row, state := 3, cause := 2 }

/-- Soft repairs of the trained lanes become hard; a row without a hard resource left is retired (R272, R277). -/
def hardRepair (s : State) (noHard : List Nat) (e : BreachEntry) : BreachEntry :=
  if e.state = 1 ∧ s.lanes[e.lane].fit then
    { e with state := if noHard.contains (e.lane.val * 2 ^ 21 + e.row.toNat) then 3 else 2 }
  else e

/-- The breach map after the hard repairs, and the retired parcels for the lanes chosen (R272 to R274, R277). -/
def repairRows (s : State) (noHard : List Nat) : State :=
  let map := s.flash.breach.map (hardRepair s noHard)
  let s := if map = s.flash.breach then s else queueBreach { s with flash := { s.flash with breach := map } }
  map.foldl (fun s e =>
    if e.state = 3 ∧ s.lanes[e.lane].usable then (rowParcels s e.lane e.row).foldl (fun s p => bootRetire s e.lane p) s else s) s

/-- The lanes with an outcome. -/
def outcomes (s : State) (n : BitVec 2) : BitVec 4 := maskOf 4 fun k => if h : k < 4 then s.lanes[k].outcome == n else false

/-- The lanes are trained; where they differ from the board record the host is to be told, with the lanes excluded and slowed (R244, R274, R277,
R278, R467). -/
def runTraining (s : State) (t : Vector LaneTrain 4) (noHard badRows : List Nat) : State :=
  let s := if (boardOf s.flash.boardRec).isNone then addFallback s 6 8 1 0 else s
  let s := repairRows (badRows.foldl trainRow (trainLanes s ((boardOf s.flash.boardRec).getD defaultBoard) t)) noHard
  let diff := outcomes s 1 != 0 || outcomes s 2 != 0
  let s := if diff then addFallback s 2 8 1 (fld (outcomes s 2).toNat 4 ||| fld (outcomes s 1).toNat 0) else s
  { s with boot := { s.boot with laneDiff := diff, lanesAt := s.tb.now } }

/-- The entry of kind 2, where the lanes differ from those of an entry or were tried anew (R277). -/
def recordLanes (s : State) (old : JEntry) (retry : Bool) : State :=
  if retry ∨ (journalNow s 2 0).lanes ≠ old.lanes then queueJournal s 2 (fld 8 8) .none else s

/-! ## Entering a step -/

/-- Step k runs; as step 8 begins DDR RESET_n is released (R570). -/
def enterStep (s : State) (k : Nat) : State :=
  markProgress { s with boot := { s.boot with step := k }, pins := { s.pins with ddrReset := s.pins.ddrReset && k < 8 } } k 0x7F

/-- Steps that end in the safe halt when no alternative is left (R541). -/
def haltsOn (k : Nat) : Bool := k == 4 || k == 5 || k == 6 || k == 11 || k == 12

/-- Step k runs, or the device halts before it: three failures, no alternative left (R541, R542). -/
def enterOrHalt (s : State) (k : Nat) : State :=
  if haltsOn k && decide (3 ≤ failsOf s k) then safeHalt { s with boot := { s.boot with step := k } } k 1 else enterStep s k

/-- A tile's corrections as the store holds them, or the default ones; either way it is uncalibrated (R51, R62, R66, R541). -/
def tileFallback (s : State) (p : Fin 6) (useStore : Bool) : State :=
  let t := s.tiles[p]
  takeCorr (modTile s p fun t => { t with uncal := true }) p (if useStore then t.storedCorr else []) (if useStore then t.storedOffs else [])

/-- Every tile, the calibration passed by. -/
def allPorts6 : List (Fin 6) := List.finRange 6

/-- Step 7 is skipped: every tile on default coefficients (R541). -/
def skipCalibration (s : State) : State :=
  let s := allPorts6.foldl (fun s p => tileFallback s p false) (markProgress s 7 0x6F)
  addFallback { s with pins := { s.pins with terminated := 0x3F } } 5 7 3 0

/-- Step 10 is skipped: no Quera port is enabled (R541). -/
def skipQuera (s : State) : State := addFallback (markProgress s 10 0x6F) 5 10 3 0

/-- Step 8 is skipped after three failures: every lane is excluded (R541). -/
def skipDram (s : State) : State :=
  let s := setFails (markProgress { s with boot := { s.boot with step := 8 }, pins := { s.pins with ddrReset := false } } 8 0x6F) 8 0
  addFallback (runTraining s (Vector.replicate 4 { speed := none, spares := [] }) [] []) 5 8 3 0

/-- Step 8 begins, or is skipped (R541). -/
def beginDram (s : State) : State :=
  if failsOf s 8 < 3 then enterStep s 8 else recordLanes (enterStep (skipDram s) 9) (newestEntry s) false

/-- The next step begins, or is skipped (R531, R541). -/
def beginStep (s : State) (k : Nat) : State :=
  if k = 7 ∧ s.boot.tilesDefault = 0x3F then beginDram (skipCalibration { s with boot := { s.boot with step := 7 } })
  else if k = 8 then beginDram s
  else if k = 10 ∧ 3 ≤ failsOf s 10 then enterOrHalt (skipQuera { s with boot := { s.boot with step := 10 } }) 11
  else enterOrHalt s k

/-- Step k has passed: its failures count from 0 again (R538, R541). -/
def passStep (s : State) (k : Nat) (fallback : Bool) : State :=
  beginStep (setFails (markProgress s k (if fallback then 0x37 else 0x3F)) k 0) (k + 1)

/-- Stage 4 of the supply is over once the rails are valid again (R520, R559). -/
def leaveStage4 (s : State) : State := if s.power.supply = 4 then { s with power := { s.power with supply := 0, supplySrc := 0 } } else s

/-- A boot starts at step 1 with valid rails; the PCIe link trains from PERST# and does not wait for the steps (R530, R532, R559). -/
def startBoot (s : State) : State :=
  enterStep (leaveStage4 { s with boot := { s.boot with phase := .booting }, pcie := { s.pcie with linkUp := true } }) 1

/-- BOOT_START: from reset, step 1 begins. A boot at VDD_AON finds no always-on record and no estimate of time (R89, R530). -/
def execBootStart (why : BootWhy) (s : State) : Host.Outcome State Fault Refusal :=
  .next (
    if s.boot.phase ≠ .inReset ∨ s.power.st = .dormant then s
    else startBoot (if why = .powerOn then dropAlwaysOn s else s))

/-! ## Steps 1 to 3 -/

/-- Step 1: a crystal that does not run sets `aon_fault`, and the step passes (R92, R532, R541). -/
def stepAon (s : State) (crystal : Bool) : State :=
  passStep { s with boot := { s.boot with aonReady := crystal }, tb := { s.tb with aonFault := !crystal, gatesRun := crystal } } 1 false

/-- Step 2: the keys are derived; a bad fuse row is the safe halt, and so is a bank that could not be wiped before (R547 to R549, R553). -/
def stepFuses (s : State) (good : Bool) : State :=
  if s.sec.wipeBad && good then safeHalt { s with sec := { s.sec with wipeBad := false } } 2 4
  else if good then
    passStep { s with sec := { s.sec with
      keys := lifecycleOf s != 0 && s.sec.wiping.isNone && !s.sec.tamper && !s.sec.glitch } } 2 false
  else safeHalt { s with sec := { s.sec with fuseBad := true } } 2 2

/-- The committed entries, newest first. -/
def committedAll (s : State) : List JEntry := s.flash.journal.filter fun e => e.committed

/-- A progress byte of an entry. -/
def progressOf (e : JEntry) (k : Nat) : Nat := (e.progress.getD (k - 1) 0xFF).toNat

/-- The failures of step k that step 3 counts (R541). `ended` says that power or heat ended the run. -/
def countedFails (e : JEntry) (ended : Bool) (n k : Nat) : Nat :=
  let p := progressOf e k
  if p = 0x5F ∨ (p = 0x7F ∧ ¬ ended) then min 3 (n + 1)
  else if p = 0x3F ∨ p = 0x37 then 0 else n

/-- The failures of the twelve steps, from the newest committed entry and the newest of kind 1 (R541). -/
def countAll (l : List JEntry) (trip : Bool) : List Nat :=
  match l, l.find? fun e => e.kind == 1 with
  | e :: _, some b =>
    let ended := trip || (l.takeWhile fun x => x.kind != 1).any fun x => x.kind == 3 || x.kind == 4
    (List.range 12).map fun i => countedFails b ended (e.fails.getD i 0).toNat (i + 1)
  | _, _ => List.replicate 12 0

/-- Step k had passed in the boot of an entry. -/
def passedIn (e : JEntry) (k : Nat) : Bool := progressOf e k == 0x3F || progressOf e k == 0x37

/-- The slot other than b has failed step k three times since a boot last passed step 5 or a slot was activated (R541, log entry 73). -/
def otherExhausted (l : List JEntry) (k : Nat) (b : Bool) : Bool :=
  (l.takeWhile fun e => e.kind != 7 && !(e.kind == 1 && passedIn e 5)).any fun e =>
    e.kind == 1 && bit e.slots 1 != b && (e.fails.getD (k - 1) 0) == 2 && (progressOf e k == 0x5F || progressOf e k == 0x7F)

/-- The first slot moves on after three failures of step k on it, while the other is left (R541). -/
def chooseSlot (l : List JEntry) (s : State) (k : Nat) : State :=
  if failsOf s k < 3 ∨ otherExhausted l k s.boot.firstB then s
  else
    let s := { s with boot := { s.boot with
      firstB := !s.boot.firstB, alt4 := s.boot.alt4 || k == 4, alt5 := s.boot.alt5 || k == 5 } }
    addFallback (setFails (setFails s 4 0) 5 0) 1 k 3 0

/-- How step 7 is to run: fresh, from the store, or not at all, by the failures and by how it ran when it last failed (R541). -/
def chooseTiles (l : List JEntry) (s : State) : State :=
  let old := l.headD {}
  let open_ := match l.find? fun e => e.kind == 1 with
    | none => false
    | some b => !passedIn b 7
  let stored := open_ && old.tilesStored == 0x3F
  let skipped := open_ && old.tilesDefault == 0x3F
  let more := decide (3 ≤ failsOf s 7)
  if skipped || (stored && more) then { setFails s 7 0 with boot := { (setFails s 7 0).boot with tilesDefault := 0x3F } }
  else if stored || more then
    let s := if more then setFails s 7 0 else s
    { s with boot := { s.boot with tilesStored := 0x3F } }
  else s

/-- What the journal says of the last run is taken over (R541). -/
def loadJournal (s : State) : State :=
  let l := committedAll s
  let e := l.headD {}
  let s := { s with boot := { s.boot with
    firstB := bit e.slots 0, aFailed := bit e.slots 2, bFailed := bit e.slots 3, retryLanes := bit e.flags 0
    fails := countAll l s.sec.recTrip.isSome } }
  let s := chooseTiles l (chooseSlot l (chooseSlot l s 4) 5)
  { s with boot := { s.boot with slotB := s.boot.firstB } }

/-- An entry is recorded and committed within step 3. -/
def commitEntry (s : State) (kind : BitVec 8) (detail : Dword) : State := journalAdd s (journalNow s kind detail) true

/-- The run of the newest of some entries had a bad fuse row: its entry of kind 6 says so and it has none of kind 1 (R536, R549). -/
def badRun : List JEntry → Bool
  | [] => false
  | e :: l => if e.kind = 1 then false else if e.kind = 6 ∧ bits e.detail 15 8 = 2 then true else badRun l

/-- The lifecycle state that the journal gives, without the runs that could not read the fuses (R535, R549, R551). -/
def lifeRecorded : List JEntry → Option (BitVec 8)
  | [] => none
  | e :: l => if badRun (e :: l) then lifeRecorded l else some e.lifecycle

/-- The always-on records go into the journal, before the boot's own entry: a trip, which releases THERM_TRIP#, the wipes, and a
transition that lost its entry (R529, R551, R553). -/
def commitRecords (s : State) (lifeBefore : Option (BitVec 8)) : State :=
  let s := match s.sec.recTrip with
    | none => s
    | some t => commitEntry s 4 (fld t.toNat 0)
  let s := s.sec.recTamper.foldl (fun s r => commitEntry s 5 (fld r.1.toNat 0 ||| flag r.2 8)) s
  let s := match lifeBefore with
    | none => s
    | some x => if x = (lifecycleOf s).zeroExtend 8 then s else commitEntry s 8 (fld x.toNat 0 ||| fld (lifecycleOf s).toNat 8)
  { s with sec := { s.sec with recTrip := none, recTamper := [] }, pins := { s.pins with thermTrip := false } }

/-- Step 3: the course of the boot is decided, and the boot entry committed with the bytes of steps 1 and 2; a flash that cannot be
read is the safe halt (R535, R537, R538, R541). -/
def stepLoader (s : State) (readable : Bool) : State :=
  if !readable then safeHalt s 3 1
  else
    let life := lifeRecorded (committedAll s)
    let s := commitRecords (loadJournal s) life
    let s := { s with boot := { s.boot with progress := setByte s.boot.progress 2 0x3F } }
    passStep (commitEntry s 1 0) 3 false

/-! ## Steps 4 to 7 -/

/-- The image of a slot passes R544: an image is there, the checks that depend on neither floor nor revocation, and those that do. -/
def imageVerifies (s : State) (b ok : Bool) : Bool := ok && (slotOf s b).valid && imageAllowed s (slotOf s b)

/-- A slot's mark of a failed verify. -/
def markSlot (s : State) (b failed : Bool) : State :=
  { s with boot := if b then { s.boot with bFailed := failed } else { s.boot with aFailed := failed } }

/-- Step 4: the first slot, then the other, an alternative for step 5 too; neither is the safe halt (R538, R541, R544). -/
def stepVerify (s : State) (a b : Bool) : State :=
  let first := s.boot.firstB
  let ok (x : Bool) : Bool := imageVerifies s x (if x then b else a)
  if ok first then passStep (markSlot s first false) 4 s.boot.alt4
  else if ok (!first) then
    let s := setFails (markSlot (markSlot s first true) (!first) false) 5 0
    passStep (addFallback { s with boot := { s.boot with slotB := !first, alt4 := true } } 1 4 1 0) 4 true
  else safeHalt (markProgress (markSlot (markSlot s first true) (!first) true) 4 0x5F) 4 1

/-- Step 5: the image runs; the slot becomes the first of the next boot (R374, R541, R543). -/
def stepGroom (s : State) (ok : Bool) : State :=
  if !ok then failStep s 5
  else
    let i := slotOf s s.boot.slotB
    let moved := s.boot.firstB != s.boot.slotB
    let s := { s with boot := { s.boot with
      firstB := s.boot.slotB, firmware := i.version, secVer := i.secVer, imageHash := i.bodyHash, subVendor := i.subVendor, subId := i.subId } }
    let s := passStep s 5 s.boot.alt5
    if moved then queueJournal s 7 0 .none else s

/-- A fast gate of boot passes: within 1000 ppm of its 97,656.25 cycles, or within 6 % where the internal oscillator times it (R71, R532). -/
def bootGate (s : State) (count : Nat) : Bool :=
  let d := (4 * (count : Int) - 390625).natAbs
  if s.tb.aonFault then d * 100 ≤ 6 * 390625 else d * 1000 ≤ 390625

/-- Step 6: the first reference of the order that passes a fast gate, and the lock; system time starts at 0, and as step 7 begins the inputs
are terminated and biased (R34, R69, R70, R87, R532, R570). -/
def stepPll (s : State) (a b : Nat) (lock : Bool) : State :=
  match (prefOrder s.tb.refMode).find? fun r => bootGate s (if r then b else a) with
  | none => failStep s 6
  | some r =>
    if !lock then failStep s 6
    else
      let s := modMon s r fun m => { m with qualified := true, gateOk := true }
      let s := { s with tb := { s.tb with selected := refOf r, timeValid := true, now := 0, holdover := false }
                        pins := { s.pins with refOut := true, terminated := 0x3F } }
      passStep (setFreeRunning s) 6 false

/-- A tile after its calibration at boot: fresh, stored or default (R62, R66, R541). -/
def calibrateTile (pass : BitVec 6) (meas : Vector CalMeas 6) (plan : Bool) (s : State) (p : Fin 6) : State :=
  if bit pass p.val && !plan then storeTile s p meas[p]
  else tileFallback s p s.tiles[p].stored

/-- Step 7 (R34, R62, R66, R541). -/
def stepCalibrate (s : State) (pass : BitVec 6) (meas : Vector CalMeas 6) : State :=
  let plan := s.boot.tilesStored == 0x3F
  let fell (p : Nat) : Bool := plan || !bit pass p
  let has (p : Nat) : Bool := if h : p < 6 then s.tiles[p].stored else false
  let fromStore : BitVec 6 := maskOf 6 fun p => fell p && has p
  let default_ : BitVec 6 := maskOf 6 fun p => fell p && !has p
  let s := allPorts6.foldl (calibrateTile pass meas plan) s
  let s := { s with boot := { s.boot with tilesStored := fromStore, tilesDefault := default_ } }
  let n := if plan then 3 else 1
  let s := if fromStore = 0 then s else addFallback s 3 7 n (fld fromStore.toNat 0)
  let s := if default_ = 0 then s else addFallback s 5 7 n 0
  passStep s 7 (fromStore != 0 || default_ != 0)

/-! ## Step 8 ends -/

/-- Step 8 (R244, R274, R277, R278). -/
def stepDram (s : State) (t : Vector LaneTrain 4) (noHard badRows : List Nat) : State :=
  let old := newestEntry s
  let retry := s.boot.retryLanes
  let s := runTraining s t noHard badRows
  recordLanes (passStep { s with boot := { s.boot with retryLanes := false } } 8 s.boot.laneDiff) old retry

/-! ## Steps 9 to 12 -/

/-- Step 9: failing responses are disabled (R300). -/
def stepRom (s : State) (bad : BitVec 24) : State :=
  let s := { s with boot := { s.boot with romFail := bad } }
  passStep (if bad = 0 then s else addFallback s 4 9 1 (fld bad.toNat 0)) 9 false

/-- The node record keeps R534. -/
def nodeOk (l : List Byte) : Bool :=
  recordOk 0x5152 l && leAt l 0 1 % 2 == 0 && leAt l 0 1 / 4 % 4 != 3 && leAt l 4 4 / 2 ^ 14 == 0 && leAt l 8 4 == 0

/-- The Quera settings of the node record (R480, R534). -/
def applyNode (s : State) (l : List Byte) : State :=
  let d := leAt l 0 1
  let auto := d / 2 % 2 == 1
  let role : BitVec 2 := BitVec.ofNat 2 (d / 4)
  reconverge s { s with quera := { s.quera with
    portEnable := BitVec.ofNat 4 (d / 16), role := role, autoId := auto, refPort := BitVec.ofNat 2 (leAt l 4 4 / 2 ^ 12)
    configId := BitVec.ofNat 12 (leAt l 4 4)
    deviceId := if auto && role == 0 then s.quera.deviceId else BitVec.ofNat 12 (leAt l 4 4) } } 0

/-- Step 10 (R534, R541). -/
def stepQuera (s : State) (ok : Bool) : State :=
  if !ok then failStep s 10
  else passStep (if nodeOk s.flash.nodeRec then applyNode s s.flash.nodeRec else s) 10 false

/-- Step 11: configuration requests are answered; a link trains only to a speed and a width it has (R374, R376, R532). -/
def stepPcie (s : State) (ok : Bool) (speed width : Nat) : State :=
  if !ok then failStep s 11
  else if ¬ (1 ≤ speed ∧ speed ≤ 5 ∧ (width = 1 ∨ width = 2 ∨ width = 4 ∨ width = 8)) then s
  else passStep { s with pcie := { s.pcie with cfgReady := true, linkSpeed := speed, linkWidth := width } } 11 false

/-- The rollback floor follows the running image, unless an alternative of step 4 or 5 ran or the state is Maintenance (R545, R548). -/
def raiseFloor (s : State) : State :=
  if s.boot.alt4 ∨ s.boot.alt5 ∨ lifecycleOf s = 3 then s
  else { s with sec := { s.sec with floor := max s.sec.floor (min 63 s.boot.secVer) } }

/-- Step 12: stall 0, `ready`, Run, the events, the floor, and every parcel into the wipe queue (R278, R348, R349, R467, R504, R531,
R545). -/
def stepReady (s : State) (ok : Bool) : State :=
  if !ok then failStep s 12
  else
    let s := setFails (markProgress s 12 0x3F) 12 0
    let s := modStall s 0 fun x => freshStall x .idle 256 65535
    let s := { s with boot := { s.boot with phase := .ready, reached := true }, power := { s.power with st := .run } }
    let s := giveHeld { s with power := { s.power with told := shedStage s, done := shedStage s } }
    let s := s.boot.fallbacks.foldl (fun s x => sendEvent s 0 (event 0x15 0 s.tb.now x.1 x.2 0 0)) s
    let s := if s.boot.laneDiff then dramEventAt s s.boot.lanesAt [] 8 0 0 else s
    let s := ((usableLanes s).filter fun l => s.lanes[l].degraded).foldl (fun s l => dramEventAt s s.boot.lanesAt [] 6 l 0) s
    let s := raiseFloor { s with boot := { s.boot with fallbacks := [] } }
    queueWipe s (List.range s.dram.total)

/-- BOOT_STEP_DONE: the running step ends with its outcome, unless the device is on its way to Dormant (R521, R529, R531). -/
def execBootStepDone (out : BootOut) (s : State) : Host.Outcome State Fault Refusal :=
  .next (
    if s.boot.phase ≠ .booting ∨ s.power.target.isSome ∨ s.power.st = .dormant then s
    else match s.boot.step, out with
      | 1, .aon crystal => stepAon s crystal
      | 2, .fuses good => stepFuses s good
      | 3, .loader readable => stepLoader s readable
      | 4, .verify a b => stepVerify s a b
      | 5, .groom ok => stepGroom s ok
      | 6, .pll a b lock => stepPll s a b lock
      | 7, .calibrate pass meas => stepCalibrate s pass meas
      | 8, .dram t noHard badRows => stepDram s t noHard badRows
      | 9, .rom bad => stepRom s bad
      | 10, .quera ok => stepQuera s ok
      | 11, .pcie ok speed width => stepPcie s ok speed width
      | 12, .ready ok => stepReady s ok
      | _, _ => s)

/-- BOOT_STEP_TIMEOUT: the running step runs past twice its budget and its byte still reads started; step 1 does not fail (R531, R532,
R538, R541). -/
def execBootStepTimeout (s : State) : Host.Outcome State Fault Refusal :=
  .next (if s.boot.phase ≠ .booting ∨ s.boot.step = 1 ∨ s.power.target.isSome ∨ s.power.st = .dormant then s else coreReset s)

end Sys2Proof.Machine
end

