-- ==== Sys2Proof/Machine/Formatter.lean ====
section
/-!
DEFINITION. The gait formatters: hoofbeats, Trot and Walk records, dense blocks, keyframes, and a store on that takes effect.
-/

namespace Sys2Proof.Machine

/-- The capture of a stall while its segment is open in a gait and its last stride has not passed. -/
def openIn (s : State) (n : Stall) (g : Gait) : Option Capture :=
  match s.stalls[n].cap with
  | some c => if c.phase = .running ∧ c.arm.gait = g ∧ ¬ fillOver s c then some c else none
  | none => none

/-! ## Storing -/

/-- A pending store on takes effect: the marker, the resume keyframe, and side anchors owed (R123, R132, R163, R225). -/
def applyStoreOn (s : State) (n : Stall) : State :=
  match s.stalls[n].cap, s.stalls[n].eng.storePend with
  | some c, some p =>
    if c.phase ≠ .running ∨ past s.tb.now p.when ∨ (c.arm.gait = .walk ∧ ¬ walkBoundary c s.tb.now) then s
    else
      let s := modEng s n fun e => { e with storing := true, storePend := none }
      let s := modCap s n fun c => { openRun c s.tb.now with walkIdx := if c.arm.gait = .walk then (relStride c s.tb.now / (walkPeriod c : Int)).toNat else c.walkIdx }
      let s := marker s n 0x6 s.tb.now (BitVec.ofNat 64 (p.fence * 2 ^ 32 + p.exit * 2 ^ 28))
      let s := (chainsOf s n).foldl (fun s k => modChain s k fun c => { c with anchorOut := true, anchorDet := true }) s
      writeKey s n 2
  | _, _ => s

/-- STORE_ON_DEFERRED (R225). -/
def execStoreOnDeferred (st : Stall) (s : State) : Host.Outcome State Fault Refusal :=
  .next (checkFull (applyStoreOn s st) st)

/-- KEYFRAME: the anchor that falls due in this stride (R121). -/
def execKeyframe (st : Stall) (s : State) : Host.Outcome State Fault Refusal :=
  .next (
    match s.stalls[st].cap with
    | none => s
    | some c => if fillOver s c then s else checkFull (dueKey s st) st)

/-! ## Canter -/

/-- The channels of a team, ascending. -/
def teamList (t : Fin 8) : List (Fin 48) := (List.finRange 6).map fun k => ⟨6 * t.val + k.val, by omega⟩

/-- A channel had a transition in the current stride. -/
def hadTransition (s : State) (c : Fin 48) : Bool :=
  let x := s.chans[c]
  x.sampledAt == s.tb.now && chLive x && x.trans != 0

/-- Teams whose hoofbeat of the current stride is written. -/
def hoofsDone (s : State) (c : Capture) : BitVec 8 := if c.hoofAt = some s.tb.now then c.hoofDone else 0

/-- HOOFBEAT: a team of a storing Canter stall had a transition (R101, R111, R120, R122, R124). -/
def execHoofbeat (t : Fin 8) (s : State) : Host.Outcome State Fault Refusal :=
  .next (
    match allStalls.find? fun n => bit s.stalls[n].grant.teams t.val with
    | none => s
    | some n =>
      match openIn s n .canter with
      | none => s
      | some c =>
        if !bit c.teams t.val || !storedAt c s.tb.now || !(teamList t).any (fun k => hadTransition s k) ||
            (hoofsDone s c).toNat / 2 ^ t.val ≠ 0 then s
        else
          let s := dueKey s n
          let now := s.tb.now
          let delta := strideOf (now - ((s.stalls[n].cap.map fun c => c.chainTime).getD now))
          let s := if 31 < delta then addRec s n (anchorRec 1 now) else s
          let s := modCap s n fun c => { c with chainTime := now, hoofAt := some now, hoofDone := setBit (hoofsDone s c) t.val true }
          checkFull (addRec s n (hoofRec t.val (if 31 < delta then 0 else delta) ((teamList t).map fun k => hoofField s.chans[k]))) n)

/-! ## Trot -/

/-- States in the sample before sample k of the current stride (R105). -/
def statesBefore (s : State) (teams : BitVec 8) (k : Nat) : ChanMask :=
  if k = 0 then stateBefore s teams
  else maskOf 48 fun i => if h : i < 48 then bit teams (i / 6) && chLive s.chans[i] && bit s.chans[i].samples (k - 1) else false

/-- An edge that came too soon: counted, its period's marker owed; the periods are those of the stride numbers (R104, log entry 257). -/
def countOverrun (s : State) (n : Stall) (c : Capture) (t : Time) : State :=
  if c.overruns ≠ 0 ∧ strideOf c.overrunAt / 65536 ≠ strideOf t / 65536 then
    modCap (flushOverrun s n) n fun c => { c with overruns := 1, overrunAt := t }
  else modCap s n fun c => { c with overruns := c.overruns + 1, overrunAt := if c.overruns = 0 then t else c.overrunAt }

/-- A state record of a qualified edge, after the keyframe and the gap anchor it needs; a gap anchor stands at the start of the
stride (R105, R110, R120, R122, log entry 45). -/
def trotRecord (s : State) (n : Stall) (teams : BitVec 8) (k : Nat) (t : Time) : State :=
  let s := dueKey s n
  let delta := (t - ((s.stalls[n].cap.map fun c => c.chainTime).getD t)).toNat
  let start := t &&& ~~~ (255 : Time)
  let s := if 1048575 < delta then addRec s n (anchorRec 1 start) else s
  let s := modCap s n fun c => { c with chainTime := t }
  addRec s n (stateRec 3 (statesBefore s teams k) (if 1048575 < delta then bits t 7 0 else delta))

/-- The edge matches the edge mode: 0 rising, 1 falling, 2 both (R103, R137). -/
def edgeMatches (mode : BitVec 2) (rising : Bool) : Bool := mode == 2 || (mode == 0) == rising

/-- The least distance of two qualified edges in ticks (R104). -/
def minEdge (rate : Nat) : Nat := ceilDiv (256 * 1000000000) rate

/-- The clock channel has the edge in the current stride: a live channel's transition in that sample, and the interpolated tick when it is the
stride's first; R48 gives no tick for a later one, whose operand stands unchecked (R18, R48, R104; DESIGN CHOICE, log entry 295). -/
def clockHas (s : State) (c : Fin 48) (edge : TrotEdge) : Bool :=
  let x := s.chans[c]
  let k := edge.sample.val
  chLive x && x.sampledAt == s.tb.now && bit x.samples k == edge.rising &&
    (if k = 0 then x.before else bit x.samples (k - 1)) != edge.rising &&
    (x.edge.toNat / 32 != k || x.edge.toNat % 32 == edge.fine.toNat)

/-- TROT_CLOCK_EDGE: an edge of the clock channel, qualified or not (R18, R104, R105). -/
def execTrotClockEdge (st : Stall) (edge : TrotEdge) (s : State) : Host.Outcome State Fault Refusal :=
  .next (
    match openIn s st .trot with
    | none => s
    | some c =>
      let t := s.tb.now + BitVec.ofNat 64 (32 * edge.sample.val + edge.fine.toNat)
      if !clockHas s (Fin.ofNat 48 c.arm.clockChan.toNat) edge || !edgeMatches c.arm.clockEdge edge.rising then s
      else if c.lastClock.any fun l => (t - l).toNat < minEdge (1000 * c.arm.gaitParam.toNat) then countOverrun s st c t
      else
        let s := modCap s st fun c => { c with lastClock := some t }
        if storedAt c s.tb.now then checkFull (trotRecord s st c.teams edge.sample.val t) st else s)

/-! ## Walk -/

/-- WALK_PERIOD_END (R106). -/
def execWalkPeriodEnd (st : Stall) (s : State) : Host.Outcome State Fault Refusal :=
  .next (
    match openIn s st .walk with
    | none => s
    | some _ => checkFull (walkEnd (applyStoreOn s st) st) st)

/-! ## Gallop -/

/-- GALLOP_DENSE_BLOCK: the complete block is placed, the last one of a furlong with the side blocks (R126, R129, R130, R205). -/
def execGallopDenseBlock (st : Stall) (s : State) : Host.Outcome State Fault Refusal := .next (checkFull (placeDense s st) st)

/-! ## Event records -/

/-- EVENT_RECORD_LEAVES_QUEUE: one record per 32 strides; a marker and its detail leave together. Records of a stall that has no
segment open or to open go nowhere (R135, R136, log entry 42). -/
def execEventRecordLeavesQueue (s : State) : Host.Outcome State Fault Refusal :=
  .next (
    match s.groom.evQueue with
    | [] => s
    | e :: rest =>
      if past s.tb.now (s.groom.evLast + strides 32) then s
      else
        let s := modGroom s fun g => { g with evQueue := rest, evLast := s.tb.now + strides (32 * (e.recs.length - 1)) }
        if recording s e.stall then checkFull (addSide s e.stall e.recs) e.stall else s)

end Sys2Proof.Machine
end

