-- ==== Sys2Proof/Machine/CourseEval.lean ====
section
/-!
DEFINITION. What a course engine sees in one stride: the channels' samples, the value and the onset of every term in each sample, and the
exit that fires.
-/

namespace Sys2Proof.Machine

/-! ## Sampling -/

/-- The smallest `deskew` among the enabled channels of the stall that owns a channel (R50). -/
def leastDeskew (s : State) (c : Fin 48) : Int :=
  match ownerOf s c with
  | none => chDeskew s.chans[c].setting
  | some n => (((chansOf s n).filter fun k => chEnable s.chans[k].setting).map fun k => chDeskew s.chans[k].setting).foldl min
      (chDeskew s.chans[c].setting)

/-- The delay of a channel in ticks: `deskew` beyond the least one, and the calibration correction, about the path of one stride (R50, R51,
log entry 254). -/
def delayOf (s : State) (c : Fin 48) : Nat := (256 + (chDeskew s.chans[c].setting - leastDeskew s c) + s.chans[c].corr).toNat

/-- The eight samples of a channel enter its line (R48). -/
def arrivals (s : State) (inp : StrideIn) (c : Fin 48) : List Arrival :=
  (List.range 8).map fun k => {
    at_ := s.tb.now + BitVec.ofNat 64 (32 * k + bits inp.fine[c] (5 * k + 4) (5 * k))
    up := bit inp.up[c] k, down := bit inp.down[c] k, overs := bit inp.overs[c] k, unders := bit inp.unders[c] k, out := bit inp.out[c] k }

/-- A channel's samples as the delay in force lets them out: a new setting holds for every sample of the stride (R19, R50, R63). -/
def delayed (s : State) (c : Fin 48) (l : List Arrival) : List Arrival := l.map fun a => { a with at_ := a.at_ + BitVec.ofNat 64 (delayOf s c) }

/-- The longest delay: the path of a stride, 4,096 ticks of `deskew` and 256 of correction (R50, R51). -/
def longestDelay : Time := 4608

/-- The tick of the stride at which a sample comes out of the delay. -/
def tickOf (now : Time) (a : Arrival) : Nat := (a.at_ - now).toNat

/-- The logic state after a sample of the comparators (R39). -/
def nextLevel (b : Bool) (a : Arrival) : Bool := if a.up then true else if a.down then false else b

/-- The state of a channel at the end of sample k, from what comes out of its delay in the stride (R39, R40). -/
def levelAt (now : Time) (before : Bool) (l : List Arrival) (k : Nat) : Bool := (l.filter fun a => tickOf now a / 32 ≤ k).foldl nextLevel before

/-- The states of a channel at the end of the eight samples (R39, R40). -/
def sampleStates (now : Time) (before : Bool) (l : List Arrival) : BitVec 8 := maskOf 8 fun k => levelAt now before l k

/-- The samples in which something that comes out of the delay holds (R581). -/
def samplesWith (now : Time) (l : List Arrival) (p : Arrival → Bool) : BitVec 8 := maskOf 8 fun k => l.any fun a => p a && tickOf now a / 32 == k

/-- The tick of the transition that shows in sample k: that of the crossing that caused it (R48). -/
def edgeTick (now : Time) (before : Bool) (l : List Arrival) (k : Nat) : Nat :=
  ((l.find? fun a => tickOf now a / 32 == k && (if levelAt now before l k then a.up else a.down)).map (tickOf now)).getD (32 * k)

/-- The dwell count after the stride's samples: it restarts behind the last that has the ball at or beyond a threshold (R44, R581). -/
def dwellAfter (now : Time) (x : Channel) (out : BitVec 8) : Channel :=
  match (ones out).getLast? with
  | none => x
  | some k => restartDwell x (now + BitVec.ofNat 64 (32 * k + 32))

/-- The samples in which a transition shows (R48). -/
def transSamples (before : Bool) (l : BitVec 8) : List Nat :=
  (List.range 8).filter fun k => bit l k != (if k = 0 then before else bit l (k - 1))

/-- A channel takes the samples of the current stride out of its delay, the sample before them by the same delay; one that is not live reads 0
(R19, R36, R40, R44, R48, R50, R51, R56, R100, R154, R581). -/
def sampleChan (s : State) (inp : StrideIn) (c : Fin 48) : State :=
  let now := s.tb.now
  let all := s.chans[c].line ++ arrivals s inp c
  let outs := delayed s c all
  let gone (a : Arrival) : Bool := past (a.at_ + longestDelay) (now + 256)
  modChan s c fun x =>
    if chLive x then
      let due := outs.filter fun a => !past a.at_ now && past a.at_ (now + 256)
      let b := (outs.filter fun a => past a.at_ now).foldl nextLevel x.base
      let l := sampleStates now b due
      let tr := transSamples b l
      dwellAfter now { x with
        before := b, samples := l, level := bit l 7, trans := tr.length, sampledAt := now
        line := all.filter fun a => !gone a, base := (all.filter gone).foldl nextLevel x.base
        overs := samplesWith now due fun a => a.overs, unders := samplesWith now due fun a => a.unders
        edge := match tr with
          | [] => 0
          | k :: _ => BitVec.ofNat 8 (edgeTick now b due k) } (samplesWith now due fun a => a.out)
    else { x with before := false, samples := 0, level := false, trans := 0, edge := 0, sampledAt := now, line := [], base := false, overs := 0, unders := 0 }

/-- The logic states of some teams in sample k of the current stride (R100). -/
def statesAt (s : State) (teams : BitVec 8) (k : Nat) : ChanMask :=
  maskOf 48 fun i => if h : i < 48 then bit teams (i / 6) && chLive s.chans[i] && bit s.chans[i].samples k else false

/-! ## Sample-granular terms -/

/-- A term's value in a sample, with its onset and whether that is tick-exact (R162). -/
structure Seen where
  /-- True in the sample. -/
  on : Bool
  /-- Onset. -/
  onset : Time
  /-- Tick-exact. -/
  exact : Bool
  deriving DecidableEq, Repr

/-- Start of sample k of the current stride. -/
def sampleTime (s : State) (k : Nat) : Time := s.tb.now + BitVec.ofNat 64 (32 * k)

/-- The level that a pattern compares holds in a state (R153). -/
def patternLevel (p : PatternEntry) (m : ChanMask) : Bool := (m &&& p.mask) == p.value

/-- The qualified channels of a pattern. -/
def qualified (p : PatternEntry) : List (Fin 48) := allChans.filter fun c => qualifier p c.val != 0

/-- A transition that a qualifier accepts (R154). -/
def accepts (q : Nat) (a b : Bool) : Bool := a != b && (q == 3 || (q == 1) == b)

/-- The onset of a qualified transition in sample k: the tick when it is the channel's first of the stride (R48, R162). -/
def edgeOnset (s : State) (c : Fin 48) (k : Nat) : Time × Bool :=
  if s.chans[c].edge.toNat / 32 = k then (s.tb.now + s.chans[c].edge.zeroExtend 64, true) else (sampleTime s k, false)

/-- The earlier of two onsets, the tick-exact one of two equal ones. -/
def earlier (a b : Time × Bool) : Time × Bool := if later a.1 b.1 || (a.1 == b.1 && b.2) then b else a

/-- A pattern in sample k, states `a` before and `b` in it, from its history (R153, R162). -/
def seePattern (s : State) (p : PatternEntry) (old : Since) (a b : ChanMask) (k : Nat) : Seen :=
  let q := qualified p
  if q = [] then
    let on := patternLevel p b
    { on := on, onset := if old.prev && on then old.onset else sampleTime s k, exact := false }
  else
    let hit := q.filter fun c => accepts (qualifier p c.val) (bit a c.val) (bit b c.val)
    let o := match hit with
      | [] => (sampleTime s k, false)
      | c :: l => l.foldl (fun o c => earlier o (edgeOnset s c k)) (edgeOnset s c k)
    { on := patternLevel p b && (if p.edgeAny then !hit.isEmpty else hit.length == q.length), onset := o.1, exact := o.2 }

/-- The bus value of a range comparator (R156). -/
def busValue (r : RangeEntry) (m : ChanMask) : Int :=
  let v := ((List.range r.width).map fun i =>
    if bit m (6 * r.firstTeam + i) then 2 ^ (if r.lsbFirst then i else r.width - 1 - i) else 0).sum
  if r.signed then signed r.width v else (v : Int)

/-- A bound of a range comparator (R156, R173). -/
def rangeBound (r : RangeEntry) (b : BitVec 48) : Int := if r.signed then b.toInt else (b.toNat : Int)

/-- A range comparator in a state (R156). -/
def rangeTrue (r : RangeEntry) (m : ChanMask) : Bool :=
  let v := busValue r m
  (decide (rangeBound r r.lower ≤ v) && decide (v ≤ rangeBound r r.upper)) != r.outside

/-- A range comparator in sample k, from its history (R156, R162). -/
def seeRange (s : State) (r : RangeEntry) (old : Since) (b : ChanMask) (k : Nat) : Seen :=
  let on := rangeTrue r b
  { on := on, onset := if old.prev && on then old.onset else sampleTime s k, exact := false }

/-- TRIG_IN by mode in sample k (R161, R162). -/
def seeTrigIn (s : State) (mode : Nat) (old : Since) (a b : Bool) (k : Nat) : Seen :=
  let on := if mode = 0 then b else if mode = 1 then !b else if mode = 2 then !a && b else a && !b
  { on := on, onset := if mode < 2 && old.prev && on then old.onset else sampleTime s k, exact := false }

/-- The history after a sample. -/
def sinceOf (x : Seen) : Since := { prev := x.on, onset := x.onset }

/-- One sample of every sample-granular term. -/
structure SampleView where
  pats : List Seen
  rngs : List Seen
  tin : List Seen
  deriving DecidableEq, Repr

/-- The histories that the next sample starts from. -/
structure Histories where
  pats : List Since
  rngs : List Since
  tin : List Since
  last : ChanMask
  trig : Bool
  deriving DecidableEq, Repr

/-- Sample k of the stride (R147). -/
def seeSample (s : State) (p : Course) (teams : BitVec 8) (trigIn : BitVec 8) (h : Histories) (k : Nat) : SampleView × Histories :=
  let m := statesAt s teams k
  let b := bit trigIn k
  let v : SampleView := {
    pats := (p.patterns.zipIdx).map fun x => seePattern s x.1 (h.pats.getD x.2 {}) h.last m k
    rngs := (p.ranges.zipIdx).map fun x => seeRange s x.1 (h.rngs.getD x.2 {}) m k
    tin := (List.range 4).map fun i => seeTrigIn s i (h.tin.getD i {}) h.trig b k }
  (v, { pats := v.pats.map sinceOf, rngs := v.rngs.map sinceOf, tin := v.tin.map sinceOf, last := m, trig := b })

/-- The states of a stall's channels in the sample before the stride: of one that has just become live, its seed (R154). -/
def lastStates (s : State) (n : Stall) : ChanMask :=
  maskOf 48 fun i => if h : i < 48 then bit s.stalls[n].grant.teams (i / 6) && chLive s.chans[i] && s.chans[i].before else false

/-- A level term's history on the states before the stride: true on a seed, it is true from the stride on and has no onset in it (R154, R157,
R162). -/
def onSeed (old : Since) (b : Bool) (now : Time) : Since := if old.prev = b then old else { prev := b, onset := now }

/-- The histories of level patterns and ranges as the states before the stride have them (R154, R157). -/
def reform (p : Course) (m : ChanMask) (now : Time) (e : Engine) : Engine := { e with
  pats := (p.patterns.zipIdx).map fun x =>
    let old := e.pats.getD x.2 {}
    if qualified x.1 = [] then onSeed old (patternLevel x.1 m) now else old
  rngs := (p.ranges.zipIdx).map fun x => onSeed (e.rngs.getD x.2 {}) (rangeTrue x.1 m) now }

/-- The eight samples of the stride, and the histories after them. -/
def seeStride (s : State) (n : Stall) (p : Course) (trigIn : BitVec 8) : List SampleView × Histories :=
  let e := s.stalls[n].eng
  let teams := s.stalls[n].grant.teams
  let h : Histories := {
    pats := e.pats, rngs := e.rngs, tin := e.tin, trig := (e.tin.getD 0 {}).prev, last := lastStates s n }
  (List.range 8).foldl (fun a k =>
    let r := seeSample s p teams trigIn a.2 k
    (a.1 ++ [r.1], r.2)) ([], h)

/-! ## Stride-granular terms -/

/-- A counter term for a count (R157). -/
def counterTrue (c : CounterEntry) (v : BitVec 48) : Bool :=
  if c.cmp = 0 then decide (c.compare.toNat ≤ v.toNat) else if c.cmp = 1 then v == c.compare else decide (v.toNat < c.compare.toNat)

/-- The state of a counter or timer term at the start of a stride (R157, R158, R162). -/
def follow (f : Flag) (b : Bool) (now : Time) : Flag :=
  if f.on = b then f else { old := f.on, on := b, changedAt := now, onset := now, exact := false }

/-- Counter terms follow their counts, timer terms their values (R157, R158). -/
def followTerms (p : Course) (e : Engine) (now : Time) : Engine := { e with
  ctrSince := (p.counters.zipIdx).map fun x => follow (e.ctrSince.getD x.2 {}) (counterTrue x.1 (e.counters.getD x.2 0)) now
  tmrSince := (p.timers.zipIdx).map fun x =>
    follow (e.tmrSince.getD x.2 {}) (decide (x.1.limit.toNat ≤ (e.timers.getD x.2 {}).value.toNat)) now }

/-- A raised event term in the current stride: the earliest of the merged onsets; of equal ones the first raised, with its exactness (R161,
R183, log entry 258). -/
def seePulse (e : Engine) (now : Time) (index : Nat) : Seen :=
  match e.pulses.filter fun p => p.when == now && p.index == index with
  | [] => { on := false, onset := 0, exact := false }
  | a :: l =>
    let o := l.foldl (fun o p => if later o.onset p.onset then p else o) a
    { on := true, onset := o.onset, exact := o.exact }

/-- A flag seen in the current stride. -/
def seeFlag (f : Flag) (now : Time) : Seen := { on := termAt f now, onset := f.onset, exact := f.exact }

/-- A flag that is already the stride's own. -/
def seeNow (f : Flag) : Seen := { on := f.on, onset := f.onset, exact := f.exact }

/-- The value of a term in a sample (R148, R161, R162, R177). -/
def seeTerm (e : Engine) (now : Time) (v : SampleView) (r : TermRef) : Seen :=
  let none_ : Seen := { on := false, onset := 0, exact := false }
  match r.kind with
  | 1 => v.pats.getD r.index none_
  | 2 => v.rngs.getD r.index none_
  | 3 => seeNow (e.ctrSince.getD r.index {})
  | 4 => seeNow (e.tmrSince.getD r.index {})
  | 5 => seeFlag (e.analogues.getD r.index {}) now
  | 6 => seeFlag (e.refs.getD r.index {}) now
  | 7 => v.tin.getD r.index none_
  | 8 => seePulse e now r.index
  | 9 => seePulse e now (16 + r.index)
  | 10 => seePulse e now (32 + r.index)
  | 11 => seeFlag (e.latches.getD r.index {}) now
  | _ => none_

/-- `trigger_kind` of a term (R162). -/
def termKind (kind : Nat) : BitVec 2 :=
  if kind = 5 then 1 else if kind = 8 then 2 else if kind = 3 ∨ kind = 4 ∨ kind = 7 ∨ kind = 9 ∨ kind = 10 then 3 else 0

/-! ## Exits -/

/-- An exit is true in a sample (R148). -/
def exitTrue (e : Engine) (now : Time) (v : SampleView) (x : ExitEntry) : Bool :=
  exitEnabled x && x.terms.all fun r => r.kind == 0 || (seeTerm e now v r).on != r.negate

/-- The first sample in which an exit is true and free to fire, from its hold (R149, R150). -/
def firstFree : List Bool → Bool → Nat → Option Nat
  | [], _, _ => none
  | v :: l, held, k => if v && !held then some k else firstFree l (held && v) (k + 1)

/-- The hold of an exit after the stride, when it fires in sample `fired` (R150). -/
def holdAfter (l : List Bool) (held : Bool) (fired : Option Nat) : Bool :=
  ((l.zipIdx).foldl (fun h x => if fired = some x.2 then true else h && x.1) held)

/-- An exit that fires. -/
structure Fired where
  exit : Nat
  sample : Nat
  deriving DecidableEq, Repr

/-- The lowest-numbered exit that may fire, from exit i on (R149). -/
def firing (e : Engine) : List (List Bool) → Nat → Option Fired
  | [], _ => none
  | l :: r, i =>
    match firstFree l (bit e.heldExits i) 0 with
    | some k => some { exit := i, sample := k }
    | none => firing e r (i + 1)

/-- The chosen onset of an exit: the latest of its true terms' onsets, those exact to the sample compared at their sample; a tick-exact
one wins a tie, and of two alike the kind of the first term slot stands; without any, the start of the firing sample (R181, R182, log entry
259). -/
def placementOf (e : Engine) (now : Time) (v : SampleView) (x : ExitEntry) (firingSample : Time) : Time × Bool × BitVec 2 :=
  let l := (x.terms.filter fun r => r.kind != 0 && !r.negate).map fun r =>
    let t := seeTerm e now v r
    (if t.exact then t.onset else t.onset &&& ~~~ (31 : Time), t.exact, termKind r.kind)
  match l with
  | [] => (firingSample, false, 3)
  | a :: r => r.foldl (fun o y => if later y.1 o.1 || (y.1 == o.1 && y.2.1 && !o.2.1) then y else o) a

/-! ## Counts -/

/-- A 48-bit count that saturates (R157, R158). -/
def sat48 (n : Nat) : BitVec 48 := if n < 2 ^ 48 then BitVec.ofNat 48 n else BitVec.allOnes 48

/-- Onsets of a pattern in the stride (R157). -/
def onsetsOf (views : List SampleView) (before : Bool) (i : Nat) : Nat :=
  ((views.map fun v => (v.pats.getD i { on := false, onset := 0, exact := false }).on).foldl
    (fun (a : Bool × Nat) b => (b, if b && !a.1 then a.2 + 1 else a.2)) (before, 0)).2

/-- The counters after their sources' onsets (R157, R168). -/
def countOnsets (p : Course) (e : Engine) (views : List SampleView) : List (BitVec 48) :=
  (p.counters.zipIdx).map fun x =>
    let v := e.counters.getD x.2 0
    match x.1.source with
    | none => v
    | some i => sat48 (v.toNat + onsetsOf views (e.pats.getD i {}).prev i)

/-- An exit's operation on a counter: 0 increment, 1 decrement, 2 clear, 3 load (R157, R178). -/
def counterOp (c : CounterEntry) (op : Nat) (v : BitVec 48) : BitVec 48 :=
  if op = 0 then sat48 (v.toNat + 1) else if op = 1 then BitVec.ofNat 48 (v.toNat - 1) else if op = 2 then 0 else c.preset

/-- A timer at the start of the next stride (R158). -/
def timerNext (t : TimerSt) : TimerSt := if t.running then { t with value := sat48 (t.value.toNat + 1) } else t

/-- An exit's operation on a timer, from its value in the stride: 0 start, 1 stop, 2 resume, 3 clear (R158, R178). -/
def timerOp (op : Nat) (t : TimerSt) : TimerSt :=
  if op = 0 then { value := 1, running := true }
  else if op = 1 then { t with running := false }
  else if op = 2 then { value := sat48 (t.value.toNat + 1), running := true }
  else { value := 0, running := false }

end Sys2Proof.Machine
end

