-- ==== Sys2Proof/Machine/Playback.lean ====
section
/-!
DEFINITION. Playback of a stall's reference: `reference_select`, the start, the compare of a stride, edge lags, and the ends.
-/

namespace Sys2Proof.Machine

/-! ## The reference's samples -/

/-- The state of channel c in sample i of a dense block of the reference (R126, R334). -/
def refBit (r : Reference) (b : StagedBlock) (i c : Nat) : Bool :=
  let n := 6 * r.stored
  let k := ((channelList r.teams).takeWhile fun x => x < c).length
  let v := b.recs.foldl (fun a x => a * 2 ^ 72 + x.toNat) 0
  v.testBit ((blockSamples r - 1 - i) * n + (n - 1 - k))

/-- The state of channel c in sample j of the reference; none in a poisoned block. Of a reference whose `stored_teams` fill no
block the spec states no sample (R126, R334, R342, log entry 252). -/
def refState (r : Reference) (c j : Nat) : Option Bool :=
  match r.slice.find? fun b => b.k == j / blockSamples r with
  | none => none
  | some b => if b.bad then none else some (if storedOk r.stored then refBit r b (j % blockSamples r) c else Config.oddSample c j)

/-- Channel c, whose live state in sample j is `live`, mismatches there with tolerance w (R338, R342). -/
def misses (r : Reference) (w c j : Nat) (live : Bool) : Bool :=
  (List.range (2 * w + 1)).all fun i =>
    if j + i < w || r.length ≤ j + i - w then true
    else match refState r c (j + i - w) with
      | some x => x != live
      | none => false

/-- The reference has a transition to `to` at sample j (R343). -/
def refTurns (r : Reference) (c j : Nat) (dest : Bool) : Bool :=
  1 ≤ j && j < r.length && refState r c (j - 1) == some !dest && refState r c j == some dest

/-! ## Start -/

/-- Why a start does not run: the cause of its `reference_fault`; a capture armed without a valid reference plays none (R230, R337, R344). -/
def startFault (s : State) (n : Stall) : Option Nat :=
  let r := s.stalls[n].ref
  if !r.valid || r.params.isNone || s.stalls[n].cap.any (fun c => !c.refAtArm) then some 4
  else if r.teams &&& ~~~ s.stalls[n].grant.teams ≠ 0 then some 5
  else if !segmentOpen s n then some 6
  else none

/-- A playback begins at its first compared stride; the lag histories start anew, what has been reported and not restored stands (R336,
R343). -/
def beginPlayback (s : State) (n : Stall) (t : TimedStart) : State :=
  let s := modRef s n fun r => { r with
    starts := satAdd 32 r.starts 1
    play := some { first := t.when, refValue := t.value }
    lags := (ones ((r.params.getD {}).mask)).map fun c => { chan := c, sent := bit r.lagSent c } }
  refMarker s n 0 t.value t.when

/-- A start at its stride: ignored while playback runs, aborted, or run (R336, R337). -/
def startPlay (s : State) (n : Stall) (t : TimedStart) : State :=
  if s.stalls[n].ref.play.isSome then modRef s n fun r => { r with ignored := satAdd 32 r.ignored 1 }
  else match startFault s n with
    | some cause => refFault (refMarker s n 2 t.value t.when) n cause 0 t.when
    | none => beginPlayback s n t

/-- A start whose stride has come. -/
def startDue (now : Time) (t : Option TimedStart) : Option TimedStart := t.filter fun t => !past now t.when

/-- The timed start runs when its stride has come (R336). -/
def runTimed (s : State) (n : Stall) : State :=
  match startDue s.tb.now s.stalls[n].ref.timed with
  | none => s
  | some t => startPlay (modRef s n fun r => { r with timed := none }) n t

/-- The start by an exit runs in the stride after it (R163, R336). -/
def runQueued (s : State) (n : Stall) : State :=
  match startDue s.tb.now s.stalls[n].ref.queued with
  | none => s
  | some t => startPlay (modRef s n fun r => { r with queued := none }) n t

/-! ## End -/

/-- The stride after the last compared sample (R341). -/
def playStop (r : Reference) (p : Playback) : Time := p.first + strides (r.length / 8)

/-- A reference compared to its end ends its playback (R341). -/
def finishPlay (s : State) (n : Stall) : State :=
  match s.stalls[n].ref.play with
  | none => s
  | some p =>
    let stop := playStop s.stalls[n].ref p
    if past s.tb.now stop then s else endPlayback (refMarker s n 1 p.refValue stop) n

/-! ## Compare -/

/-- The first sample of the current stride in the reference (R338). -/
def playSample (s : State) (p : Playback) : Nat := 8 * strideOf (s.tb.now - p.first)

/-- A playback compares in the current stride. -/
def comparing (s : State) (n : Stall) : Option Playback :=
  s.stalls[n].ref.play.filter fun p => !past s.tb.now p.first && playSample s p < s.stalls[n].ref.length

/-- The first dense block that the samples from j0 on need and that the slice does not hold: those of the stride, and the 16 samples after
them that tolerance and lags reach (R338, R341, R343, log entry 62). -/
def missingBlock (r : Reference) (j0 : Nat) : Option Nat :=
  let a := j0 / blockSamples r
  let b := min (r.length - 1) (j0 + 23) / blockSamples r
  ((List.range (b + 1)).drop a).find? fun k => !r.slice.any fun x => x.k == k

/-- Playback aborts when data is not there: the marker, and the fault with the time of the first affected sample (R341, R344). -/
def underrun (s : State) (n : Stall) (p : Playback) (j0 k : Nat) : State :=
  let j := max j0 (k * blockSamples s.stalls[n].ref - 16)
  let s := refMarker s n 2 p.refValue s.tb.now
  endPlayback (refFault s n 2 0 (p.first + BitVec.ofNat 64 (32 * j))) n

/-- A poisoned block comes up for comparison (R342). -/
def poisonDue (s : State) (n : Stall) (p : Playback) (j0 : Nat) : State :=
  let r := s.stalls[n].ref
  if j0 % blockSamples r = 0 ∧ r.slice.any (fun b => b.k == j0 / blockSamples r && b.bad) then
    refFault (modRef s n fun r => { r with poison := satAdd 32 r.poison 1 }) n 1
      (refDense s.stalls[n].grant r (j0 / blockSamples r)) (p.first + BitVec.ofNat 64 (32 * j0))
  else s

/-- The compared channels that mismatch in sample k of the stride, sample j0 + k of the reference (R338). -/
def mismatchMask (s : State) (r : Reference) (q : RefParams) (j0 k : Nat) : ChanMask :=
  maskOf 48 fun c => if h : c < 48 then bit q.mask c && misses r q.tol c (j0 + k) (chLive s.chans[c] && bit s.chans[c].samples k) else false

/-- One sample's conditions of the four terms, and the mismatching samples in the window (R339). -/
def seeSampleRef (q : RefParams) (mism : List Nat) (m : ChanMask) (j : Nat) : List Bool × List Nat :=
  let mism := (if m = 0 then mism else j :: mism).filter fun x => j < x + 8 * q.window
  ([m != 0, decide (q.count ≤ mism.length), (m &&& q.setA) != 0, (m &&& q.setB) != 0], mism)

/-- The conditions in the eight samples, and the mismatching samples after them. -/
def seeStrideRef (s : State) (r : Reference) (q : RefParams) (p : Playback) (j0 : Nat) : List (List Bool) × List Nat :=
  (List.range 8).foldl (fun a k =>
    let x := seeSampleRef q a.2 (mismatchMask s r q j0 k) (j0 + k)
    (a.1 ++ [x.1], x.2)) ([], p.mism)

/-- A term after a stride: true in the next one when its condition held in a sample, the first such sample its onset (R160, R339). -/
def refTerm (f : Flag) (now : Time) (held : List Bool) : Flag :=
  match held.findIdx? fun b => b with
  | some k => { old := termAt f now, on := true, changedAt := now, onset := now + BitVec.ofNat 64 (32 * k), exact := false }
  | none => { f with old := termAt f now, on := false, changedAt := now }

/-! ## Lags -/

/-- Where the nearest transition of the reference lies, at most 16 samples before or after: at a distance before, after, or at both
(R343). -/
def nearest (r : Reference) (c j : Nat) (dest : Bool) : Option (Nat × Bool × Bool) :=
  (List.range 17).findSome? fun d =>
    let before := d ≤ j && refTurns r c (j - d) dest
    let after := refTurns r c (j + d) dest
    if before || after then some (d, before, after) else none

/-- An `edge_lag` or `edge_lag_restored` event of a channel (R79, R343). -/
def lagEvent (s : State) (n : Stall) (cause : Nat) (l : LagSt) : State :=
  sendRated s { code := 0x16, sub := cause, fn := n } (1000 * ms)
    [(n, event 0x16 n.val s.tb.now (fld cause 8 ||| fld 2 0) (sfld ((lagMean l).getD 0) 16 0) (fld (sat 32 l.total) 0) (fld l.chan 0))]

/-- The magnitude of a channel's mean has reached the limit (R343). -/
def lagReached (l : LagSt) (limit : Nat) : Bool := limit * l.lags.length ≤ 256 * l.lags.sum.natAbs

/-- The magnitude of a channel's mean is below half of the limit (R343). -/
def lagBelow (l : LagSt) (limit : Nat) : Bool := 512 * l.lags.sum.natAbs < limit * l.lags.length

/-- A channel's history put back, with whether its `edge_lag` stands unrestored. -/
def putLag (s : State) (n : Stall) (l : LagSt) : State :=
  modRef s n fun r => { r with
    lags := r.lags.map fun x => if x.chan = l.chan then l else x
    lagSent := setBit r.lagSent l.chan l.sent }

/-- A lag is recorded, and the channel's mean compared with the limit (R343). -/
def recordLag (s : State) (n : Stall) (limit : Nat) (l : LagSt) (lag : Int) : State :=
  let l := { l with lags := (lag :: l.lags).take 256, total := l.total + 1 }
  if limit = 0 ∨ l.total < 16 then putLag s n l
  else if !l.sent && lagReached l limit then lagEvent (putLag s n { l with sent := true }) n 7 l
  else if l.sent && lagBelow l limit then lagEvent (putLag s n { l with sent := false }) n 8 l
  else putLag s n l

/-- The lag of a live transition of a channel to a level in sample j; of two equally near transitions either counts (R343, log entry
63). -/
def lagOf (s : State) (n : Stall) (limit c j : Nat) (dest : Bool) : State :=
  match s.stalls[n].ref.lags.find? fun l => l.chan == c with
  | none => s
  | some l =>
    match nearest s.stalls[n].ref c j dest with
    | none => s
    | some (d, before, after) =>
      if d ≠ 0 ∧ before ∧ after then
        let v := drawFree s
        recordLag v.2 n limit l (if bit v.1 0 then (d : Int) else -(d : Int))
      else recordLag s n limit l (if before then (d : Int) else -(d : Int))

/-- The lags of the stride's transitions on the compared channels (R343). -/
def recordLags (s : State) (n : Stall) (q : RefParams) (j0 : Nat) : State :=
  (allChans.filter fun c => bit q.mask c.val && chLive s.chans[c]).foldl (fun s c =>
    (transSamples s.chans[c].before s.chans[c].samples).foldl (fun s k =>
      lagOf s n q.driftLimit c.val (j0 + k) (bit s.chans[c].samples k)) s) s

/-- The compare of the current stride with data at hand (R338, R339, R342, R343, R345). -/
def compareStride (s : State) (n : Stall) (p : Playback) (q : RefParams) (j0 : Nat) : State :=
  let s := poisonDue s n p j0
  let v := seeStrideRef s s.stalls[n].ref q p j0
  let now := s.tb.now
  let hits := (v.1.filter fun x => x.getD 0 false).length
  let s := modEng s n fun e => { e with refs := (List.range 4).map fun i => refTerm (e.refs.getD i {}) now (v.1.map fun x => x.getD i false) }
  let s := modRef s n fun r => { r with
    mismatches := satAdd 48 r.mismatches hits
    play := r.play.map fun p => { p with next := j0 + 8, mism := v.2 } }
  drainSlice (recordLags s n q j0) n

/-- Playback in the current stride, after the engine has evaluated it (R338, R341). -/
def playStride (s : State) (n : Stall) : State :=
  match comparing s n with
  | none => s
  | some p =>
    let j0 := playSample s p
    match missingBlock s.stalls[n].ref j0 with
    | some k => underrun s n p j0 k
    | none => compareStride s n p (s.stalls[n].ref.params.getD {}) j0

/-! ## The rows -/

/-- PLAYBACK_TIMED_START (R336, R337). -/
def execPlaybackTimedStart (st : Stall) (s : State) : Host.Outcome State Fault Refusal := .next (runTimed s st)

/-- PLAYBACK_END (R341). -/
def execPlaybackEnd (st : Stall) (s : State) : Host.Outcome State Fault Refusal := .next (finishPlay s st)

/-- PLAYBACK_UNDERRUN: data that the current stride needs is not in the slice (R341, R344). -/
def execPlaybackUnderrun (st : Stall) (s : State) : Host.Outcome State Fault Refusal :=
  .next (
    match comparing s st with
    | none => s
    | some p =>
      if p.next = playSample s p + 8 then s
      else match missingBlock s.stalls[st].ref (playSample s p) with
        | some k => underrun s st p (playSample s p) k
        | none => s)

/-- PLAYBACK_STAGING_REFILL: what has come from the lanes enters the slice; `ecc` is what the staging bank reads as (R340, R342, R404). -/
def execPlaybackStagingRefill (st : Stall) (ecc : Ecc) (s : State) : Host.Outcome State Fault Refusal :=
  .next (
    if s.stalls[st].ref.came.isEmpty then s
    else
      let s := if ecc = .corrected then countSram s 5 else s
      drainSlice (modRef s st fun r => moveStaged ecc r.came.length r) st)

/-! ## reference_select -/

/-- The parameters of `reference_select` (R438). -/
def selectParams (e : SqEntry) : RefParams := {
  mask := chanField e 2, setA := chanField e 4, setB := chanField e 6, count := bits (dw e 8) 27 8 + 1, tol := bits (dw e 8) 3 0
  driftLimit := bits (dw e 9) 31 16, window := bits (dw e 9) 15 0 + 1, select := BitVec.ofNat 16 (bits (dw e 12) 15 0) }

/-- The named bits of `reference_select` (R438). -/
def selectBits : List Dword :=
  [0xFFFFFFFF, 0xFFFF, 0xFFFFFFFF, 0xFFFF, 0xFFFFFFFF, 0xFFFF, 0x0FFFFF0F, 0xFFFFFFFF, 0xFFFFFFFF, 0xFFFFFFFF, 0xFFFF]

/-- The field of `reference_select` at fault (R335, R438). -/
def selectFault (r : Reference) (e : SqEntry) : Option (Nat × Nat) :=
  let q := selectParams e
  match reservedBit e selectBits with
  | some x => some x
  | none =>
    if q.mask &&& ~~~ teamChans r.teams ≠ 0 then some (2, 0)
    else if q.setA &&& ~~~ q.mask ≠ 0 then some (4, 0)
    else if q.setB &&& ~~~ q.mask ≠ 0 then some (6, 0)
    else if bits (wide e 10) 7 0 ≠ 0 then some (10, 0)
    else none

/-- `start_time` is late (R336, R414). -/
def selectLate (t : Taken) : Bool := wide t.e 10 != 0 && !leads (wide t.e 10) t.when 4096

/-- The first compared stride of a timed start (R336, R414). -/
def selectStart (t : Taken) : Time := if selectLate t then t.when + strides 4096 else wide t.e 10

/-- The playback charge of the stall's reference (R230). -/
def refCharge (s : State) (n : Stall) : Rat := 6 * (s.stalls[n].ref.stored : Rat)

/-- A timed start is refused with fewer lanes than admission asks for or in row-first order, and for an admitted stall whose playback
charge does not fit (R230, R247, R276, R438). -/
def startRefused (s : State) (t : Taken) : Bool :=
  (wide t.e 10 != 0 && (s.dram.admFail || s.dram.mapOrder == 2)) ||
  match s.stalls[t.fn].cap with
  | none => false
  | some c => wide t.e 10 != 0 && !c.charged && !admits s t.fn (c.demand + refCharge s t.fn)

/-- The parameters take hold, with the timed start; its charge replaces that of the start it replaces, and the slice is filled (R25, R230,
R335, R336, R340). -/
def applySelect (s : State) (t : Taken) : State :=
  let n := t.fn
  let q := selectParams t.e
  let charge := refCharge s n
  let timed : Option TimedStart := if wide t.e 10 = 0 then none else some { when := selectStart t, value := q.select }
  let s := modRef s n fun r => { r with params := some q, timed := timed }
  let s := modCap s n fun c => if c.charged then c else { c with play := if timed.isNone then 0 else charge }
  if timed.isNone then s else fillSlice s n

/-- REFERENCE_SELECT (R230, R335, R336, R414, R438). -/
def execReferenceSelect (s : State) : Host.Outcome State Fault Refusal :=
  .next (withCmd s (isOp 0x49) fun s t =>
    let r := s.stalls[t.fn].ref
    if r.play.isSome then complete s t .busy
    else if !r.valid then complete s t .checkFailed
    else match selectFault r t.e with
      | some (d, b) => invalidAt s t d b
      | none =>
        if selectLate t && latePolicy t.e == 0 then complete s t .late
        else if startRefused s t then complete s t .admissionRefused
        else
          let at_ := if wide t.e 10 = 0 then 0 else selectStart t
          completeAt (applySelect s t) t .ok { p4 := (timePay at_).1, p5 := (timePay at_).2, p6 := flag (selectLate t) 0 })

end Sys2Proof.Machine
end

