-- ==== Sys2Proof/Machine/CourseRun.lean ====
section
/-!
DEFINITION. A stride of a stall: its samples, the evaluation of the current fence, the actions of the exit that fires, the samples of
Gallop, and playback.
-/

namespace Sys2Proof.Machine

/-! ## Actions -/

/-- An exit that fires in the current stride. -/
structure FiredExit where
  fence : Nat
  exit : Nat
  x : ExitEntry
  /-- Start of the firing sample. -/
  firing : Time
  /-- The exit's placement, whether it is tick-exact, and its `trigger_kind` (R182). -/
  placement : Time × Bool × BitVec 2
  deriving DecidableEq, Repr

/-- Fence and exit as a marker's detail (R116). -/
def exitDetail (f : FiredExit) : Nat := f.fence * 2 ^ 32 + f.exit * 2 ^ 28

/-- A cross-trigger term of the stride, of that onset, was delivered too late for `require_full` (R495). -/
def lateXtrig (e : Engine) (now t : Time) : Bool :=
  e.pulses.any fun p => p.when == now && p.index < 16 && p.late && (p.onset &&& ~~~ (31 : Time)) == (t &&& ~~~ (31 : Time))

/-- The trigger action (R163, R181, R182, R495). -/
def actTrigger (s : State) (n : Stall) (f : FiredExit) : State :=
  if bit f.x.actions 2 then
    (requestTrigger s n {
      time := f.placement.1, kind := f.placement.2.2, exact := f.placement.2.1, source := some (f.fence, f.exit), firing := f.firing
      late := lateXtrig s.stalls[n].eng s.tb.now f.placement.1 }).1
  else s

/-- The first stride from which a store on takes effect (R163, R225). -/
def storeOnAt (s : State) (c : Capture) : Time :=
  let next := s.tb.now + 256
  let held := c.lastKey + strides 2048
  if c.lastKey ≠ 0 ∧ later held next then held else next

/-- The store on action (R163, R164, R225). -/
def actStoreOn (s : State) (n : Stall) (f : FiredExit) : State :=
  match s.stalls[n].cap with
  | none => s
  | some c =>
    let e := s.stalls[n].eng
    if !bit f.x.actions 3 || e.storing || e.storePend.isSome then s
    else modEng s n fun e => { e with storePend := some { when := storeOnAt s c, fence := f.fence, exit := f.exit } }

/-- The store off action: it cancels a store on that waits (R163, R164, R225). -/
def actStoreOff (s : State) (n : Stall) (f : FiredExit) : State :=
  let e := s.stalls[n].eng
  if !bit f.x.actions 4 then s
  else if e.storePend.isSome then modEng s n fun e => { e with storePend := none }
  else if !e.storing then s
  else
    let stop := s.tb.now + 256
    let s := modEng s n fun e => { e with storing := false }
    marker (modCap s n fun c => closeRun c stop) n 0x7 stop (BitVec.ofNat 64 (exitDetail f))

/-- The cross-trigger action (R163, R443). -/
def actXtrig (s : State) (n : Stall) (f : FiredExit) : State :=
  if bit f.x.actions 7 then (ones f.x.xtrigMask).foldl (fun s ch => emitXtrig s n ch f.placement.1 f.placement.2.1) s else s

/-- The TRIG_OUT action (R163, R166, R178). -/
def actTrigOut (s : State) (n : Stall) (f : FiredExit) : State :=
  if !bit f.x.actions 8 then s
  else
    let mode := bits f.x.trigOut 7 6
    refreshTrigOut (modEng s n fun e =>
      if mode = 0 then { e with pulseEnd := some (f.firing + strides (2 ^ bits f.x.trigOut 3 0)) }
      else { e with level := mode == 1 })

/-- The reference start action: from the next stride (R163, R336). -/
def actRefStart (s : State) (n : Stall) (f : FiredExit) : State :=
  if bit f.x.actions 9 then modRef s n fun r => { r with queued := some { when := s.tb.now + 256, value := f.x.refValue } } else s

/-- The marker action (R163). -/
def actMarker (s : State) (n : Stall) (f : FiredExit) : State :=
  if bit f.x.actions 10 then marker s n 0x9 s.tb.now (BitVec.ofNat 64 (exitDetail f + f.x.markerValue.toNat)) else s

/-- The actions beyond goto, counter and timer, in the order of R163; in the stride in which a close has been decided the segment and
TRIG_OUT are past (R151, R152, R168). -/
def runActions (s : State) (n : Stall) (final : Bool) (f : FiredExit) : State :=
  let s := if final then s else actStoreOff (actStoreOn (actTrigger s n f) n f) n f
  let s := actXtrig s n f
  let s := if final then s else actTrigOut s n f
  actMarker (actRefStart s n f) n f

/-! ## Evaluation -/

/-- Counters after the stride: onsets first, then the exit's operation (R157, R168). -/
def countersAfter (p : Course) (e : Engine) (views : List SampleView) (f : Option FiredExit) : List (BitVec 48) :=
  let l := countOnsets p e views
  match f.filter fun f => bit f.x.actions 5 with
  | none => l
  | some f => l.modify (bits f.x.counterOp 12 8) fun v => counterOp (p.counters.getD (bits f.x.counterOp 12 8) {}) (bits f.x.counterOp 1 0) v

/-- Timers at the start of the next stride (R158, R168). -/
def timersAfter (e : Engine) (f : Option FiredExit) : List TimerSt :=
  match f.filter fun f => bit f.x.actions 6 with
  | none => e.timers.map timerNext
  | some f => (e.timers.zipIdx).map fun x => if x.2 = bits f.x.timerOp 12 8 then timerOp (bits f.x.timerOp 1 0) x.1 else timerNext x.1

/-- The exits of the current fence. -/
def fenceExits (p : Course) (e : Engine) : List ExitEntry := p.fences.getD e.fence []

/-- The values of the fence's exits in the eight samples (R148). -/
def exitValues (p : Course) (e : Engine) (now : Time) (views : List SampleView) : List (List Bool) :=
  (fenceExits p e).map fun x => views.map fun v => exitTrue e now v x

/-- The exit that fires in the current stride, with its placement (R149, R181, R182). -/
def firedExit (s : State) (p : Course) (e : Engine) (views : List SampleView) : Option FiredExit :=
  match firing e (exitValues p e s.tb.now views) 0 with
  | none => none
  | some f =>
    match (fenceExits p e)[f.exit]?, views[f.sample]? with
    | some x, some v =>
      let t := sampleTime s f.sample
      some { fence := e.fence, exit := f.exit, x := x, firing := t, placement := placementOf e s.tb.now v x t }
    | _, _ => none

/-- The holds of the fence's exits after the stride (R149, R150). -/
def holdsAfter (p : Course) (e : Engine) (now : Time) (views : List SampleView) : BitVec 4 :=
  let vals := exitValues p e now views
  let f := firing e vals 0
  maskOf 4 fun i =>
    let fired := match f with
      | some f => if f.exit = i then some f.sample else none
      | none => none
    holdAfter (vals.getD i []) (bit e.heldExits i) fired

/-- The engine after the stride: fence, holds, counters and timers (R149 to R151, R157, R158). -/
def engineAfter (p : Course) (e : Engine) (now : Time) (views : List SampleView) (f : Option FiredExit) : Engine :=
  let goto := (f.map fun f => bit f.x.actions 1).getD false
  { e with
    fence := if goto then (f.map fun f => f.x.nextFence).getD 0 else e.fence
    heldExits := if goto then 0 else holdsAfter p e now views
    counters := countersAfter p e views f
    timers := timersAfter e f }

/-- The engine evaluates the current stride (R147 to R151, R163, R168). -/
def evaluate (s : State) (n : Stall) (p : Course) (views : List SampleView) (final : Bool) : State :=
  let e := s.stalls[n].eng
  let f := firedExit s p e views
  let s := modEng s n fun e => engineAfter p e s.tb.now views f
  match f with
  | none => s
  | some f => runActions s n final f

/-- The engine evaluates exits in the current stride: some final when the segment's close has been decided in it (R152). -/
def evaluates (s : State) (n : Stall) : Option Bool :=
  let e := s.stalls[n].eng
  if e.final = some s.tb.now then some true
  else match s.stalls[n].cap with
    | some c => if e.running && c.phase == .running && !fillOver s c then some false else none
    | none => none

/-! ## The samples of Gallop -/

/-- A Gallop segment stores the current stride (R126, R131). -/
def storesDense (s : State) (c : Capture) : Bool :=
  c.arm.gait == .gallop && (c.phase == .running || (c.phase == .closing && !later s.tb.now c.lastStride)) && !past s.tb.now c.openAt

/-- The eight samples of a stride of Gallop; zeros while the derived clocks relock (R85, R126, R131). -/
def denseSamples (s : State) (c : Capture) : List ChanMask :=
  (List.range 8).map fun k => if s.tb.bypass || c.closeCause == some 5 then 0 else statesAt s c.teams k

/-- The samples of the current stride enter the dense block (R126). -/
def takeDense (s : State) (n : Stall) : State :=
  let s := checkFull (placeDense s n) n
  match s.stalls[n].cap with
  | none => s
  | some c => if storesDense s c then modCap s n fun c => { c with dense := c.dense ++ denseSamples s c } else s

/-! ## The stride -/

/-- What falls due at the start of a stride before its samples: settings of an idle stall, a store on, the overruns of a period that is
over, and starts and ends of playback. -/
def beginStride (s : State) (n : Stall) (seed : SeedIn) : State :=
  let s := runQueued (runTimed (finishPlay s n) n) n
  let s := if capturing s n || segmentOpen s n then applyStoreOn s n else settleIdle s n seed
  match s.stalls[n].cap with
  | some c => if c.overruns ≠ 0 ∧ strideOf c.overrunAt / 65536 ≠ strideOf s.tb.now / 65536 then flushOverrun s n else s
  | none => s

/-- The course's terms over the stride, and its exits when the engine runs (R147 to R162). -/
def courseStep (s : State) (n : Stall) (trigIn : BitVec 8) : State :=
  match s.stalls[n].course with
  | none => s
  | some p =>
    let s := modEng s n fun e => reform p (lastStates s n) s.tb.now (followTerms p e s.tb.now)
    let v := seeStride s n p trigIn
    let e := s.stalls[n].eng
    let s := match evaluates s n with
      | some final => evaluate s n p v.1 final
      | none => modEng s n fun e => { e with timers := timersAfter e none }
    let h := v.2
    modEng s n fun x => { x with
      pats := h.pats, rngs := h.rngs, tin := h.tin
      pulses := x.pulses.filter fun q => !(e.pulses.contains q && !later q.when s.tb.now) }

/-- The samples of the current stride, the course's terms and exits over them, and the compare with a reference (R39, R147 to R152, R160, R338). -/
def sampleStride (s : State) (n : Stall) (inp : StrideIn) : State :=
  let s := (chansOf s n).foldl (fun s c => sampleChan s inp c) s
  let s := { s with fe := { s.fe with trigIn := bit inp.trigIn 7 } }
  playStride (courseStep (takeDense s n) n inp.trigIn) n

/-- COURSE_STRIDE: once in each stride in which the front end runs; in a relock nothing is sampled, and a closing furlong stores zeros
(R85, R147). -/
def execCourseStride (st : Stall) (inp : StrideIn) (s : State) : Host.Outcome State Fault Refusal :=
  .next (
    if !frontEndRuns s || !s.tb.timeValid || evaluated s st then s
    else
      let s := beginStride s st inp.seed
      let s := if s.tb.bypass then takeDense s st else sampleStride s st inp
      modEng s st fun e => { e with evalAt := s.tb.now, final := none })

/-- COURSE_TIMER_LIMIT: the timer's term follows its value at the start of the stride (R158). -/
def execCourseTimerLimit (st : Stall) (n : Fin 32) (s : State) : Host.Outcome State Fault Refusal :=
  .next (
    match s.stalls[st].course with
    | none => s
    | some p =>
      if s.stalls[st].eng.evalAt = s.tb.now ∨ p.timers.length ≤ n.val then s
      else modEng s st fun e => { e with tmrSince := (followTerms p e s.tb.now).tmrSince })

/-- COURSE_COUNTER_COMPARE: the counter's term follows its count at the start of the stride (R157). -/
def execCourseCounterCompare (st : Stall) (n : Fin 32) (s : State) : Host.Outcome State Fault Refusal :=
  .next (
    match s.stalls[st].course with
    | none => s
    | some p =>
      if s.stalls[st].eng.evalAt = s.tb.now ∨ p.counters.length ≤ n.val then s
      else modEng s st fun e => { e with ctrSince := (followTerms p e s.tb.now).ctrSince })

/-- TRIG_OUT_PULSE_END: the pulse's width has passed (R166). -/
def execTrigOutPulseEnd (st : Stall) (s : State) : Host.Outcome State Fault Refusal :=
  .next (
    match s.stalls[st].eng.pulseEnd with
    | none => s
    | some t => if past s.tb.now (t &&& ~~~ (255 : Time)) then s else refreshTrigOut (modEng s st fun e => { e with pulseEnd := none }))

end Sys2Proof.Machine
end

