-- ==== Sys2Proof/Machine/SluiceCmds.lean ====
section
/-!
DEFINITION. `sluice_config` with its three operations, and `sluice_sync`: the converters, the quantities a link and a chain setting
give, and their checks.
-/

namespace Sys2Proof.Machine

/-! ## Links and converters -/

/-- `enable` of a link setting (R283). -/
def linkEnable (w : BitVec 128) : Bool := bit w 31

/-- The link is JESD204C (R283). -/
def linkC (w : BitVec 128) : Bool := bit w 30

/-- Converters of a link; none while it is disabled (R285). -/
def linkConv (w : BitVec 128) : Nat := if linkEnable w then linkM w else 0

/-- Octets per frame as a fraction (R284). -/
def octets (w : BitVec 128) : Nat × Nat := (2 * linkM w * linkS w, linkL w)

/-- Frames of a multiframe or extended multiblock (R284). -/
def multiFrames (w : BitVec 128) : Rat :=
  if linkC w then (bits w 9 4 : Rat) * 256 * (linkL w : Rat) / (2 * (linkM w : Rat) * (linkS w : Rat)) else (bits w 15 10 : Rat)

/-- fc in Hz (R284). -/
def convRate (w : BitVec 128) : Rat := 100000000 * ((linkRate w).1 : Rat) / ((linkRate w).2 : Rat)

/-- A converter sample period in nanoseconds (R284). -/
def convPeriod (w : BitVec 128) : Rat := 10 * ((linkRate w).2 : Rat) / ((linkRate w).1 : Rat)

/-- The link and the converter on it of converter n, by the settings of the two links (R285). -/
def converterOf (w0 w1 : BitVec 128) (n : Nat) : Option (Fin 2 × Nat) :=
  if n < linkConv w0 then some (0, n) else if n < linkConv w0 + linkConv w1 then some (1, n - linkConv w0) else none

/-- The link and converter of a chain (R285). -/
def chainSource (s : State) (n : Fin 8) : Option (Fin 2 × Nat) := converterOf s.links[0].setting s.links[1].setting n.val

/-- The physical lanes of a link with one setting, the other link having another: with one link the lanes from 0, with two the second
link's from 4 (R285). -/
def linkLanes (l : Fin 2) (w other : BitVec 128) : BitVec 8 :=
  let base := if l = 1 ∧ linkEnable other then 4 else 0
  maskOf 8 fun i => base ≤ i && i < base + linkL w

/-- The physical lanes of a link as the links are set (R285). -/
def lanesOf (s : State) (l : Fin 2) : BitVec 8 := linkLanes l s.links[l].setting s.links[1 - l].setting

/-- What of a link setting the device refuses: a payload, or none; a setting with `enable` 0 is held to the same (R282 to R284, log entry
247). `other` is the setting of the other link. -/
def linkFault (e : SqEntry) (w other : BitVec 128) : Option Pay :=
  let f := octets w
  let r := laneRate w
  match reservedBit e [0x00000373, 0, 0xFFFFFFF0, 0xFFFFFFFF, 0x000000FF] with
  | some (d, b) => some (fieldPay d b)
  | none =>
    if bits (dw e 2) 9 8 ≠ 0 then some (fieldPay 2 8)
    else if 1 < bits (dw e 2) 6 4 then some (fieldPay 2 4)
    else if bits w 23 22 = 3 then some (fieldPay 4 22)
    else if linkM w < 1 ∨ 8 < linkM w then some (fieldPay 4 24)
    else if bits w 21 17 < 12 ∨ 16 < bits w 21 17 then some (fieldPay 4 17)
    else if linkC w ∧ !bit w 16 then some (fieldPay 4 16)
    else if (if linkC w then bits w 15 10 ≠ 0 else bits w 15 10 < 1 ∨ 32 < bits w 15 10) then some (fieldPay 4 10)
    else if (if linkC w then bits w 9 4 < 1 ∨ 16 < bits w 9 4 else bits w 9 4 ≠ 0) then some (fieldPay 4 4)
    else if linkEnable w ∧ linkEnable other ∧ (4 < linkL w ∨ 4 < linkL other) then some noField
    else if f.1 % f.2 ≠ 0 ∨ f.1 / f.2 < 1 ∨ 16 < f.1 / f.2 then some noField
    else if ¬ linkC w ∧ f.1 / f.2 * bits w 15 10 < 17 then some noField
    else if multiFrames w ≤ (bits w 63 56 : Rat) then some (fieldPay 5 24)
    else if 1500000000 < convRate w then some noField
    else if r.1 < (if linkC w then 600 else 100) * r.2 ∨ (if linkC w then 2475 else 1250) * r.2 < r.1 then some noField
    else if 8 < linkConv w + linkConv other then some noField
    else none

/-- The link that `sluice_config` names (R424). -/
def namedLink (e : SqEntry) : Fin 2 := Fin.ofNat 2 (bits (dw e 2) 6 4)

/-- The index names a link (R424). -/
def linkNamed (e : SqEntry) : Bool := bits (dw e 2) 6 4 < 2

/-- The link setting given (R424). -/
def linkSetting (e : SqEntry) : BitVec 128 := BitVec.ofNat 128 ((wide e 4).toNat + (wide e 6).toNat * 2 ^ 64)

/-- The settings of both links with one replaced. -/
def withLink (s : State) (l : Fin 2) (w : BitVec 128) : BitVec 128 × BitVec 128 :=
  if l = 0 then (w, s.links[1].setting) else (s.links[0].setting, w)

/-- The chains whose converter a link setting affects: those on the link before or after, and those that another converter feeds
(R284, R285). -/
def linkAffects (s : State) (l : Fin 2) (w : BitVec 128) : BitVec 8 :=
  let v := withLink s l w
  maskOf 8 fun n =>
    let a := converterOf s.links[0].setting s.links[1].setting n
    let b := converterOf v.1 v.2 n
    a != b || (a.any fun x => x.1 == l)

/-- Chains of a mask whose stall is capturing. -/
def anyCapturing (s : State) (m : BitVec 8) : Bool :=
  allStalls.any fun n => capturing s n && (s.stalls[n].grant.chains &&& m) != 0

/-- A link setting is written: the link starts over, and the chains it affects produce nothing until a sync instant. An enabled link is in phase 1
from here (R283, R286, R287, R80, R314; DESIGN CHOICE, log entry 302). -/
def putLink (s : State) (l : Fin 2) (w : BitVec 128) : State :=
  let m := linkAffects s l w
  let s := stopChains s m
  let s := modLink s l fun x => { x with
    setting := w, up := false, phase := if linkEnable w then 1 else 0, ilasMismatch := false, sysrefSeen := false, boundary := 0
    aligned := 0, frame := 0, recent := [], lastSample := [], lost := false, syncPin := !(linkEnable w && !linkC w) }
  { s with tb := { s.tb with sysrefError := false } }

/-- Both link settings at reset, as after a function-level reset of the physical function, which alone writes them (R12, R283). -/
def resetLinks (s : State) : State := putLink (putLink s 0 linkReset) 1 linkReset

/-- The operation of `sluice_config` (R424). -/
def sluiceOp (t : Taken) : Nat := bits (dw t.e 2) 1 0

/-- SLUICE_CONFIG_LINK (R283, R284, R424). -/
def execSluiceConfigLink (s : State) : Host.Outcome State Fault Refusal :=
  .next (withCmd s (fun t => isOp 0x28 t && sluiceOp t == 1) fun s t =>
    let l := namedLink t.e
    let w := linkSetting t.e
    if t.fn ≠ 0 then deny s t .privileged 0 0
    else if linkNamed t.e && anyCapturing s (linkAffects s l w) then complete s t .busy
    else match linkFault t.e w (s.links[1 - l].setting) with
      | some p => completeAt s t .invalid p
      | none =>
        let r := laneRate w
        completeAt (putLink s l w) t .ok { p4 := fld (r.1 / r.2) 0 })

/-! ## Chain settings -/

/-- R of the CIC (R289). -/
def cicR (w : BitVec 256) : Nat := bits w 16 11 + 1

/-- `fir_id` (R289). -/
def firId (w : BitVec 256) : Nat := bits w 23 19

/-- The tap counts of the responses (R297). -/
def firTaps : List Nat := [1, 31, 63, 127, 255, 63, 23, 47, 95, 191, 47, 95, 191, 255, 95, 191, 255, 63, 127, 255, 17, 33, 65, 129]

/-- The largest decimation of the responses (R297, R298). -/
def firMaxDec : List Nat := [1, 1, 1, 1, 1, 1, 2, 2, 2, 2, 4, 4, 4, 4, 8, 8, 8, 2, 4, 8, 2, 4, 8, 8]

/-- A response disabled at boot step 9 (R300). -/
def romBad (s : State) (w : BitVec 256) : Bool := bit s.boot.romFail (firId w)

/-- T of the stage that runs (R297, R300). -/
def runTaps (w : BitVec 256) (fallback : Bool) : Nat := if fallback then 1 else firTaps.getD (firId w) 1

/-- D of the stage that runs (R289, R300). -/
def runDec (w : BitVec 256) (fallback : Bool) : Nat := if fallback then 1 else 2 ^ bits w 18 17

/-- fr in Hz (R290). -/
def condRate (lw : BitVec 128) (w : BitVec 256) (fallback : Bool) : Rat := convRate lw / ((cicR w * runDec w fallback : Nat) : Rat)

/-- `sample_to_release` in ticks (R289). -/
def toRelease (w : BitVec 256) : Nat := bits w 87 64

/-- The group delays Tcic, Tfir and Trs in nanoseconds (R310). -/
def delayCic (lw : BitVec 128) (w : BitVec 256) : Rat := 5 / 2 * ((cicR w - 1 : Nat) : Rat) * convPeriod lw
def delayFir (lw : BitVec 128) (w : BitVec 256) (fallback : Bool) : Rat :=
  (cicR w : Rat) * ((runTaps w fallback - 1 : Nat) : Rat) / 2 * convPeriod lw
def delayRs (lw : BitVec 128) (w : BitVec 256) (fallback : Bool) : Rat := 8 * ((cicR w * runDec w fallback : Nat) : Rat) * convPeriod lw

/-- What both delays share, in nanoseconds (R311). -/
def delayBase (lw : BitVec 128) (w : BitVec 256) (fallback : Bool) : Rat :=
  (toRelease w : Rat) / 256 + 4 * convPeriod lw + delayCic lw w + delayFir lw w fallback

/-- Δo in strides (R311). -/
def outDelay (lw : BitVec 128) (w : BitVec 256) (fallback : Bool) : Nat := (delayBase lw w fallback + delayRs lw w fallback).ceil.toNat + 40

/-- Δd in strides (R311). -/
def detDelay (lw : BitVec 128) (w : BitVec 256) (fallback : Bool) : Nat := (delayBase lw w fallback).ceil.toNat + 48

/-- FIR multipliers that a chain takes (R299, R300). -/
def multsOf (lw : BitVec 128) (w : BitVec 256) (fallback : Bool) : Nat :=
  if fallback ∨ firId w = 0 ∨ ¬ chainEnable w then 0
  else ((((runTaps w fallback + 1) / 2 : Nat) : Rat) * convRate lw / ((cicR w * runDec w fallback : Nat) : Rat) / 1000000000).ceil.toNat

/-- A window mode (R306). -/
def windowMode (w : BitVec 256) : Bool := detMode w == 1 || detMode w == 2 || detMode w == 4

/-- P of a window mode in samples (R306). -/
def windowLen (w : BitVec 256) : Nat := 2 ^ detK w * chainK w

/-- A value that its row refuses: the field (R289). -/
def chainField (w : BitVec 256) : Option (Nat × Nat) :=
  if 23 < firId w then some (4, 19)
  else if chainK w < 32 ∨ 1048576 < chainK w then some (5, 0)
  else if bits w 100 96 < 6 ∨ 30 < bits w 100 96 then some (7, 0)
  else if 4 < detMode w then some (9, 29)
  else if bits w 188 187 = 3 then some (9, 27)
  else if 24 < bits w 181 177 ∨ (detMode w = 4 ∧ bits w 181 177 = 0) then some (9, 17)
  else if detMode w = 3 ∧ (bits w 170 169 = 0 ∨ bits w 170 169 = 3) then some (9, 9)
  else none

/-- The named bits of a chain setting's command (R289, R424). -/
def chainBits : List Dword :=
  [0x00000373, 0, 0xFCFFF800, 0x001FFFFF, 0x00FFFFFF, 0xFFFFC01F, 0xFFFFF000, 0xFFFFFE00, 0xFFFFFFFF, 0]

/-- The named chain (R424). -/
def namedChain (e : SqEntry) : Fin 8 := Fin.ofNat 8 (bits (dw e 2) 6 4)

/-- The chain setting given (R424). -/
def chainSetting (e : SqEntry) : BitVec 256 :=
  BitVec.ofNat 256 ((wide e 4).toNat + (wide e 6).toNat * 2 ^ 64 + (wide e 8).toNat * 2 ^ 128 + (wide e 10).toNat * 2 ^ 192)

/-- What of a chain setting the device refuses: a payload, or none (R290). -/
def chainFault (s : State) (n : Stall) (e : SqEntry) (w : BitVec 256) (lw : Option (BitVec 128)) (fallback : Bool) : Option Pay :=
  match reservedBit e chainBits with
  | some (d, b) => some (fieldPay d b)
  | none =>
    if sluiceOp { fn := 0, e := e, when := 0 } = 3 then some (fieldPay 2 0)
    else if bits (dw e 2) 9 8 ≠ 0 then some (fieldPay 2 8)
    else match chainField w with
      | some (d, b) => some (fieldPay d b)
      | none =>
        if chainEnable w ∧ lw.isNone then some (fieldPay 4 31)
        else if firMaxDec.getD (firId w) 1 < 2 ^ bits w 18 17 then some (fieldPay 4 17)
        else if windowMode w ∧ (windowLen w < 1024 ∨ 2 ^ 32 ≤ windowLen w ∨
            (lw.any fun l => decide ((windowLen w : Rat) * condRate l w fallback < 128000000000))) then some (fieldPay 9 22)
        else if detMode w = 3 ∧ ¬ (bits w 176 171 < 48 ∧ bit s.stalls[n].grant.teams (bits w 176 171 / 6)) then some (fieldPay 9 11)
        else if bit w 28 ∧ bits w 203 192 = 0 then some (fieldPay 10 0)
        else if lw.any fun l => 4194304 < outDelay l w fallback || 4194304 < detDelay l w fallback then some noField
        else none

/-- The setting of the link that feeds a chain (R285). -/
def linkOfChain (s : State) (n : Fin 8) : Option (BitVec 128) := (chainSource s n).map fun x => s.links[x.1].setting

/-- Multipliers that the chains but one take (R299). -/
def multsTaken (s : State) (n : Fin 8) : Nat := (((List.finRange 8).filter fun k => k != n).map fun k => s.chains[k].mults).sum

/-- A chain setting takes effect: delays and multipliers fixed, no output until a sync instant (R292, R299, R300, R311). -/
def putChain (s : State) (n : Fin 8) (w : BitVec 256) (fallback : Bool) : State :=
  let lw := linkOfChain s n
  modChain s n fun c => { c with
    setting := w, fallback := fallback, anchored := false, producing := false, stopped := false, trim := 0
    mults := (lw.map fun l => multsOf l w fallback).getD 0
    delayO := (lw.map fun l => outDelay l w fallback).getD 0, delayD := (lw.map fun l => detDelay l w fallback).getD 0
    detWin := [], cond := [], condIdx := 0 }

/-- `boot_fallback` with cause `fir_rom` of a chain setting (R300, R467). -/
def firFallbackEvent (s : State) (n : Stall) (k : Fin 8) : State :=
  sendEvents s ((withPf [n]).map fun f => (f, event 0x15 n.val s.tb.now
    (fld (max 1 (s.boot.fails.getD 8 0)) 16 ||| fld 9 8 ||| fld 4 0) (fld s.boot.romFail.toNat 0 ||| fld k.val 24) 0 0))

/-- SLUICE_CONFIG_CHAIN: operation 0, and the operation refused (R289 to R292, R299, R300, R311, R424). -/
def execSluiceConfigChain (s : State) : Host.Outcome State Fault Refusal :=
  .next (withCmd s (fun t => isOp 0x28 t && (sluiceOp t == 0 || sluiceOp t == 3)) fun s t =>
    let n := namedChain t.e
    let w := chainSetting t.e
    let fallback := romBad s w
    if !bit s.stalls[t.fn].grant.chains n.val then deny s t .notGranted 3 n.val
    else if capturing s t.fn then complete s t .busy
    else match chainFault s t.fn t.e w (linkOfChain s n) fallback with
      | some p => completeAt s t .invalid p
      | none =>
        let mults := ((linkOfChain s n).map fun l => multsOf l w fallback).getD 0
        if 1024 < multsTaken s n + mults then complete s t .noResource
        else
          let s := putChain s n w fallback
          let c := s.chains[n]
          let s := completeAt s t .ok { p4 := flag fallback 31 ||| fld c.delayO 0, p5 := fld c.delayD 0
                                        p6 := fld (1024 - multsTaken s n - mults) 16 ||| fld mults 0 }
          if fallback then firFallbackEvent s t.fn n else s)

/-! ## DC control -/

/-- The blocker is frozen (R302). -/
def dcFrozen (c : Chain) : Bool := c.frozenCmd || c.frozenAuto

/-- A change of the blocker's freeze, counted when the state changes (R302, R316). -/
def setFreeze (c : Chain) (cmd auto : Bool) : Chain :=
  { c with frozenCmd := cmd, frozenAuto := auto, freezes := if dcFrozen c = (cmd || auto) then c.freezes else satAdd 32 c.freezes 1 }

/-- The `dc_op` of the command (R424). -/
def dcOp (t : Taken) : Nat := bits (dw t.e 2) 9 8

/-- A `dc_control` operation (R291, R302, R424). -/
def dcControl (s : State) (t : Taken) (f : Chain → Chain) : State :=
  let n := namedChain t.e
  if !bit s.stalls[t.fn].grant.chains n.val then deny s t .notGranted 3 n.val
  else match reservedBit t.e [0x00000373] with
    | some (d, b) => invalidAt s t d b
    | none =>
      if dcOp t = 3 then invalidAt s t 2 8
      else
        let s := modChain s n f
        completeAt s t .ok { p4 := flag (dcFrozen s.chains[n]) 0 }

/-- DC_FREEZE: holds until `thaw`; and the operation refused (R302, R424). -/
def execDcFreeze (s : State) : Host.Outcome State Fault Refusal :=
  .next (withCmd s (fun t => isOp 0x28 t && sluiceOp t == 2 && (dcOp t == 0 || dcOp t == 3)) fun s t =>
    dcControl s t fun c => setFreeze c true c.frozenAuto)

/-- DC_THAW (R302). -/
def execDcThaw (s : State) : Host.Outcome State Fault Refusal :=
  .next (withCmd s (fun t => isOp 0x28 t && sluiceOp t == 2 && dcOp t == 1) fun s t =>
    dcControl s t fun c => setFreeze c false c.frozenAuto)

/-- DC_RESET: the estimate is 0 (R302). -/
def execDcReset (s : State) : Host.Outcome State Fault Refusal :=
  .next (withCmd s (fun t => isOp 0x28 t && sluiceOp t == 2 && dcOp t == 2) fun s t =>
    dcControl s t fun c => { c with est := 0 })

/-! ## sluice_sync -/

/-- SLUICE_SYNC (R86, R96, R414, R425). -/
def execSluiceSync (s : State) : Host.Outcome State Fault Refusal :=
  .next (withCmd s (isOp 0x29) fun s t =>
    let y := wide t.e 2
    let m := BitVec.ofNat 8 (bits (dw t.e 4) 7 0)
    match (ones m).find? fun n => !bit s.stalls[t.fn].grant.chains n with
    | some n => deny s t .notGranted 3 n
    | none =>
      if s.tb.bypass then complete s t .busy
      else match reservedBit t.e [0xFFFFFFFF, 0xFFFFFFFF, 0xFF] with
        | some (d, b) => invalidAt s t d b
        | none =>
          if bits y 7 0 ≠ 0 then invalidAt s t 2 0
          else if m = 0 ∨ (List.finRange 8).any fun n => bit m n.val && !chainEnable s.chains[n].setting then invalidAt s t 4 0
          else
            let late := !leads y t.when 32
            if late ∧ latePolicy t.e ≠ 1 then complete s t .late
            else
              let y := if late then t.when + strides 32 else y
              let s := { s with tb := { s.tb with syncPending := s.tb.syncPending ++ [{ y := y, chains := m }] } }
              completeAt s t .ok { p4 := (timePay y).1, p5 := (timePay y).2, p6 := flag late 0 })

end Sys2Proof.Machine
end

