-- ==== Sys2Proof/Machine/SluiceRun.lean ====
section
/-!
DEFINITION. The sluice chains at work: SYSREF and SYNC, sync instants, the links, the filters from a released sample to a conditioned
one, the resampler's outputs, the detectors, and their side records.
-/

namespace Sys2Proof.Machine

/-! ## Numbers -/

/-- The nearest integer, a half rounded up. -/
def roundHalf (q : Rat) : Int := (q + 1 / 2).floor

/-- An integer from an exact value where the spec names no rounding: one of its two neighbours (log entry 69). -/
def roundOpen (q : Rat) : Int := if q.den = 1 then q.num else if Config.roundsUp q then q.floor + 1 else q.floor

/-- Saturation to 20 bits two's complement, and whether it happened (R303). -/
def sat20 (x : Int) : BitVec 20 × Bool :=
  if x < -524288 then (BitVec.ofInt 20 (-524288), true)
  else if 524287 < x then (BitVec.ofInt 20 524287, true)
  else (BitVec.ofInt 20 x, false)

/-- The nearest integer to a square root (R307). -/
def rootNear (q : Rat) : Nat :=
  let r := Nat.sqrt (4 * q).floor.toNat
  (r + 1) / 2

/-- A converter sample in ticks (R284). -/
def convTicks (w : BitVec 128) : Rat := 256 * convPeriod w

/-! ## SYSREF and SYNC -/

/-- Recipients of a link's events: the physical function and each stall that owns a chain of the link (R286). -/
def linkStalls (s : State) (l : Fin 2) : List Stall :=
  allStalls.filter fun n => (List.finRange 8).any fun k => bit s.stalls[n].grant.chains k.val && ((chainSource s k).any fun x => x.1 == l)

/-- A `calibration_drift` event of a link (R286, R287, R466). -/
def linkEvent (s : State) (l : Fin 2) (reason : Nat) (p5 : Dword) : State :=
  sendRated s { code := 0x10, sub := 256 + 2 * reason + l.val, fn := 0 } (100 * ms)
    (deviceEvent 0x10 (withPf (linkStalls s l)) s.tb.now (fld reason 0 ||| fld l.val 16) p5 0 0)

/-- The multiframe or extended-multiblock period in ticks (R284). -/
def multiTicks (w : BitVec 128) : Rat := multiFrames w * (linkS w : Rat) * convTicks w

/-- The distance in ticks of an edge from the nearest whole number of periods after the boundary (R93). -/
def edgeOff (x : JLink) (t : Time) : Rat :=
  let d : Rat := ((t - x.boundary).toInt : Rat)
  let p := multiTicks x.setting
  d - (roundHalf (d / p) : Rat) * p

/-- An edge fixes a link's boundaries, or is checked (R93, R286). -/
def sysrefOn (t : Time) (s : State) (l : Fin 2) : State :=
  let x := s.links[l]
  if !linkEnable x.setting then s
  else if !x.sysrefSeen then modLink s l fun x => { x with sysrefSeen := true, boundary := t, frame := 0 }
  else
    let d := edgeOff x t
    if -32 ≤ d ∧ d ≤ 32 then s
    else linkEvent { s with tb := { s.tb with sysrefError := true } } l 4 (sfld ((d / 32).num.tdiv (d / 32).den) 32 0)

/-- SYSREF_EDGE (R93, R286). -/
def execSysrefEdge (t : Time) (s : State) : Host.Outcome State Fault Refusal :=
  .next (if s.tb.timeValid then [0, 1].foldl (sysrefOn (t &&& ~~~ (31 : Time))) s else s)

/-- The enabled chains connected to SYNC (R95, R289). -/
def syncChains (s : State) : BitVec 8 := maskOf 8 fun n => chainEnable s.chains[Fin.ofNat 8 n].setting && bit s.chains[Fin.ofNat 8 n].setting 30

/-- SYNC_EDGE: Y is the start of the 32nd stride after the edge's (R95). -/
def execSyncEdge (t : Time) (s : State) : Host.Outcome State Fault Refusal :=
  .next (
    if !s.tb.timeValid || s.tb.bypass then s
    else { s with tb := { s.tb with syncPending := s.tb.syncPending ++ [{ y := (t &&& ~~~ (255 : Time)) + strides 32, chains := syncChains s }] } })

/-! ## Sync instants -/

/-- The position, in 1024ths of a converter sample from Y, of the sample released first of a link's first frame (R288, R294). -/
def firstSample (x : JLink) (w : BitVec 256) (y : Time) : Int :=
  let a := convTicks x.setting
  let t : Rat := ((x.boundary - y).toInt : Rat) - (toRelease w : Rat) + ((bits x.setting 63 56 * linkS x.setting : Nat) : Rat) * a
  roundHalf (1024 * t / a)

/-- The part of a position below one sample, −512 to 511, and the whole samples (R294). -/
def splitTrim (q : Int) : Int × Int := ((q + 512) % 1024 - 512, (q + 512) / 1024)

/-- One conditioned period in ticks (R293). -/
def condTicks (lw : BitVec 128) (w : BitVec 256) (fallback : Bool) : Rat := ((cicR w * runDec w fallback : Nat) : Rat) * convTicks lw

/-- The first conditioned sample at or after a time from Y in ticks (R306, R308). -/
def firstCond (lw : BitVec 128) (c : Chain) (d : Rat) : Nat := (d / condTicks lw c.setting c.fallback).ceil.toNat

/-- m0, the first output after a sync instant (R295). -/
def firstOutput (lw : BitVec 128) (c : Chain) (y : Time) : Nat :=
  let w := c.setting
  let k : Rat := (chainK w : Rat)
  let t := 2 * (delayCic lw w + delayFir lw w c.fallback + delayRs lw w c.fallback)
  let a := (8 * t / k).ceil.toNat
  let b := match c.lastRestart with
    | none => 0
    | some r => ((((r + strides 2048 - y).toInt : Rat) / 32) / k).ceil.toNat
  max a b

/-- The window detector's w-th window from a first instant (R306). -/
def windowAcc (lw : BitVec 128) (c : Chain) (t1 : Time) (w : Nat) : DetAcc :=
  let p := 32 * windowLen c.setting
  let d (k : Nat) : Rat := ((t1 - c.y).toInt : Rat) + ((k * p : Nat) : Rat)
  { first := firstCond lw c (d w), stop := firstCond lw c (d (w + 1)), stamp := t1 + BitVec.ofNat 64 ((w + 1) * p) }

/-- A chain is cleared and anchored at Y; the inputs that the phase trim interpolates over stay (R293 to R295, R306, R308). -/
def anchorChain (lw : BitVec 128) (x : JLink) (c : Chain) (y : Time) : Chain :=
  let m0 := firstOutput lw c y
  let t1 := y + BitVec.ofNat 64 (32 * m0 * chainK c.setting)
  let c := { c with
    anchored := true, producing := false, stopped := false, y := y, lastY := some y, m := m0, t1 := t1
    trim := BitVec.ofInt 10 (splitTrim (firstSample x c.setting y)).1
    integ := List.replicate 5 0, combs := List.replicate 5 0, firLine := [], condIdx := 0, cond := [], envelope := 0
    cycleFrom := none, detWin := [], anchorOut := true, anchorDet := true, restarts := satAdd 32 c.restarts 1 }
  if windowMode c.setting then { c with detWin := [windowAcc lw c t1 0] } else c

/-- What Y does to one chain: ignored, missed, or anchored (R93, R97, R293). -/
inductive SyncFate where
  | off
  | ignored
  | missed
  | anchored (lw : BitVec 128) (x : JLink)

/-- The fate of a chain at Y; none outside Run and in the safe halt, in which no chain runs (R504, R506, R542). A Y exactly 64 strides after the one
applied last is no longer within 64 strides of it and is applied: the model's reading of R97, which does not say (DEDUCED, log entry 248). On a
link that is up and has no SYSREF boundary yet no lattice can stand, and a Y counts as missed: R293 does not say (DESIGN CHOICE, log entry 299). -/
def syncFate (s : State) (y : Time) (n : Fin 8) : SyncFate :=
  let c := s.chains[n]
  if !chainEnable c.setting || s.power.st != .run || s.boot.phase != .ready then .off
  else if c.lastY.any fun z => !past y z && (y - z).toNat < 64 * 256 then .ignored
  else match chainSource s n with
    | none => .missed
    | some (l, _) => if s.links[l].up && s.links[l].sysrefSeen then .anchored s.links[l].setting s.links[l] else .missed

/-- One chain at Y (R97, R293, R316). -/
def syncChain (y : Time) (s : State) (n : Fin 8) : State :=
  match syncFate s y n with
  | .off => s
  | .ignored => modChain s n fun c => { c with syncIgnored := satAdd 32 c.syncIgnored 1 }
  | .missed => modChain s n fun c => { c with syncMissed := satAdd 32 c.syncMissed 1 }
  | .anchored lw x => modChain s n fun c => anchorChain lw x c y

/-- The earliest sync instant waiting (R7). -/
def nextSync (s : State) : Option Time :=
  match s.tb.syncPending with
  | [] => none
  | r :: l => some (l.foldl (fun y q => if past q.y y then q.y else y) r.y)

/-- The `sync` marker of a stall that records and owns re-anchored chains (R116, R293). -/
def syncMarker (y : Time) (m : BitVec 8) (s : State) (n : Stall) : State :=
  let own := s.stalls[n].grant.chains &&& m
  if own = 0 then s else marker s n 0xC y (BitVec.ofNat 64 own.toNat)

/-- SYNC_INSTANT: the earliest Y, once for every request that gives it (R93, R97, R293 to R295). A Y that passes while the clocks are
bypassed waits and is applied, as it was, after the relock: the model's choice, R86 does not say (DESIGN CHOICE, log entry 249). -/
def execSyncInstant (s : State) : Host.Outcome State Fault Refusal :=
  .next (
    match nextSync s with
    | none => s
    | some y =>
      if past s.tb.now y || s.tb.bypass then s
      else
        let m := ((s.tb.syncPending.filter fun r => r.y == y).map fun r => r.chains).foldl (· ||| ·) 0
        let l := (List.finRange 8).filter fun n => bit m n.val
        let done := maskOf 8 fun n => bit m n && (match syncFate s y (Fin.ofNat 8 n) with
          | .anchored _ _ => true
          | _ => false)
        let s := { s with tb := { s.tb with syncPending := s.tb.syncPending.filter fun r => r.y != y } }
        allStalls.foldl (syncMarker y done) (l.foldl (syncChain y) s))

/-! ## Links -/

/-- The release time of a frame of a link in ticks from its boundary (R288). -/
def releaseTicks (w : BitVec 128) (frame : Nat) : Rat := ((bits w 63 56 + frame : Nat) : Rat) * (linkS w : Rat) * convTicks w

/-- The first frame whose release does not lie in the past (R288). -/
def frameNow (s : State) (x : JLink) : Nat :=
  let w := x.setting
  ((((s.tb.now - x.boundary).toInt : Rat) / ((linkS w : Rat) * convTicks w)).ceil - (bits w 63 56 : Int)).toNat

/-- LINK_UP: with alignment on every lane, and in JESD204B matching ILAS parameters, the link is up (R287, R314). -/
def execLinkUp (l : Fin 2) (seen : Alignment) (s : State) : Host.Outcome State Fault Refusal :=
  .next (
    let x := s.links[l]
    let lanes := lanesOf s l
    if !linkEnable x.setting || x.up then s
    else if seen.lanes &&& lanes ≠ lanes then modLink s l fun x => { x with aligned := seen.lanes &&& lanes, phase := 1 }
    else match seen.ilas with
      | none => modLink s l fun x => { x with aligned := lanes, phase := 2 }
      | some ok =>
        if !linkC x.setting && !ok then modLink s l fun x => { x with ilasMismatch := true, aligned := lanes, phase := 2 }
        else
          let s := modLink s l fun x => { x with
            up := true, phase := 3, ilasMismatch := false, aligned := lanes, syncPin := true, lost := false, recent := []
            frame := if x.sysrefSeen then frameNow s x else 0 }
          if x.lost then linkEvent s l 6 0 else s)

/-- The chains that a link feeds. -/
def linkChains (s : State) (l : Fin 2) : BitVec 8 := maskOf 8 fun n => (chainSource s (Fin.ofNat 8 n)).any fun x => x.1 == l

/-- LINK_LOST: 16 replacements within 1 ms, or a lane without alignment; `aligned` are the lanes still aligned. The phase is 0 without a lane, 1 after
replacements (R287, R314; DESIGN CHOICE, log entry 302). -/
def execLinkLost (l : Fin 2) (aligned : BitVec 8) (s : State) : Host.Outcome State Fault Refusal :=
  .next (
    let x := s.links[l]
    let bad := lanesOf s l &&& ~~~ aligned
    if !x.up || ((x.recent.filter fun t => !passed s.tb.now t ms).length < 16 && bad == 0) then s
    else
      let s := stopChains s (linkChains s l)
      let s := modLink s l fun x => { x with
        up := false, phase := if bad = 0 then 1 else 0, aligned := aligned &&& lanesOf s l, lost := true
        losses := satAdd 32 x.losses 1, recent := [], syncPin := linkC x.setting }
      linkEvent s l 5 (fld bad.toNat 0))

/-! ## From a sample to a conditioned sample -/

/-- A word of a frame as a sample: the bits below the N converter bits are ignored (R282). -/
def sampleOf (w : BitVec 128) (v : BitVec 16) : Int :=
  let k := 16 - bits w 21 17
  (BitVec.ofNat 16 (v.toNat / 2 ^ k * 2 ^ k)).toInt

/-- One pass of the integrators (R296). -/
def integrate : List (BitVec 48) → BitVec 48 → List (BitVec 48)
  | [], _ => []
  | a :: l, x => (a + x) :: integrate l (a + x)

/-- One pass of the combs: the differences, and the last one's output (R296). -/
def comb : List (BitVec 48) → BitVec 48 → List (BitVec 48) × BitVec 48
  | [], x => ([], x)
  | a :: l, x =>
    let r := comb l (x - a)
    (x :: r.1, r.2)

/-- R is a power of two. -/
def powerOfTwo (r : Nat) : Bool := 2 ^ r.log2 == r

/-- The bounds of the CIC's 24-bit correction in units of 2^-23: the values that keep the DC gain within 2^-22 of 1 (R296). -/
def cicBounds (r : Nat) : Nat × Nat :=
  let n := 2 ^ (23 + (r ^ 5).log2)
  (ceilDiv (n * (2 ^ 22 - 1)) (r ^ 5 * 2 ^ 22), min (n * (2 ^ 22 + 1) / (r ^ 5 * 2 ^ 22)) (2 ^ 24 - 1))

/-- The CIC's correction: one of the values within the bounds (R296, log entry 8). -/
def cicGain (r : Nat) : Nat := let b := cicBounds r; b.1 + Config.cicGain r % (b.2 - b.1 + 1)

/-- The CIC's output in units of 1/256 from the last comb's value (R296). -/
def cicScale (r : Nat) (v : BitVec 48) : Int :=
  let s := (r ^ 5).log2
  if powerOfTwo r then roundHalf ((v.toInt : Rat) * 256 / ((2 ^ s : Nat) : Rat))
  else roundHalf ((v.toInt : Rat) * 256 * (cicGain r : Rat) / ((2 ^ (23 + s) : Nat) : Rat))

/-- The chain value of R303 from a blocker output. -/
def chainValue (w : BitVec 256) (v : Rat) : Rat := v * 16 * (bits w 127 110 : Rat) / 16384 + ((BitVec.ofNat 20 (bits w 159 140)).toInt : Rat)

/-- The DC blocker and the scale, with the autofreeze (R301 to R303). -/
def dcBlock (now : Time) (c : Chain) (x : Rat) : Rat × Chain :=
  let w := c.setting
  let v := if bit w 29 then x - c.est else x
  let y := chainValue w v
  let big := bit w 28 && decide ((bits w 223 204 : Rat) < (if y < 0 then -y else y))
  let c := if big then { setFreeze c c.frozenCmd true with lastBig := now } else c
  (y, if bit w 29 && !dcFrozen c then { c with est := c.est + v / ((2 ^ bits w 100 96 : Nat) : Rat) } else c)

/-- Magnitude. -/
def mag (q : Rat) : Rat := if q < 0 then -q else q

/-- A detector's peak so far with one more value (R289, R307). -/
def peakOf (w : BitVec 256) (old : Option Rat) (y : Rat) : Rat :=
  let y := if bits w 188 187 = 0 then mag y else y
  match old with
  | none => y
  | some p => if bits w 188 187 = 2 then min p y else max p y

/-- A window or cycle takes conditioned sample j (R306, R307). -/
def accStep (w : BitVec 256) (env y : Rat) (j : Nat) (a : DetAcc) : DetAcc :=
  if a.done || j < a.first || (a.stop != 0 && a.stop ≤ j) then a
  else { a with n := a.n + 1, sum := a.sum + y * y, peak := some (peakOf w a.peak y), env := env, done := a.stop != 0 && a.stop ≤ j + 1 }

/-- The next window is opened when the newest one is done (R306). -/
def nextWindow (lw : BitVec 128) (c : Chain) : Chain :=
  match c.detWin.getLast? with
  | some a =>
    if a.done && windowMode c.setting then
      let p := 32 * windowLen c.setting
      { c with detWin := c.detWin ++ [windowAcc lw c c.t1 ((a.stamp - c.t1).toNat / p)] }
    else c
  | none => c

/-- A conditioned value enters the resampler's history and the detector. Beyond its 4 bits of headroom R303 does not say what a detector sees, and
R307 names no format for `a >> d`: both values stay exact (R303, R304, R306, R307; DESIGN CHOICE, log entry 303). -/
def condStep (lw : BitVec 128) (c : Chain) (y : Rat) : Chain :=
  let w := c.setting
  let env := max (mag y) (c.envelope - c.envelope / ((2 ^ bits w 181 177 : Nat) : Rat))
  nextWindow lw { c with
    envelope := env, cond := (y :: c.cond).take 256, condIdx := c.condIdx + 1
    detWin := c.detWin.map (accStep w env y c.condIdx) }

/-- The coefficient of tap k of a response of t taps: the same from both ends, as linear phase asks (R297). -/
def firCoef (id t k : Nat) : Int := (Config.firCoef id (min k (t - 1 - k))).toInt

/-- A FIR response over its delay line, newest first, in units of 1/256: boxcars are true averages, the others sums of products with
coefficients of 18 bits. The format of its output is the model's choice (R297, log entries 8, 69 and 303). -/
def firOut (id t : Nat) (line : List Int) : Int :=
  if 20 ≤ id then roundOpen ((line.sum : Rat) / (t : Rat))
  else
    let sum := (line.zipIdx.map fun x => firCoef id t x.2 * x.1).sum
    roundOpen ((sum : Rat) / ((2 ^ Config.firPoint id : Nat) : Rat))

/-- A CIC output, number k since the anchor, passes the FIR, the blocker and the scale (R297, R300, R301). -/
def firStep (now : Time) (lw : BitVec 128) (c : Chain) (k : Nat) (x : Int) : Chain :=
  let w := c.setting
  let taps := runTaps w c.fallback
  let line := (x :: c.firLine).take taps
  let c := { c with firLine := line }
  let h := (taps - 1) / 2
  if k < h ∨ (k - h) % runDec w c.fallback ≠ 0 then c
  else
    let v := if taps = 1 then x else firOut (firId w) taps (line ++ List.replicate (taps - line.length) 0)
    let r := dcBlock now c ((v : Rat) / 256)
    condStep lw r.2 r.1

/-- Trimmed input i passes the CIC (R294, R296). -/
def cicStep (now : Time) (lw : BitVec 128) (c : Chain) (i : Nat) (x : Int) : Chain :=
  let r := cicR c.setting
  if r = 1 then firStep now lw c i (256 * x)
  else
    let integ := integrate c.integ (BitVec.ofInt 48 x)
    let c := { c with integ := integ }
    let h := (5 * (r - 1) + 1) / 2
    if i < h ∨ (i - h) % r ≠ 0 then c
    else
      let d := comb c.combs (integ.getLast?.getD 0)
      firStep now lw { c with combs := d.1 } ((i - h) / r) (cicScale r d.2)

/-- The trimmed input: the middle of the nine inputs about it, or the interpolator's value, of 16 bits (R294, R296, log entry 8). -/
def trimmedInput (c : Chain) : Int :=
  let l := c.inHist ++ List.replicate (9 - c.inHist.length) 0
  if c.trim = 0 then l.getD 4 0 else (BitVec.ofInt 16 (Config.trimmed c.trim.toInt l)).toInt

/-- A released sample enters a chain; g is its number since the link's boundary (R288, R294). -/
def feed (now : Time) (x : JLink) (c : Chain) (g : Nat) (v : Int) : Chain :=
  if !chainEnable c.setting then c
  else
    let c := { c with inHist := (v :: c.inHist).take 9 }
    let i := (splitTrim (firstSample x c.setting c.y)).2 + (g : Int) - 4
    if !c.anchored || c.stopped || decide (i < 0) then c else cicStep now x.setting c i.toNat (trimmedInput c)

/-- The samples of converter k in a row of frames (R282). -/
def convSamples (w : BitVec 128) (k : Nat) (l : List (BitVec 16)) : List (BitVec 16) :=
  let f := linkM w * linkS w
  (List.range (l.length / f)).flatMap fun i => ((l.drop (i * f)).drop (k * linkS w)).take (linkS w)

/-- The samples of a converter go into its chain, one after another. -/
def feedAll (now : Time) (x : JLink) (g : Nat) (l : List (BitVec 16)) (c : Chain) : Chain :=
  l.zipIdx.foldl (fun c v => feed now x c (g + v.2) (sampleOf x.setting v.1)) c

/-- What is released: the frame's samples, or the converters' previous ones after an error (R287). -/
def releasedWords (x : JLink) (err : Bool) (l : List (BitVec 16)) : List (BitVec 16) :=
  let w := x.setting
  let f := linkM w * linkS w
  if err then (List.range l.length).map fun i => x.lastSample.getD (i % f / linkS w) 0 else l

/-- JESD_FRAME: a JESD204B frame, or the frames of a JESD204C multiblock, converter by converter within each frame; `err` says that its
check failed (R287, R288, R293 to R303, R316). -/
def execJesdFrame (l : Fin 2) (err : Bool) (samples : List (BitVec 16)) (s : State) : Host.Outcome State Fault Refusal :=
  .next (
    let x := s.links[l]
    let w := x.setting
    let f := linkM w * linkS w
    let frames := samples.length / f
    if !linkEnable w || !x.up || samples == [] || samples.length % f != 0 || (!linkC w && frames != 1) then s
    else if x.sysrefSeen && decide (((s.tb.now - x.boundary).toInt : Rat) + 256 ≤ releaseTicks w x.frame) then s
    else
      let words := releasedWords x err samples
      let s := { s with chains := vmap s.chains fun n c => match chainSource s n with
        | some (k, j) => if k = l && x.sysrefSeen then feedAll s.tb.now x (x.frame * linkS w) (convSamples w j words) c else c
        | none => c }
      modLink s l fun x => { x with
        frame := if x.sysrefSeen then x.frame + frames else 0, lastSample := (List.range (linkM w)).map fun j => (convSamples w j words).getLast?.getD 0
        replaced := if err then satAdd 32 x.replaced 1 else x.replaced
        recent := if err then s.tb.now :: x.recent.filter fun t => !passed s.tb.now t ms else x.recent })

/-! ## Side records -/

/-- The stall that owns a chain. -/
def chainOwner (s : State) (n : Fin 8) : Option Stall := allStalls.find? fun k => bit s.stalls[k].grant.chains n.val

/-- A new multiple of 65,536 strides lies between two instants of a source (R132). -/
def anchorDue (t : Time) (period : Nat) : Bool :=
  strideOf t / 65536 != strideOf (t - BitVec.ofNat 64 (32 * period)) / 65536

/-- A sample of a regular source is packed, three to a record, with the side anchors of R132. -/
def packOutput (s : State) (n : Stall) (k : Fin 8) (v : BitVec 20) (t : Time) (period : Nat) (det : Bool) : State :=
  let c := s.chains[k]
  let src := if det then 8 + k.val else k.val
  let old := if det then c.sideDet else c.sideOut
  let owed := (if det then c.anchorDet else c.anchorOut) || anchorDue t period
  let s := if owed then addSide s n ((if old = [] then [] else [analogueRec src old]) ++ [sideAnchorRec src t]) else s
  let l := if owed then [v] else old ++ [v]
  let s := if l.length = 3 then addSide s n [analogueRec src l] else s
  let l := if l.length = 3 then [] else l
  modChain s k fun c => if det then { c with sideDet := l, anchorDet := false } else { c with sideOut := l, anchorOut := false }

/-- Analogue terms on a source see an output that emerges (R159, R162, R185). -/
def updateTerms (s : State) (n : Stall) (src : Nat) (v : BitVec 20) (t : Time) : State :=
  match s.stalls[n].course with
  | none => s
  | some p =>
    let see (a : AnalogueEntry) (f : Flag) : Flag :=
      if a.source ≠ src then f
      else
        let x := v.toInt
        let th := a.threshold.toInt
        let h := (a.hyst.toNat : Int)
        if a.below then (if x < th then setTerm f true s.tb.now t false else if th + h < x then setTerm f false s.tb.now t false else f)
        else if th < x then setTerm f true s.tb.now t false
        else if x < th - h then setTerm f false s.tb.now t false
        else f
    modEng s n fun e => { e with analogues := e.analogues.zipIdx.map fun f => match p.analogues[f.2]? with
      | some a => see a f.1
      | none => f.1 }

/-- An output of a source reaches the terms and, when it is stored and the chain was owned and enabled at the arm, the stream (R132, R133,
R159, R205, R309, R356). -/
def emergeSample (s : State) (k : Fin 8) (v : BitVec 20) (t : Time) (det : Bool) : State :=
  let w := s.chains[k].setting
  match chainOwner s k with
  | none => s
  | some n =>
    let s := updateTerms s n (if det then 8 + k.val else k.val) v t
    if !segmentOpen s n || !(s.stalls[n].cap.any fun c => bit c.chains k.val) || !(if det then bit w 26 else bit w 27) then s
    else if det && detMode w == 3 then checkFull (addSide s n [sideAnchorRec (8 + k.val) t, analogueRec (8 + k.val) [v]]) n
    else checkFull (packOutput s n k v t (if det then windowLen w else chainK w) det) n

/-! ## Outputs -/

/-- A chain runs: enabled, anchored and not stopped (R292, R521). -/
def chainRuns (c : Chain) : Bool := chainEnable c.setting && c.anchored && !c.stopped

/-- The instant that output m represents (R304). -/
def outputTime (c : Chain) : Time := c.y + BitVec.ofNat 64 (32 * c.m * chainK c.setting)

/-- The stride in which an instant emerges has come (R312). -/
def emerged (now t : Time) (delay : Nat) : Bool := !past now ((t &&& ~~~ (255 : Time)) + strides delay)

/-- The position of output m in 1024ths of a conditioned sample (R304). -/
def outputPos (lw : BitVec 128) (c : Chain) : Nat :=
  let r := linkRate lw
  (roundHalf (1024 * ((c.m * chainK c.setting * r.1 : Nat) : Rat) / ((80 * r.2 * cicR c.setting * runDec c.setting c.fallback : Nat) : Rat))).toNat

/-- The 16 conditioned samples about a position, oldest first, when they are there (R304). -/
def aroundPos (c : Chain) (base : Nat) : Option (List Rat) :=
  if base < 7 ∨ c.condIdx ≤ base + 8 ∨ c.cond.length + base < c.condIdx + 7 then none
  else some ((List.range 16).map fun i => c.cond.getD (c.condIdx - 1 - (base - 7 + i)) 0)

/-- The resampler: a sum of products of the 16 conditioned samples with the phase's coefficients (R304, R305, log entry 8). -/
def resample (phase : Nat) (l : List Rat) : Rat := (l.zipIdx.map fun x => Config.rsCoef phase x.2 * x.1).sum

/-- CHAIN_OUTPUT: output m in its emergence stride; one that cannot be formed is counted as a restart. Those that a stopped chain leaves out are not
counted: R287 lets it produce none, R312 does not say (R303, R304, R309, R312; DESIGN CHOICE, log entry 300). -/
def execChainOutput (n : Fin 8) (s : State) : Host.Outcome State Fault Refusal :=
  .next (
    let c := s.chains[n]
    match linkOfChain s n with
    | none => s
    | some lw =>
      let t := outputTime c
      if !chainRuns c || !emerged s.tb.now t c.delayO then s
      else
        let p := outputPos lw c
        match aroundPos c (p / 1024) with
        | none => modChain s n fun c => { c with m := c.m + 1, restarts := satAdd 32 c.restarts 1, anchorOut := true }
        | some l =>
          let v := sat20 (roundOpen (resample (p % 1024) l))
          let s := modChain s n fun c => { c with
            m := c.m + 1, producing := true, lastRestart := if c.producing then c.lastRestart else some t
            saturations := if v.2 then satAdd 32 c.saturations 1 else c.saturations }
          emergeSample s n v.1 t false)

/-- The value of a detector's window or cycle (R307). -/
def detValue (w : BitVec 256) (a : DetAcc) : Int :=
  if detMode w = 1 then roundOpen (a.peak.getD 0)
  else if detMode w = 4 then roundOpen a.env
  else if a.n = 0 then 0
  else (rootNear (a.sum / (a.n : Rat)) : Int)

/-- DETECTOR_OUTPUT: the oldest window or cycle in its emergence stride (R306, R307, R309, R312). -/
def execDetectorOutput (n : Fin 8) (s : State) : Host.Outcome State Fault Refusal :=
  .next (
    let c := s.chains[n]
    match c.detWin, linkOfChain s n with
    | a :: rest, some lw =>
      if !chainRuns c || a.stop = 0 || !emerged s.tb.now a.stamp c.delayD then s
      else if !a.done then
        let more := if rest = [] ∧ windowMode c.setting then [windowAcc lw c c.t1 ((a.stamp - c.t1).toNat / (32 * windowLen c.setting))] else []
        modChain s n fun c => { c with detWin := rest ++ more, restarts := satAdd 32 c.restarts 1, anchorDet := true }
      else
        let v := sat20 (detValue c.setting a)
        let s := modChain s n fun c => { c with
          detWin := rest, saturations := if v.2 then satAdd 32 c.saturations 1 else c.saturations }
        emergeSample s n v.1 a.stamp true
    | _, _ => s)

/-! ## Cycles -/

/-- The running cycle ends at an instant, and the next one starts there (R308). -/
def endCycle (lw : BitVec 128) (c : Chain) (t : Time) : Chain :=
  let k := firstCond lw c ((t - c.y).toInt : Rat)
  let close (a : DetAcc) : DetAcc := if a.stop = 0 then { a with stop := k, stamp := t, done := k ≤ c.condIdx } else a
  { c with detWin := c.detWin.map close ++ [{ first := k }], cycleFrom := some t }

/-- An edge of the cycle source. The first cycle takes its samples from the first edge after T1, of two readings that R308 allows (R308; DESIGN
CHOICE, log entry 301). -/
def cycleEdge (lw : BitVec 128) (c : Chain) (t : Time) : Chain :=
  match c.cycleFrom with
  | none => if later t c.t1 then { c with cycleFrom := some t, detWin := [{ first := firstCond lw c ((t - c.y).toInt : Rat) }] } else c
  | some a =>
    let empty := firstCond lw c ((t - c.y).toInt : Rat) == firstCond lw c ((a - c.y).toInt : Rat)
    if !leads t a 256 || empty then { c with cycleMerges := satAdd 32 c.cycleMerges 1 } else endCycle lw c t

/-- The longest cycle, 2^30 strides (R308). -/
def longCycle : Time := strides (2 ^ 30)

/-- The probe channel of a chain's cycles shows the wanted edge at a time, on the sample grid (R50, R308). -/
def cycleEdgeAt (s : State) (w : BitVec 256) (t : Time) : Bool :=
  if h : bits w 176 171 < 48 then
    let c := s.chans[bits w 176 171]
    let k := bits t 7 5
    let old := if k = 0 then c.before else bit c.samples (k - 1)
    let new := bit c.samples k
    c.sampledAt == t &&& ~~~ (255 : Time) && (if bits w 170 169 = 1 then !old && new else old && !new)
  else false

/-- CYCLE_END: an edge of the cycle source at t, or a cycle that reaches 2^30 strides (R308). -/
def execCycleEnd (n : Fin 8) (t : Time) (s : State) : Host.Outcome State Fault Refusal :=
  .next (
    let c := s.chains[n]
    let t := t &&& ~~~ (31 : Time)
    let edge := cycleEdgeAt s c.setting t
    match linkOfChain s n with
    | none => s
    | some lw =>
      if !chainRuns c || detMode c.setting ≠ 3 || !past t (s.tb.now + 256) then s
      else modChain s n fun c => match c.cycleFrom with
        | none => if edge then cycleEdge lw c t else c
        | some a =>
          if past t (a + longCycle) then (if edge then cycleEdge lw c t else c)
          else
            let c := endCycle lw { c with cycleForced := satAdd 32 c.cycleForced 1 } (a + longCycle)
            if t = a + longCycle || !edge then c else cycleEdge lw c t)

/-- DC_FREEZE_HOLD_EXPIRY: the autofreeze ends when no large sample has come for the hold (R302). -/
def execDcFreezeHoldExpiry (n : Fin 8) (s : State) : Host.Outcome State Fault Refusal :=
  .next (
    let c := s.chains[n]
    if c.frozenAuto && passed s.tb.now c.lastBig (1024 * bits c.setting 203 192) then modChain s n fun c => setFreeze c c.frozenCmd false else s)

end Sys2Proof.Machine
end

