-- ==== Sys2Proof/Machine/PowerCmds.lean ====
section
/-!
DEFINITION. `power_state`, and what the device does as it enters Run, Ready, Dikewatch or Dormant.
-/

namespace Sys2Proof.Machine

/-! ## The command -/

/-- The target of a `power_state` (R444). -/
def powerTarget (e : SqEntry) : PowerSt := match bits (dw e 2) 1 0 with
  | 0 => .dormant
  | 1 => .dikewatch
  | 2 => .ready
  | _ => .run

/-- The named bits of a `power_state` (R444). -/
def powerBits (dest : PowerSt) : List Dword :=
  if dest = .dikewatch then [3, 0xFF, 0xFFFFFFFF, 0xFFFF, 0xFFFFFFFF, 0xFFFF, 0xFFFFFFFF, 0xFFFFFFFF, 0xFFFFFFFF, 1, 0xFFFFFF] else [3]

/-- The teams to be watched (R444). -/
def watchTeams (e : SqEntry) : BitVec 8 := BitVec.ofNat 8 (bits (dw e 3) 7 0)

/-- The watch (R153, R154, R444). -/
def watchOf (e : SqEntry) : PatternEntry := {
  mask := chanField e 4, value := chanField e 6, edgeAny := bit (dw e 11) 0
  edge := BitVec.ofNat 96 ((dw e 8).toNat + (dw e 9).toNat * 2 ^ 32 + (dw e 10).toNat * 2 ^ 64) }

/-- A stall is armed with `on_wake` and waits for its wake (R429). -/
def onWakeArmed (s : State) (n : Stall) : Bool :=
  s.stalls[n].cap.any fun c => c.arm.onWake && c.phase == .armed && c.ended.isNone

/-- The `on_wake` stall that owns all of some teams (R444, R511). -/
def wakeStall (s : State) (teams : BitVec 8) : Option Stall :=
  if teams = 0 then none else allStalls.find? fun n => onWakeArmed s n && (teams &&& ~~~ s.stalls[n].grant.teams) == 0

/-- What makes a `power_state` invalid: its payload, or none (R172, R409, R444). -/
def powerFault (s : State) (e : SqEntry) : Option Pay :=
  match reservedBit e (powerBits (powerTarget e)) with
  | some (d, b) => some (fieldPay d b)
  | none =>
    if powerTarget e ≠ .dikewatch then none
    else if (wakeStall s (watchTeams e)).isNone then some (fieldPay 3 0)
    else if (watchOf e).value &&& ~~~ (watchOf e).mask ≠ 0 then some (fieldPay 6 0)
    else if (watchOf e).mask = 0 ∧ (watchOf e).edge = 0 then some noField
    else none

/-- A capture that a transition to a lower state must wait for the host to end (R444). -/
def captureBars (s : State) : Bool := allStalls.any fun n => armedOrCapturing s n && !onWakeArmed s n

/-- The payload of the completion of a transition to a lower state, or to the state the device is in (R444). -/
def powerPay (dest : PowerSt) : Pay := if dest = .run then {} else { p4 := fld (powerCode dest) 0 }

/-- What a Dikewatch request sets up for the entry (R444, R511). -/
def setWatch (s : State) (e : SqEntry) : State :=
  if powerTarget e ≠ .dikewatch then s
  else { s with dike := {
    stall := wakeStall s (watchTeams e), teams := watchTeams e, watch := watchOf e, period := bits (dw e 12) 23 0 + 1
    corrupted := s.dike.corrupted } }

/-- A transition out of Dikewatch that locks the sample PLL again follows the sequence of a relock from its start (R84, R513; log entry
262). -/
def leaveDikewatch (s : State) (dest : PowerSt) : State :=
  if s.power.st = .dikewatch ∧ (dest = .ready ∨ dest = .run) then startRelock s else s

/-- The transition begins (R444, R505). -/
def beginTransition (s : State) (t : Taken) : State :=
  let s := leaveDikewatch (setWatch (handOff s t .power 0) t.e) (powerTarget t.e)
  { s with power := { s.power with target := some { dest := powerTarget t.e, when := s.tb.now, tag := tagOf t.e, cmd := true } } }

/-- A `power_state` while a transition is under way: target Run joins the wake that a hit has begun; any other is busy (R505, R516). -/
def joinTransition (s : State) (t : Taken) (p : PowerTarget) : State :=
  if powerTarget t.e = .run ∧ p.dest = .run ∧ ¬ p.cmd then
    let s := handOff s t .power 0
    { s with power := { s.power with target := some { p with cmd := true, when := s.tb.now, tag := tagOf t.e } } }
  else complete s t .busy

/-- A `power_state` in hand (R444, R505). -/
def powerCommand (s : State) (t : Taken) : State :=
  match powerFault s t.e with
  | some p => completeAt s t .invalid p
  | none =>
    if captureBars s && powerTarget t.e != .run then complete s t .busy
    else match s.power.target with
      | some p => joinTransition s t p
      | none => if s.power.st = powerTarget t.e then completeAt s t .ok (powerPay s.power.st) else beginTransition s t

/-- POWER_STATE_DORMANT (R444, R505). -/
def execPowerStateDormant (s : State) : Host.Outcome State Fault Refusal :=
  .next (withCmd s (fun t => isOp 0x68 t && powerTarget t.e == .dormant) powerCommand)

/-- POWER_STATE_DIKEWATCH (R444, R505, R511). -/
def execPowerStateDikewatch (s : State) : Host.Outcome State Fault Refusal :=
  .next (withCmd s (fun t => isOp 0x68 t && powerTarget t.e == .dikewatch) powerCommand)

/-- POWER_STATE_READY (R444, R505). -/
def execPowerStateReady (s : State) : Host.Outcome State Fault Refusal :=
  .next (withCmd s (fun t => isOp 0x68 t && powerTarget t.e == .ready) powerCommand)

/-- POWER_STATE_RUN (R444, R505). -/
def execPowerStateRun (s : State) : Host.Outcome State Fault Refusal :=
  .next (withCmd s (fun t => isOp 0x68 t && powerTarget t.e == .run) powerCommand)

/-- POWER_STATE_TIMEOUT: Run was not reached within 400 µs; the transition goes on without its command (R444, R505). -/
def execPowerStateTimeout (s : State) : Host.Outcome State Fault Refusal :=
  .next (
    match s.power.target with
    | none => s
    | some p =>
      if p.dest ≠ .run ∨ ¬ p.cmd ∨ ¬ passed s.tb.now p.when 400000 then s
      else completeTag { s with power := { s.power with target := some { p with cmd := false } } } 0 p.tag .timeout {})

/-! ## What a transition waits for -/

/-- Every job taken has run to its end: of the flash's, those that no command waits for do not count (R366, R505). -/
def jobsOver (s : State) : Bool :=
  s.groom.taken.isNone && (s.flash.ops.all fun o => o.work == .none) && s.groom.courseQ == [] && s.jobs.uploads == [] && s.jobs.loads == [] && s.jobs.cal == [] && s.jobs.tests == [] && s.jobs.waitArms == [] && s.jobs.waitKeys == [] &&
    s.flash.upd.isNone && s.flash.life.isNone && (s.groom.reads.all fun r => r.dead) && s.dram.repairing.isNone

/-- Nothing waits for the lanes, and nothing that they were given is without its acknowledgement (R238, R505). -/
def lanesQuiet (s : State) : Bool :=
  (List.finRange 4).all fun l =>
    let x := s.lanes[l]
    s.fbd.slices[l].isEmpty && s.fbd.outbox[l].isEmpty && (x.banks.toArray.toList.all fun q => q.isEmpty) && x.retry.isEmpty && x.answered.isEmpty &&
      x.p1.isEmpty && x.p2r.isEmpty && x.p2w.isEmpty

/-- The device may enter the state: at stage 4 the flash work is over, else every job is, and for Dormant the flash work too (R505,
R527). -/
def mayEnter (s : State) (dest : PowerSt) : Bool :=
  if dest = .run then true
  else if dest = .dormant ∧ s.power.supply = 4 then s.flash.ops.isEmpty
  else jobsOver s && lanesQuiet s && (dest != .dormant || s.flash.ops.isEmpty)

/-! ## Entering a state -/

/-- A wake that was waited for will not come: the watched arm ends with a reason and the ring is discarded (R458, R516). -/
def cancelWake (s : State) (reason : Nat) : State :=
  let s := match s.dike.stall with
    | none => s
    | some n => if onWakeArmed s n then tryFinish (markEnd s n reason) n else s
  { s with dike := { corrupted := s.dike.corrupted } }

/-- Channels outside some teams read 0 (R508, R511). -/
def silence (s : State) (teams : BitVec 8) : State :=
  { s with chans := vmap s.chans fun i c =>
      if bit teams (i.val / 6) then c
      else { c with
        level := false, before := false, samples := 0, trans := 0, edge := 0, line := [], base := false, overs := 0, unders := 0, dwellMet := false, checking := false } }

/-- JESD_SYNC of a link that is not up: low for an enabled 204B link (R287). -/
def syncWaits (w : BitVec 128) : Bool := !(linkEnable w && !linkC w)

/-- The JESD204 links go down; they are established anew in Run or Ready (R504, R508). -/
def dropLinks (s : State) : State :=
  { s with links := s.links.map fun x => { x with
      up := false, phase := if linkEnable x.setting then 1 else 0, aligned := 0, recent := [], lost := x.lost || x.up
      syncPin := syncWaits x.setting } }

/-- In Dormant JESD_SYNC is driven high (R570). -/
def syncHigh (s : State) : State := { s with links := s.links.map fun x => { x with syncPin := true } }

/-- Out of Dormant the links are established anew (R287, R504). -/
def syncResume (s : State) : State := { s with links := s.links.map fun x => { x with syncPin := syncWaits x.setting } }

/-- Every Quera port goes down at once, its block lock and its messages with it: a break at both rings (R500, R501, R508). -/
def queraDown (s : State) : State :=
  let d := { s with quera := { s.quera with ports := s.quera.ports.map fun q => { lockLost q with queue := [] } } }
  if oneUp s false || oneUp s true then reconverge s d (if oneUp s false then 0 else 2) else d

/-- The tiles of some ports keep termination, bias and Pp_PWR; the others are as in Dormant, and a descriptor read without power starts again
from the settling (R57, R508). -/
def tilesOn (s : State) (ports : BitVec 6) : State :=
  { s with
    pins := { s.pins with terminated := ports }
    ports := vmap s.ports fun p x => { x with
      pwr := x.present && !x.overcurrent && bit ports p.val
      phase := if x.phase = .reading ∧ !bit ports p.val then .settling else x.phase } }

/-- The refreshes of the usable lanes start, a quarter interval apart (R255, R262). -/
def startRefresh (s : State) (l : Fin 4) : State :=
  modLane s l fun x => { trained x with
    nextRefresh := s.tb.now + BitVec.ofNat 64 (l.val * (refi x.hot / 4)), nextDqs := s.tb.now + strides (2 * ms) }

/-- The full training of a lane copies the row that it writes patterns into to the repair buffer, and puts it back afterwards; which row that is
stays open (R265; log entry 294). -/
def trainPattern (s : State) (l : Fin 4) : State :=
  let v := drawFree s
  let row := v.1.truncate 21
  bufferToRow (rowToBuffer v.2 l row) l row

/-- The lanes leave self-refresh and are trained; those that fail become unstable (R265, R275). -/
def wakeLanes (s : State) (bad : BitVec 4) : State :=
  let s := (usableLanes s).foldl (fun s l => startRefresh (trainPattern s l) l) { s with dram := { s.dram with selfRefresh := false, refreshBase := s.tb.now } }
  ((usableLanes s).filter fun l => bit bad l.val).foldl markUnstable s

/-- DRAM in self-refresh, the chains stopped (R504, R506). -/
def restDevice (s : State) : State := stopChains { s with dram := { s.dram with selfRefresh := true } } 0xFF

/-- Ready (R504 to R506, R516). -/
def enterReady (s : State) : State :=
  let s := if s.power.st = .dikewatch then leaveBypass (tilesOn (cancelWake s 3) 0x3F) else s
  { restDevice s with power := { s.power with st := .ready, target := none } }

/-- Dikewatch: the sampler starts with the states as they stand (R500, R504, R508, R511, R512). -/
def enterDikewatch (s : State) : State :=
  let s := dropLinks (queraDown (restDevice s))
  let s := tilesOn (silence s s.dike.teams) (portsOf s.dike.teams)
  let m := maskOf 48 fun i => if h : i < 48 then chLive s.chans[i] && s.chans[i].level else false
  { s with
    tb := { s.tb with bypass := true }
    dike := { s.dike with entry := s.tb.now, chain := s.tb.now, prev := m, states := m }
    power := { s.power with st := .dikewatch, target := none } }

/-- Playback slices hold nothing after Dormant; those still held are filled anew in Run (R340, R507). -/
def dropSlice (x : StallState) : StallState := { x with ref := { x.ref with asked := 0, came := [], slice := [] } }

/-- Uploads and loads that are still there lose their buffers: they end with `shed`, at most k uploads (R326, R507, R521). -/
def shedUploads : Nat → State → State
  | 0, s => s
  | k + 1, s =>
    match s.jobs.uploads with
    | [] => s
    | u :: _ => shedUploads k (endUpload s u .shed)

/-- A capture whose closures have not come to their end is over: its segments without a header are lost (R238). -/
def loseCapture (s : State) (n : Stall) : State :=
  match s.stalls[n].cap with
  | none => s
  | some c =>
    if c.arm.onWake ∧ c.phase = .armed ∧ c.ended.isNone then s
    else stopEngine (modStall s n fun x => { x with
      cap := none, held := x.held.filter fun h => h.closed, st := if x.st = .resetting then .resetting else .idle }) n

/-- The parcels of which a lane holds wipe writes not yet acknowledged. -/
def wipesOpen (x : Lane) : List Nat := x.retry.filterMap fun c => match c.wr with
  | some w => (match w.owner with
    | .wipe p => some p
    | _ => none)
  | none => none

/-- A lane whose queues hold nothing; a parcel of which a wipe write is dropped is wiped anew (R371, R373, R507). -/
def emptyLane (x : Lane) : Lane := { x with
  wiped := x.wiped.filter fun p => !(wipesOpen x).contains p, wipeAt := if wipesOpen x = [] then x.wipeAt else 0, repairBuf := []
  banks := Vector.replicate 16 [], p1 := [], p2r := [], p2w := [], p3r := [], p3w := [], scrubbing := none, retry := [], answered := [], replaying := [], alert := false }

/-- What is not retained in Dormant is gone, and what runs has stopped (R28, R507, R508). -/
def sleepDevice (s : State) : State :=
  let s := allStalls.foldl loseCapture (shedUploads s.jobs.uploads.length s)
  let s := syncHigh (dropLinks (queraDown (restDevice s)))
  let s := tilesOn (silence s 0) 0
  { s with
    fbd := {}, lanes := s.lanes.map emptyLane, stalls := s.stalls.map dropSlice
    pcie := { s.pcie with linkUp := false }
    pins := { s.pins with trigOut := false, refOut := false } }

/-- Dormant: system time stops at its value (R88, R504, R507, R508, R516). The references' qualification, selection and runs of gates stay as they
stood on entry: the model's choice, R70 does not say (DESIGN CHOICE, log entry 261). -/
def enterDormant (s : State) : State :=
  let s := sleepDevice (cancelWake s 3)
  { s with
    tb := { s.tb with timeValid := false, gatesRun := false, bypass := false }
    power := { s.power with st := .dormant, target := none, dormantAt := s.tb.now } }

/-- Run from Ready; the slices still held are filled (R265, R340, R505). -/
def enterRun (s : State) (bad : BitVec 4) : State :=
  let s := wakeLanes { s with power := { s.power with st := .run, target := none } } bad
  allStalls.foldl (fun s n => if holdsSlice s.stalls[n] && s.stalls[n].ref.play.isNone && s.stalls[n].ref.slice == [] then fillSlice s n else s) s

/-- The transition time in µs (R444); how a fraction rounds is open. -/
def transitionTime (s : State) (p : PowerTarget) : Nat :=
  (roundOpen (((s.tb.now - p.when).toNat : Rat) / 256000)).toNat

/-- The end of a transition by command to a state below (R444). -/
def completeLower (s : State) (p : PowerTarget) : State :=
  if p.cmd ∧ p.dest ≠ .run then completeTag s 0 p.tag .ok (powerPay p.dest) else s

/-- The completion for Run, written in Run (R444). -/
def completeRun (s : State) (p : PowerTarget) : State :=
  if p.cmd then completeTag s 0 p.tag .ok { p5 := fld (transitionTime s p) 0 } else s

/-- The state entered. -/
def enterState (s : State) (p : PowerTarget) (bad : BitVec 4) : State :=
  match p.dest with
  | .dormant => enterDormant s
  | .dikewatch => enterDikewatch s
  | .ready => enterReady s
  | .run => completeRun (enterRun s bad) p
  | .off => s

end Sys2Proof.Machine
end

