-- ==== Sys2Proof/Machine/Shed.lean ====
section
/-!
DEFINITION. Supply sag and heat: the stages and their actions, stage 4, the thermal trip, and the end of a power transition.
-/

namespace Sys2Proof.Machine

/-! ## The actions of the stages -/

/-- The answers to reads of the buffers of `reference_load` are discarded (R521). -/
def dropBuffers (s : State) : State :=
  modGroom s fun g => { g with reads := g.reads.map fun r => if r.purpose == .bales then { r with dead := true } else r }

/-- The `shed` marker of a stage in every capturing stall (R116, R521). -/
def shedMarkers (s : State) (stage : Nat) : State :=
  allStalls.foldl (fun s n => marker s n 8 s.tb.now (BitVec.ofNat 64 (stage - 1))) s

/-- Stage 1: uploads and loads stop (R326, R330, R521). -/
def stageOne (s : State) : State :=
  let s := stopUploads s (fun _ => true) .shed
  let s := s.jobs.loads.foldl (fun s j => endLoad s j .shed {}) (dropBuffers s)
  shedMarkers s 1

/-- Starts of playback that are pending are cancelled (R521). -/
def cancelStarts (s : State) (n : Stall) : State :=
  let r := s.stalls[n].ref
  let s := modRef s n fun r => { r with timed := none, queued := none }
  let s := match r.timed with
    | some t => refFault s n 3 0 t.when
    | none => s
  match r.queued with
    | some t => refFault s n 3 0 t.when
    | none => s

/-- Stage 2: playback and the chains stop (R159, R341, R521). -/
def stageTwo (s : State) : State :=
  let s := allStalls.foldl (fun s n => cancelStarts (abortPlayback s n 3) n) s
  shedMarkers (stopChains s 0xFF) 2

/-- Stage 3: captures close, with the cause and reason of a sag or of heat (R237, R521, R525). -/
def stageThree (s : State) (heat : Bool) : State :=
  let s := { s with power := { s.power with stage3At := s.tb.now } }
  if heat then shedClose s 3 0x06 5 else shedClose s 3 0x04 4

/-- The actions of a stage; stage 4 has its own row (R521). -/
def stageAction (heat : Bool) (s : State) (k : Nat) : State :=
  let s := { s with power := { s.power with done := k } }
  if k = 1 then stageOne s else if k = 2 then stageTwo s else stageThree s heat

/-- The actions up to the effective stage that are not yet done, in order (R521). -/
def runStages (s : State) (heat : Bool) : State :=
  ([1, 2, 3].filter fun k => s.power.done < k && k ≤ shedStage s).foldl (stageAction heat) s

/-! ## The events -/

/-- Stalls that a change of stage concerns: with a capture armed, or with an outstanding job (R455). -/
def shedStalls (s : State) : List Stall := allStalls.filter fun n => armedOrCapturing s n || s.stalls[n].outst != []

/-- `supply_shed`, when the effective stage is no longer the one told last (R463, R522; log entry 307). -/
def shedEvent (s : State) (src : Nat) : State :=
  let old := s.power.told
  if shedStage s = old then s
  else sendEvents { s with power := { s.power with told := shedStage s } } (deviceEvent 0x0B (withPf (shedStalls s)) s.tb.now
    (fld src 4 ||| flag (decide (old < shedStage s)) 3 ||| fld (shedStage s) 0) (fld s.power.vdd.toNat 0) 0 0)

/-- `thermal` (R462). -/
def thermalEvent (s : State) (cause : Nat) : State :=
  sendRated s { code := 0x0A, sub := cause, fn := 0 } (1000 * ms)
    (deviceEvent 0x0A (withPf (armedStalls s)) s.tb.now (fld s.power.thermal 8 ||| fld cause 0) (fld s.power.tj.toNat 0) 0 0)

/-! ## The supply -/

/-- The core is in use: out of reset and not in Dormant. -/
def awake (s : State) : Bool := s.boot.phase != .inReset && s.power.st != .dormant

/-- Actions of stages that have been left are to be done again when they are entered anew (R521). -/
def undone (s : State) : State := { s with power := { s.power with done := min s.power.done (shedStage s) } }

/-- SHED_STAGE_ENTER: a supply stage is entered; in reset and in Dormant the monitor only keeps it (R520 to R523). -/
def execShedStageEnter (n : Fin 5) (src : BitVec 4) (mv : BitVec 16) (s : State) : Host.Outcome State Fault Refusal :=
  .next (
    if n.val ≤ s.power.supply then s
    else
      let s := { s with power := { s.power with
        vdd := mv, supply := n.val, supplySrc := if s.power.supply = 0 ∨ n.val = 4 then src else s.power.supplySrc } }
      if awake s then runStages (shedEvent s src.toNat) false else s)

/-- SHED_STAGE_LEAVE: the supply falls to stage n with one event, whose source is the condition of the stage it was in; stage 4 is not left
(R520, R522). -/
def execShedStageLeave (s : State) (n : Fin 4 := 0) (mv : BitVec 16 := 750) : Host.Outcome State Fault Refusal :=
  .next (
    if s.power.supply ≤ n.val ∨ s.power.supply = 4 then s
    else
      let src := if s.power.supply = 1 then s.power.supplySrc.toNat else 2
      let s := undone { s with power := { s.power with vdd := mv, supply := n.val } }
      if awake s then shedEvent s src else s)

/-- The closures of R237 are complete, or 50 µs have passed (R238). -/
def closuresOver (s : State) : Bool := (allStalls.all fun n => s.stalls[n].cap.isNone) || passed s.tb.now s.power.stage3At 50000

/-- The completion of a transition that stage 4 overtakes; one to Dormant goes on (R505, R516). -/
def overtake (s : State) : State :=
  match s.power.target with
  | none => s
  | some p =>
    if p.dest = .dormant ∨ ¬ p.cmd then s
    else completeTag s 0 p.tag (if p.dest = .run then .timeout else .aborted) {}

/-- The transition to Dormant of stage 4; a `power_state` for Dormant under way ends with it. -/
def dormantTarget (s : State) : PowerTarget := match s.power.target with
  | some p => if p.dest = .dormant then p else { dest := .dormant, when := s.tb.now }
  | none => { dest := .dormant, when := s.tb.now }

/-- Flash work at stage 4: the update is aborted, no further page of a breach map, the entry of the shed (R446, R527, R536). -/
def shedFlash (s : State) : State :=
  let s := abortUpdate s
  let s := { s with flash := { s.flash with ops := s.flash.ops.filter fun o => o.entry.isSome } }
  if flashReachable s then queueJournal s 3 (fld 4 0 ||| fld s.power.supplySrc.toNat 4 ||| fld s.power.vdd.toNat 16) .none else s

/-- STAGE4_BEGIN; during a boot its steps stop with it, and no entry is written before the flash is reached (R238, R501, R521, R527; log entry
288). -/
def execStage4Begin (s : State) : Host.Outcome State Fault Refusal :=
  .next (
    if s.power.supply ≠ 4 ∨ ¬ awake s ∨ s.power.tripped ∨ ¬ closuresOver s ∨
        s.power.target.any (fun p => p.dest == .dormant && !p.cmd) then s
    else
      let p := { dormantTarget s with cmd := false }
      let ended := s.power.target.any fun q => q.dest == .dormant && q.cmd
      let s := if ended then completeTag s 0 p.tag .ok (powerPay .dormant) else overtake s
      let s := queraDown { s with dram := { s.dram with selfRefresh := true }, power := { s.power with target := some p } }
      shedFlash s)

/-! ## Heat -/

/-- The thermal stage that a junction temperature enters: 100, 104 and 108 °C in quarter degrees (R525). -/
def heatStage (q : Int) : Nat := if 432 ≤ q then 3 else if 416 ≤ q then 2 else if 400 ≤ q then 1 else 0

/-- A thermal stage is entered: its events, then its actions with the causes of heat (R462, R463, R525). -/
def enterHeat (s : State) (k : Nat) : State :=
  let s := { s with power := { s.power with thermal := k, peakStage := max s.power.peakStage k } }
  let s := thermalEvent s (if k = 3 then 3 else 1)
  runStages (shedEvent s 4) true

/-- The highest of the sensors' readings (R524). -/
def hottest (q : Vector (BitVec 16) 8) : BitVec 16 := q.toArray.toList.foldl (fun a b => if a.toInt < b.toInt then b else a) q[0]

/-- The leaving temperature of a stage: 96, 100 and 102 °C in quarter degrees (R525). -/
def leaveBelow (k : Nat) : Int := if k = 1 then 384 else if k = 2 then 400 else 408

/-- The sensors' readings: Tj, and since when it has stayed below each leaving temperature (R524, R525). -/
def sampleTj (s : State) (q : Vector (BitVec 16) 8) : State :=
  { s with power := { s.power with
    sensors := q, tj := hottest q
    cool := vmap s.power.cool fun k since => if (hottest q).toInt < leaveBelow (k.val + 1) then some (since.getD s.tb.now) else none } }

/-- A sample of a die whose core is powered: the sensors and VDD_CORE, from which the events of heat take it (R416, R463, R524; log entry 311). -/
def sampleDie (s : State) (q : DieIn) : State :=
  let s := sampleTj s q.sensors
  { s with power := { s.power with vdd := q.vdd } }

/-- TJ_SAMPLE; after a trip it only tells when a wake may be acted on (R416, R509, R524, R525). -/
def execTjSample (q : DieIn) (s : State) : Host.Outcome State Fault Refusal :=
  .next (
    if s.power.tripped ∧ s.power.st = .dormant then sampleTj s q.sensors
    else if !awake s then s
    else
      let s := sampleDie s q
      let k := heatStage s.power.tj.toInt
      if s.power.thermal < k then enterHeat s k else s)

/-- A thermal stage's leaving condition is met: Tj has stayed below its leaving temperature for 1 s (R525). -/
def cooled (s : State) (k : Fin 3) : Bool := s.power.cool[k].any fun t => passed s.tb.now t (1000 * ms)

/-- The thermal stage that the heat falls to: the highest of those entered whose leaving condition is not met (R522). -/
def heatLeft (s : State) : Nat :=
  ((List.finRange 3).filter fun k => decide (k.val < s.power.thermal) && !cooled s k).foldl (fun m k => max m (k.val + 1)) 0

/-- The `thermal` events of a fall from a stage: the cooling below stage 2 after stage 3, and the end of the heat (R525). -/
def fallEvents (s : State) (old peak : Nat) : State :=
  let s := if 2 ≤ old ∧ s.power.thermal ≤ 1 ∧ 3 ≤ peak then thermalEvent s 4 else s
  if s.power.thermal = 0 then thermalEvent s 2 else s

/-- THERMAL_STAGE_LEAVE: leaving conditions are met; a trip is left by a boot alone (R522, R525, R529). -/
def execThermalStageLeave (s : State) : Host.Outcome State Fault Refusal :=
  .next (
    let k := heatLeft s
    if s.power.thermal ≤ k ∨ s.power.thermal = 4 ∨ ¬ awake s then s
    else
      let old := s.power.thermal
      let peak := s.power.peakStage
      let s := undone { s with power := { s.power with thermal := k, peakStage := if k ≤ 1 then k else peak } }
      shedEvent (fallEvents s old peak) 4)

/-- The flash at a thermal trip: what its program had begun is there, the update is aborted without a completion, and nothing more is written
(R446, R529). -/
def tripFlash (s : State) (fl : FlashAt) : State :=
  let s := match s.flash.upd with
    | none => s
    | some u => setUpd s (some { u with ended := true })
  let s := match s.flash.ops, fl with
    | o :: _, .recorded => abortUpdate (programmed s o false)
    | o :: _, .committed => if o.work = Work.update then setUpd (programmed s o true) none else abortUpdate (programmed s o true)
    | _, _ => abortUpdate s
  { s with flash := { s.flash with noMore := true, ops := [] } }

/-- THERMAL_TRIP: no new flash command, stage 4 of heat with the actions not yet done, THERM_TRIP# and TRIG_OUT low, the always-on record, then
Dormant (R446, R521, R525, R529). -/
def execThermalTrip (s : State) (fl : FlashAt := .nothing) (mv : BitVec 16 := 750) : Host.Outcome State Fault Refusal :=
  .next (
    if !awake s || s.power.tripped then s
    else
      let s := tripFlash s fl
      let s := { s with power := { s.power with vdd := mv, thermal := 4, peakStage := 4 } }
      let s := queraDown (runStages (shedEvent s 4) true)
      { s with
        power := { s.power with tripped := true, target := some { dest := .dormant, when := s.tb.now } }
        sec := { s.sec with recTrip := some s.power.tj }
        pins := { s.pins with thermTrip := true, trigOut := false } })

/-! ## The end of a transition -/

/-- The core is held in reset after a trip, with its record in the always-on domain, which keeps the ports that may wake it (R509,
R529). -/
def finishTrip (s : State) : State :=
  let ports := s.quera.portEnable
  let s := coreReset s
  { s with
    power := { s.power with st := .dormant, tripped := true }
    quera := { s.quera with portEnable := ports } }

/-- POWER_TRANSITION_DONE: the state under way is entered; a wake from Dikewatch to Run ends with its own row (R444, R505, R527, R529). -/
def execPowerTransitionDone (bad : BitVec 4) (s : State) : Host.Outcome State Fault Refusal :=
  .next (
    match s.power.target with
    | none => s
    | some p =>
      if s.power.tripped then (if closuresOver s then finishTrip s else s)
      else if (s.power.st = .dikewatch ∧ p.dest = .run) ∨ ¬ mayEnter s p.dest then s
      else enterState (completeLower s p) p bad)

end Sys2Proof.Machine
end

