-- ==== Sys2Proof/Machine/Dikewatch.lean ====
section
/-!
DEFINITION. Dikewatch: the low-power sampler, its ring, the hit and the wake to Run; and the wake from Dormant.
-/

namespace Sys2Proof.Machine

/-! ## The sampler -/

/-- The states of the watched channels at the start of a stride (R39, R511). -/
def dikeStates (s : State) (inp : StrideIn) : ChanMask :=
  maskOf 48 fun i => if h : i < 48 then
    bit s.dike.teams (i / 6) && chLive s.chans[i] &&
      (if bit inp.up[i] 0 then true else if bit inp.down[i] 0 then false else bit s.dike.prev i)
  else false

/-- The watch is true in a sample, from the states before it (R153, R154, R511). -/
def watchTrue (p : PatternEntry) (a b : ChanMask) : Bool :=
  let ok (c : Fin 48) : Bool := accepts (qualifier p c.val) (bit a c.val) (bit b c.val)
  patternLevel p b && ((qualified p).isEmpty || (if p.edgeAny then (qualified p).any ok else (qualified p).all ok))

/-! ## The ring -/

/-- Records of the ring (R512). -/
def ringRecords : Nat := 116496

/-- Blocks of the ring (R512). -/
def ringBlocksAll : Nat := 7281

/-- The block of absolute record k begins a stretch of 64: its index in the ring is a multiple of 64 (R512). -/
def specialBlock (k : Nat) : Bool := k / 16 % ringBlocksAll % 64 == 0

/-- A record into the ring (R512). -/
def ringPut (d : DikeRing) (r : Rec) : DikeRing := { d with recs := (r :: d.recs).take ringRecords, count := d.count + 1 }

/-- A keyframe, kept whole within a block that it must begin (R121, R512). -/
def ringKey (d : DikeRing) (t : Time) : DikeRing :=
  let d := if d.count % 16 = 15 ∧ specialBlock (d.count + 1) then ringPut d 0 else d
  { ringPut (ringPut d (anchorRec 0 t)) (stateRec 4 d.states 0) with chain := t }

/-- A walk record; at the start of a block that must begin with a keyframe, the keyframe that gives the same states (R120, R512). -/
def ringWalk (d : DikeRing) (t : Time) (m : ChanMask) : DikeRing :=
  let d := { d with states := m }
  if d.count % 16 = 0 ∧ specialBlock d.count then ringKey d t
  else { ringPut d (stateRec 4 m (strideOf (t - d.chain) / d.period)) with chain := t }

/-- Strides since the entry. -/
def dikeStride (d : DikeRing) (t : Time) : Nat := strideOf (t - d.entry)

/-- What a period boundary writes: a keyframe at the entry and every 65,536 periods, else a walk record when a state has changed
(R106, R512). -/
def ringPeriod (d : DikeRing) (t : Time) : DikeRing :=
  let k := dikeStride d t
  if k % d.period ≠ 0 then d
  else if k / d.period % 65536 = 0 then ringKey { d with states := d.prev } t
  else if d.prev = d.states then d
  else ringWalk d t d.prev

/-- The start of the period that holds a stride. -/
def periodStart (d : DikeRing) (t : Time) : Time := d.entry + strides (dikeStride d t / d.period * d.period)

/-- The keyframe of the period that holds the hit, unless the ring's newest records are that keyframe (R512). -/
def ringHit (d : DikeRing) (t : Time) : DikeRing :=
  let p := periodStart d t
  if d.recs.take 2 = [stateRec 4 d.states 0, anchorRec 0 p] then d else ringKey d p

/-- A hit starts the wake, or joins the one by `power_state`; in a transition to another state it comes too late (R513, R516). -/
def startWake (s : State) : State :=
  let hit (d : DikeRing) : DikeRing := { ringHit d s.tb.now with hit := some s.tb.now }
  match s.power.target with
  | none =>
    let s := leaveDikewatch s .run
    { s with dike := hit s.dike, power := { s.power with target := some { dest := .run, when := s.tb.now, hit := true } } }
  | some p => if p.dest = .run then { s with dike := hit s.dike, power := { s.power with target := some { p with hit := true } } } else s

/-- DIKEWATCH_SAMPLE: the stride's sample, what it writes into the ring, and the hit (R511 to R513, R515). -/
def execDikewatchSample (inp : StrideIn) (s : State) : Host.Outcome State Fault Refusal :=
  .next (
    if s.power.st ≠ .dikewatch ∨ s.dike.stall.isNone ∨ s.dike.seen = some s.tb.now then s
    else
      let old := s.dike.prev
      let m := dikeStates s inp
      let s := { s with dike := ringPeriod s.dike s.tb.now }
      let s := if s.dike.hit.isNone && watchTrue s.dike.watch old m then startWake s else s
      { s with dike := { s.dike with prev := m, seen := some s.tb.now } })

/-! ## The copy -/

/-- The ring's records, oldest first; those at lost places are replaced by fill (R404, R512). -/
def ringList (d : DikeRing) (lost : List Nat) : List Rec :=
  let first := d.count - d.recs.length
  (d.recs.reverse.zipIdx).map fun x => if lost.contains ((first + x.2) % ringRecords) then 0 else x.1

/-- Records before the oldest block that must begin with a keyframe and survives whole (R514). -/
def copySkip (d : DikeRing) : Nat :=
  let first := d.count - d.recs.length
  let b := ceilDiv first 16
  match (List.range 65).find? fun i => specialBlock (16 * (b + i)) with
  | some i => 16 * (b + i) - first
  | none => d.recs.length

/-- The records copied (R514). -/
def copied (d : DikeRing) (lost : List Nat) : List Rec := (ringList d lost).drop (copySkip d)

/-- Times of the keyframes of a Walk stream (R121). -/
def keyTimes : List Rec → List Time
  | a :: b :: l =>
    if a.toNat / 2 ^ 64 = 0x10 ∧ recType b = 4 ∧ bits b 19 0 = 0 then BitVec.ofNat 64 (bits a 63 0) :: keyTimes (b :: l)
    else keyTimes (b :: l)
  | _ => []

/-- The copied blocks: the marker `dikewatch` and its detail, then the records (R116, R514). -/
def copyRecs (d : DikeRing) (l : List Rec) (t : Time) : List Rec :=
  markerRec 0xE t :: detailRec 0xE (BitVec.ofNat 64 ((d.period - 1) * 2 ^ 40 + l.length)) :: l

/-- One copied block is placed ahead of the stall's gait blocks, outside its credits (R212, R514). -/
def placeCopy (n : Stall) (s : State) (x : List Rec × Nat) : State :=
  match s.stalls[n].cap with
  | none => s
  | some c =>
    let g := s.stalls[n].grant
    let blk := devBlock g ((c.seg.start + 1 + x.2) % polderSize g)
    match laneOf s blk with
    | none => s
    | some l =>
      let s := putSlice s l { stall := n, uid := c.seg.uid, blk := blk, recs := x.1, part := .ring, when := s.tb.now }
      modCap s n fun c => { c with seg := { c.seg with unacked := c.seg.unacked + 1 } }

/-- The copied ring stands at the head of the segment just opened (R192, R203, R514). -/
def headSegment (n : Stall) (d : DikeRing) (l : List Rec) (extra : Nat) (s : State) : State :=
  let stored := (courseOf s n).startStored
  let keys := keyTimes l
  let s := modCap s n fun c => { c with
    seg := { c.seg with ringBlocks := extra, kf := keys.map fun t => { block := 2 ^ 60, time := t } }
    segStrides := match keys with
      | [] => c.segStrides
      | t :: _ => [{ first := t, upto := if stored then none else some s.tb.now }] }
  ((blocksOf (copyRecs d l (keys.headD s.tb.now)) extra).zipIdx).foldl (placeCopy n) s

/-- The trigger that the hit requests; no pre-trigger policy masks it (R514). -/
def hitTrigger (s : State) (n : Stall) (d : DikeRing) : State :=
  match d.hit, s.stalls[n].cap with
  | some h, some c => takeTrigger s n c { time := h, kind := 0, exact := false, source := some (0, 0), firing := h }
  | _, _ => s

/-- The watched stall's first segment opens at F, or its arm ends (R429, R514, R516). -/
def openWake (s : State) (d : DikeRing) (lost : List Nat) (seed : SeedIn) : State :=
  match d.stall with
  | none => s
  | some n =>
    match s.stalls[n].cap with
    | none => s
    | some c =>
      if !onWakeArmed s n then s
      else if 2 ≤ shedStage s then tryFinish (markEnd s n 4) n
      else if !admits s n (c.demand + c.play) then tryFinish (markEnd s n 8) n
      else
        let l := copied d lost
        let extra := ceilDiv (2 + l.length) 16
        match makeRoom (applyRetire s n) n c extra with
        | (s, none) => tryFinish (markEnd s n 2) n
        | (s, some ring) => hitTrigger (openWith s n seed ring (headSegment n d l extra)) n d

/-- The comparators' states as their tiles come back: watched channels go on from the sampler, the others from the ball against VTT. -/
def resumeChans (s : State) (watched : ChanMask) (teams : BitVec 8) (seed : SeedIn) : State :=
  { s with chans := vmap s.chans fun i c =>
      if !chLive c then c
      else
        let b := if bit teams (i.val / 6) then bit watched i.val else bit seed.above i.val
        { restartDwell c s.tb.now with level := b, before := b, samples := if b then 0xFF else 0, trans := 0, edge := 0, line := [], base := b, overs := 0, unders := 0 } }

/-- DIKEWATCH_WAKE_DONE: stride F: the clocks are back, the lanes trained, the device in Run, the first segment open (R83, R88, R265,
R404, R505, R513, R514, R516). -/
def execDikewatchWakeDone (ecc : Ecc) (lost : List Nat) (bad : BitVec 4) (seed : SeedIn) (s : State) :
    Host.Outcome State Fault Refusal :=
  .next (
    match s.power.target with
    | none => s
    | some p =>
      if s.power.st ≠ .dikewatch ∨ p.dest ≠ .run then s
      else
        let d := s.dike
        let s := if ecc = .corrected then countSram s 7 else s
        let s := { s with dike := { corrupted := satAdd 32 d.corrupted lost.length } }
        let s := leaveBypass (tilesOn (resumeChans s d.prev d.teams seed) 0x3F)
        openWake (completeRun (enterRun s bad) p) d lost seed)

/-! ## Wake from Dormant -/

/-- A wake source that counts: the PCIe receiver, or a Quera port enabled on entry (R509). -/
def wakeCounts (s : State) : WakeSrc → Bool
  | .pcie => true
  | .quera p => bit s.quera.portEnable p.val

/-- Every pod present is treated as a new plug (R57, R509). -/
def replug (old : Vector PodPort 6) (s : State) (p : Fin 6) : State := if old[p].present then recognisePlug s p s.tb.now else s

/-- The Ready state that a wake from Dormant enters, with the sequence of a relock, what was held in Dormant, the change of the shed stage, and
the safe halt for a bank that could not be wiped; `ecc` gives what the waiting entries of a stall's store read as (R84, R88, R404, R507 to R510,
R520, R522, R553). -/
def wakeReady (s : State) (cycles : Nat) (seed : SeedIn) (ecc : List (Fn × List Ecc)) : State :=
  let t := s.power.dormantAt + BitVec.ofNat 64 (cycles * 7812500)
  let src := s.power.supplySrc.toNat
  let old := s.ports
  let s := { s with
    tb := { s.tb with now := t &&& ~~~ (255 : Time), timeValid := true, timeEstimated := true, gatesRun := !s.tb.aonFault }
    pcie := { s.pcie with linkUp := true }
    power := { s.power with st := .ready }
    pins := { s.pins with refOut := true } }
  let s := undone (leaveStage4 s)
  let s := giveHeld (resumeChans (tilesOn (syncResume s) 0x3F) 0 0 seed)
  let s := (List.finRange 6).foldl (replug old) s
  let s := allStalls.foldl (fun s n => drain (queueEcc s n (((ecc.find? fun x => x.1 == n).map fun x => x.2).getD [])) n) (leaveBypass (startRelock { s with tb := { s.tb with bypass := true } }))
  let s := runStages (shedEvent s src) false
  if s.sec.wipeBad then safeHalt { s with sec := { s.sec with wipeBad := false } } 12 4 else s

/-- DORMANT_WAKE: to Ready, or to a full boot: after a trip, below 95 °C, and for a device that went to Dormant before step 12 or in the safe
halt (R88, R505, R509, R529, R542; log entry 288). -/
def execDormantWake (src : WakeSrc) (cycles : Nat) (w : WakeIn) (s : State) : Host.Outcome State Fault Refusal :=
  .next (
    if s.power.st ≠ .dormant ∨ ¬ wakeCounts s src then s
    else if s.power.tripped then (if s.power.tj.toInt < 380 then startBoot (coreReset s) else s)
    else if s.boot.phase ≠ .ready then startBoot (coreReset s)
    else wakeReady s cycles w.seed w.ecc)

end Sys2Proof.Machine
end

