-- ==== Sys2Proof/Machine/Groom.lean ====
section
/-!
DEFINITION. The Groom's turn: the rotation over the submission rings, the limits of a stall, the taking of an entry, and the checks
every command passes before its own.
-/

namespace Sys2Proof.Machine

/-- The ring of a function holds an entry that the Groom may take (R376, R377, R388, R392, R396). -/
def ringPending (s : State) (f : Fn) : Bool :=
  let r := s.fns[f]
  fnExists s f && r.sqEnable && !r.fault && !r.sqStopped && !r.d3 && s.pcie.linkUp && r.sqHead.toNat != bits r.sqTail 11 0

/-- Commands of a function that are outstanding: those at work and those whose completion is not yet written, the ones with a duplicate
tag included (R362). -/
def outstanding (s : State) (f : Fn) : Nat :=
  s.stalls[f].outst.length + (s.stalls[f].store.filter fun e => e.kind == .completion && e.dup).length

/-- Commands outstanding in the whole device (R24, R31). -/
def outstandingAll (s : State) : Nat := (allStalls.map fun n => outstanding s n).sum

/-- The millisecond of system time (R362). -/
def msPeriod (t : Time) : Nat := strideOf t / ms

/-- Commands of a function taken in the current millisecond (R362). -/
def takenNow (s : State) (f : Fn) : Nat :=
  if s.fns[f].ratePeriod.toNat = msPeriod s.tb.now then s.fns[f].rateTaken else 0

/-- The function's next entry may be taken: the limits of its stall and the device's 1,024 commands hold (R24, R31, R362, R394, log entry
241). -/
def eligible (s : State) (f : Fn) : Bool :=
  ringPending s f && outstanding s f < s.stalls[f].grant.outstanding && takenNow s f < s.stalls[f].grant.rate &&
    outstandingAll s < 1024

/-- The function whose turn it is: the first eligible one from the rotation's position onward (R26). -/
def turnOf (s : State) : Option Fn := ((List.range 64).map fun k => s.groom.rotation + Fin.ofNat 64 k).find? fun f => eligible s f

/-- The Groom takes commands: boot step 12 reached or the safe halt, in a state in which it runs, with no command in hand (R366,
R376, R507). -/
def groomRuns (s : State) : Bool :=
  (s.boot.phase == .ready || s.boot.phase == .halted) && s.power.st != .dormant && s.groom.taken.isNone

/-- The state of a named stall; 64 and above are always absent (R406). -/
def stallSt (s : State) (n : Nat) : StallSt := if h : n < 64 then s.stalls[n].st else .absent

/-- How a command fares in the common checks (R408). -/
inductive Verdict where
  | pass
  | fail (st : Status) (p : Pay)
  | violate (r : Reason) (resource index : Nat)
  deriving DecidableEq, Repr

/-- The stall, generation and privilege checks (R351). -/
def stallChecks (s : State) (f : Fn) (e : SqEntry) : Verdict :=
  let n := namedStall e
  let op := opcode e
  let mgmt := 0x10 ≤ op ∧ op ≤ 0x14
  if f ≠ 0 ∧ n ≠ f.val then .violate .otherStall 6 n
  else if f = 0 ∧ n ≠ 0 ∧ ¬ mgmt then .violate .otherStall 6 n
  else if stallSt s n = .absent ∧ op ≠ 0x01 ∧ op ≠ 0x10 then .violate .noStall 6 n
  else if stallSt s n = .resetting ∧ op ≠ 0x01 then .fail .busy {}
  else if genField e ≠ genOf s n ∧ op ≠ 0x01 then .fail .staleGeneration {}
  else if f ≠ 0 ∧ pfOnly op then .violate .privileged 0 0
  else .pass

/-- Payload dword 5 of an `invalid` whose fault lies in the entry: `course_load` and `reference_load` carry there that no offset is given
(R409). -/
def noOffset (op : Nat) : Dword := if op = 0x30 ∨ op = 0x48 then 0xFFFFFFFF else 0

/-- The checks of R408 in order, the unknown opcode left to UNKNOWN_OPCODE and the tag to `dupTag`. -/
def commonChecks (s : State) (f : Fn) (e : SqEntry) : Verdict :=
  let op := opcode e
  if op ∉ opcodes then .pass
  else if s.boot.phase = .halted ∧ op ∉ haltOpcodes then .fail .unsupported {}
  else match stallChecks s f e with
    | .pass =>
      match badHead e with
      | some (d, b) => .fail .invalid { fieldPay d b with p5 := noOffset op }
      | none =>
        match refusedByState s e with
        | some st => .fail st {}
        | none => .pass
    | v => v

/-- The completion of a command whose tag an outstanding command of the function bears: `unsupported` by check 1, else `invalid`
for the tag (R400, R408, R409). -/
def dupTag (s : State) (f : Fn) (e : SqEntry) : State :=
  let unsupported := opcode e ∉ opcodes ∨ (s.boot.phase = .halted ∧ opcode e ∉ haltOpcodes)
  pushEntry s f {
    kind := .completion, status := statusCode (if unsupported then .unsupported else .invalid), code := tagOf e,
    stall := BitVec.ofNat 8 (namedStall e), gen := genGiven s f e .invalid, time := s.tb.now,
    p4 := if unsupported then 0 else fld 16 8, p5 := if unsupported then 0 else noOffset (opcode e), dup := true }

/-- The read of the slot at the head of a function's ring (R374, R381, R392, R394, log entry 223). -/
def fetchSlot (s : State) (f : Fn) : State :=
  let r := s.fns[f]
  let id := s.groom.nextRead
  emit (modGroom s fun g => { g with nextRead := (id + 1) % 1024 })
    (.hostRead f id (ringBase r.sqBaseLo r.sqBaseHi + BitVec.ofNat 64 (64 * r.sqHead.toNat)) 64 {})

/-- The entry is read and taken from its slot: the head, the rotation and the rate count move on (R26, R362, R394). -/
def takeSlot (s : State) (f : Fn) : State :=
  modGroom (modFn (fetchSlot s f) f fun r => { r with
    sqHead := BitVec.ofNat 12 ((r.sqHead.toNat + 1) % 2 ^ bits r.sqSize 3 0)
    ratePeriod := BitVec.ofNat 64 (msPeriod s.tb.now), rateTaken := takenNow s f + 1 }) fun g => { g with rotation := f + 1 }

/-- The command is outstanding (R362). -/
def addOutst (s : State) (f : Fn) (e : SqEntry) : State :=
  modStall s f fun x => { x with outst := x.outst ++ [{
    tag := tagOf e, op := BitVec.ofNat 8 (opcode e), fn := f, gen := genField e, progress := bit (dw e 0) 8, when := s.tb.now, taken := s.tb.now }] }

/-- The outcome of the common checks (R408). -/
def settle (s : State) (t : Taken) : Verdict → State
  | .pass => modGroom s fun g => { g with taken := some t }
  | .fail st p => completeAt s t st p
  | .violate r k i => deny s t r k i

/-- GROOM_TAKE_COMMAND: the turn of function f, whose next slot reads as `entry`; `ecc` is what the Groom's bank, the stall's context
and, for the command, the secure bank read as (R26, R362, R394, R404, R408). -/
def execGroomTakeCommand (f : Fn) (entry : SqEntry) (ecc : TakeEcc) (s : State) : Host.Outcome State Fault Refusal :=
  .next (
    if !groomRuns s || turnOf s != some f then s
    else if ecc.bank = .uncorrectable ∨ ecc.context = .uncorrectable then safeHalt s 12 3
    else
      let s := noteEcc (noteEcc s 1 ecc.bank) 2 ecc.context
      let t : Taken := { fn := f, e := entry, when := s.tb.now, secure := ecc.secure }
      let s := takeSlot s f
      if tagBusy s f (tagOf entry) then dupTag s f entry
      else settle (addOutst s f entry) t (commonChecks s f entry))

/-- UNKNOWN_OPCODE: an opcode outside R407 completes with `unsupported` (R407, R408). -/
def execUnknownOpcode (s : State) : Host.Outcome State Fault Refusal :=
  .next (withCmd s (fun t => opcode t.e ∉ opcodes) fun s t => complete s t .unsupported)

end Sys2Proof.Machine
end

