-- ==== Sys2Proof/Machine/Upload.lean ====
section
/-!
DEFINITION. `upload` and `upload_cancel`, the scatter-gather list, and the chunks of the running jobs.
-/

namespace Sys2Proof.Machine

/-! ## The command -/

/-- The segments that an upload can name, oldest first: the held ones and the open one (R207, R433). -/
def nameable (s : State) (n : Stall) : List Seg :=
  liveSegs s n ++ match s.stalls[n].cap with
    | some c => if c.phase = .running ∨ c.phase = .closing then [c.seg] else []
    | none => []

/-- Where the newest of some segments with a number stands (R433). -/
def newestWith (l : List Seg) (num : Nat) : Option Nat :=
  ((l.zipIdx).filter fun x => x.1.num.toNat == num).getLast?.map fun x => x.2

/-- The named bits of `upload` (R433). -/
def uploadBits : List Dword := [0x003FFFFF, 0x001FFFFF, 0xFFFF, 0xFFFF, 0xFFFFFFFF, 0xFFFFFFFF]

/-- The parts of a segment as bales, from a first part on (R320). -/
def balePlans (s : State) (n : Stall) (x : Seg) (part : Nat) : List BalePlan :=
  let l := segBales x x.polder
  ((l.zipIdx).drop part).map fun b => { seg := x.num, part := b.2, uid := x.uid, blocks := b.1, lastOfSeg := b.2 + 1 == l.length }

/-- The field of `upload` at fault, the named segments given (R327, R433, R435). -/
def uploadFault (s : State) (n : Stall) (e : SqEntry) (l : List Seg) (i : Option Nat) : Option (Nat × Nat) :=
  let count := bits (dw e 3) 20 0
  match reservedBit e uploadBits with
  | some x => some x
  | none =>
    if bits (dw e 2) 21 20 = 3 then some (2, 20)
    else if count = 0 ∨ 2 ^ 20 < count then some (3, 0)
    else if bits (dw e 5) 15 0 = 0 then some (5, 0)
    else if bits (dw e 6) 3 0 ≠ 0 then some (6, 0)
    else match i with
      | none => some (2, 0)
      | some i =>
        if l.length < i + count then some (3, 0)
        else if ((l[i]?.map fun x => balePlans s n x (bits (dw e 4) 15 0)).getD []) = [] then some (4, 0)
        else none

/-- The bales of a whole job (R320, R322). -/
def jobBales (s : State) (n : Stall) (l : List Seg) (i count part : Nat) : List BalePlan :=
  (((l.drop i).take count).zipIdx).flatMap fun x => balePlans s n x.1 (if x.2 = 0 then part else 0)

/-- UPLOAD: the checks before the list is read, then the read (R207, R324, R433, R435). -/
def execUpload (s : State) : Host.Outcome State Fault Refusal :=
  .next (withCmd s (isOp 0x40) fun s t =>
    let n := t.fn
    let l := nameable s n
    let i := newestWith l (bits (dw t.e 2) 19 0)
    let count := bits (dw t.e 3) 20 0
    let named := (i.map fun i => (l.drop i).take (max 1 count)).getD []
    if named.any fun x => !x.closed then complete s t .busy
    else match uploadFault s n t.e l i with
      | some (d, b) => invalidAt s t d b
      | none =>
        let mode := bits (dw t.e 2) 21 20
        if mode ≠ 0 ∧ s.stalls[n].grant.share = 0 then deny s t .noPermission 0 0
        else
          let bales := jobBales s n l (i.getD 0) count (bits (dw t.e 4) 15 0)
          let j : UploadJob := {
            fn := n, stall := n, tag := tagOf t.e, mode := BitVec.ofNat 2 mode, bales := bales, sglAt := wide t.e 6, crc := 0xFFFFFFFF }
          let s := handOff s t .upload (bales.map fun b => 144 * b.blocks.length).sum
          let s := { s with jobs := { s.jobs with uploads := s.jobs.uploads ++ [j] } }
          issueRead s n (tagOf t.e) .sgl (wide t.e 6) (16 * bits (dw t.e 5) 15 0))

/-! ## The list -/

/-- An entry of a list: address, length, and its last dword (R434). -/
def sglEntry (l : List Byte) (i : Nat) : BitVec 64 × Nat × Nat := (BitVec.ofNat 64 (leAt l (16 * i) 8), leAt l (16 * i + 8) 4, leAt l (16 * i + 12) 4)

/-- An entry keeps R434. -/
def sglEntryOk (x : BitVec 64 × Nat × Nat) : Bool := bits x.1 2 0 == 0 && x.2.1 != 0 && x.2.1 % 8 == 0 && x.2.2 == 0

/-- The whole list has been read: its checks, and the start of the job (R325, R434, R435). -/
def finishSgl (s : State) (u : UploadJob) (l : List Byte) : State :=
  let e := (List.range (l.length / 16)).map (sglEntry l)
  let v := { u with sgl := e.map fun x => (x.1, x.2.1), sglOk := true }
  if !e.all sglEntryOk then
    let s := { s with jobs := { s.jobs with uploads := s.jobs.uploads.filter fun x => x != u } }
    startUploads (completeTag s u.fn u.tag .invalid noField)
  else if u.mode = 0 ∧ sglTotal v < storedSize u.bales then endUpload s u .outputOverflow
  else startUploads (putJob s u v)

/-- An entry has been read again at address `at_`: other values than before leave it open which bytes land where, and are written to; what
waited for it goes out (R434). -/
def rereadSgl (s : State) (u : UploadJob) (at_ : BitVec 64) (l : List Byte) : State :=
  let i := (at_ - u.sglAt).toNat / 16
  let x := sglEntry l 0
  let r := askEntries s { u with
    again := u.again ++ [(i, x.1, x.2.1)], wild := u.wild || decide (u.sgl[i]? ≠ some (x.1, x.2.1)) }
  settleWrites r.1 u r.2

/-- A read of a list or of an entry comes back for an upload (R326, R434, R435). -/
def uploadRead (s : State) (f : Fn) (tag : BitVec 16) (at_ : BitVec 64) (data : HostData) : State :=
  match findUpload s f tag with
  | none => s
  | some u =>
    match data with
    | .failed => endUpload s u .dataError
    | .bytes l => if u.sglOk then uploadsGoOn (rereadSgl s u at_ l) else finishSgl s u l

/-! ## Cancel -/

/-- UPLOAD_CANCEL (R326, R436). -/
def execUploadCancel (s : State) : Host.Outcome State Fault Refusal :=
  .next (withCmd s (isOp 0x41) fun s t =>
    let tag : BitVec 16 := BitVec.ofNat 16 (bits (dw t.e 2) 15 0)
    match reservedBit t.e [0xFFFF] with
    | some (d, b) => invalidAt s t d b
    | none =>
      if !((findOutst s t.fn tag).any fun o => o.op == 0x40) then invalidAt s t 2 0
      else match findUpload s t.fn tag with
        | none => completeAt s t .ok { p4 := 1 }
        | some u =>
          let v := { u with cancel := u.cancel ++ [(tagOf t.e, t.fn)] }
          let s := putJob (handOff s t .cancel 0) u v
          stopUploads s (fun x => x == v) .aborted)

/-! ## Chunks -/

/-- The oldest job of a stall whose chunk has come. -/
def chunkCome (s : State) (n : Stall) : Option UploadJob :=
  s.jobs.uploads.find? fun u => u.stall == n && u.reqd != 0 && u.got.length == u.reqd

/-- UPLOAD_CHUNK_READ: a stored chunk is framed and written, another waits for a compressor; a job whose stall is being reset writes
nothing more (R318, R321, R323, R326, R367). -/
def execUploadChunkRead (st : Stall) (s : State) : Host.Outcome State Fault Refusal :=
  .next (
    match chunkCome s st with
    | none => s
    | some u =>
      let l := chunkBytes u
      let s := if u.ended then s else modOutst s u.fn u.tag fun o => { o with done := u.read + l.length }
      let v := { u with reqd := 0, got := [], crc := crc32cFrom u.crc l, read := u.read + l.length }
      let s := putJob s u v
      if u.ended then uploadsGoOn s
      else if u.mode ≠ 0 then uploadsGoOn (putJob s v { v with recs := l })
      else
        let last := u.pos + l.length / 144 == ((u.bales.head?.map fun b => b.blocks.length).getD 0)
        uploadsGoOn (writeChunk s v (l.length / 144) (storedBlock last l)))

/-- The block that a compressor gives for its chunk keeps R318 and R319: it spells the chunk in the job's mode, is no longer than a stored
block would be, ends the stream with the bale, and the stream stays within its bound. -/
def chunkFits (u : UploadJob) (block : List Bool) (last : Bool) : Bool :=
  let at_ := u.bitRest.length
  blockSpells u.mode.toNat at_ last block u.recs && block.length ≤ storedBits at_ u.recs.length &&
  u.clen + ceilDiv (at_ + block.length) 8 ≤ 144 * u.pos + u.recs.length + 5 * chunksOf (144 * u.pos + u.recs.length) + 8

/-- COMPRESSOR_CHUNK_DONE: the chunk's DEFLATE block, which the spec constrains and does not give, joins the stream, and the compressor takes
the next chunk; zero bits fill the last byte of the stream (R318, R319, R324 to R326, R367, R404). -/
def execCompressorChunkDone (k : Fin 4) (block : List Bool) (ecc : Ecc) (s : State) : Host.Outcome State Fault Refusal :=
  .next (
    match s.jobs.uploads.find? fun u => u.comp == some k && u.recs != [] with
    | none => s
    | some u =>
      let last := u.pos + u.recs.length / 144 == ((u.bales.head?.map fun b => b.blocks.length).getD 0)
      if ecc = .uncorrectable then uploadsGoOn (endUpload s u .dataError)
      else if !chunkFits u block last then s
      else
        let s := noteEcc s 4 ecc
        if u.ended then uploadsGoOn (putJob s u { u with comp := none })
        else
          let l := u.bitRest ++ block
          let whole := l.length / 8 * 8
          let v := { u with bitRest := if last then [] else l.drop whole }
          let s := putJob s u v
          uploadsGoOn (writeChunk s v (u.recs.length / 144) (bytesOfBits (l.length / 8 + 1) (if last then l else l.take whole))))

end Sys2Proof.Machine
end

