-- ==== Sys2Proof/Machine/HostReads.lean ====
section
/-!
DEFINITION. The device's reads of host memory come back, or fail.
-/

namespace Sys2Proof.Machine

/-- A fetch of a function's submission ring fails: no entry is taken until `sq_enable` is cleared and set (R396). -/
def ringFailed (s : State) (f : Fn) : State :=
  let r := s.fns[f]
  if fnExists s f && r.sqEnable && !r.fault && !r.sqStopped && r.sqHead.toNat != bits r.sqTail 11 0 then
    modFn (fetchSlot s f) f fun r => { r with sqStopped := true, errStatus := r.errStatus ||| 4 }
  else s

/-- The read comes back for the command it serves; one that a reset has ended gets nothing (R326, R369, R381). -/
def serveRead (s : State) (r : HostRead) (data : HostData) : State :=
  if r.dead then settleAll s
  else match r.purpose with
    | .image =>
      imageRead s r.fn r.tag data
    | .sgl => uploadRead s r.fn r.tag r.addr data
    | .bales => loadRead s r.fn r.tag data
    | .blob => lifeRead s data
    | .firmware => updateRead s r.len data

/-- The data has the length asked for. -/
def fits (r : HostRead) : HostData → Bool
  | .failed => true
  | .bytes l => l.length == r.len

/-- A numbered read comes back. -/
def readBackJob (s : State) (id : Nat) (data : HostData) : State :=
  match s.groom.reads.find? fun r => r.id == id with
  | none => s
  | some r =>
    if !fits r data then s
    else serveRead (modGroom s fun g => { g with reads := g.reads.filter fun x => x.id != id }) r data

/-- HOST_READ_COMPLETE: with its bytes, or with Unsupported Request, Completer Abort or poisoned data. The entry a ring fetch brings is
GROOM_TAKE_COMMAND's (R381, R394, R396). -/
def execHostReadComplete (r : ReadRef) (data : HostData) (s : State) : Host.Outcome State Fault Refusal :=
  .next (
    match r with
    | .ring f => if data = .failed then ringFailed s f else s
    | .job id => readBackJob s id data)

/-- HOST_READ_TIMEOUT: a read that times out fails (R381, R396). -/
def execHostReadTimeout (r : ReadRef) (s : State) : Host.Outcome State Fault Refusal :=
  .next (
    match r with
    | .ring f => ringFailed s f
    | .job id => readBackJob s id .failed)

end Sys2Proof.Machine
end

