-- ==== Sys2Proof/Machine/StallCmds.lean ====
section
/-!
DEFINITION. Stall management: create, destroy, reset, grant and revoke.
-/

namespace Sys2Proof.Machine

/-- The scratchpad of a stall zeroed (R349, R367). -/
def zeroScratch (s : State) (n : Stall) : State := { s with scratch := memClear s.scratch (16384 * n.val) 16384 }

/-- The named stall of a management command. -/
def targetOf (e : SqEntry) : Option Stall := if h : namedStall e < 64 then some ⟨namedStall e, h⟩ else none

/-- STALL_CREATE (R348, R349, R418). -/
def execStallCreate (s : State) : Host.Outcome State Fault Refusal :=
  .next (withCmd s (isOp 0x10) fun s t =>
    match reservedBit t.e [], targetOf t.e with
    | some (d, b), _ => invalidAt s t d b
    | none, none => invalidAt s t 1 0
    | none, some n =>
      if n = 0 ∨ s.stalls[n].st ≠ .absent ∨ ¬ fnExists s n then invalidAt s t 1 0
      else
        let s := modStall (zeroScratch s n) n fun x => freshStall x .idle 8 100
        completeAt s t .ok { p4 := fld s.stalls[n].gen.toNat 0 })

/-- The start of a reset sequence by command, completed as it starts (R365, R418). -/
def resetCommand (s : State) (t : Taken) (n : Stall) (cause : Nat) : State :=
  let gen := s.stalls[n].gen
  completeAt (startReset s n cause) t .ok { p4 := fld gen.toNat 0 }

/-- STALL_DESTROY (R365, R418). -/
def execStallDestroy (s : State) : Host.Outcome State Fault Refusal :=
  .next (withCmd s (isOp 0x11) fun s t =>
    match reservedBit t.e [], targetOf t.e with
    | some (d, b), _ => invalidAt s t d b
    | none, none => invalidAt s t 1 0
    | none, some n => if n = 0 then invalidAt s t 1 0 else resetCommand s t n 2)

/-- STALL_RESET: of stall 0 it keeps its own completion (R365, R367, R418). -/
def execStallReset (s : State) : Host.Outcome State Fault Refusal :=
  .next (withCmd s (isOp 0x12) fun s t =>
    match reservedBit t.e [], targetOf t.e with
    | some (d, b), _ => invalidAt s t d b
    | none, none => invalidAt s t 1 0
    | none, some n => resetCommand s t n 1)

/-- The named bits of `stall_grant` (R419). -/
def grantBits : List Dword := [0xFFFF0101, 0x1FFF, 0xFFFF01FF, 0xFFFF]

/-- What is wrong with a field of `stall_grant` (R354, R355, R419). -/
def grantFault (g : Grant) (e : SqEntry) : Option (Nat × Nat) :=
  let d4 := dw e 4
  let d5 := dw e 5
  if 4096 < bits (dw e 3) 12 0 then some (3, 0)
  else if bit (dw e 2) 8 ∧ g.engine.isSome then some (2, 8)
  else if bit (dw e 2) 0 then
    if bits d4 23 17 ≠ 0 then some (4, 16)
    else if bits d4 8 0 = 0 ∨ 256 < bits d4 8 0 then some (4, 0)
    else if bits d5 15 0 = 0 then some (5, 0) else none
  else if bits d4 8 0 ≠ 0 then some (4, 0)
  else if bits d4 23 16 ≠ 0 then some (4, 16)
  else if bits d4 31 24 ≠ 0 then some (4, 24)
  else if d5 ≠ 0 then some (5, 0)
  else none

/-- Teams held by stalls other than n. -/
def othersTeams (s : State) (n : Stall) : BitVec 8 :=
  (allStalls.filter fun k => k != n).foldl (fun m k => m ||| s.stalls[k].grant.teams) 0

/-- Chains held by stalls other than n. -/
def othersChains (s : State) (n : Stall) : BitVec 8 :=
  (allStalls.filter fun k => k != n).foldl (fun m k => m ||| s.stalls[k].grant.chains) 0

/-- The lowest engine no stall holds (log entry 11). -/
def freeEngine (s : State) : Option (Fin 16) :=
  (List.finRange 16).find? fun k => !allStalls.any fun n => s.stalls[n].grant.engine == some k

/-- Parcels that are neither granted nor retired. -/
def ungranted (s : State) : List Nat :=
  (List.range s.dram.total).filter fun p => !s.dram.retired.contains p && !allStalls.any fun n => s.stalls[n].grant.parcels.contains p

/-- Parcels free for `stall_grant`: ungranted and wiped (R371). -/
def freeParcels (s : State) : List Nat := (ungranted s).filter fun p => !s.dram.wipeQ.any fun w => w.parcel == p

/-- The sum of `outstanding` over the created stalls with a new value for one (R355). -/
def outstandingSum (s : State) (n : Stall) (v : Nat) : Nat :=
  ((allStalls.filter fun k => s.stalls[k].st != .absent).map fun k => if k = n then v else s.stalls[k].grant.outstanding).sum

/-- A number put into an ascending list. -/
def insertAsc (a : Nat) : List Nat → List Nat
  | [] => [a]
  | b :: l => if a ≤ b then a :: b :: l else b :: insertAsc a l

/-- Parcels in ascending order. -/
def sortParcels (l : List Nat) : List Nat := l.foldl (fun l a => insertAsc a l) []

/-- Teams, chains and engine as `stall_grant` and `stall_revoke` report them (R419, R420). -/
def heldWord (g : Grant) : Dword := fld g.teams.toNat 24 ||| fld g.chains.toNat 16 ||| fld (engineByte g) 8

/-- The teams of R419's dword 2. -/
def grantTeams (e : SqEntry) : BitVec 8 := BitVec.ofNat 8 (bits (dw e 2) 31 24)

/-- The chains of R419's dword 2. -/
def grantChains (e : SqEntry) : BitVec 8 := BitVec.ofNat 8 (bits (dw e 2) 23 16)

/-- The grant applied whole; TRIG_OUT follows the permission at once (R166, R233, R354, R356, R419). -/
def applyGrant (s : State) (t : Taken) (n : Stall) : State :=
  let e := t.e
  let added := (freeParcels s).take (bits (dw e 3) 12 0)
  let engine := if bit (dw e 2) 8 then freeEngine s else s.stalls[n].grant.engine
  let s := modStall s n fun x => { x with grant := { x.grant with
    teams := x.grant.teams ||| grantTeams e, chains := x.grant.chains ||| grantChains e, engine := engine } }
  let s := if bit (dw e 2) 0 then modStall s n fun x => { x with grant := { x.grant with
      share := bits (dw e 4) 31 24, trigOut := bit (dw e 4) 16, outstanding := bits (dw e 4) 8 0, rate := bits (dw e 5) 15 0 } } else s
  let g := s.stalls[n].grant
  let s := refreshTrigOut s
  let r := if added = [] then (s, 0) else changePolder s n (sortParcels (g.parcels ++ added)) g.refArea
  let g := r.1.stalls[n].grant
  completeAt r.1 t .ok { p4 := heldWord g, p5 := fld r.2 16 ||| fld g.parcels.length 0, p6 := fld (added.headD 0) 0 }

/-- The checks of `stall_grant` after `invalid`, in their order (R355). -/
def grantRefused (s : State) (n : Stall) (e : SqEntry) : Option Status :=
  let asked := bits (dw e 3) 12 0
  if grantTeams e &&& othersTeams s n ≠ 0 ∨ grantChains e &&& othersChains s n ≠ 0 then some .noResource
  else if bit (dw e 2) 8 ∧ (freeEngine s).isNone then some .noResource
  else if armedOrCapturing s n ∧ asked ≠ 0 then some .busy
  else if (freeParcels s).length < asked then some (if asked ≤ (ungranted s).length then .busy else .noResource)
  else if 1024 < outstandingSum s n (if bit (dw e 2) 0 then bits (dw e 4) 8 0 else s.stalls[n].grant.outstanding) then some .noResource
  else none

/-- STALL_GRANT (R354 to R356, R419). -/
def execStallGrant (s : State) : Host.Outcome State Fault Refusal :=
  .next (withCmd s (isOp 0x13) fun s t =>
    match reservedBit t.e grantBits, targetOf t.e with
    | some (d, b), _ => invalidAt s t d b
    | none, none => invalidAt s t 1 0
    | none, some n =>
      match grantFault s.stalls[n].grant t.e with
      | some (d, b) => invalidAt s t d b
      | none =>
        match grantRefused s n t.e with
        | some st => complete s t st
        | none => applyGrant s t n)

/-- The engine goes back, with the loaded course and its pool entries (R357). -/
def dropEngine (s : State) (n : Stall) : State :=
  modStall (stopEngine s n) n fun x => { x with grant := { x.grant with engine := none }, course := none, eng := {} }

/-- A load whose area loses parcels stops, its read discarded: the reference it would make is invalid. R333 lists no status for this; the model
gives `aborted`, as R326 does to an upload whose segment goes (R330, R357; DESIGN CHOICE, log entry 304). -/
def abortLoad (s : State) (n : Stall) : State :=
  match s.jobs.loads.find? fun j => j.stall == n && !j.short with
  | none => s
  | some j =>
    giveDecs (endLoad (modGroom s fun g => { g with
      reads := g.reads.map fun r => if r.purpose == .bales && r.stall == n then { r with dead := true } else r }) j .aborted {})

/-- The k highest-numbered parcels of a grant go to the wipe queue; a reference area touched becomes invalid (R330, R357).
Answers how many held segments were deleted too. -/
def dropParcels (s : State) (n : Stall) (k : Nat) : State × Nat :=
  let g := s.stalls[n].grant
  let gone := g.parcels.drop (g.parcels.length - k)
  let stay := g.parcels.take (g.parcels.length - k)
  let s := if g.refArea.any fun p => gone.contains p then modRef (abortLoad s n) n fun r => { r with valid := false } else s
  let r := if gone = [] then (s, 0) else changePolder s n stay (g.refArea.filter fun p => !gone.contains p)
  (queueWipe r.1 gone, r.2)

/-- A resource that the stall does not hold, as a field of `stall_revoke` (R357, R420). -/
def revokeFault (g : Grant) (e : SqEntry) : Option (Nat × Nat) :=
  if grantTeams e &&& ~~~ g.teams ≠ 0 then some (2, 24)
  else if grantChains e &&& ~~~ g.chains ≠ 0 then some (2, 16)
  else if bit (dw e 2) 8 ∧ g.engine.isNone then some (2, 8)
  else if g.parcels.length < bits (dw e 3) 12 0 then some (3, 0)
  else none

/-- The revocation applied whole (R357, R420). -/
def applyRevoke (s : State) (t : Taken) (n : Stall) : State :=
  let e := t.e
  let s := dropChains (dropTeams s (grantTeams e)) (grantChains e)
  let s := modStall s n fun x => { x with grant := { x.grant with
    teams := x.grant.teams &&& ~~~ grantTeams e, chains := x.grant.chains &&& ~~~ grantChains e } }
  let s := if bit (dw e 2) 8 then dropEngine s n else s
  let r := dropParcels s n (bits (dw e 3) 12 0)
  let g := r.1.stalls[n].grant
  completeAt r.1 t .ok { p4 := heldWord g, p5 := fld r.2 16 ||| fld g.parcels.length 0 }

/-- STALL_REVOKE (R357, R420). -/
def execStallRevoke (s : State) : Host.Outcome State Fault Refusal :=
  .next (withCmd s (isOp 0x14) fun s t =>
    match reservedBit t.e [0xFFFF0100, 0x1FFF], targetOf t.e with
    | some (d, b), _ => invalidAt s t d b
    | none, none => invalidAt s t 1 0
    | none, some n =>
      match revokeFault s.stalls[n].grant t.e with
      | some (d, b) => invalidAt s t d b
      | none => if armedOrCapturing s n then complete s t .busy else applyRevoke s t n)

end Sys2Proof.Machine
end

