-- ==== Sys2Proof/Machine/Pci.lean ====
section
/-!
DEFINITION. What the PCIe functions undergo: function-level reset, VF Enable, D-states, the fundamental reset, and step 8 of a stall's
reset sequence.
-/

namespace Sys2Proof.Machine

/-- A function's window and MSI-X capability at their reset values; the physical function's peak of `FB.COUNT` starts anew (R12, R222). -/
def resetWindow (s : State) (f : Fn) : State := modFn s f fun _ => { fbPeak := if f = 0 then fbLevel s 0 else 0 }

/-- FUNCTION_LEVEL_RESET: cause 3 for the function's stall; of the physical function it clears VF Enable and the link settings too (R12,
R283, R365, R389). -/
def execFunctionLevelReset (f : Fn) (s : State) : Host.Outcome State Fault Refusal :=
  .next (
    if ¬ fnExists s f ∨ ¬ s.pcie.cfgReady then s
    else
      let s := startReset (resetWindow s f) f 3
      if f = 0 then resetLinks (lowerVFs { s with pcie := { s.pcie with maxRead := 2, page := 0 } } 0) else s)

/-- VF_DISABLE: VF Enable cleared, or NumVFs lowered to n (R365). -/
def execVfDisable (n : Fin 64) (s : State) : Host.Outcome State Fault Refusal :=
  .next (if s.pcie.vfEnable ∧ n.val < s.pcie.numVFs then lowerVFs s n.val else s)

/-- VF_ENABLE: without ARI, NumVFs above 7 is treated as 7; in Returned and in the safe halt VF Enable cannot be set (R378, R379, R542,
R548, R549). -/
def execVfEnable (n : Fin 64) (c : VfControl) (s : State) : Host.Outcome State Fault Refusal :=
  .next (
    if n = 0 ∨ s.pcie.vfEnable ∨ ¬ s.pcie.cfgReady ∨ s.boot.phase = .halted ∨ lifecycleOf s = 4 then s
    else { s with pcie := { s.pcie with vfEnable := true, ari := c.ari, page := c.page, numVFs := if c.ari then n.val else min 7 n.val } })

/-- The Max_Read_Request_Size that the physical function's Device Control holds (R374, log entry 244). -/
def setMaxRead (s : State) (f : Fn) (m : Fin 6) : State := if f = 0 then { s with pcie := { s.pcie with maxRead := m } } else s

/-- D_STATE_CHANGE: back in D0 the completion ring takes what waits, its entries reading as `w.ecc`; the same write carries the function's
Relaxed Ordering Enable and Max_Read_Request_Size (R374, R377, R380, R404, log entry 244). -/
def execDStateChange (f : Fn) (w : PmWrite) (s : State) : Host.Outcome State Fault Refusal :=
  .next (
    if ¬ fnExists s f ∨ ¬ s.pcie.cfgReady then s
    else drain (modFn (queueEcc (setMaxRead s f w.maxRead) f (if w.d3 then [] else w.ecc)) f fun r => { r with d3 := w.d3, relaxedEnable := w.relaxed }) f)

/-- PERST: the endpoint is reset, and every created stall starts its reset sequence as by a function-level reset of the physical
function (R530). -/
def execPerst (s : State) : Host.Outcome State Fault Refusal :=
  .next (resetLinks (lowerVFs (startReset { s with
    fns := vmap s.fns fun f _ => ({ fbPeak := if f = 0 then fbLevel s 0 else 0 } : FnState)
    pcie := { s.pcie with ari := false, page := 0, maxRead := 2 } } 0 3) 0))

/-- Steps 2 to 7 of a stall's reset sequence are done: no capture, no block in the freeboard, no running job (R367). -/
def resetDone (s : State) (n : Stall) : Bool :=
  s.stalls[n].cap.isNone && !(List.finRange 4).any (fun l => (s.fbd.slices[l] ++ s.fbd.outbox[l]).any fun b => b.stall == n) &&
  !s.jobs.uploads.any (fun u => u.stall == n) && !s.jobs.loads.any (fun l => l.stall == n)

/-- Step 8: every grant returns, the scratchpad and context are zeroed, the limits and the generation are as R349 and R350 give,
and the state is `absent` for causes 2, 4 and 5 (R367). -/
def releaseStall (s : State) (n : Stall) (r : ResetSeq) : State :=
  let g := s.stalls[n].grant
  let s := zeroScratch (queueWipe (dropChains (dropTeams s g.teams) g.chains) g.parcels) n
  let st : StallSt := if r.cause = 2 ∨ r.cause = 4 ∨ r.cause = 5 then .absent else .idle
  modStall s n fun x => freshStall x st (if n = 0 then 256 else 8) (if n = 0 then 65535 else 100)

/-- `stall_reset_done` (R368). -/
def resetDoneEvent (s : State) (n : Stall) (r : ResetSeq) (wiping : Nat) : CqEntry :=
  event 0x14 n.val s.tb.now
    (fld r.cause.toNat 24 ||| fld (stCode s.stalls[n].st) 16 ||| fld s.stalls[n].gen.toNat 0)
    (fld r.oldGen.toNat 16 ||| fld (sat 16 r.jobs) 0) (fld wiping 16 ||| fld r.segs 0)
    (fld (sat 32 (strideOf (s.tb.now - r.when))) 0)

/-- STALL_RESET_RELEASE: steps 8 and 9 (R350, R367, R368). -/
def execStallResetRelease (st : Stall) (s : State) : Host.Outcome State Fault Refusal :=
  .next (
    match s.stalls[st].reset with
    | none => s
    | some r =>
      if !resetDone s st then s
      else
        let wiping := (s.stalls[st].grant.parcels.filter fun p => !s.dram.retired.contains p).length
        let s := releaseStall s st r
        sendEvents s ((withPf [st]).map fun f => (f, resetDoneEvent s st r wiping)))

end Sys2Proof.Machine
end

