-- ==== Sys2Proof/Machine/QueraRun.lean ====
section
/-!
DEFINITION. What happens on the Quera ports: timing, topology, identify and census messages, cross-triggers, and ports that come up or go
down.
-/

namespace Sys2Proof.Machine

/-- A port may carry messages: enabled and used by the role, in a state in which the link runs, and not at stage 4 or after a thermal trip
(R473, R500, R501, R534). -/
def portLive (s : State) (p : Fin 4) : Bool :=
  bit s.quera.portEnable p.val && roleUses s.quera.role p && s.boot.phase == .ready && (s.power.st == .run || s.power.st == .ready) &&
    shedStage s < 4 && !s.power.tripped

/-! ## The line code -/

/-- The length of a block, 66 bits at 25.78125 Gb/s, in 25ths of a tick: 655.36 ticks (R474). -/
def blockTime : Nat := 16384

/-- A control block before scrambling: its payload over its type; the highest bit of the payload is the block's (R475). -/
def controlBlock (ty : BitVec 8) (payload : BitVec 56) : BitVec 64 := payload ++ ty

/-- The idle block: type 0x1E with eight idle characters (R474). -/
def idleBlock : BitVec 64 := controlBlock 0x1E 0

/-- One bit through the self-synchronous scrambler x^58 + x^39 + 1 (R474). -/
def scrambleBit (x : BitVec 64 × BitVec 58) (b : Bool × Nat) : BitVec 64 × BitVec 58 :=
  let o := (b.1 != bit x.2 38) != bit x.2 57
  (x.1 ||| BitVec.ofNat 64 (o.toNat * 2 ^ b.2), x.2 <<< 1 ||| BitVec.ofNat 58 o.toNat)

/-- A block's 64 bits through the scrambler, bit 0 first (R474; log entry 265). -/
def scramble (x : BitVec 58) (d : BitVec 64) : BitVec 64 × BitVec 58 :=
  ((List.range 64).map fun i => (bit d i, i)).foldl scrambleBit (0, x)

/-- A control block as it leaves, its sync header 0b10 not scrambled (R474, R475). -/
def codeBlock (x : BitVec 58) (d : BitVec 64) : BitVec 66 × BitVec 58 :=
  let r := scramble x d
  ((0b10 : BitVec 2) ++ r.1, r.2)

/-- One received bit through the descrambler: the bits received before it undo the scrambler (R474). -/
def descrambleBit (x : BitVec 64 × BitVec 58) (b : Bool × Nat) : BitVec 64 × BitVec 58 :=
  let o := (b.1 != bit x.2 38) != bit x.2 57
  (x.1 ||| BitVec.ofNat 64 (o.toNat * 2 ^ b.2), x.2 <<< 1 ||| BitVec.ofNat 58 b.1.toNat)

/-- A received block's 64 bits through the descrambler, bit 0 first (R474). -/
def descramble (x : BitVec 58) (d : BitVec 64) : BitVec 64 × BitVec 58 :=
  ((List.range 64).map fun i => (bit d i, i)).foldl descrambleBit (0, x)

/-- A sync header is valid: its two bits differ (R474). -/
def headerOk (b : BitVec 66) : Bool := bit b 65 != bit b 64

/-- The payload of a received control block of a type (R474, R475). -/
def controlPayload (x : BitVec 58) (b : BitVec 66) (ty : BitVec 8) : Option (BitVec 56) :=
  let d := (descramble x (b.truncate 64)).1
  if b.extractLsb' 64 2 == 0b10 && d.truncate 8 == ty then some (d.extractLsb' 8 56) else none

/-- The message in two consecutive received blocks; none without its first block, or with a block that is no control block of its type
(R475, R477). -/
def received (r : Received) : Option (BitVec 112) :=
  match r.first with
  | none => none
  | some a =>
    match controlPayload r.before a 0xD2, controlPayload (descramble r.before (a.truncate 64)).2 r.second 0xE1 with
    | some x, some y => some (x ++ y)
    | _, _ => none

/-- The blocks that a receiver has seen, first first. -/
def lineBlocks (r : Received) : List (BitVec 66) := r.first.toList ++ [r.second]

/-- A sync header goes through the block-lock procedure of clause 49: 64 are tested at a time (R474). -/
def seeHeader (q : QPort) (b : BitVec 66) : QPort :=
  let bad := q.badHeaders + (!headerOk b).toNat
  if q.headers = 63 then { q with headers := 0, badHeaders := 0 } else { q with headers := q.headers + 1, badHeaders := bad }

/-- A block with the sixteenth invalid header of the 64 loses block lock (R474). -/
def lockBreaks (q : QPort) (b : BitVec 66) : Bool := !headerOk b && 15 ≤ q.badHeaders

/-- What a port keeps of the blocks it has received; lock is held since the first of them (R474, R479; log entry 265). -/
def seeBlocks (s : State) (p : Fin 4) (r : Received) : State :=
  modQport s p fun q => { (lineBlocks r).foldl seeHeader q with lockSince := some (q.lockSince.getD s.tb.now) }

/-- Block lock of a port is lost: a port that is up goes down (R479). -/
def loseLock (s : State) (p : Fin 4) : State := modQport (takeDown s p) p lockLost

/-- Lock breaks on one of the blocks. -/
def breaksLock (q : QPort) (l : List (BitVec 66)) : Bool :=
  (l.foldl (fun (x : Bool × QPort) b => (x.1 || lockBreaks x.2 b, seeHeader x.2 b)) (false, q)).1

/-! ## Receiving -/

/-- A message of a kind that R476 lists. -/
def kindListed (m : BitVec 112) : Bool := 1 ≤ msgKind m && msgKind m ≤ 5

/-- Blocks arrive on a live port: a second block without its first, a message with a bad CRC, or one of a kind that is not listed is
discarded; one of another kind is not this row's; what the message changes is announced (R474, R476, R477). -/
def onMsg (s : State) (p : Fin 4) (r : Received) (kind : Nat) (g : BitVec 112 → State → State) : State :=
  if !portLive s p then s
  else if breaksLock s.quera.ports[p] (lineBlocks r) then loseLock s p
  else
    let u := seeBlocks s p r
    match received r with
    | none => discardMsg u p
    | some m =>
      if !crcOk m || !kindListed m then discardMsg u p
      else if msgKind m ≠ kind then s
      else announce u (g m u)

/-! ## Time transfer -/

/-- A timing message (R484). -/
def timingMsg (response : Bool) (seq : Nat) (t2 : Time) (turn : Nat) : Nat :=
  0x2 * 2 ^ 108 + response.toNat * 2 ^ 107 + seq % 128 * 2 ^ 100 + t2.toNat * 2 ^ 36 + turn % 65536 * 2 ^ 20

/-- QUERA_TIMING_SEND: a request waits from its tick on; T1 is taken as it leaves (R484). -/
def execQueraTimingSend (p : Fin 4) (due : Time) (s : State) : Host.Outcome State Fault Refusal :=
  .next (
    if !portLive s p then s
    else
      let q := s.quera.ports[p].seq
      modQport s p fun x => { x with
        seq := q + 1, queue := x.queue ++ [{ msg := withCrc (timingMsg false q.toNat 0 0), after := some due }] })

/-- The correction that the device has not yet applied (R484). -/
def owed (s : State) : Int := s.tb.steer + s.quera.step.getD 0

/-- A time moved by a signed number of ticks. -/
def moveTime (t : Time) (d : Int) : Time := t + BitVec.ofInt 64 d

/-- QUERA_TIMING_REQUEST: the response waits with t2, until it is ready, which is not before T2; its turnaround is counted as it leaves (R484;
log entry 310). -/
def execQueraTimingRequest (p : Fin 4) (rx : Received) (t2 ready : Time) (s : State) : Host.Outcome State Fault Refusal :=
  .next (onMsg s p rx 2 fun m s =>
    if bit m 107 then s
    else modQport s p fun q => { q with
      queue := q.queue ++ [{
        msg := withCrc (timingMsg true (bits m 106 100) (moveTime t2 (owed s)) 0)
        since := some t2
        after := some (if past ready t2 then t2 else ready) }] })

/-- The mean of the last upstream offsets: the filter of R486 (log entry 52). -/
def filtered (s : State) : Int := if s.quera.hist = [] then 0 else s.quera.hist.sum.tdiv s.quera.hist.length

/-- The filtered offset is within the bound of R487 for the device's hops: 29 + 1.5 h ps. -/
def inBound (s : State) : Bool := (filtered s).natAbs * 390625 ≤ 2900000 + 150000 * s.quera.hops

/-- An upstream exchange: its offset joins the last 256, and with 256 of them the device steers, or asks for a step; the 256th in a row within
the bound aligns it, to its pending epoch if there is one, and its time is no estimate any more (R89, R484 to R486, R490; log entries 52 and
263). -/
def useOffset (s : State) (e : Int) : State :=
  let s := { s with quera := { s.quera with hist := (e :: s.quera.hist).take 256, offset := e } }
  let m := filtered s
  if s.quera.hist.length < 256 then s
  else
    let s := if m.natAbs < 256000 then { s with tb := { s.tb with steer := m, steerFine := 0 }, quera := { s.quera with step := none } }
      else { s with tb := { s.tb with steer := 0, steerFine := 0 }, quera := { s.quera with step := some m } }
    let s := { s with quera := { s.quera with aligned := if inBound s then min 256 (s.quera.aligned + 1) else 0 } }
    if s.quera.aligned = 256 then adopt { s with tb := { s.tb with timeEstimated := false } } else s

/-- QUERA_TIMING_RESPONSE: an exchange is counted and its delay kept; on a calibrated upstream port its offset is used (R484 to R486). -/
def execQueraTimingResponse (p : Fin 4) (rx : Received) (t4 : Time) (s : State) : Host.Outcome State Fault Refusal :=
  .next (onMsg s p rx 2 fun msg s =>
    match s.quera.ports[p].t1 with
    | none => s
    | some t1 =>
      if !bit msg 107 || bits msg 106 100 != s.quera.ports[p].reqSeq.toNat then s
      else
        let d := ((t4 - t1).toInt - (bits msg 35 20 : Int)) / 2
        let e := (BitVec.ofNat 64 (bits msg 99 36) - t1).toInt - d
        let s := modQport s p fun x => { x with
          t1 := none, delay := (max 0 (min 65535 d)).toNat, measured := decide (0 ≤ d ∧ d ≤ 65535)
          exchanges := if x.up then min 256 (x.exchanges + 1) else 0 }
        if s.quera.upstream = some p ∧ s.quera.ports[p].exchanges = 256 ∧ ¬ isAlone s then useOffset s e else s)

/-- Nothing holds a time step back: no capture armed, no sync instant and no timed start (R486). -/
def stepAllowed (s : State) : Bool :=
  !(allStalls.any fun n => armedOrCapturing s n || s.stalls[n].ref.timed.isSome) && s.tb.syncPending.isEmpty

/-- A waiting write, with the times by which a lane ages it moved by a time step. -/
def moveWr (d : Int) (w : WrReq) : WrReq := { w with when := moveTime w.when d }

/-- A waiting read, likewise. -/
def moveRd (d : Int) (r : RdReq) : RdReq := { r with when := moveTime r.when d }

/-- A lane across a time step: what it measures from an instant goes on as if time had not moved (log entry 274). -/
def moveLane (d : Int) (x : Lane) : Lane :=
  { x with
    banks := x.banks.map fun q => q.map (moveWr d)
    p1 := x.p1.map (moveRd d)
    p2r := x.p2r.map (moveRd d)
    p2w := x.p2w.map (moveWr d)
    p3r := x.p3r.map (moveRd d)
    p3w := x.p3w.map (moveWr d)
    retry := x.retry.map fun c => { c with when := moveTime c.when d, wr := c.wr.map (moveWr d), rd := c.rd.map (moveRd d) }
    coolSince := x.coolSince.map fun t => moveTime t d
    replayTimes := x.replayTimes.map fun t => moveTime t d
    nextRefresh := moveTime x.nextRefresh d
    stopUntil := moveTime x.stopUntil d
    nextDqs := moveTime x.nextDqs d
    lastIssue := moveTime x.lastIssue d }

/-- The DRAM controller across a time step (log entry 274). -/
def moveDram (d : Int) (s : State) : State :=
  { s with
    lanes := s.lanes.map (moveLane d)
    dram := { s.dram with
      refreshBase := moveTime s.dram.refreshBase d
      wipeQ := s.dram.wipeQ.map fun q => { q with when := moveTime q.when d }
      repairQ := s.dram.repairQ.map fun q => { q with when := moveTime q.when d }
      repairing := s.dram.repairing.map fun q => { q with when := moveTime q.when d } } }

/-- The Quera ports across a time step: what they measure from an instant goes on as if time had not moved (log entry 274). -/
def moveQuera (d : Int) (s : State) : State :=
  { s with quera := { s.quera with
    censusWait := s.quera.censusWait.map fun t => moveTime t d
    ports := s.quera.ports.map fun q => { q with
      t1 := q.t1.map fun t => moveTime t d
      discards := q.discards.map fun t => moveTime t d
      lastTopo := moveTime q.lastTopo d
      lockSince := q.lockSince.map fun t => moveTime t d
      queue := q.queue.map fun m => { m with since := m.since.map fun t => moveTime t d, after := m.after.map fun t => moveTime t d } } } }

/-- QUERA_TIME_STEP: system time moves by whole strides, the rest is steered, and every chain waits for a sync instant (R89, R292,
R486). -/
def execQueraTimeStep (s : State) : Host.Outcome State Fault Refusal :=
  .next (
    match s.quera.step with
    | none => s
    | some e =>
      if !stepAllowed s || !s.tb.timeValid then s
      else
        let k := (e + 128) / 256
        let s := { s with
          tb := { s.tb with now := moveTime s.tb.now (256 * k), steer := e - 256 * k, steerFine := 0, timeEstimated := false }
          quera := { s.quera with step := none, hist := [] } }
        stopChains (moveQuera (256 * k) (moveDram (256 * k) s)) 0xFF)

/-! ## Topology -/

/-- QUERA_TOPOLOGY_SEND (R476). -/
def execQueraTopologySend (p : Fin 4) (s : State) : Host.Outcome State Fault Refusal :=
  .next (if portLive s p then sendMsg s p (topologyMsg s p) else s)

/-- The device meets its own ID on another device (R481). -/
def clashCheck (s : State) (sender : Nat) : State :=
  if sender ≠ s.quera.deviceId.toNat ∨ isAlone s then s
  else topoEvent (reconverge s { s with quera := { s.quera with clash := true } } 0) 4 0 (BitVec.ofNat 12 sender)

/-- What a topology message says is kept (R482, R483, R489). -/
def noteTopology (s : State) (p : Fin 4) (m : BitVec 112) : State :=
  modQport s p fun q => { q with
    topoOk := min 3 (q.topoOk + 1), lastTopo := s.tb.now, farEpoch := BitVec.ofNat 32 (bits m 107 76), farMaster := BitVec.ofNat 12 (bits m 75 64)
    farHops := bits m 63 57, farId := BitVec.ofNat 12 (bits m 56 45), farRole := BitVec.ofNat 2 (bits m 44 43), farRing := BitVec.ofNat 2 (bits m 42 41)
    farSize := bits m 40 34, farReach := bits m 33 27, farPending := bit m 26 }

/-- A partition elsewhere in the domain, or its end, is heard as a neighbour's change (R497, R498; log entry 266). -/
def hearPartition (s : State) (p : Fin 4) (old : QPort) : State :=
  let far := s.quera.ports[p].farRing
  if far = 3 ∨ old.farRing = 3 ∨ ((far == 2) == (old.farRing == 2)) then s else { s with quera := { s.quera with cut := far == 2 } }

/-- The ring's size as the anchor publishes it; a master whose ring has gained or lost members forms a new epoch (R480, R489). -/
def setSize (s : State) (root : Bool) (n : Nat) : State :=
  let old := sizeOf_ s root
  let s := if root then { s with quera := { s.quera with rootSize := n } } else { s with quera := { s.quera with ringSize := n } }
  if selfMaster s ∧ old ≠ n then newEpoch s [] else s

/-- The size that a neighbour repeats. -/
def noteSize (s : State) (p : Fin 4) : State :=
  let n := s.quera.ports[p].farSize
  if isAnchor s (isRootPort p) ∨ n = 0 then s else setSize s (isRootPort p) n

/-- The neighbour's ID and role while a port is up. -/
def noteSelf (s : State) (p : Fin 4) : State := modQport s p fun q => { q with wasId := some q.farId, wasRole := q.farRole }

/-- A domain that joins this master's, or a neighbour whose ID or role changes, makes it form a new epoch (R489; log entry 283). -/
def noteMembers (s : State) (p : Fin 4) (old : QPort) : State :=
  let q := s.quera.ports[p]
  if !selfMaster s then s
  else if q.farMaster ≠ s.quera.deviceId ∧ q.farMaster ≠ old.farMaster ∧ q.farHops < 127 then newEpoch s [bits q.farEpoch 19 0]
  else if old.wasId ≠ some q.farId ∨ old.wasRole ≠ q.farRole then newEpoch s []
  else s

/-- QUERA_TOPOLOGY_MSG: on an up port a clash, the ring's size and state, the election and the epoch follow (R481 to R483, R489, R490, R496 to
R498). -/
def execQueraTopologyMsg (p : Fin 4) (rx : Received) (s : State) : Host.Outcome State Fault Refusal :=
  .next (onMsg s p rx 3 fun msg s =>
    let old := s.quera.ports[p]
    let t := noteTopology s p msg
    if !portUp t p then t
    else
      let t := noteSize (clashCheck t (bits msg 56 45)) p
      noteSelf (noteMembers (reconverge s (hearPartition t p old) p) p old) p)

/-! ## Ports -/

/-- The far end of a port is wired as R472 asks, as far as it has said: Q0 with Q1, and Q2 with Q3. -/
def wiredRight (q : QPort) (p : Fin 4) : Bool := q.farPort.all fun f => f.toNat == (opposite p).val

/-- Block lock has been held for 1 ms (R479). -/
def lockHeld (s : State) (p : Fin 4) : Bool := s.quera.ports[p].lockSince.any fun t => passed s.tb.now t ms

/-- The neighbour's domain is another one (R482, R498). -/
def otherDomain (s : State) (p : Fin 4) : Bool :=
  s.quera.ports[p].farHops < 127 && s.quera.master != some s.quera.ports[p].farMaster

/-- The device on a port that comes up changes the epoch of this master: its domain is another one, unless it has only been away and is as it was
(R489, R500; log entry 283). -/
def newMember (s : State) (p : Fin 4) : Bool :=
  let q := s.quera.ports[p]
  let same := q.wasId == some q.farId && q.wasRole == q.farRole
  if same then otherDomain s p && !joins q else otherDomain s p || q.wasId.isSome

/-- QUERA_PORT_UP: 1 ms of block lock, three valid topology messages, a measured delay, and the wiring of R472; parts that meet so are cut off no
longer, and merge (R472, R479, R482, R489, R498, R500). -/
def execQueraPortUp (p : Fin 4) (s : State) : Host.Outcome State Fault Refusal :=
  .next (
    let q := s.quera.ports[p]
    if !portLive s p || q.up || q.topoOk != 3 || !q.measured || !lockHeld s p || !wiredRight q p then s
    else
      let new := newMember s p
      let t := modQport s p fun x => { x with up := true, exchanges := 0 }
      let t := if otherDomain s p then { t with quera := { t.quera with cut := false } } else t
      let t := reconverge s t (if bothUp t (isRootPort p) then p else opposite p)
      let t := if new && selfMaster t && t.quera.epoch == s.quera.epoch then newEpoch t (farCounts t) else t
      announce s (noteSelf t p))

/-- QUERA_PORT_DOWN: block lock is lost (R477, R479, R496). -/
def execQueraPortDown (p : Fin 4) (s : State) : Host.Outcome State Fault Refusal := .next (loseLock s p)

/-! ## Identify and census -/

/-- QUERA_IDENTIFY_SEND: not from shed stage 2 on (R476, R481, R501). -/
def execQueraIdentifySend (p : Fin 4) (s : State) : Host.Outcome State Fault Refusal :=
  .next (
    if !portUp s p || 2 ≤ shedStage s then s
    else sendMsg s p (0x4 * 2 ^ 108 + s.quera.deviceId.toNat * 2 ^ 96 + p.val * 2 ^ 94 + s.quera.role.toNat * 2 ^ 92 + s.quera.autoId.toNat * 2 ^ 91))

/-- QUERA_IDENTIFY_MSG: the neighbour is kept; a port that proves to be wired contrary to R472 goes down, and does not come up until block lock
has been lost (R472, R481; log entry 286). -/
def execQueraIdentifyMsg (p : Fin 4) (rx : Received) (s : State) : Host.Outcome State Fault Refusal :=
  .next (onMsg s p rx 4 fun msg s =>
    let s := modQport s p fun q => { q with
      farId := BitVec.ofNat 12 (bits msg 107 96), farPort := some (BitVec.ofNat 2 (bits msg 95 94)), farRole := BitVec.ofNat 2 (bits msg 93 92)
      farAuto := bit msg 91 }
    if !portUp s p then s
    else if !wiredRight s.quera.ports[p] p then takeDown s p
    else clashCheck s (bits msg 107 96))

/-- The device that a census message names as its anchor (R480, R481). -/
def censusFrom (ring position count : Nat) : Nat := ring * 64 + (position + 64 - count % 64) % 64

/-- The census has come round to the device that started it (R480). -/
def censusHome (s : State) (ring position count : Nat) (root : Bool) : Bool :=
  isAnchor s root && ring == s.quera.deviceId.toNat / 64 && (position + 64 - count % 64) % 64 == s.quera.deviceId.toNat % 64

/-- The anchor of a census is known to the device, and it waits for none (R480; log entries 51 and 284). -/
def noteAnchor (s : State) (root : Bool) (id : Nat) : State :=
  let a : BitVec 12 := BitVec.ofNat 12 id
  let lower (x : Option (BitVec 12)) : Option (BitVec 12) := match x with
    | none => some a
    | some b => some (if a.toNat < b.toNat then a else b)
  if root then { s with quera := { s.quera with rootAnchor := lower s.quera.rootAnchor } }
  else { s with quera := { s.quera with leafAnchor := lower s.quera.leafAnchor, censusWait := none } }

/-- A member takes its place from a census; a clash ends when its ID changes (R480, R481). -/
def takePlace (s : State) (ring position : Nat) : State :=
  let id := BitVec.ofNat 12 (ring * 64 + position)
  let t := { s with quera := { s.quera with deviceId := id, placed := true, clash := s.quera.clash && id == s.quera.deviceId } }
  if id = s.quera.deviceId ∧ s.quera.placed then t
  else topoEvent (reconverge s (if selfMaster s then becomeMaster t else t) 0) 4 0 0

/-- QUERA_CENSUS_MSG: it comes in on Q1, or on Q3 for the root ring; the anchor learns the size, a member with `auto_id` takes its place, and
everyone passes it on (R480, R501). -/
def execQueraCensusMsg (p : Fin 4) (rx : Received) (s : State) : Host.Outcome State Fault Refusal :=
  .next (onMsg s p rx 5 fun msg s =>
    let root := bit msg 88
    let ring := bits msg 107 102
    let position := bits msg 101 96
    let count := bits msg 95 89
    if !portUp s p || p != opposite (firstPort root) then s
    else if censusHome s ring position count root then setSize s root count
    else
      let s := noteAnchor s root (censusFrom ring position count)
      let s := if !root && s.quera.role == 0 && s.quera.autoId then takePlace s ring position else s
      if 2 ≤ shedStage s ∨ 64 ≤ count ∨ ¬ portUp s (firstPort root) then s
      else sendMsg s (firstPort root) (censusMsg ring (position + 1) (count + 1) root))

/-! ## Cross-triggers -/

/-- A cross-trigger goes on along its ring, and through a bridge onto the other (R492). -/
def passOn (s : State) (p : Fin 4) (m : BitVec 112) : State :=
  let hops := bits m 83 78
  let stage := bits m 77 76
  let again (stage hops : Nat) : Nat := xtrigMsg (bits m 107 104) (bits m 103 92) (bits m 91 84) hops stage (bit m 75) (BitVec.ofNat 64 (bits m 71 8))
  let s := if 1 < hops ∧ portUp s (opposite p) then sendMsg s (opposite p) (again stage (hops - 1)) else s
  if s.quera.role ≠ 1 then s
  else if stage = 0 ∧ ¬ isRootPort p then spread s true (again 1)
  else if stage = 1 ∧ isRootPort p then spread s false (again 2)
  else s

/-- An accepted cross-trigger reaches the stalls with a receive route; a route bound to an old generation drops it (R353, R493). -/
def acceptXtrig (s : State) (m : BitVec 112) : State :=
  let ch := bits m 107 104
  let s := { s with quera := { s.quera with received := satAdd 32 s.quera.received 1 } }
  (s.quera.routes.filter fun r => bit r.recv ch).foldl (fun s r =>
    if r.gen = s.stalls[r.stall].gen then deliverXtrig s r.stall ch (bits m 103 92) (BitVec.ofNat 64 (bits m 71 8)) (bit m 75)
    else { s with quera := { s.quera with staleDropped := satAdd 32 s.quera.staleDropped 1 } }) s

/-- QUERA_CROSS_TRIGGER_MSG (R477, R492, R493). -/
def execQueraCrossTriggerMsg (p : Fin 4) (rx : Received) (s : State) : Host.Outcome State Fault Refusal :=
  .next (onMsg s p rx 1 fun msg s =>
    if !portUp s p || isAlone s then s
    else
      let s := passOn s p msg
      if bits msg 91 84 = bits s.quera.epoch 7 0 then acceptXtrig s msg
      else { s with quera := { s.quera with staleDropped := satAdd 32 s.quera.staleDropped 1 } })

/-! ## The transmitters -/

/-- The rank of a message: cross-trigger, timing response, timing request, topology, then identify and census (R478). -/
def sendRank (m : BitVec 112) : Nat :=
  if msgKind m = 1 then 0 else if msgKind m = 2 then (if bit m 107 then 1 else 2) else if msgKind m = 3 then 3 else 4

/-- The message that a port starts next: the oldest of the first rank that waits (R478). -/
def nextMsg (l : List QOut) : Option QOut :=
  (List.range 5).findSome? fun k => l.find? fun m => sendRank m.msg == k

/-- A system time in 25ths of a tick, as a time: its tick. -/
def atTick (t25 : Nat) : Time := BitVec.ofNat 64 (t25 / 25)

/-- A response that would leave more than 65,535 ticks after its request is not sent (R484). -/
def mayLeave (t3 : Time) (m : QOut) : Bool := m.since.all fun t2 => past t3 t2 || (t3 - t2).toNat ≤ 65535

/-- A message as it leaves at a time: a response with its turnaround T3 - T2 (R484). -/
def leaving (t3 : Time) (m : QOut) : BitVec 112 :=
  match m.since with
  | none => m.msg
  | some t2 => withCrc (m.msg.toNat + (if past t3 t2 then 0 else (t3 - t2).toNat) * 2 ^ 20)

/-- The messages that may still leave at a block boundary or after it. -/
def waiting (q : QPort) (at_ : Nat) : List QOut := q.queue.filter fun m => mayLeave (atTick at_) m

/-- Those of them that may leave at it (R484). -/
def ready (q : QPort) (at_ : Nat) : List QOut := (waiting q at_).filter fun m => m.after.all fun t => !later t (atTick at_)

/-- T1 and the number of a request are taken as it leaves (R484). -/
def stampRequest (q : QPort) (m : BitVec 112) (t1 : Time) : QPort :=
  if sendRank m = 2 then { q with t1 := some t1, reqSeq := BitVec.ofNat 7 (bits m 106 100) } else q

/-- What a live port starts at a block boundary: a message whole, in two blocks, or idle (R474, R475, R478, R484). -/
def startBlock (s : State) (p : Fin 4) (at_ : Nat) : State :=
  let q := s.quera.ports[p]
  match nextMsg (ready q at_) with
  | none =>
    let a := codeBlock q.scrambler idleBlock
    emit (modQport s p fun x => { x with queue := waiting q at_, scrambler := a.2, blockAt := at_ + blockTime }) (.queraIdle p a.1)
  | some w =>
    let m := leaving (atTick at_) w
    let a := codeBlock q.scrambler (controlBlock 0xD2 (m.extractLsb' 56 56))
    let b := codeBlock a.2 (controlBlock 0xE1 (m.extractLsb' 0 56))
    emit (modQport s p fun x => { stampRequest x m (atTick at_) with
      queue := (waiting q at_).erase w, scrambler := b.2, blockAt := at_ + 2 * blockTime }) (.quera p m a.1 b.1)

/-- A port's transmitter over the stride just passed; a port that is not live sends nothing, keeps no message and holds no lock. Its boundaries
start with the port, and anew after a step of time (R474, R478, R486; log entry 265). -/
def runPort (s : State) (p : Fin 4) : State :=
  let now := 25 * s.tb.now.toNat
  let q := s.quera.ports[p]
  if !portLive s p then modQport s p fun x => { x with queue := [], lockSince := none }
  else if q.blockAt + 6400 < now ∨ now + 2 * blockTime < q.blockAt then startBlock s p now
  else if q.blockAt ≤ now then startBlock s p q.blockAt
  else s

/-- A port that has been without a valid topology message for 4 µs goes down (R479). -/
def watchPort (s : State) (p : Fin 4) : State :=
  if portUp s p && passed s.tb.now s.quera.ports[p].lastTopo 4000 then takeDown s p else s

/-- A whole ring whose census has not come within 1 ms has no anchor: a member with `auto_id` is alone (R480; log entry 284). -/
def watchCensus (s : State) : State :=
  match s.quera.censusWait with
  | none => s
  | some t =>
    if !passed s.tb.now t ms then s
    else
      let u := { s with quera := { s.quera with censusWait := none, placed := false } }
      announce s (reconverge s u 0)

/-- The Quera ports over the stride just passed (R474, R478, R479). -/
def runQuera (s : State) : State := allPorts.foldl runPort (watchCensus (allPorts.foldl watchPort s))

/-- What the device does when no command waits: a stride passes, what a written completion has released begins, formatted blocks that waited go
into the freeboard, and the Quera ports run; the requests of the stride that passes take effect first (R6, R198, R212, R447, R478; log entries 9
and 291). -/
def idle (s : State) : State := runQuera (offerBlocks (startReturned (tick (allStalls.foldl giveTriggers s))))

end Sys2Proof.Machine
end

