-- ==== Sys2Proof/Machine/Dispatch.lean ====
section
/-!
DEFINITION. What each command does: one arm per constructor, each a direct call of its meaning.
-/

namespace Sys2Proof.Machine

/-- The effect of a command on everything but the queue. -/
def exec (i : Instr) (s : State) : Host.Outcome State Fault Refusal :=
  match i with
  | .identify => Sys2Proof.Machine.execIdentify s
  | .getHealth => Sys2Proof.Machine.execGetHealth s
  | .attest => Sys2Proof.Machine.execAttest s
  | .stallCreate => Sys2Proof.Machine.execStallCreate s
  | .stallDestroy => Sys2Proof.Machine.execStallDestroy s
  | .stallReset => Sys2Proof.Machine.execStallReset s
  | .stallGrant => Sys2Proof.Machine.execStallGrant s
  | .stallRevoke => Sys2Proof.Machine.execStallRevoke s
  | .probeConfig seed => Sys2Proof.Machine.execProbeConfig seed s
  | .probeQuery => Sys2Proof.Machine.execProbeQuery s
  | .latchClear => Sys2Proof.Machine.execLatchClear s
  | .sluiceConfigChain => Sys2Proof.Machine.execSluiceConfigChain s
  | .sluiceConfigLink => Sys2Proof.Machine.execSluiceConfigLink s
  | .dcFreeze => Sys2Proof.Machine.execDcFreeze s
  | .dcThaw => Sys2Proof.Machine.execDcThaw s
  | .dcReset => Sys2Proof.Machine.execDcReset s
  | .sluiceSync => Sys2Proof.Machine.execSluiceSync s
  | .courseLoad => Sys2Proof.Machine.execCourseLoad s
  | .courseQuery => Sys2Proof.Machine.execCourseQuery s
  | .captureArm => Sys2Proof.Machine.execCaptureArm s
  | .captureStop => Sys2Proof.Machine.execCaptureStop s
  | .captureForce => Sys2Proof.Machine.execCaptureForce s
  | .captureMark => Sys2Proof.Machine.execCaptureMark s
  | .upload => Sys2Proof.Machine.execUpload s
  | .uploadCancel => Sys2Proof.Machine.execUploadCancel s
  | .referenceLoad => Sys2Proof.Machine.execReferenceLoad s
  | .referenceSelect => Sys2Proof.Machine.execReferenceSelect s
  | .calibrate => Sys2Proof.Machine.execCalibrate s
  | .selftest => Sys2Proof.Machine.execSelftest s
  | .retryLanes => Sys2Proof.Machine.execRetryLanes s
  | .queraConfig => Sys2Proof.Machine.execQueraConfig s
  | .queraStatus => Sys2Proof.Machine.execQueraStatus s
  | .crossTriggerRoute => Sys2Proof.Machine.execCrossTriggerRoute s
  | .powerStateDormant => Sys2Proof.Machine.execPowerStateDormant s
  | .powerStateDikewatch => Sys2Proof.Machine.execPowerStateDikewatch s
  | .powerStateReady => Sys2Proof.Machine.execPowerStateReady s
  | .powerStateRun => Sys2Proof.Machine.execPowerStateRun s
  | .panelConfigKeys => Sys2Proof.Machine.execPanelConfigKeys s
  | .panelConfigLeds => Sys2Proof.Machine.execPanelConfigLeds s
  | .firmwareUpdate => Sys2Proof.Machine.execFirmwareUpdate s
  | .lifecycle => Sys2Proof.Machine.execLifecycle s
  | .journalRead readOk => Sys2Proof.Machine.execJournalRead readOk s
  | .unknownOpcode => Sys2Proof.Machine.execUnknownOpcode s
  | .groomTakeCommand f entry ecc => Sys2Proof.Machine.execGroomTakeCommand f entry ecc s
  | .hostReadComplete r data => Sys2Proof.Machine.execHostReadComplete r data s
  | .hostReadTimeout r => Sys2Proof.Machine.execHostReadTimeout r s
  | .sqTailDoorbell f off val be => Sys2Proof.Machine.execSqTailDoorbell f off val be s
  | .cqHeadDoorbell f off val be ecc => Sys2Proof.Machine.execCqHeadDoorbell f off val be ecc s
  | .sqEnable f off val be => Sys2Proof.Machine.execSqEnable f off val be s
  | .sqDisable f off val be => Sys2Proof.Machine.execSqDisable f off val be s
  | .cqEnable f off val be => Sys2Proof.Machine.execCqEnable f off val be s
  | .cqDisable f off val be => Sys2Proof.Machine.execCqDisable f off val be s
  | .winControlLock f off val be => Sys2Proof.Machine.execWinControlLock f off val be s
  | .faultLeave f off val be => Sys2Proof.Machine.execFaultLeave f off val be s
  | .errStatusClear f off val be => Sys2Proof.Machine.execErrStatusClear f off val be s
  | .registerWrite f off val be => Sys2Proof.Machine.execRegisterWrite f off val be s
  | .scratchWrite f off data be collide => Sys2Proof.Machine.execScratchWrite f off data be collide s
  | .scratchBitSet f off data be port => Sys2Proof.Machine.execScratchBitSet f off data be port s
  | .scratchBitClear f off data be port => Sys2Proof.Machine.execScratchBitClear f off data be port s
  | .msixVectorUnmask f off val be enable fnMask => Sys2Proof.Machine.execMsixVectorUnmask f off val be enable fnMask s
  | .msixHoldoffExpiry f event => Sys2Proof.Machine.execMsixHoldoffExpiry f event s
  | .functionLevelReset f => Sys2Proof.Machine.execFunctionLevelReset f s
  | .vfDisable n => Sys2Proof.Machine.execVfDisable n s
  | .dStateChange f w => Sys2Proof.Machine.execDStateChange f w s
  | .perst => Sys2Proof.Machine.execPerst s
  | .stallResetRelease st => Sys2Proof.Machine.execStallResetRelease st s
  | .courseStride st inp => Sys2Proof.Machine.execCourseStride st inp s
  | .courseTimerLimit st n => Sys2Proof.Machine.execCourseTimerLimit st n s
  | .courseCounterCompare st n => Sys2Proof.Machine.execCourseCounterCompare st n s
  | .storeOnDeferred st => Sys2Proof.Machine.execStoreOnDeferred st s
  | .trigOutPulseEnd st => Sys2Proof.Machine.execTrigOutPulseEnd st s
  | .hoofbeat t => Sys2Proof.Machine.execHoofbeat t s
  | .trotClockEdge st edge => Sys2Proof.Machine.execTrotClockEdge st edge s
  | .walkPeriodEnd st => Sys2Proof.Machine.execWalkPeriodEnd st s
  | .gallopDenseBlock st => Sys2Proof.Machine.execGallopDenseBlock st s
  | .keyframe st => Sys2Proof.Machine.execKeyframe st s
  | .postTriggerFillEnd st => Sys2Proof.Machine.execPostTriggerFillEnd st s
  | .gallopFurlongClose st => Sys2Proof.Machine.execGallopFurlongClose st s
  | .segmentClosed st seed => Sys2Proof.Machine.execSegmentClosed st seed s
  | .segmentOpen st seed => Sys2Proof.Machine.execSegmentOpen st seed s
  | .latchExcursion c above sample => Sys2Proof.Machine.execLatchExcursion c above sample s
  | .dwellMet c first => Sys2Proof.Machine.execDwellMet c first s
  | .openCheckEnd c undriven => Sys2Proof.Machine.execOpenCheckEnd c undriven s
  | .podPlug p t => Sys2Proof.Machine.execPodPlug p t s
  | .podPwrSettled p => Sys2Proof.Machine.execPodPwrSettled p s
  | .podDescriptorRead p bytes seed => Sys2Proof.Machine.execPodDescriptorRead p bytes seed s
  | .podUnplug p t => Sys2Proof.Machine.execPodUnplug p t s
  | .podOvercurrent p t => Sys2Proof.Machine.execPodOvercurrent p t s
  | .spurPress p t => Sys2Proof.Machine.execSpurPress p t s
  | .keyPress k t => Sys2Proof.Machine.execKeyPress k t s
  | .ledBlinkToggle => Sys2Proof.Machine.execLedBlinkToggle s
  | .calibrateTileDone p pass meas => Sys2Proof.Machine.execCalibrateTileDone p pass meas s
  | .selftestDone f tag failed checks => Sys2Proof.Machine.execSelftestDone f tag failed checks s
  | .shadowCycle p corr => Sys2Proof.Machine.execShadowCycle p corr s
  | .calibrationDriftPending c => Sys2Proof.Machine.execCalibrationDriftPending c s
  | .tileSensorSample temps supplies => Sys2Proof.Machine.execTileSensorSample temps supplies s
  | .tileSpreadRestored => Sys2Proof.Machine.execTileSpreadRestored s
  | .longGateEnd b count => Sys2Proof.Machine.execLongGateEnd b count s
  | .fastGateEnd b count => Sys2Proof.Machine.execFastGateEnd b count s
  | .referenceLoss b => Sys2Proof.Machine.execReferenceLoss b s
  | .holdover60s => Sys2Proof.Machine.execHoldover60s s
  | .pllLockLoss => Sys2Proof.Machine.execPllLockLoss s
  | .relockDone => Sys2Proof.Machine.execRelockDone s
  | .aonClockLoss => Sys2Proof.Machine.execAonClockLoss s
  | .aonClockRestored => Sys2Proof.Machine.execAonClockRestored s
  | .sysrefEdge t => Sys2Proof.Machine.execSysrefEdge t s
  | .syncEdge t => Sys2Proof.Machine.execSyncEdge t s
  | .syncInstant => Sys2Proof.Machine.execSyncInstant s
  | .jesdFrame l err samples => Sys2Proof.Machine.execJesdFrame l err samples s
  | .linkUp l seen => Sys2Proof.Machine.execLinkUp l seen s
  | .linkLost l aligned => Sys2Proof.Machine.execLinkLost l aligned s
  | .chainOutput n => Sys2Proof.Machine.execChainOutput n s
  | .detectorOutput n => Sys2Proof.Machine.execDetectorOutput n s
  | .cycleEnd n t => Sys2Proof.Machine.execCycleEnd n t s
  | .dcFreezeHoldExpiry n => Sys2Proof.Machine.execDcFreezeHoldExpiry n s
  | .laneWriteIssue l ecc => Sys2Proof.Machine.execLaneWriteIssue l ecc s
  | .dramSchedule l => Sys2Proof.Machine.execDramSchedule l s
  | .writeAck l id => Sys2Proof.Machine.execWriteAck l id s
  | .dramReadData l flips => Sys2Proof.Machine.execDramReadData l flips s
  | .laneFault l => Sys2Proof.Machine.execLaneFault l s
  | .dramRefresh l => Sys2Proof.Machine.execDramRefresh l s
  | .mr4Read l temps => Sys2Proof.Machine.execMr4Read l temps s
  | .nrTableClear l => Sys2Proof.Machine.execNrTableClear l s
  | .neighbourRefresh l => Sys2Proof.Machine.execNeighbourRefresh l s
  | .dqsOscCheck l drift => Sys2Proof.Machine.execDqsOscCheck l drift s
  | .alertNFall l => Sys2Proof.Machine.execAlertNFall l s
  | .alertNRise l => Sys2Proof.Machine.execAlertNRise l s
  | .laneDemote l passed => Sys2Proof.Machine.execLaneDemote l passed s
  | .softRepair => Sys2Proof.Machine.execSoftRepair s
  | .softRepairEnd flips => Sys2Proof.Machine.execSoftRepairEnd flips s
  | .scrubStep l ago => Sys2Proof.Machine.execScrubStep l ago s
  | .wipeParcelDone p => Sys2Proof.Machine.execWipeParcelDone p s
  | .compressorChunkDone k block ecc => Sys2Proof.Machine.execCompressorChunkDone k block ecc s
  | .uploadChunkRead st => Sys2Proof.Machine.execUploadChunkRead st s
  | .decompressorBaleDone d ecc => Sys2Proof.Machine.execDecompressorBaleDone d ecc s
  | .playbackTimedStart st => Sys2Proof.Machine.execPlaybackTimedStart st s
  | .playbackStagingRefill st ecc => Sys2Proof.Machine.execPlaybackStagingRefill st ecc s
  | .playbackEnd st => Sys2Proof.Machine.execPlaybackEnd st s
  | .playbackUnderrun st => Sys2Proof.Machine.execPlaybackUnderrun st s
  | .eventRateIntervalEnd key => Sys2Proof.Machine.execEventRateIntervalEnd key s
  | .queraTimingSend p due => Sys2Proof.Machine.execQueraTimingSend p due s
  | .queraTimingRequest p rx t2 ready => Sys2Proof.Machine.execQueraTimingRequest p rx t2 ready s
  | .queraTimingResponse p rx t4 => Sys2Proof.Machine.execQueraTimingResponse p rx t4 s
  | .queraTimeStep => Sys2Proof.Machine.execQueraTimeStep s
  | .queraTopologySend p => Sys2Proof.Machine.execQueraTopologySend p s
  | .queraTopologyMsg p rx => Sys2Proof.Machine.execQueraTopologyMsg p rx s
  | .queraIdentifySend p => Sys2Proof.Machine.execQueraIdentifySend p s
  | .queraIdentifyMsg p rx => Sys2Proof.Machine.execQueraIdentifyMsg p rx s
  | .queraCensusMsg p rx => Sys2Proof.Machine.execQueraCensusMsg p rx s
  | .queraCrossTriggerMsg p rx => Sys2Proof.Machine.execQueraCrossTriggerMsg p rx s
  | .queraPortUp p => Sys2Proof.Machine.execQueraPortUp p s
  | .queraPortDown p => Sys2Proof.Machine.execQueraPortDown p s
  | .shedStageEnter n src mv => Sys2Proof.Machine.execShedStageEnter n src mv s
  | .shedStageLeave n mv => Sys2Proof.Machine.execShedStageLeave s n mv
  | .stage4Begin => Sys2Proof.Machine.execStage4Begin s
  | .tjSample q => Sys2Proof.Machine.execTjSample q s
  | .thermalStageLeave => Sys2Proof.Machine.execThermalStageLeave s
  | .thermalTrip fl mv => Sys2Proof.Machine.execThermalTrip s fl mv
  | .powerTransitionDone bad => Sys2Proof.Machine.execPowerTransitionDone bad s
  | .dikewatchSample inp => Sys2Proof.Machine.execDikewatchSample inp s
  | .dikewatchWakeDone ecc lost bad seed => Sys2Proof.Machine.execDikewatchWakeDone ecc lost bad seed s
  | .dormantWake src cycles w => Sys2Proof.Machine.execDormantWake src cycles w s
  | .bootStart why => Sys2Proof.Machine.execBootStart why s
  | .bootStepDone out => Sys2Proof.Machine.execBootStepDone out s
  | .bootStepTimeout => Sys2Proof.Machine.execBootStepTimeout s
  | .firmwareUpdateDone verdict => Sys2Proof.Machine.execFirmwareUpdateDone verdict s
  | .lifecycleDone verdict => Sys2Proof.Machine.execLifecycleDone verdict s
  | .tamperAssert which => Sys2Proof.Machine.execTamperAssert which s
  | .glitchDetect => Sys2Proof.Machine.execGlitchDetect s
  | .secureWipeDone ok => Sys2Proof.Machine.execSecureWipeDone ok s
  | .vfEnable n c => Sys2Proof.Machine.execVfEnable n c s
  | .progressEntryDue f job => Sys2Proof.Machine.execProgressEntryDue f job s
  | .flashWriteDone ok => Sys2Proof.Machine.execFlashWriteDone ok s
  | .powerStateTimeout => Sys2Proof.Machine.execPowerStateTimeout s
  | .eventRecordLeavesQueue => Sys2Proof.Machine.execEventRecordLeavesQueue s
  | .resetAssert => Sys2Proof.Machine.execResetAssert s
  | .powerLoss => Sys2Proof.Machine.execPowerLoss s
  | .keyRelease k => Sys2Proof.Machine.execKeyRelease k s
  | .spurRelease p => Sys2Proof.Machine.execSpurRelease p s

end Sys2Proof.Machine
end

