-- ==== Sys2Proof/WellFormed.lean ====
section
/-!
DEFINITION. Which commands the outside of the block can send: the operands of a row keep the ranges the spec gives them. The meanings are
total; a command outside these ranges changes nothing or is read as the operands allow.
-/

namespace Sys2Proof

/-- An offset of the register window names the register at offset `o`, in the window or its alias (R386). -/
def windowAt (off : BitVec 12) (o : Nat) : Bool := off.toNat % 0x200 / 4 * 4 == o

/-- What R520 lets enter a supply stage: 1 PWR_WARN#, 2 the VDD_CORE monitor, 3 PWR_FAIL# (R463, R520). -/
def shedSource (n src : Nat) : Bool :=
  if n = 1 then src == 1 || src == 2
  else if n = 2 || n = 3 then src == 2
  else n == 4 && (src == 2 || src == 3)

/-- A tile's calibration measures each of its eight channels (R62). -/
def calMeasOk (m : CalMeas) : Bool := m.delay.length == 8 && m.offset.length == 8 && m.gain.length == 8

/-- A lane and a row of it, as lane times 2^21 plus row (R274). -/
def rowOk (k : Nat) : Bool := decide (k < 2 ^ 23)

/-- The beats of a block of 16 records (R243). -/
def flipsOk (flips : List (BitVec 80)) : Bool := decide (flips.length ≤ 16)

/-- The lists of a boot step's outcome have the lengths and ranges of what they describe (R232, R274, R531). -/
def bootOutOk : BootOut → Bool
  | .calibrate _ meas => meas.toList.all calMeasOk
  | .dram lanes noHard badRows => (lanes.toList.all fun t => t.spares.length == 20) && noHard.all rowOk && badRows.all rowOk
  | .aon _ => true
  | .fuses _ => true
  | .loader _ => true
  | .verify _ _ => true
  | .groom _ => true
  | .pll _ _ _ => true
  | .rom _ => true
  | .quera _ => true
  | .pcie _ speed width => decide (1 ≤ speed && speed ≤ 5) && (width == 1 || width == 2 || width == 4 || width == 8)
  | .ready _ => true

/-- A command that the outside can send. -/
def wellFormed (i : Instr) : Bool :=
  match i with
  | .identify => true
  | .getHealth => true
  | .attest => true
  | .stallCreate => true
  | .stallDestroy => true
  | .stallReset => true
  | .stallGrant => true
  | .stallRevoke => true
  | .probeConfig _ => true
  | .probeQuery => true
  | .latchClear => true
  | .sluiceConfigChain => true
  | .sluiceConfigLink => true
  | .dcFreeze => true
  | .dcThaw => true
  | .dcReset => true
  | .sluiceSync => true
  | .courseLoad => true
  | .courseQuery => true
  | .captureArm => true
  | .captureStop => true
  | .captureForce => true
  | .captureMark => true
  | .upload => true
  | .uploadCancel => true
  | .referenceLoad => true
  | .referenceSelect => true
  | .calibrate => true
  | .selftest => true
  | .retryLanes => true
  | .queraConfig => true
  | .queraStatus => true
  | .crossTriggerRoute => true
  | .powerStateDormant => true
  | .powerStateDikewatch => true
  | .powerStateReady => true
  | .powerStateRun => true
  | .panelConfigKeys => true
  | .panelConfigLeds => true
  | .firmwareUpdate => true
  | .lifecycle => true
  | .journalRead _ => true
  | .unknownOpcode => true
  | .groomTakeCommand _ _ _ => true
  | .hostReadComplete _ _ => true
  | .hostReadTimeout _ => true
  | .sqTailDoorbell _ off _ _ => windowAt off 0x1C
  | .cqHeadDoorbell _ off _ _ _ => windowAt off 0x2C
  | .sqEnable _ off val _ => windowAt off 0x08 && bit val 0
  | .sqDisable _ off val _ => windowAt off 0x08 && !bit val 0
  | .cqEnable _ off val _ => windowAt off 0x08 && bit val 1
  | .cqDisable _ off val _ => windowAt off 0x08 && !bit val 1
  | .winControlLock _ off val _ => windowAt off 0x08 && bit val 31
  | .faultLeave _ off val _ => windowAt off 0x08 && bits val 1 0 == 0
  | .errStatusClear _ off _ _ => windowAt off 0x40
  | .registerWrite _ _ _ _ => true
  | .scratchWrite _ off _ _ _ => bits off 15 14 == 0 || bits off 15 14 == 3
  | .scratchBitSet _ off _ _ _ => bits off 15 14 == 1
  | .scratchBitClear _ off _ _ _ => bits off 15 14 == 2
  | .msixVectorUnmask _ _ _ _ _ _ => true
  | .msixHoldoffExpiry _ _ => true
  | .functionLevelReset _ => true
  | .vfDisable _ => true
  | .dStateChange _ _ => true
  | .perst => true
  | .stallResetRelease _ => true
  | .courseStride _ _ => true
  | .courseTimerLimit _ _ => true
  | .courseCounterCompare _ _ => true
  | .storeOnDeferred _ => true
  | .trigOutPulseEnd _ => true
  | .hoofbeat _ => true
  | .trotClockEdge _ _ => true
  | .walkPeriodEnd _ => true
  | .gallopDenseBlock _ => true
  | .keyframe _ => true
  | .postTriggerFillEnd _ => true
  | .gallopFurlongClose _ => true
  | .segmentClosed _ _ => true
  | .segmentOpen _ _ => true
  | .latchExcursion _ _ _ => true
  | .dwellMet _ _ => true
  | .openCheckEnd _ _ => true
  | .podPlug _ _ => true
  | .podPwrSettled _ => true
  | .podDescriptorRead _ bytes _ => bytes.all fun l => l.length == 64
  | .podUnplug _ _ => true
  | .podOvercurrent _ _ => true
  | .spurPress _ _ => true
  | .keyPress _ _ => true
  | .ledBlinkToggle => true
  | .calibrateTileDone _ _ meas => calMeasOk meas
  | .selftestDone _ _ _ _ => true
  | .shadowCycle _ corr => corr.length == 8
  | .calibrationDriftPending _ => true
  | .tileSensorSample _ _ => true
  | .tileSpreadRestored => true
  | .longGateEnd _ _ => true
  | .fastGateEnd _ _ => true
  | .referenceLoss _ => true
  | .holdover60s => true
  | .pllLockLoss => true
  | .relockDone => true
  | .aonClockLoss => true
  | .aonClockRestored => true
  | .sysrefEdge _ => true
  | .syncEdge _ => true
  | .syncInstant => true
  | .jesdFrame _ _ _ => true
  | .linkUp _ _ => true
  | .linkLost _ _ => true
  | .chainOutput _ => true
  | .detectorOutput _ => true
  | .cycleEnd _ _ => true
  | .dcFreezeHoldExpiry _ => true
  | .laneWriteIssue _ _ => true
  | .dramSchedule _ => true
  | .writeAck _ _ => true
  | .dramReadData _ flips => flipsOk flips
  | .laneFault _ => true
  | .dramRefresh _ => true
  | .mr4Read _ _ => true
  | .nrTableClear _ => true
  | .neighbourRefresh _ => true
  | .dqsOscCheck _ _ => true
  | .alertNFall _ => true
  | .alertNRise _ => true
  | .laneDemote _ _ => true
  | .softRepairEnd flips => decide (flips.length ≤ 64) && flips.all flipsOk
  | .softRepair => true
  | .scrubStep _ _ => true
  | .wipeParcelDone _ => true
  | .compressorChunkDone _ _ _ => true
  | .uploadChunkRead _ => true
  | .decompressorBaleDone _ _ => true
  | .playbackTimedStart _ => true
  | .playbackStagingRefill _ _ => true
  | .playbackEnd _ => true
  | .playbackUnderrun _ => true
  | .eventRateIntervalEnd _ => true
  | .queraTimingSend _ _ => true
  | .queraTimingRequest _ _ _ _ => true
  | .queraTimingResponse _ _ _ => true
  | .queraTimeStep => true
  | .queraTopologySend _ => true
  | .queraTopologyMsg _ _ => true
  | .queraIdentifySend _ => true
  | .queraIdentifyMsg _ _ => true
  | .queraCensusMsg _ _ => true
  | .queraCrossTriggerMsg _ _ => true
  | .queraPortUp _ => true
  | .queraPortDown _ => true
  | .shedStageEnter n src _ => shedSource n.val src.toNat
  | .shedStageLeave _ _ => true
  | .stage4Begin => true
  | .tjSample _ => true
  | .thermalStageLeave => true
  | .thermalTrip _ _ => true
  | .powerTransitionDone _ => true
  | .dikewatchSample _ => true
  | .dikewatchWakeDone _ lost _ _ => lost.all fun k => decide (k < 116496)
  | .dormantWake _ _ _ => true
  | .bootStart _ => true
  | .bootStepDone out => bootOutOk out
  | .bootStepTimeout => true
  | .firmwareUpdateDone _ => true
  | .lifecycleDone _ => true
  | .tamperAssert _ => true
  | .glitchDetect => true
  | .secureWipeDone _ => true
  | .vfEnable _ _ => true
  | .progressEntryDue _ _ => true
  | .flashWriteDone _ => true
  | .powerStateTimeout => true
  | .eventRecordLeavesQueue => true
  | .resetAssert => true
  | .powerLoss => true
  | .keyRelease _ => true
  | .spurRelease _ => true

end Sys2Proof
end

