-- ==== Sys2Proof/Safety.lean ====
section
/-!
DEFINITION. What a safe run is: no step stops, and the state keeps what the block's data must keep.
-/

namespace Sys2Proof.Machine

/-- Both addressed memories have their canonical form, and system time stands at the start of a stride (R6). -/
def State.Sound (s : State) : Prop :=
  memWf s.scratch = true ∧ memWf s.dram.mem = true ∧ s.tb.now.toNat % 256 = 0

/-- What an entry to a function's ring may change: the function's ring indices, phase, message counts and pending vectors, its
stall's completion store, list of outstanding commands and count of dropped events, and what has left the device. Everything
else, and every other function and stall, stands (R363, R383, R398). -/
def answersOnly (f : Fn) (s t : State) : Prop :=
  t = { s with fns := t.fns, stalls := t.stalls, out := t.out } ∧
  (∀ g : Fn, g ≠ f → t.fns[g] = s.fns[g] ∧ t.stalls[g] = s.stalls[g]) ∧
  t.fns[f] = { s.fns[f] with
    cqIndex := t.fns[f].cqIndex, cqPhase := t.fns[f].cqPhase, cntC := t.fns[f].cntC, oldC := t.fns[f].oldC
    cntE := t.fns[f].cntE, oldE := t.fns[f].oldE, msixPending := t.fns[f].msixPending } ∧
  t.stalls[f] = { s.stalls[f] with
    store := t.stalls[f].store, outst := t.stalls[f].outst, eventsDropped := t.stalls[f].eventsDropped } ∧
  ∃ l, t.out = s.out ++ l

/-- A step that does not stop. -/
def goesOn (s : State) : Bool := match step s with
  | .next _ => true
  | .fault _ => false
  | .refused _ => false

/-- Every command waiting is one that the outside can send. -/
def State.queueOk (s : State) : Bool := s.pending.all wellFormed

end Sys2Proof.Machine
end

