-- ==== Sys2Proof/Certificates/Slice0/Obligations.lean ====
section
/-!
DEFINITION. The statements for the provers. A command of a ring acts when the Groom holds it: `InHand s t op` says that the
Groom holds the submission `t` with opcode `op`, and `freed s` is the state in which the Groom holds none. Where a next state
is written with a named operation of the machine, that operation is the one the command's rule describes; `answersOnly` says what a
completion or an event may change.
-/

open Sys2Proof Sys2Proof.Machine

namespace Sys2Proof.Claims

/-- The Groom holds a submission with an opcode. -/
def InHand (s : State) (t : Taken) (op : Nat) : Prop := s.groom.taken = some t ∧ opcode t.e = op

/-- The state in which the Groom holds no submission. -/
def freed (s : State) : State := { s with groom := { s.groom with taken := none } }

/-- The commands whose meaning may write DRAM: an acknowledged write, the end of a soft repair, what trains lanes on an entry to Run or on a
wake, and what resets the core. -/
def writesDram : Instr → Bool
  | .writeAck _ _ => true
  | .softRepairEnd _ => true
  | .resetAssert => true
  | .powerLoss => true
  | .bootStepTimeout => true
  | .bootStepDone _ => true
  | .powerTransitionDone _ => true
  | .dikewatchWakeDone _ _ _ _ => true
  | .dormantWake _ _ _ => true
  | _ => false

/-- The commands whose meaning may write a scratchpad: results delivered there, writes by the host, a stall's creation and
release, a wake from Dormant that boots anew, and what resets the core. -/
def writesScratch : Instr → Bool
  | .identify => true
  | .getHealth => true
  | .attest => true
  | .courseQuery => true
  | .probeQuery => true
  | .queraStatus => true
  | .journalRead _ => true
  | .scratchWrite _ _ _ _ _ => true
  | .scratchBitSet _ _ _ _ _ => true
  | .scratchBitClear _ _ _ _ _ => true
  | .stallCreate => true
  | .stallResetRelease _ => true
  | .resetAssert => true
  | .powerLoss => true
  | .bootStepTimeout => true
  | .bootStepDone _ => true
  | .powerTransitionDone _ => true
  | .dormantWake _ _ _ => true
  | _ => false

/-- The commands whose meaning may set system time: the step of Quera alignment, the wake from Dormant, the PLL's boot step,
and what resets the core. -/
def movesTime : Instr → Bool
  | .queraTimeStep => true
  | .dormantWake _ _ _ => true
  | .resetAssert => true
  | .powerLoss => true
  | .bootStepTimeout => true
  | .bootStepDone _ => true
  | .powerTransitionDone _ => true
  | _ => false

/-- A calibration job begun. -/
def withCal (s : State) (j : CalJob) : State := { s with jobs := { s.jobs with cal := s.jobs.cal ++ [j] } }

/-- A channel test begun. -/
def withTest (s : State) (j : TestJob) : State := { s with jobs := { s.jobs with tests := s.jobs.tests ++ [j] } }

/-- A chain but for the analogue samples that wait for a side record, and whether the next needs an anchor. -/
def sideless (c : Chain) : Chain := { c with sideOut := [], sideDet := [], anchorOut := false, anchorDet := false }

/-- A transition under way. -/
def withTarget (s : State) (p : PowerTarget) : State := { s with power := { s.power with target := some p } }

end Sys2Proof.Claims

open Sys2Proof.Claims

/-! ## The queue, time and the memories -/

/-- A step takes the command at the front of the queue and runs it on the state with the rest of the queue. -/
def Obligations.StepRunsTheFrontCommand : Prop :=
  ∀ (c : Instr) (rest : List Instr) (s : State), step { s with pending := c :: rest } = exec c { s with pending := rest }

/-- With no command waiting a stride of system time passes while time is valid, and the queue, the scratchpads and DRAM
stand; where no trigger request and no formatted block waits, no Quera port runs, no census is awaited, the frequency is not
steered and no transition into Returned waits for its completion, nothing else happens (the model's choice, log entry 9; the
256 ticks of a stride are R6's and R87's). -/
def Obligations.EmptyQueueLetsAStridePass : Prop :=
  ∀ s : State, s.pending = [] →
    (∃ t, step s = .next t ∧ t.pending = [] ∧ t.scratch = s.scratch ∧ t.dram.mem = s.dram.mem ∧
      t.tb.now = (if s.tb.timeValid then s.tb.now + 256 else s.tb.now)) ∧
    (s.flash.returned = none → (∀ l : Fin 4, s.fbd.outbox[l] = []) →
      (∀ (n : Stall) (c : Capture), s.stalls[n].cap = some c → c.owed = []) →
      (∀ p : Fin 4, portLive s p = false ∧ s.quera.ports[p].up = false ∧ s.quera.ports[p].queue = [] ∧
        s.quera.ports[p].lockSince = none) →
      s.quera.censusWait = none → s.tb.steer = 0 → s.tb.steerFine = 0 → s.tb.steerRate = 0 →
      (s.tb.timeValid = true → ∃ t, step s = .next t ∧ t = { s with tb := { s.tb with now := s.tb.now + 256 } }) ∧
      (s.tb.timeValid = false → step s = .next s))

/-- No command changes the queue of waiting commands (log entry 10). -/
def Obligations.CommandsKeepTheQueue : Prop :=
  ∀ (c : Instr) (s t : State), exec c s = .next t → t.pending = s.pending

/-- Every step that goes on keeps the canonical form of both memories and system time at the start of a stride. -/
def Obligations.EveryStepKeepsSoundness : Prop :=
  ∀ s t : State, s.Sound → step s = .next t → t.Sound

/-- The state after reset is sound. -/
def Obligations.ResetStateIsSound : Prop :=
State.reset.Sound ∧ State.reset.pending = []

/-- DRAM changes only where a write is acknowledged by its lane, where a soft repair ends, where lanes are trained on an
entry to Run or on a wake, or where the core is reset. A scratchpad changes only by a result delivered there, by a write of
the host, at a stall's creation and release, on a wake from Dormant that boots anew, and where the core is reset. -/
def Obligations.OnlyNamedCommandsChangeTheMemories : Prop :=
  (
  ∀ (c : Instr) (s t : State), writesDram c = false → exec c s = .next t → t.dram.mem = s.dram.mem) ∧
  (
  ∀ (c : Instr) (s t : State), writesScratch c = false → exec c s = .next t → t.scratch = s.scratch)

/-- No command sets system time but the step of Quera alignment, the wake from Dormant, the boot steps, and what resets the
core. -/
def Obligations.OnlyNamedCommandsMoveTime : Prop :=
  ∀ (c : Instr) (s t : State), movesTime c = false → exec c s = .next t → t.tb.now = s.tb.now

/-! ## Commands that return a result -/

/-- A result command with a well-formed descriptor and space enough writes its result whole and completes `ok`: GET_HEALTH,
COURSE_QUERY, PROBE_QUERY and QUERA_STATUS without payload, IDENTIFY with its four payload dwords (and without a result
where the space is 0). ATTEST writes the report of the chain it names, outside a wipe, with the device's keys loaded and a
certificate chain stored; JOURNAL_READ writes the journal, the breach map or the board record. -/
def Obligations.ResultCommandsWriteTheirResults : Prop :=
  (
  ∀ (s : State) (t : Taken) (op : Nat), InHand s t op → reservedBit t.e resultBits = none → badResult t.e = none →
    (op = 0x02 → (healthResult (freed s) t.fn).length ≤ resultLen t.e →
      exec .getHealth s = .next (completeAt (writeResult (freed s) t (healthResult (freed s) t.fn)) t .ok {})) ∧
    (op = 0x31 → (courseResult (freed s) t.fn).length ≤ resultLen t.e →
      exec .courseQuery s = .next (completeAt (writeResult (freed s) t (courseResult (freed s) t.fn)) t .ok {})) ∧
    (op = 0x21 → (probeResult (freed s) t.fn).length ≤ resultLen t.e →
      exec .probeQuery s = .next (completeAt (writeResult (freed s) t (probeResult (freed s) t.fn)) t .ok {})) ∧
    (op = 0x61 → (queraResult (freed s)).length ≤ resultLen t.e →
      exec .queraStatus s = .next (completeAt (writeResult (freed s) t (queraResult (freed s))) t .ok {})) ∧
    (op = 0x01 → resultLen t.e = 0 ∨ (identifyResult (freed s) t.fn).length ≤ resultLen t.e →
      ∃ p : Pay, [p.p4, p.p5, p.p6, p.p7] = (identifyDwords (freed s) t.fn).take 4 ∧
        exec .identify s = .next (completeAt (if resultLen t.e = 0 then freed s
          else writeResult (freed s) t (identifyResult (freed s) t.fn)) t .ok p))) ∧
  (
  ∀ (s : State) (t : Taken), badResult t.e = none →
    (InHand s t 0x03 → t.secure ≠ .uncorrectable → reservedBit t.e attestBits = none → s.sec.wiping = none → lifecycleOf s ≠ 0 → s.sec.keys = true →
      (∀ h : bits (dw t.e 13) 1 0 < 4, s.flash.certs[bits (dw t.e 13) 1 0] ≠ []) →
      (attestReport (freed s) t).length ≤ resultLen t.e →
      (t.secure = .clean → exec .attest s = .next (completeAt (writeResult (freed s) t (attestReport (freed s) t)) t .ok {})) ∧
      (t.secure = .corrected → exec .attest s =
        .next (completeAt (writeResult (countSram (freed s) 8) t (attestReport (freed s) t)) t .ok {}))) ∧
    (∀ l : List Byte, InHand s t 0x72 → reservedBit t.e (resultBits ++ [3]) = none →
      (bits (dw t.e 5) 1 0 = 0 ∧ l = journalResult s ∨ bits (dw t.e 5) 1 0 = 1 ∧ l = breachResult s ∨
        bits (dw t.e 5) 1 0 = 2 ∧ l = s.flash.boardRec) → l.length ≤ resultLen t.e →
      exec (.journalRead true) s = .next (completeAt (writeResult (freed s) t l) t .ok {})))

/-- A result delivered to the caller's scratchpad reads back there byte by byte, and every other scratchpad byte, of every
function, reads as before; one delivered to host memory changes no scratchpad byte. -/
def Obligations.ResultsLandInTheCallersScratchpad : Prop :=
  ∀ (s : State) (t : Taken) (l : List Byte) (a : Nat), s.Sound →
    (toScratch t.e = true →
      memRead (writeResult s t l).scratch a =
        if 16384 * t.fn.val + (dw t.e 2).toNat ≤ a ∧ a < 16384 * t.fn.val + (dw t.e 2).toNat + l.length
          then l.getD (a - (16384 * t.fn.val + (dw t.e 2).toNat)) 0 else memRead s.scratch a) ∧
    (toScratch t.e = false → (writeResult s t l).scratch = s.scratch) ∧
    (toScratch t.e = true → badResult t.e = none → l.length ≤ resultLen t.e →
      ∀ f : Fn, f ≠ t.fn → ∀ i < 16384, memRead (writeResult s t l).scratch (16384 * f.val + i) = memRead s.scratch (16384 * f.val + i))

/-! ## Stalls and their grants -/

/-- STALL_CREATE gives an absent stall of an existing function a fresh stall, idle, with 8 outstanding commands and a rate
of 100, under the next generation, over a scratchpad of zeros; STALL_RESET and STALL_DESTROY start the reset sequence with
their cause and report the generation it ends. STALL_CREATE for stall 0, for a stall that is not absent, or for a function
that does not exist, and STALL_DESTROY for stall 0, complete `invalid` and change only the answer. -/
def Obligations.StallsAreCreatedResetAndDestroyed : Prop :=
  (
  ∀ (s : State) (t : Taken) (n : Stall), targetOf t.e = some n → reservedBit t.e [] = none →
    (InHand s t 0x10 → n ≠ 0 → s.stalls[n].st = .absent → fnExists s n = true →
      exec .stallCreate s = .next (completeAt (modStall (zeroScratch (freed s) n) n fun x => freshStall x .idle 8 100) t .ok
        { p4 := fld (nextGen s.stalls[n].gen).toNat 0 })) ∧
    (InHand s t 0x12 → s.stalls[n].st ≠ .absent → s.stalls[n].st ≠ .resetting →
      exec .stallReset s = .next (completeAt (startReset (freed s) n 1) t .ok { p4 := fld s.stalls[n].gen.toNat 0 })) ∧
    (InHand s t 0x11 → n ≠ 0 → s.stalls[n].st ≠ .absent → s.stalls[n].st ≠ .resetting →
      exec .stallDestroy s = .next (completeAt (startReset (freed s) n 2) t .ok { p4 := fld s.stalls[n].gen.toNat 0 }))) ∧
  (
  ∀ (s : State) (t : Taken) (n : Stall), targetOf t.e = some n → reservedBit t.e [] = none →
    (InHand s t 0x10 → n = 0 ∨ s.stalls[n].st ≠ .absent ∨ fnExists s n = false →
      exec .stallCreate s = .next (invalidAt (freed s) t 1 0) ∧ answersOnly t.fn (freed s) (invalidAt (freed s) t 1 0)) ∧
    (InHand s t 0x11 → n = 0 →
      exec .stallDestroy s = .next (invalidAt (freed s) t 1 0) ∧ answersOnly t.fn (freed s) (invalidAt (freed s) t 1 0)))

/-- STALL_GRANT that asks for what can be had adds it to the grant: the teams and chains, an engine (which one is the
model's choice, log entry 11), the lowest free parcels (log entry 20 for which parcels count as free), and with `set_limits`
the share, the TRIG_OUT permission and the two limits. STALL_REVOKE that names what is held takes it away: the teams and
chains, the engine with its course, and the parcels last in the grant. Each reports what the stall then holds. -/
def Obligations.GrantsAreGivenAndRevoked : Prop :=
  ∀ (s : State) (t : Taken) (n : Stall), targetOf t.e = some n →
    (InHand s t 0x13 → reservedBit t.e grantBits = none → grantFault s.stalls[n].grant t.e = none →
      grantRefused (freed s) n t.e = none → exec .stallGrant s = .next (applyGrant (freed s) t n) ∧
      ∃ u, exec .stallGrant s = .next u ∧
        u.stalls[n].grant.teams = s.stalls[n].grant.teams ||| grantTeams t.e ∧
        u.stalls[n].grant.chains = s.stalls[n].grant.chains ||| grantChains t.e ∧
        u.stalls[n].grant.engine = (if bit (dw t.e 2) 8 then freeEngine (freed s) else s.stalls[n].grant.engine) ∧
        u.stalls[n].grant.parcels = (if (freeParcels (freed s)).take (bits (dw t.e 3) 12 0) = [] then s.stalls[n].grant.parcels
          else sortParcels (s.stalls[n].grant.parcels ++ (freeParcels (freed s)).take (bits (dw t.e 3) 12 0))) ∧
        (bit (dw t.e 2) 0 = true → u.stalls[n].grant.share = bits (dw t.e 4) 31 24 ∧ u.stalls[n].grant.trigOut = bit (dw t.e 4) 16 ∧
          u.stalls[n].grant.outstanding = bits (dw t.e 4) 8 0 ∧ u.stalls[n].grant.rate = bits (dw t.e 5) 15 0) ∧
        (bit (dw t.e 2) 0 = false → u.stalls[n].grant.share = s.stalls[n].grant.share ∧
          u.stalls[n].grant.trigOut = s.stalls[n].grant.trigOut ∧ u.stalls[n].grant.outstanding = s.stalls[n].grant.outstanding ∧
          u.stalls[n].grant.rate = s.stalls[n].grant.rate)) ∧
    (InHand s t 0x14 → reservedBit t.e [0xFFFF0100, 0x1FFF] = none → revokeFault s.stalls[n].grant t.e = none →
      armedOrCapturing s n = false → exec .stallRevoke s = .next (applyRevoke (freed s) t n) ∧
      ∃ u, exec .stallRevoke s = .next u ∧
        u.stalls[n].grant.teams = s.stalls[n].grant.teams &&& ~~~ grantTeams t.e ∧
        u.stalls[n].grant.chains = s.stalls[n].grant.chains &&& ~~~ grantChains t.e ∧
        u.stalls[n].grant.engine = (if bit (dw t.e 2) 8 then none else s.stalls[n].grant.engine) ∧
        u.stalls[n].grant.parcels = s.stalls[n].grant.parcels.take (s.stalls[n].grant.parcels.length - bits (dw t.e 3) 12 0))

/-- The reset sequence of a stall ends, when what it waits for is done, with the stall released and one event to the
physical function and to the stall. -/
def Obligations.ResetSequencesEndInARelease : Prop :=
  ∀ (s : State) (n : Stall) (r : ResetSeq), s.stalls[n].reset = some r → resetDone s n = true →
    exec (.stallResetRelease n) s = .next (sendEvents (releaseStall s n r) ((withPf [n]).map fun f =>
      (f, resetDoneEvent (releaseStall s n r) n r
        (s.stalls[n].grant.parcels.filter fun p => !s.dram.retired.contains p).length))) ∧
    (releaseStall s n r).stalls[n].st = (if r.cause = 2 ∨ r.cause = 4 ∨ r.cause = 5 then .absent else .idle) ∧
    (releaseStall s n r).stalls[n].gen = nextGen s.stalls[n].gen ∧
    (releaseStall s n r).stalls[n].grant.teams = 0 ∧ (releaseStall s n r).stalls[n].grant.parcels = [] ∧
    (s.Sound → ∀ i < 16384, memRead (releaseStall s n r).scratch (16384 * n.val + i) = 0)

/-- The stalls of a port are those that own a team with a channel on the port: channel c is on port c / 8 and in team c / 6.
-/
def Obligations.StallsOfAPortOwnATeamWithAChannelOnIt : Prop :=
  ∀ (s : State) (p : Fin 6) (n : Stall),
    (n ∈ stallsOfPort s p ↔ ∃ c : Fin 48, portOf c = p ∧ ownsChan s n c = true) ∧
    (∀ c : Fin 48, (portOf c = p ↔ 8 * p.val ≤ c.val ∧ c.val ≤ 8 * p.val + 7)) ∧
    (∀ (c : Fin 48) (k : Fin 8), (teamOf c = k ↔ 6 * k.val ≤ c.val ∧ c.val ≤ 6 * k.val + 5)) ∧
    (∀ c : Fin 48, (ownsChan s n c = true ↔ bit s.stalls[n].grant.teams (teamOf c).val = true))

/-! ## Probe, sluices and Quera settings -/

/-- `probe_config` completes `invalid` and changes no setting of the team where a slot it writes has `upper` less than
`lower` + 2, `deskew` outside −2048 to +2048, or `dwell` 0 or greater than 100,000. -/
def Obligations.ProbeConfigRefusesBadWindows : Prop :=
  ∀ (s : State) (t : Taken) (seed : SeedIn) (k : Fin 6) (w : BitVec 64), InHand s t 0x20 →
    bit s.stalls[t.fn].grant.teams (configTeam t.e).val = true →
    testedChans s &&& teamChans (BitVec.ofNat 8 (2 ^ (configTeam t.e).val)) = 0 →
    bit (dw t.e 3) k.val = false → w = configSetting t.e k →
    (chUpper w < chLower w + 2 ∨ chDeskew w < -2048 ∨ 2048 < chDeskew w ∨ chDwell w = 0 ∨ 100000 < chDwell w) →
    ∃ d b, exec (.probeConfig seed) s = .next (invalidAt (freed s) t d b) ∧ (invalidAt (freed s) t d b).chans = s.chans

/-- PROBE_CONFIG with sound slots for a team of the stall writes them (at once, or pending while the stall captures or its
segment is open); LATCH_CLEAR clears the named conditions of the named channels, a band or open condition that goes on
excepted, reports the channels that had one set, and touches no other channel's latches. -/
def Obligations.ProbeCommandsActOnOwnedChannels : Prop :=
  ∀ (s : State) (t : Taken) (seed : SeedIn),
    (InHand s t 0x20 → bit s.stalls[t.fn].grant.teams (configTeam t.e).val = true →
      testedChans s &&& teamChans (BitVec.ofNat 8 (2 ^ (configTeam t.e).val)) = 0 → configFault t.e = none →
      exec (.probeConfig seed) s = .next (completeAt (writeSettings (freed s) t.fn t.e seed) t .ok
        { p4 := flag (capturing s t.fn && bits (dw t.e 3) 5 0 != 0x3F) 0 }) ∧
      ∃ u, exec (.probeConfig seed) s = .next u ∧ ∀ k : Fin 6,
        (bit (dw t.e 3) k.val = true → u.chans[teamChan (configTeam t.e) k].setting = s.chans[teamChan (configTeam t.e) k].setting) ∧
        (bit (dw t.e 3) k.val = false →
          ((capturing s t.fn || segmentOpen s t.fn) = true →
            u.chans[teamChan (configTeam t.e) k].pend = some (configSetting t.e k) ∧
            u.chans[teamChan (configTeam t.e) k].setting = s.chans[teamChan (configTeam t.e) k].setting) ∧
          ((capturing s t.fn || segmentOpen s t.fn) = false →
            u.chans[teamChan (configTeam t.e) k].setting = configSetting t.e k ∧ u.chans[teamChan (configTeam t.e) k].pend = none))) ∧
    (∀ m conds, InHand s t 0x22 → reservedBit t.e [0xFFFFFFFF, 0xFFFF, 0xF] = none → m = chanField t.e 2 →
      conds = (if bits (dw t.e 4) 3 0 = 0 then (0xF : BitVec 4) else BitVec.ofNat 4 (bits (dw t.e 4) 3 0)) →
      (∀ c : Fin 48, bit m c.val = true → ownsChan s t.fn c = true) →
      exec .latchClear s = .next (completeAt
        (clearChans (freed s) conds (allChans.filter fun c => bit m c.val)) t .ok
        { p4 := (chanPay (chanMaskOf ((allChans.filter fun c => bit m c.val).filter fun c =>
            (bit conds 0 && s.chans[c].above) || (bit conds 1 && s.chans[c].below) || (bit conds 2 && s.chans[c].band) ||
            (bit conds 3 && s.chans[c].open_)))).1
          p5 := (chanPay (chanMaskOf ((allChans.filter fun c => bit m c.val).filter fun c =>
            (bit conds 0 && s.chans[c].above) || (bit conds 1 && s.chans[c].below) || (bit conds 2 && s.chans[c].band) ||
            (bit conds 3 && s.chans[c].open_)))).2 }) ∧
      ∃ u, exec .latchClear s = .next u ∧ ∀ c : Fin 48,
        (bit m c.val = false → u.chans[c] = s.chans[c]) ∧
        (bit m c.val = true → u.chans[c].above = (s.chans[c].above && !bit conds 0) ∧
          u.chans[c].below = (s.chans[c].below && !bit conds 1) ∧
          (s.chans[c].dwellMet = false → u.chans[c].band = (s.chans[c].band && !bit conds 2) ∧
            u.chans[c].open_ = (s.chans[c].open_ && !bit conds 3))))

/-- A `sluice_config` of a chain that is not granted is denied, and one of a capturing stall's chain is `busy`, but for the
DC operations; an accepted chain setting replaces the chain's, which then stands unanchored with no output.
SLUICE_CONFIG_LINK by the physical function, with a sound setting and no capturing stall affected, writes the link's setting
and reports the lane rate that the setting gives, enabled or not. The DC operations act on a granted chain even while the
stall captures: freeze and thaw set and clear the command's freeze, reset makes the estimate 0, and each reports whether the
chain is then frozen. -/
def Obligations.SluiceConfigSetsChainsLinksAndDcFilters : Prop :=
  (
  ∀ (s : State) (t : Taken), InHand s t 0x28 → sluiceOp t = 0 →
    (bit s.stalls[t.fn].grant.chains (namedChain t.e).val = false →
      exec .sluiceConfigChain s = .next (deny (freed s) t .notGranted 3 (namedChain t.e).val)) ∧
    (bit s.stalls[t.fn].grant.chains (namedChain t.e).val = true → capturing s t.fn = true →
      exec .sluiceConfigChain s = .next (complete (freed s) t .busy)) ∧
    (∀ fb : Bool, bit s.stalls[t.fn].grant.chains (namedChain t.e).val = true → capturing s t.fn = false →
      fb = romBad s (chainSetting t.e) →
      chainFault (freed s) t.fn t.e (chainSetting t.e) (linkOfChain s (namedChain t.e)) fb = none →
      multsTaken (freed s) (namedChain t.e) +
        ((linkOfChain s (namedChain t.e)).map fun l => multsOf l (chainSetting t.e) fb).getD 0 ≤ 1024 →
      ∃ p u, (u = completeAt (putChain (freed s) (namedChain t.e) (chainSetting t.e) fb) t .ok p ∧
          exec .sluiceConfigChain s = .next (if fb then firFallbackEvent u t.fn (namedChain t.e) else u)) ∧
        (putChain (freed s) (namedChain t.e) (chainSetting t.e) fb).chains[namedChain t.e].setting = chainSetting t.e ∧
        (putChain (freed s) (namedChain t.e) (chainSetting t.e) fb).chains[namedChain t.e].anchored = false ∧
        (putChain (freed s) (namedChain t.e) (chainSetting t.e) fb).chains[namedChain t.e].producing = false ∧
        ∀ m, m ≠ namedChain t.e → (putChain (freed s) (namedChain t.e) (chainSetting t.e) fb).chains[m] = s.chains[m])) ∧
  (
  ∀ (s : State) (t : Taken), InHand s t 0x28 → sluiceOp t = 1 →
    (t.fn ≠ 0 → exec .sluiceConfigLink s = .next (deny (freed s) t .privileged 0 0)) ∧
    (t.fn = 0 → anyCapturing (freed s) (linkAffects (freed s) (namedLink t.e) (linkSetting t.e)) = false →
      linkFault t.e (linkSetting t.e) (s.links[1 - namedLink t.e].setting) = none →
      exec .sluiceConfigLink s = .next (completeAt (putLink (freed s) (namedLink t.e) (linkSetting t.e)) t .ok
        { p4 := fld ((laneRate (linkSetting t.e)).1 / (laneRate (linkSetting t.e)).2) 0 }) ∧
      ∃ u, exec .sluiceConfigLink s = .next u ∧ u.links[namedLink t.e].setting = linkSetting t.e ∧ u.links[namedLink t.e].up = false ∧
        ∀ l, l ≠ namedLink t.e → u.links[l] = s.links[l])) ∧
  (
  ∀ (s : State) (t : Taken) (n : Fin 8), InHand s t 0x28 → sluiceOp t = 2 → n = namedChain t.e →
    bit s.stalls[t.fn].grant.chains n.val = true → reservedBit t.e [0x00000373] = none →
    (dcOp t = 0 → exec .dcFreeze s =
      .next (completeAt (modChain (freed s) n fun c => setFreeze c true c.frozenAuto) t .ok { p4 := 1 })) ∧
    (dcOp t = 1 → exec .dcThaw s =
      .next (completeAt (modChain (freed s) n fun c => setFreeze c false c.frozenAuto) t .ok { p4 := flag s.chains[n].frozenAuto 0 })) ∧
    (dcOp t = 2 → exec .dcReset s =
      .next (completeAt (modChain (freed s) n fun c => { c with est := 0 }) t .ok { p4 := flag (dcFrozen s.chains[n]) 0 })))

/-- `sluice_sync` gives Y directly as a system time: bits [7:0] of it are 0, or the command completes `invalid`; a Y that
lies in the past is `late`, or runs at the least lead under `run_now`; else the pending sync is at Y (R96 for the form of Y,
R7 and R414 for lead, lateness and policy, R425 for the command). -/
def Obligations.SluiceSyncGivesItsInstant : Prop :=
  ∀ (s : State) (t : Taken) (y : BitVec 64) (m : BitVec 8), InHand s t 0x29 → y = wide t.e 2 →
    m = BitVec.ofNat 8 (bits (dw t.e 4) 7 0) → (∀ n : Fin 8, bit m n.val = true → bit s.stalls[t.fn].grant.chains n.val = true) →
    s.tb.bypass = false → reservedBit t.e [0xFFFFFFFF, 0xFFFFFFFF, 0xFF] = none →
    (bits y 7 0 ≠ 0 → exec .sluiceSync s = .next (invalidAt (freed s) t 2 0)) ∧
    (bits y 7 0 = 0 → m ≠ 0 → (∀ n : Fin 8, bit m n.val = true → chainEnable s.chains[n].setting = true) →
      (leads y t.when 32 = true → exec .sluiceSync s = .next (completeAt
        { freed s with tb := { s.tb with syncPending := s.tb.syncPending ++ [{ y := y, chains := m }] } } t .ok
        { p4 := (timePay y).1, p5 := (timePay y).2 })) ∧
      (leads y t.when 32 = false → latePolicy t.e = 1 → exec .sluiceSync s = .next (completeAt
        { freed s with tb := { s.tb with syncPending := s.tb.syncPending ++ [{ y := t.when + strides 32, chains := m }] } } t .ok
        { p4 := (timePay (t.when + strides 32)).1, p5 := (timePay (t.when + strides 32)).2, p6 := 1 })) ∧
      (leads y t.when 32 = false → latePolicy t.e ≠ 1 → exec .sluiceSync s = .next (complete (freed s) t .late)))

/-- QUERA_CONFIG writes each part that its entry asks for: the role, the REFB port and the port enables; the automatic ID
and the configured ID; the reference mode. A leaf member with an automatic ID keeps its ID, every other device takes the
configured one, and a port that is disabled or that the role does not use is down. It reports the timebase status after the
change, and is `invalid` with no effect for a reserved bit, `ref_mode` 3, `role` 3, an empty request, or a bridge without Q2
and Q3. CROSS_TRIGGER_ROUTE sets or clears one channel of a stall's send and receive masks under its current generation, and
reports both masks. -/
def Obligations.QueraCommandsWriteTheirSettings : Prop :=
  ∀ (s : State) (t : Taken),
    (∀ d b, InHand s t 0x60 → reservedBit t.e queraBits = some (d, b) → exec .queraConfig s = .next (invalidAt (freed s) t d b)) ∧
    (InHand s t 0x60 → reservedBit t.e queraBits = none →
      ((bit (dw t.e 2) 0 = true ∧ bits (dw t.e 3) 1 0 = 3) ∨ (bit (dw t.e 2) 2 = true ∧ bits (dw t.e 4) 7 6 = 3) ∨
        bits (dw t.e 2) 2 0 = 0 ∨ (bit (dw t.e 2) 2 = true ∧ bits (dw t.e 4) 7 6 = 1 ∧ bits (dw t.e 4) 3 2 ≠ 3)) →
      ∃ p, exec .queraConfig s = .next (completeAt (freed s) t .invalid p)) ∧
    (InHand s t 0x60 → reservedBit t.e queraBits = none → queraFault t.e = none →
      ∃ u, exec .queraConfig s = .next (completeAt u t .ok { p4 := timebaseWord u }) ∧
        u.quera.role = (if bit (dw t.e 2) 2 then BitVec.ofNat 2 (bits (dw t.e 4) 7 6) else s.quera.role) ∧
        u.quera.refPort = (if bit (dw t.e 2) 2 then BitVec.ofNat 2 (bits (dw t.e 4) 5 4) else s.quera.refPort) ∧
        u.quera.portEnable = (if bit (dw t.e 2) 2 then BitVec.ofNat 4 (bits (dw t.e 4) 3 0) else s.quera.portEnable) ∧
        u.quera.autoId = (if bit (dw t.e 2) 1 then bit (dw t.e 5) 31 else s.quera.autoId) ∧
        u.quera.configId = (if bit (dw t.e 2) 1 then BitVec.ofNat 12 (bits (dw t.e 5) 11 0) else s.quera.configId) ∧
        u.quera.deviceId = (if u.quera.autoId && u.quera.role == 0 then s.quera.deviceId else u.quera.configId) ∧
        u.tb.refMode = (if bit (dw t.e 2) 0 then modeOf (bits (dw t.e 3) 1 0) else s.tb.refMode) ∧
        (∀ p : Fin 4, (bit u.quera.portEnable p.val && roleUses u.quera.role p) = false → u.quera.ports[p].up = false)) ∧
    (∀ (n : Stall) (send recv : BitVec 16), InHand s t 0x62 → reservedBit t.e [0x30F, 0xFFFF003F] = none → n.val = bits (dw t.e 3) 5 0 →
      s.stalls[n].st ≠ .absent → s.stalls[n].gen = BitVec.ofNat 16 (bits (dw t.e 3) 31 16) →
      send = setBit (masksOf s n).1 (bits (dw t.e 2) 3 0) (bit (dw t.e 2) 9) →
      recv = setBit (masksOf s n).2 (bits (dw t.e 2) 3 0) (bit (dw t.e 2) 8) →
      exec .crossTriggerRoute s = .next (completeAt (putRoute (freed s) n send recv) t .ok
        { p4 := fld send.toNat 16 ||| fld recv.toNat 0 }) ∧
      ∃ u, exec .crossTriggerRoute s = .next u ∧ u.quera.routes = (s.quera.routes.filter fun r => r.stall != n) ++
        (if send = 0 ∧ recv = 0 then [] else [{ stall := n, gen := s.stalls[n].gen, send := send, recv := recv }]))

/-! ## Courses, captures, uploads and references -/

/-- COURSE_LOAD of a stall that holds an engine and is not armed issues the read of the image; without an engine it is
denied, and armed or capturing it is `busy`. -/
def Obligations.CourseLoadReadsTheImage : Prop :=
  ∀ (s : State) (t : Taken), InHand s t 0x30 →
    (s.stalls[t.fn].grant.engine = none → exec .courseLoad s = .next (deny (freed s) t .notGranted 4 0)) ∧
    (s.stalls[t.fn].grant.engine.isSome = true → armedOrCapturing s t.fn = true →
      exec .courseLoad s = .next (complete (freed s) t .busy)) ∧
    (s.stalls[t.fn].grant.engine.isSome = true → armedOrCapturing s t.fn = false →
      reservedBit t.e [0xFFFFFFFF, 0xFFFFFFFF, 0x1FFF] = none → bits (dw t.e 2) 2 0 = 0 → bits (dw t.e 4) 12 0 ≠ 0 →
      bits (dw t.e 4) 12 0 ≤ 5664 →
      exec .courseLoad s = .next (issueRead
        (modGroom (handOff (freed s) t .read 0) fun g => { g with
          courseQ := g.courseQ ++ [{ fn := t.fn, tag := tagOf t.e, len := bits (dw t.e 4) 12 0 }] })
        t.fn (tagOf t.e) .image (wide t.e 2) (bits (dw t.e 4) 12 0)) ∧
      ∃ u, exec .courseLoad s = .next u ∧
        u.groom.courseQ = s.groom.courseQ ++ [{ fn := t.fn, tag := tagOf t.e, len := bits (dw t.e 4) 12 0 }] ∧
        u.groom.reads = s.groom.reads ++ [{ id := s.groom.nextRead, fn := t.fn, stall := t.fn, tag := tagOf t.e, purpose := .image,
                                            addr := wide t.e 2, len := bits (dw t.e 4) 12 0 }] ∧
        u.out = s.out ++ readRequests s t.fn s.groom.nextRead (wide t.e 2) (bits (dw t.e 4) 12 0))

/-- CAPTURE_ARM waits behind a soft repair in progress; else, with nothing that refuses it, the stall is armed with its
capture, and the completion carries the demand, the credit and the time of the first segment. -/
def Obligations.CaptureArmArmsTheStall : Prop :=
  ∀ (s : State) (t : Taken), InHand s t 0x38 →
    (s.dram.repairing.isSome = true → exec .captureArm s =
      .next { freed s with jobs := { s.jobs with waitArms := s.jobs.waitArms ++ [t] } }) ∧
    (s.dram.repairing = none → armBusy (freed s) t.fn = true → exec .captureArm s = .next (complete (freed s) t .busy)) ∧
    (s.dram.repairing = none → armBusy (freed s) t.fn = false →
      armRefused (freed s) t.fn (armParams t.e) (latePolicy t.e = 1) t.when
        ((reservedBit t.e armBits).map fun x => fieldPay x.1 x.2) = none →
      exec .captureArm s = .next (completeAt
        (modStall (armApply (freed s) t.fn (armParams t.e) t.when) t.fn fun x => { x with lastArm := some (armParams t.e) }) t .ok
        (armPay (freed s) t.fn (armParams t.e) t.when)) ∧
      ∃ u c, exec .captureArm s = .next u ∧ u.stalls[t.fn].st = .armed ∧ u.stalls[t.fn].lastArm = some (armParams t.e) ∧
        u.stalls[t.fn].cap = some c ∧ c.arm = armParams t.e ∧ c.phase = .armed ∧ c.openAt = firstOpen (armParams t.e) t.when ∧
        c.late = armLate (armParams t.e) t.when ∧ c.teams = s.stalls[t.fn].grant.teams ∧ u.stalls[t.fn].segsClosed = 0 ∧
        u.stalls[t.fn].missedTotal = 0 ∧ u.stalls[t.fn].missedLog = [])

/-- CAPTURE_STOP without a capture completes at once with the segments closed so far, and with one waits for the close it
asks for: with no segment open and none unacknowledged, the capture ends; CAPTURE_FORCE is `busy` while armed and requests
the stall's trigger while capturing: an open segment without a trigger takes it, at the system time of the state in which
the command acts and not of its take (log entry 224: a row reads the time from the state); CAPTURE_MARK places its marker
and its detail. -/
def Obligations.CaptureCommandsReachTheOpenSegment : Prop :=
  ∀ (s : State) (t : Taken),
    (InHand s t 0x39 → reservedBit t.e [] = none → s.stalls[t.fn].cap = none →
      exec .captureStop s = .next (completeAt (freed s) t .ok { p5 := fld s.stalls[t.fn].segsClosed 0 })) ∧
    (∀ c, InHand s t 0x39 → reservedBit t.e [] = none → s.stalls[t.fn].cap = some c → c.phase = .armed → c.ended = none →
      s.stalls[t.fn].st = .armed → (∀ x ∈ s.stalls[t.fn].held, x.closed = true) →
      ∃ u, exec .captureStop s = .next u ∧ u.stalls[t.fn].cap = none ∧ u.stalls[t.fn].st = .idle ∧ u.stalls[t.fn].eng.running = false) ∧
    (InHand s t 0x39 → reservedBit t.e [] = none → s.stalls[t.fn].cap.isSome = true →
      exec .captureStop s = .next (stopCapture (modCap (handOff (freed s) t .stop 0) t.fn fun c => { c with
        stops := c.stops ++ [{ tag := tagOf t.e, fn := t.fn, closed := (stopCloses s t.fn).isSome,
                               num := (stopCloses s t.fn).getD 0 }] }) t.fn)) ∧
    (InHand s t 0x3A → s.stalls[t.fn].st = .armed → exec .captureForce s = .next (complete (freed s) t .busy)) ∧
    (InHand s t 0x3A → reservedBit t.e [] = none → s.stalls[t.fn].st = .capturing →
      exec .captureForce s = .next (completeAt (forceTrigger (freed s) t.fn).1 t .ok
        (forcePay (forceTrigger (freed s) t.fn).2 s.tb.now))) ∧
    (∀ c, InHand s t 0x3A → reservedBit t.e [] = none → s.stalls[t.fn].st = .capturing → s.stalls[t.fn].cap = some c →
      c.phase = .running → c.seg.trig = none →
      ∃ u d x, exec .captureForce s = .next u ∧ u.stalls[t.fn].cap = some d ∧ d.seg.trig = some x ∧ x.time = s.tb.now ∧ x.kind = 3 ∧
        x.exact = false) ∧
    (InHand s t 0x3B → reservedBit t.e [0xFFFFFFFF, 0xFFFFFFFF, 0xFFFFFFFF, 0xFFFFFFFF] = none → capturing s t.fn = true →
      bit (dw t.e 0) 10 = false ∨ bit (dw t.e 0) 9 = true → exec .captureMark s = .next (doMark (freed s) t)) ∧
    (InHand s t 0x3B → reservedBit t.e [0xFFFFFFFF, 0xFFFFFFFF, 0xFFFFFFFF, 0xFFFFFFFF] = none → capturing s t.fn = true →
      recording s t.fn = true → bit (dw t.e 0) 10 = false → bit (dw t.e 0) 9 = false → s.stalls[t.fn].evLostCount = 0 → evCount s ≤ 1022 → wide t.e 4 ≠ 0 →
      ∃ u, exec .captureMark s = .next u ∧ u.groom.evQueue = s.groom.evQueue ++
        [{ stall := t.fn, recs := [markerRec 0x0 (wide t.e 4), detailRec 0x0 (wide t.e 2)] }])

/-- UPLOAD of closed segments queues its job, with the bales it will write, and reads the scatter-gather list; UPLOAD_CANCEL
of a running upload marks it and stops it, and of an upload that is over completes with payload 1. -/
def Obligations.UploadsAreQueuedAndCancelled : Prop :=
  ∀ (s : State) (t : Taken),
    (∀ (l : List Seg) (i : Nat) (bales : List BalePlan), InHand s t 0x40 → l = nameable (freed s) t.fn →
      newestWith l (bits (dw t.e 2) 19 0) = some i →
      (∀ x ∈ (l.drop i).take (max 1 (bits (dw t.e 3) 20 0)), x.closed = true) → uploadFault (freed s) t.fn t.e l (some i) = none →
      bits (dw t.e 2) 21 20 = 0 ∨ s.stalls[t.fn].grant.share ≠ 0 →
      bales = jobBales (freed s) t.fn l i (bits (dw t.e 3) 20 0) (bits (dw t.e 4) 15 0) →
      exec .upload s = .next
        (let u := handOff (freed s) t .upload (bales.map fun b => 144 * b.blocks.length).sum
         issueRead { u with jobs := { u.jobs with uploads := u.jobs.uploads ++ [{
           fn := t.fn, stall := t.fn, tag := tagOf t.e, mode := BitVec.ofNat 2 (bits (dw t.e 2) 21 20), bales := bales
           sglAt := wide t.e 6, crc := 0xFFFFFFFF }] } } t.fn (tagOf t.e) .sgl (wide t.e 6) (16 * bits (dw t.e 5) 15 0))) ∧
    (∀ tag : BitVec 16, InHand s t 0x41 → reservedBit t.e [0xFFFF] = none → tag = BitVec.ofNat 16 (bits (dw t.e 2) 15 0) →
      ((findOutst s t.fn tag).any fun o => o.op == 0x40) = true →
      (findUpload s t.fn tag = none → exec .uploadCancel s = .next (completeAt (freed s) t .ok { p4 := 1 })) ∧
      (∀ u, findUpload s t.fn tag = some u → exec .uploadCancel s = .next (stopUploads
        (putJob (handOff (freed s) t .cancel 0) u { u with cancel := u.cancel ++ [(tagOf t.e, t.fn)] })
        (fun x => x == { u with cancel := u.cancel ++ [(tagOf t.e, t.fn)] }) .aborted)))

/-- From the start of a load the stall has no valid reference: REFERENCE_LOAD drops the reference it holds, fixes the area
and reads the bales, but a reserved bit that is set has no other effect than `invalid` (R408 and R13; that other `invalid`
completions still drop the reference, R330 and R333, and that a `busy` one does not, is the model's reading, log entry 173);
REFERENCE_SELECT of a valid reference takes the selection, now or at the time it gives. -/
def Obligations.ReferencesAreLoadedAndSelected : Prop :=
  ∀ (s : State) (t : Taken),
    (∀ (area : Nat) (g : Grant), InHand s t 0x48 → area = ceilDiv (field40 t.e 6) (144 * parcelBlocks) →
      g = areaGrant (freed s) t.fn area → loadBusy (freed s) t.fn area = false →
      (loadFault t.e = none → g.parcels.length < area → ∃ u, exec .referenceLoad s = .next u ∧
        u.stalls[t.fn].ref.valid = false ∧ u.stalls[t.fn].ref.loading = true ∧
        u.groom.reads = s.groom.reads ++ [{ id := s.groom.nextRead, fn := t.fn, stall := t.fn, tag := tagOf t.e, purpose := .bales,
                                            addr := wide t.e 2, len := field40 t.e 4 }]) ∧
      (loadFault t.e = none → area ≤ g.parcels.length → ∃ u, exec .referenceLoad s = .next u ∧
        u.stalls[t.fn].ref.valid = false ∧ u.stalls[t.fn].ref.loading = true ∧ u.stalls[t.fn].grant.refArea = g.refArea ∧
        ∃ k, u.groom.reads.getLast? = some { id := k, fn := t.fn, stall := t.fn, tag := tagOf t.e, purpose := .bales,
                                             addr := wide t.e 2, len := field40 t.e 4 }) ∧
      (∀ d b, loadFault t.e = some (d, b) → reservedBit t.e loadBits = none → exec .referenceLoad s = .next
        (completeAt (loseReference (freed s) t.fn) t .invalid (refInvalid (fieldPay d b) 0xFFFFFFFF))) ∧
      (∀ d b, loadFault t.e = some (d, b) → (reservedBit t.e loadBits).isSome = true → exec .referenceLoad s = .next
        (completeAt (freed s) t .invalid (refInvalid (fieldPay d b) 0xFFFFFFFF)))) ∧
    (∀ area : Nat, InHand s t 0x48 → area = ceilDiv (field40 t.e 6) (144 * parcelBlocks) → loadBusy (freed s) t.fn area = true →
      exec .referenceLoad s = .next (complete (freed s) t .busy)) ∧
    (∀ at_ : BitVec 64, InHand s t 0x49 → s.stalls[t.fn].ref.play = none → s.stalls[t.fn].ref.valid = true →
      selectFault s.stalls[t.fn].ref t.e = none → selectLate t = false ∨ latePolicy t.e ≠ 0 → startRefused (freed s) t = false →
      at_ = (if wide t.e 10 = 0 then 0 else selectStart t) →
      exec .referenceSelect s = .next (completeAt (applySelect (freed s) t) t .ok
        { p4 := (timePay at_).1, p5 := (timePay at_).2, p6 := flag (selectLate t) 0 }) ∧
      ∃ u, exec .referenceSelect s = .next u ∧ u.stalls[t.fn].ref.params = some (selectParams t.e) ∧
        u.stalls[t.fn].ref.valid = true ∧ (wide t.e 10 = 0 → u.stalls[t.fn].ref.timed = none) ∧
        (wide t.e 10 ≠ 0 → u.stalls[t.fn].ref.timed = some { when := selectStart t, value := (selectParams t.e).select }))

/-! ## Calibration, tests, panel and power -/

/-- `calibrate` and `selftest` on a channel of a team owned by a capturing stall complete with `busy`, and nothing on the
channel is tested or changed; a `capture_arm` for a stall while a `selftest` or `calibrate` is running on any of its
channels completes with `busy`. Each completes at once: neither is queued behind the other. -/
def Obligations.CapturedChannelsAreNeitherTestedNorCalibrated : Prop :=
  ∀ (s : State) (t : Taken),
    (∀ (c : Fin 48) (n : Stall), ownerOf s c = some n → capturing s n = true →
      (InHand s t 0x50 → reservedBit t.e [0x13F] = none → (bits (dw t.e 2) 5 0).testBit (c.val / 8) = true →
        exec .calibrate s = .next (complete (freed s) t .busy) ∧ (complete (freed s) t .busy).chans = s.chans ∧
          (complete (freed s) t .busy).jobs = s.jobs) ∧
      (InHand s t 0x51 → bits (dw t.e 2) 3 0 = 0 →
        bit (chanField t.e 3) c.val = true → (∀ d : Fin 48, bit (chanField t.e 3) d.val = true → ownsChan s t.fn d = true) →
        exec .selftest s = .next (complete (freed s) t .busy) ∧ (complete (freed s) t .busy).chans = s.chans ∧
          (complete (freed s) t .busy).jobs = s.jobs)) ∧
    (∀ d : Fin 48, InHand s t 0x38 → s.dram.repairing = none → ownsChan s t.fn d = true →
      ((∃ j ∈ s.jobs.tests, bit j.chans d.val = true) ∨
        ∃ j ∈ s.jobs.cal, ∃ p : Fin 6, p.val = d.val / 8 ∧ (p ∈ j.todo ∨ bit j.passed p.val = true ∨ bit j.failedT p.val = true)) →
      exec .captureArm s = .next (complete (freed s) t .busy) ∧ (complete (freed s) t .busy).jobs = s.jobs)

/-- CALIBRATE of tiles without a capturing channel, with the clock locked, starts its job; SELFTEST of owned channels starts
its test; RETRY_LANES by the physical function hands the request to the journal: the entry that waits for the flash carries
it. A tile that passes takes its measurement: it is calibrated, its channels take the corrections of delay and offset, and
the gains, the temperature and the supply of the moment are kept with it; a tile that fails is left uncalibrated. A channel
test that ends reports the failed channels. -/
def Obligations.CalibrationAndTestsRunAndEnd : Prop :=
  (
  ∀ (s : State) (t : Taken),
    (InHand s t 0x50 → reservedBit t.e [0x13F] = none → bits (dw t.e 2) 5 0 ≠ 0 →
      capturedIn s (tileChans (bits (dw t.e 2) 5 0)) = false → s.tb.bypass = false →
      exec .calibrate s = .next (withCal (handOff (freed s) t .calibrate
          ((List.finRange 6).filter fun p => (bits (dw t.e 2) 5 0).testBit p.val).length) {
        tag := tagOf t.e, todo := (List.finRange 6).filter fun p => (bits (dw t.e 2) 5 0).testBit p.val
        sysref := bit (dw t.e 2) 8 })) ∧
    (InHand s t 0x51 → bits (dw t.e 2) 3 0 = 0 → reservedBit t.e [0xF, 0xFFFFFFFF, 0xFFFF] = none →
      (∀ c : Fin 48, bit (chanField t.e 3) c.val = true → ownsChan s t.fn c = true) → capturedIn s (chanField t.e 3) = false →
      s.tb.bypass = false →
      exec .selftest s = .next (withTest (handOff (freed s) t .test (popcount (chanField t.e 3)))
        { fn := t.fn, stall := t.fn, tag := tagOf t.e, chans := chanField t.e 3 })) ∧
    (InHand s t 0x51 → bits (dw t.e 2) 3 0 = 1 → t.fn ≠ 0 →
      exec .retryLanes s = .next (deny (freed s) t .privileged 0 0)) ∧
    (InHand s t 0x51 → bits (dw t.e 2) 3 0 = 1 → t.fn = 0 → s.tb.bypass = false → reservedBit t.e [0xF] = none →
      s.flash.noMore = false →
      ∃ u o x, exec .retryLanes s = .next u ∧ u.flash.ops = s.flash.ops ++ [o] ∧ o.work = .flash ∧ o.entry = some x ∧
        bit x.flags 0 = true ∧ u.boot = s.boot)) ∧
  (
  ∀ (s : State),
    (∀ (p : Fin 6) (pass : Bool) (meas : CalMeas) (j : CalJob), (s.jobs.cal.find? fun j => j.todo.head? == some p) = some j →
      ∃ u, exec (.calibrateTileDone p pass meas) s = .next u ∧ u.tiles[p].uncal = !pass ∧
        (pass = true → u.tiles[p].storedCorr = meas.delay ∧ u.tiles[p].storedOffs = meas.offset ∧
          u.tiles[p].storedGain = meas.gain ∧ u.tiles[p].calTemp = s.tiles[p].temp ∧ u.tiles[p].calSupply = s.tiles[p].supply ∧
          ∀ c : Fin 48, c.val / 8 = p.val → u.chans[c].corr = max (-256) (min 256 (meas.delay.getD (c.val % 8) 0)) ∧
            u.chans[c].offs = meas.offset.getD (c.val % 8) 0) ∧
        (∀ c : Fin 48, pass = false ∨ c.val / 8 ≠ p.val → u.chans[c] = s.chans[c]) ∧
        (∀ q : Fin 6, q ≠ p → u.tiles[q] = s.tiles[q])) ∧
    (∀ (f : Fn) (tag : BitVec 16) (failed : ChanMask) (checks : BitVec 4) (j : TestJob),
      (s.jobs.tests.find? fun j => j.fn == f && j.tag == tag) = some j →
      exec (.selftestDone f tag failed checks) s = .next (completeTag
        { s with jobs := { s.jobs with tests := s.jobs.tests.erase j } } f tag
        (if failed &&& j.chans = 0 then .ok else .checkFailed)
        { p4 := (chanPay (failed &&& j.chans)).1, p5 := (chanPay (failed &&& j.chans)).2
          p6 := if failed &&& j.chans = 0 then 0 else fld checks.toNat 0 })))

/-- A pending correction of delay and offset is applied at once to a channel of the tile outside captures and open segments,
and only noted for one whose owner captures or has a segment open; of one that has been pending for 1 s beyond 2 ticks the
owner is told once. A sample of the tile sensors replaces the temperatures and supplies; one that crosses a limit for the
first time sends the event of a spread, and when both limits have been met for 100 ms the event of their return is sent. -/
def Obligations.DriftAndTileLimitsAreWatched : Prop :=
  (
  ∀ (s : State),
    (∀ (p : Fin 6) (corr : List (Int × Int)), ∃ u, exec (.shadowCycle p corr) s = .next u ∧ u = { s with chans := u.chans } ∧
      ∀ c : Fin 48, (c.val / 8 ≠ p.val → u.chans[c] = s.chans[c]) ∧
        (c.val / 8 = p.val →
          ((∃ n, ownerOf s c = some n ∧ (capturing s n || segmentOpen s n) = true) →
            u.chans[c].pendCorr = (corr.getD (c.val % 8) (0, 0)).1 ∧ u.chans[c].pendOffs = (corr.getD (c.val % 8) (0, 0)).2 ∧
            u.chans[c].corr = s.chans[c].corr ∧ u.chans[c].offs = s.chans[c].offs) ∧
          ((∀ n, ownerOf s c = some n → (capturing s n || segmentOpen s n) = false) →
            u.chans[c].corr = max (-256) (min 256 (s.chans[c].corr + (corr.getD (c.val % 8) (0, 0)).1)) ∧
            u.chans[c].offs = s.chans[c].offs + (corr.getD (c.val % 8) (0, 0)).2 ∧ u.chans[c].pendCorr = 0 ∧ u.chans[c].pendOffs = 0 ∧
            u.chans[c].setting = s.chans[c].setting))) ∧
    (∀ (c : Fin 48) (n : Stall), ownerOf s c = some n → capturing s n = true → s.chans[c].driftSent = false →
      2 < s.chans[c].pendCorr.natAbs → passed s.tb.now s.chans[c].pendAt (1000 * ms) = true →
      exec (.calibrationDriftPending c) s = .next (sendEvent (noteDrift (modChan s c fun x => { x with driftSent := true }) [n]) n
        (event 0x10 n.val s.tb.now (fld (2 ^ (c.val / 8)) 8 ||| fld 1 0) (sfld s.chans[c].pendCorr 16 16 ||| fld c.val 0) 0 0)))) ∧
  (
  ∀ (s : State),
    (∀ (temps : Vector (BitVec 16) 6) (supplies : Vector Int 6) (u : State),
      u = { s with tiles := vmap s.tiles fun i x => { x with temp := temps[i], supply := supplies[i] } } →
      (tempSpread u ≤ 60 → (∀ p : Fin 6, supplyBad u p = false) →
        exec (.tileSensorSample temps supplies) s = .next { u with fe := { s.fe with
          crossedT := false, crossedV := false, goodSince := s.fe.goodSince.or (some s.tb.now) } }) ∧
      ((60 < tempSpread u ∧ s.fe.crossedT = false) ∨ ((∃ p : Fin 6, supplyBad u p = true) ∧ s.fe.crossedV = false) →
        exec (.tileSensorSample temps supplies) s = .next (tileEvent
          { u with fe := { s.fe with crossedT := decide (60 < tempSpread u)
                                     crossedV := (List.finRange 6).any (fun p => supplyBad u p)
                                     spread := true, goodSince := none } } 2 (tilesConcerned u)) ∧
        ∃ v, exec (.tileSensorSample temps supplies) s = .next v ∧ v.tiles = u.tiles ∧ v.fe.spread = true ∧ v.fe.goodSince = none)) ∧
    (∀ t, s.fe.goodSince = some t → s.fe.spread = true → passed s.tb.now t (100 * ms) = true →
      exec .tileSpreadRestored s = .next (tileEvent { s with fe := { s.fe with spread := false } } 3 (tilesConcerned s)) ∧
      ∃ v, exec .tileSpreadRestored s = .next v ∧ v.fe = { s.fe with spread := false } ∧ v.tiles = s.tiles))

/-- A sound `power_state` towards a state the device is not in starts the transition, with the watch set up for Dikewatch;
while a stall other than one armed with `on_wake` is armed or captures, a target other than Run is `busy`; a target that is
the present state completes `ok` at once (log entry 200); a command for Run that has not reached it in 400 µs completes
`timeout`, and the transition goes on (log entry 201): both are the model's readings. -/
def Obligations.PowerStateMovesTheDevice : Prop :=
  ∀ (s : State) (t : Taken) (i : Instr), InHand s t 0x68 → powerFault s t.e = none →
    (i, powerTarget t.e) ∈ [(Instr.powerStateDormant, PowerSt.dormant), (.powerStateDikewatch, .dikewatch),
      (.powerStateReady, .ready), (.powerStateRun, .run)] →
    (captureBars s = true → powerTarget t.e ≠ .run → exec i s = .next (complete (freed s) t .busy)) ∧
    (captureBars s = false ∨ powerTarget t.e = .run → s.power.target = none →
      (s.power.st = powerTarget t.e → exec i s = .next (completeAt (freed s) t .ok (powerPay s.power.st))) ∧
      (s.power.st ≠ powerTarget t.e → exec i s = .next (withTarget
          (leaveDikewatch (setWatch (handOff (freed s) t .power 0) t.e) (powerTarget t.e))
          { dest := powerTarget t.e, when := s.tb.now, tag := tagOf t.e, cmd := true }) ∧
        ∃ u, exec i s = .next u ∧
          u.power.target = some { dest := powerTarget t.e, when := s.tb.now, tag := tagOf t.e, cmd := true } ∧
          (powerTarget t.e = .dikewatch → u.dike.watch = watchOf t.e ∧ u.dike.period = bits (dw t.e 12) 23 0 + 1))) ∧
    (∀ (p : PowerTarget), s.power.target = some p → p.dest = .run → p.cmd = true → passed s.tb.now p.when 400000 = true →
      exec .powerStateTimeout s = .next
        (completeTag { s with power := { s.power with target := some { p with cmd := false } } } 0 p.tag .timeout {}) ∧
      ∃ u, exec .powerStateTimeout s = .next u ∧ u.power = { s.power with target := some { p with cmd := false } })

/-- PANEL_CONFIG writes the settings its two bits ask for: with `set_keys` the keys' actions and stalls, with `set_leds` the
written LEDs and the blinking, and nothing else of the panel. A press of a key whose debounced state is up does the key's
action of the moment, or is held in Dormant; a release lifts the key; and the blinking LEDs share one phase. -/
def Obligations.PanelSettingsAndKeysAct : Prop :=
  (
  ∀ (s : State) (t : Taken), InHand s t 0x69 → reservedBit t.e panelBits = none →
    (bit (dw t.e 6) 0 = true → ∀ k < 8, panelAction t.e k ≤ 4 ∧ s.stalls[panelStall t.e k].st ≠ .absent) →
    ∀ (i : Instr), i = (if bit (dw t.e 6) 1 then .panelConfigLeds else .panelConfigKeys) →
    ∃ u, exec i s = .next (complete u t .ok) ∧ u = { freed s with panel := u.panel } ∧
      (bit (dw t.e 6) 0 = false → u.panel.action = s.panel.action ∧ u.panel.keyStall = s.panel.keyStall) ∧
      (bit (dw t.e 6) 0 = true → ∀ k : Fin 8, (u.panel.action[k]).toNat = panelAction t.e k.val ∧
        (u.panel.keyStall[k]).toNat = (panelStall t.e k.val).val) ∧
      (bit (dw t.e 6) 1 = false → u.panel.led = s.panel.led ∧ u.panel.blink = s.panel.blink) ∧
      (bit (dw t.e 6) 1 = true → u.panel.blink = BitVec.ofNat 8 (bits (dw t.e 5) 23 16) ∧
        ∀ k : Fin 8, bit u.panel.led k.val =
          if (bits (dw t.e 5) 15 8).testBit k.val then (bits (dw t.e 5) 7 0).testBit k.val else bit s.panel.led k.val)) ∧
  (
  ∀ (s : State) (k : Fin 8) (t : Time),
    (recognises s = true → bit s.panel.down k.val = false → s.power.st ≠ .dormant →
      exec (.keyPress k t) s =
        .next (keyAct { s with panel := { s.panel with down := setBit s.panel.down k.val true } } (pressOf s k t))) ∧
    (recognises s = true → bit s.panel.down k.val = false → s.power.st = .dormant →
      exec (.keyPress k t) s =
        .next (holdPress { s with panel := { s.panel with down := setBit s.panel.down k.val true } } 0 k.val t) ∧
      ∃ u, exec (.keyPress k t) s = .next u ∧ u.panel = { s.panel with down := setBit s.panel.down k.val true } ∧
        u.power.heldKeys.head? = some { kind := 0, index := k.val, time := t }) ∧
    (recognises s = true → bit s.panel.down k.val = false → s.power.st ≠ .dormant → (pressOf s k t).action = 0 →
      exec (.keyPress k t) s = .next { s with panel := { s.panel with down := setBit s.panel.down k.val true } }) ∧
    ((recognises s = false ∨ bit s.panel.down k.val = true) → exec (.keyPress k t) s = .next s) ∧
    exec (.keyRelease k) s = .next { s with panel := { s.panel with down := setBit s.panel.down k.val false } } ∧
    exec .ledBlinkToggle s = .next { s with panel := { s.panel with phase := !s.panel.phase } })

/-! ## Flash, fuses and the secure bank -/

/-- FIRMWARE_UPDATE that finds no flash work and a sound entry starts its update and reads the image, in one host read (log
entry 81); after a thermal trip, with no new flash command, it ends with `aborted`. LIFECYCLE of an allowed transition
starts its job and reads the blob. -/
def Obligations.FlashCommandsStartTheirJobs : Prop :=
  ∀ (s : State) (t : Taken),
    (InHand s t 0x70 → s.flash.upd.isSome = true ∨ s.flash.life.isSome = true →
      exec .firmwareUpdate s = .next (complete (freed s) t .busy)) ∧
    (InHand s t 0x70 → s.flash.upd = none → s.flash.life = none → updateFault t.e = none →
      s.flash.noMore = false → exec .firmwareUpdate s = .next (issueRead (setUpd (handOff (freed s) t .update (dw t.e 4).toNat) (some {
          tag := tagOf t.e, slotB := !s.boot.slotB && !s.boot.romMonitor, activate := bit (dw t.e 5) 0 || s.boot.romMonitor }))
        t.fn (tagOf t.e) .firmware (wide t.e 2) (dw t.e 4).toNat)) ∧
    (InHand s t 0x70 → s.flash.upd = none → s.flash.life = none → updateFault t.e = none → s.flash.noMore = true →
      exec .firmwareUpdate s = .next (complete (freed s) t .aborted)) ∧
    (InHand s t 0x71 → lifeFault s t.e = none → (∀ n, capturing s n = false) → s.flash.upd = none → s.flash.life = none →
      exec .lifecycle s = .next (issueRead (setLife (handOff (freed s) t .lifecycle 0) (some {
          tag := tagOf t.e, fromSt := lifecycleOf s, target := BitVec.ofNat 3 (bits (dw t.e 2) 2 0) }))
        t.fn (tagOf t.e) .blob (wide t.e 3) (dw t.e 5).toNat))

/-- The end of an update's flash work: a whole image that is signed and allowed is valid in its slot from then on, one that
is not is invalid there with `check_failed`, and a mismatch or a late operation ends it with `data_error` or `timeout`. A
lifecycle transition goes through its points in order: a credential that holds starts the wipe (one that fails, or a secure
bank that reads uncorrectable, the model's reading in log entry 264, ends it), the next slot is programmed only after the
wipe, and then the keys are there again, with an entry of kind 8 for the journal. A flash operation that ends is the oldest:
it is out of the queue, its content is in the flash, and the command that waited for it goes on. -/
def Obligations.FlashWorkEndsInOrderWithItsVerdict : Prop :=
  (
  ∀ (s : State) (u : UpdJob) (signed : Bool), s.flash.upd = some u → u.readOk = true → updateCommits s = false →
    (signed = true → imageAllowed s u.image = true → u.activate = false →
      exec (.firmwareUpdateDone (.whole signed)) s = .next (completeJob
        (setUpd (setSlot s u.slotB { u.image with valid := true }) none) u.ended u.tag .ok (updatePay u))) ∧
    (signed = false ∨ imageAllowed s u.image = false →
      exec (.firmwareUpdateDone (.whole signed)) s = .next (completeJob
        (setUpd (setSlot s u.slotB { slotOf s u.slotB with valid := false }) none) u.ended u.tag .checkFailed {})) ∧
    exec (.firmwareUpdateDone .mismatch) s = .next (completeJob
      (setUpd (setSlot s u.slotB { slotOf s u.slotB with valid := false }) none) u.ended u.tag .dataError {}) ∧
    exec (.firmwareUpdateDone .timeout) s = .next (completeJob
      (setUpd (setSlot s u.slotB { slotOf s u.slotB with valid := false }) none) u.ended u.tag .timeout {})) ∧
  (
  ∀ (s : State) (j : LifeJob), s.flash.life = some j →
    (blobReading s = false → j.passed = false → s.sec.wiping = none →
      exec (.lifecycleDone (.credential true .clean)) s =
        .next { setLife s (some { j with passed := true }) with sec := { s.sec with wiping := some 0, keys := false, retried := false } } ∧
      exec (.lifecycleDone (.credential false .clean)) s = .next (completeJob (setLife s none) j.ended j.tag .checkFailed {}) ∧
      ∀ ok : Bool, exec (.lifecycleDone (.credential ok .uncorrectable)) s =
        .next (completeJob (setLife (readSecure s .uncorrectable) none) j.ended j.tag .checkFailed {})) ∧
    (j.wiped = true → j.programmed = false → ∃ u, exec (.lifecycleDone .programmed) s = .next u ∧
      u.sec.slots = s.sec.slots ++ [j.target] ∧ u.flash.life = some { j with programmed := true } ∧
      u.sec.ownerHash = (if j.fromSt = 1 ∧ j.target = 2 then j.owner else s.sec.ownerHash)) ∧
    (j.wiped = false → exec (.lifecycleDone .programmed) s = .next s) ∧
    (j.programmed = true → lifeCommits s = false → s.sec.wiping = none → s.flash.noMore = false →
      ∃ u e, exec (.lifecycleDone .finished) s = .next u ∧ u.sec.keys = !j.tampered ∧ u.flash.ops = s.flash.ops ++ [e] ∧
        e.work = .lifecycle ∧ (e.entry.map fun x => x.kind) = some 8)) ∧
  (
  ∀ (s : State) (o : FlashOp) (rest : List FlashOp), s.flash.ops = o :: rest → flashReachable s = true →
    exec (.flashWriteDone true) s =
      .next (flashWaiter (programmed { s with flash := { s.flash with ops := rest } } o true) o.work true) ∧
    (∀ e, o.entry = some e → o.work = .none →
      ∃ u x, exec (.flashWriteDone true) s = .next u ∧ u.flash.ops = rest ∧ u.flash.journal.head? = some x ∧
        x.kind = e.kind ∧ x.detail = e.detail ∧ x.committed = true))

/-- A tamper input or the glitch detector starts the wipe of the secure bank: the keys are gone, the tamper or glitch bit is
set, and a wipe whose read-back is right ends, one that is wrong is repeated once, and one that is wrong again ends in the
safe halt, at once where the core runs and else with the core's next start, from the always-on record. -/
def Obligations.TamperWipesTheSecureBank : Prop :=
  ∀ (s : State),
    (∀ which : Bool, armedTamper s = true → s.sec.wiping = none → s.flash.life = none →
      exec (.tamperAssert which) s = .next { s with sec := { s.sec with
        tamper := true, keys := false, wiping := some (if which then 2 else 1), retried := false } }) ∧
    (coreRuns s = true → s.sec.wiping = none → s.flash.life = none →
      exec .glitchDetect s = .next { s with sec := { s.sec with
        glitch := true, keys := false, wiping := some 3, retried := false } }) ∧
    (∀ src : BitVec 2, s.sec.wiping = some src → src ≠ 0 →
      exec (.secureWipeDone true) s =
        .next (recordWipe { s with sec := { s.sec with wiping := none, retried := false } } src true) ∧
      (s.sec.retried = false → exec (.secureWipeDone false) s = .next { s with sec := { s.sec with retried := true } }) ∧
      (s.sec.retried = true → coreRuns s = true → exec (.secureWipeDone false) s = .next
        (safeHalt (recordWipe { s with sec := { s.sec with wiping := none, retried := false } } src false) s.boot.step 4)) ∧
      (s.sec.retried = true → coreRuns s = false → ∃ u, exec (.secureWipeDone false) s = .next u ∧ u.sec.wipeBad = true ∧
        u.sec.wiping = none ∧ u.sec.recTamper = s.sec.recTamper ++ [(src, false)]))

/-- The Groom takes an entry only from the function whose turn it is, and then from an eligible one: its slot is read and
left, the rotation stands behind it, and a command that passes the common checks is outstanding and in hand. The Groom takes
a command only when the function's outstanding count is below its stall's `outstanding` and fewer than `rate` of its
commands have been taken in the current millisecond; otherwise the entry stays in the ring, and nothing completes. A command
of the ring that fails the common checks has no effect beside its entry, which bears the status of the first check that
fails: an opcode that is none, or that the safe halt refuses, `unsupported`; a busy tag `invalid`, with that tag; then what
the stall and generation checks give, a violation with its event; then `invalid` for the field of dwords 0 and 1 that is at
fault; then `shed` or `busy` by the device's state. The rest of the device stands as the taking of the slot leaves it. -/
def Obligations.TheGroomTakesChecksAndHolds : Prop :=
  (
  ∀ (s : State) (f : Fn) (e : SqEntry), groomRuns s = true →
    (turnOf s ≠ some f → exec (.groomTakeCommand f e {}) s = .next s) ∧
    (turnOf s = some f → tagBusy s f (tagOf e) = false → commonChecks (takeSlot s f) f e = .pass →
      ∃ u, exec (.groomTakeCommand f e {}) s = .next u ∧ u.groom.taken = some { fn := f, e := e, when := s.tb.now } ∧
        u.groom.rotation = f + 1 ∧ u.fns[f].sqHead = BitVec.ofNat 12 ((s.fns[f].sqHead.toNat + 1) % 2 ^ bits s.fns[f].sqSize 3 0) ∧
        u.fns[f].rateTaken = takenNow s f + 1 ∧
        u.stalls[f].outst = s.stalls[f].outst ++ [{ tag := tagOf e, op := BitVec.ofNat 8 (opcode e), fn := f, gen := genField e
                                                    progress := bit (dw e 0) 8, when := s.tb.now, taken := s.tb.now }] ∧
        u.out = s.out ++ [.hostRead f s.groom.nextRead
          (ringBase s.fns[f].sqBaseLo s.fns[f].sqBaseHi + BitVec.ofNat 64 (64 * s.fns[f].sqHead.toNat)) 64 {}] ∧
        ∀ g : Fn, g ≠ f → u.fns[g] = s.fns[g] ∧ u.stalls[g] = s.stalls[g])) ∧
  (
  ∀ (s : State) (f : Fn) (e : SqEntry) (ecc : TakeEcc),
    (s.stalls[f].grant.outstanding ≤ outstanding s f ∨ s.stalls[f].grant.rate ≤ takenNow s f) →
    exec (.groomTakeCommand f e ecc) s = .next s) ∧
  (
  ∀ s : State,
    (∀ t : Taken, s.groom.taken = some t → opcode t.e ∉ opcodes →
      ∃ u, exec .unknownOpcode s = .next u ∧ u = completeAt (freed s) t .unsupported {} ∧ answersOnly t.fn (freed s) u) ∧
    (∀ (f : Fn) (e : SqEntry) (t : Taken) (u v : State), groomRuns s = true → turnOf s = some f → u = takeSlot s f → v = addOutst u f e →
      t = { fn := f, e := e, when := s.tb.now } →
      (tagBusy s f (tagOf e) = true → ∃ x : CqEntry, exec (.groomTakeCommand f e {}) s = .next (pushEntry u f x) ∧
        answersOnly f u (pushEntry u f x) ∧ x.kind = .completion ∧ x.code = tagOf e ∧ x.dup = true ∧
        x.status = statusCode (if opcode e ∉ opcodes ∨ (s.boot.phase = .halted ∧ opcode e ∉ haltOpcodes) then .unsupported
          else .invalid)) ∧
      (tagBusy s f (tagOf e) = false → opcode e ∈ opcodes →
        (∀ st p, answersOnly f v (completeAt v t st p)) ∧
        (s.boot.phase = .halted → opcode e ∉ haltOpcodes →
          exec (.groomTakeCommand f e {}) s = .next (completeAt v t .unsupported {})) ∧
        (s.boot.phase ≠ .halted ∨ opcode e ∈ haltOpcodes →
          (∀ st p, stallChecks u f e = .fail st p → exec (.groomTakeCommand f e {}) s = .next (completeAt v t st p)) ∧
          (∀ r k i, stallChecks u f e = .violate r k i → exec (.groomTakeCommand f e {}) s = .next (deny v t r k i)) ∧
          (∀ d b, stallChecks u f e = .pass → badHead e = some (d, b) → exec (.groomTakeCommand f e {}) s =
            .next (completeAt v t .invalid { fieldPay d b with p5 := noOffset (opcode e) })) ∧
          (∀ st, stallChecks u f e = .pass → badHead e = none → refusedByState u e = some st →
            exec (.groomTakeCommand f e {}) s = .next (completeAt v t st {}))))))

/-- When a ring fetch fails, the device stops taking entries from the ring and sets `fetch_error`; `SQ.HEAD` stays at the
slot that failed, and no entry of the ring is taken until `sq_enable` has been cleared and set. A read that comes back with
as many bytes as were asked for serves the command it was issued for, and is outstanding no longer; one that fails or times
out serves it as a failed read, so that a course's image ends in `data_error`; a sound image of an update is in hand then,
and a blob that could not be read ends its `lifecycle`. -/
def Obligations.HostReadsServeRingsAndCommands : Prop :=
  (
  ∀ (s : State) (f : Fn) (i : Instr), i ∈ [Instr.hostReadComplete (.ring f) .failed, .hostReadTimeout (.ring f)] →
    ringPending s f = true →
    ∃ u, exec i s = .next u ∧ u.fns[f].sqStopped = true ∧ bit u.fns[f].errStatus 2 = true ∧ u.fns[f].sqHead = s.fns[f].sqHead ∧ ringPending u f = false ∧
      (∀ (e : SqEntry) (ecc : TakeEcc), exec (.groomTakeCommand f e ecc) u = .next u) ∧
      ∀ g : Fn, g ≠ f → u.fns[g] = s.fns[g]) ∧
  (
  ∀ (s : State) (id : Nat) (r : HostRead) (u : State), (s.groom.reads.find? fun r => r.id == id) = some r →
    u = modGroom s (fun g => { g with reads := g.reads.filter fun x => x.id != id }) →
    (∀ l : List Byte, l.length = r.len → exec (.hostReadComplete (.job id) (.bytes l)) s = .next (serveRead u r (.bytes l))) ∧
    exec (.hostReadTimeout (.job id)) s = .next (serveRead u r .failed) ∧
    (r.dead = false → r.purpose = .image → serveRead u r .failed = settleAll
      (completeTag (modGroom u fun g => { g with courseQ := g.courseQ.filter fun w => !(w.fn == r.fn && w.tag == r.tag) })
        r.fn r.tag .dataError {})) ∧
    (∀ j, r.dead = false → r.purpose = .blob → s.flash.life = some j →
      ∃ v, exec (.hostReadTimeout (.job id)) s = .next v ∧ v.flash.life = none ∧
        v.groom.reads = s.groom.reads.filter (fun x => x.id != id)) ∧
    (∀ (l : List Byte) (j : UpdJob), r.dead = false → r.purpose = .firmware → l.length = r.len → imageFormOk l = true →
      leAt l 0x10 4 + 512 = r.len → s.flash.upd = some j →
      ∃ v, exec (.hostReadComplete (.job id) (.bytes l)) s = .next v ∧
        v.flash.upd = some { j with image := parseImage l, readOk := true } ∧
        v.groom.reads = s.groom.reads.filter (fun x => x.id != id)))

/-! ## Register window, scratchpads, messages and functions -/

/-- A write whose value has an odd number of 1 bits is discarded, puts the function in Fault, sets `ERR.STATUS.parity`,
increments `ERR.PARITY_COUNT` and records the access in `ERR.ACCESS_LOG`. A write with a byte enable clear is dropped, and
one to a locked register is refused, each with its bit, its counter and its log entry, and neither changes anything of the
register or of any other function. -/
def Obligations.FaultyWindowWritesAreRecorded : Prop :=
  (
  ∀ (s : State) (f : Fn) (off : BitVec 12) (val : Dword), reachable s f = true → writable (alias_ off) = true → evenParity val = false →
    ∃ u, exec (.registerWrite f off val 0xF) s = .next u ∧ u.fns[f].fault = true ∧ bit u.fns[f].errStatus 5 = true ∧
      u.fns[f].parityCount = count32 s.fns[f].parityCount ∧
      u.fns[f].accessLog = flag true 31 ||| fld 3 28 ||| fld off.toNat 0 ∧
      u.fns[f].winPar = s.fns[f].winPar ∧ u.fns[f].lock = s.fns[f].lock ∧
      u.fns[f].sqEnable = s.fns[f].sqEnable ∧ u.fns[f].cqEnable = s.fns[f].cqEnable ∧
      u.fns[f].sqBaseLo = s.fns[f].sqBaseLo ∧ u.fns[f].sqBaseHi = s.fns[f].sqBaseHi ∧ u.fns[f].sqSize = s.fns[f].sqSize ∧
      u.fns[f].sqTail = s.fns[f].sqTail ∧ u.fns[f].cqBaseLo = s.fns[f].cqBaseLo ∧ u.fns[f].cqBaseHi = s.fns[f].cqBaseHi ∧
      u.fns[f].cqSize = s.fns[f].cqSize ∧ u.fns[f].cqHead = s.fns[f].cqHead ∧ u.fns[f].cqIrq = s.fns[f].cqIrq) ∧
  (
  ∀ (s : State) (f : Fn) (off : BitVec 12) (val : Dword) (be : BitVec 4), reachable s f = true →
    (be ≠ 0xF → exec (.registerWrite f off val be) s = .next (modFn s f fun r => { r with
      errStatus := setBit r.errStatus 6 true, droppedCount := count32 r.droppedCount
      accessLog := flag true 31 ||| fld 1 28 ||| fld off.toNat 0 })) ∧
    (be = 0xF → evenParity val = true → s.fns[f].lock = true → hasLocked (alias_ off) = true →
      exec (.registerWrite f off val be) s = .next (modFn s f fun r => { r with
        errStatus := setBit r.errStatus 7 true, lockedCount := count32 r.lockedCount
        accessLog := flag true 31 ||| fld 2 28 ||| fld off.toNat 0 })))

/-- A tail below the ring size is taken while the ring is enabled and the function not in Fault, one at or above it sets
`doorbell_range`, one for a disabled ring is discarded; a head below the ring size is taken, and the waiting entries are
written. Writes of `WIN.CONTROL` to an unlocked function: an enable with a sound size starts its ring at index 0, a clear
stops it, 1 in `lock` locks, both enables 0 leave Fault; `ERR.STATUS` bits are cleared by writing 1. -/
def Obligations.DoorbellsAndControlsMoveTheRings : Prop :=
  (
  ∀ (s : State) (f : Fn) (off : BitVec 12) (val : Dword), reachable s f = true → evenParity val = true → s.fns[f].fault = false →
    (alias_ off = 0x1C → s.fns[f].sqEnable = true → bits val 11 0 < 2 ^ bits s.fns[f].sqSize 3 0 →
      exec (.sqTailDoorbell f off val 0xF) s = .next (modFn s f fun r => { r with sqTail := val &&& 0x80000FFF })) ∧
    (alias_ off = 0x1C → s.fns[f].sqEnable = true → 2 ^ bits s.fns[f].sqSize 3 0 ≤ bits val 11 0 →
      exec (.sqTailDoorbell f off val 0xF) s = .next (modFn s f fun r => { r with
        errStatus := setBit r.errStatus 4 true, accessLog := flag true 31 ||| fld 4 28 ||| fld off.toNat 0 })) ∧
    (alias_ off = 0x1C → s.fns[f].sqEnable = false → exec (.sqTailDoorbell f off val 0xF) s = .next s) ∧
    (alias_ off = 0x2C → bits val 11 0 < 2 ^ bits s.fns[f].cqSize 3 0 →
      exec (.cqHeadDoorbell f off val 0xF []) s = .next (drain (modFn s f fun r => { r with cqHead := val &&& 0x80000FFF }) f)) ∧
    (alias_ off = 0x2C → 2 ^ bits s.fns[f].cqSize 3 0 ≤ bits val 11 0 →
      exec (.cqHeadDoorbell f off val 0xF []) s = .next (modFn s f fun r => { r with
        errStatus := setBit r.errStatus 4 true, accessLog := flag true 31 ||| fld 4 28 ||| fld off.toNat 0 }))) ∧
  (
  ∀ (s : State) (f : Fn) (off : BitVec 12) (val : Dword), reachable s f = true → evenParity val = true →
    (alias_ off = 0x08 → s.fns[f].lock = false →
      (bit val 0 = true → s.fns[f].sqEnable = false → sizeOk s.fns[f].sqSize = true →
        ∃ u, exec (.sqEnable f off val 0xF) s = .next u ∧ u.fns[f].sqEnable = true ∧ u.fns[f].sqHead = 0 ∧ u.fns[f].sqTail = 0) ∧
      (bit val 0 = false → s.fns[f].sqEnable = true →
        ∃ u, exec (.sqDisable f off val 0xF) s = .next u ∧ u.fns[f].sqEnable = false ∧ ringPending u f = false) ∧
      (bit val 1 = true → s.fns[f].cqEnable = false → sizeOk s.fns[f].cqSize = true →
        ∃ u, exec (.cqEnable f off val { be := 0xF }) s = .next u ∧ u.fns[f].cqEnable = true ∧ u.fns[f].cqHead = 0) ∧
      (bit val 1 = false → s.fns[f].cqEnable = true →
        ∃ u, exec (.cqDisable f off val 0xF) s = .next u ∧ u.fns[f].cqEnable = false ∧ cqCanTake u f = false) ∧
      (bit val 31 = true → ∃ u, exec (.winControlLock f off val 0xF) s = .next u ∧ u.fns[f].lock = true) ∧
      (bits val 1 0 = 0 → s.fns[f].fault = true →
        ∃ u, exec (.faultLeave f off val 0xF) s = .next u ∧ u.fns[f].fault = false ∧ u.fns[f].sqEnable = false ∧
          u.fns[f].cqEnable = false)) ∧
    (alias_ off = 0x40 → exec (.errStatusClear f off val 0xF) s =
      .next (modFn s f fun r => { r with errStatus := r.errStatus &&& ~~~ (BitVec.ofNat 9 val.toNat) })) ∧
    (alias_ off = 0x10 → s.fns[f].lock = false → s.fns[f].sqEnable = false → exec (.registerWrite f off val 0xF) s =
      .next (modFn s f fun r => { r with sqBaseLo := val &&& 0xFFFFF001 })))

/-- The scratch views: a plain write takes the data, a bit-set write the OR with the content, a bit-clear write the content
AND NOT the data, in each byte whose enable is set; every other byte of every scratchpad, and everything else, stands. A
word that reads as an uncorrectable error reads as all ones and sets `ERR.STATUS.sram_ecc`; that a bit view reads its word
first is the model's reading (log entry 243). A host write that meets a device write of the same word is discarded whole:
the scratchpads stand, `ERR.STATUS.collision` is set and `ERR.COLLISION_COUNT` goes up. -/
def Obligations.ScratchViewsWriteEnabledBytes : Prop :=
  (
  ∀ (s : State) (f : Fn) (off : BitVec 16) (data : BitVec 64) (be : BitVec 8) (i : Instr) (g : Byte → Byte → Byte),
    reachable s f = true → memWf s.scratch = true →
    ((i = .scratchWrite f off data be false ∧ viewOf off ∈ [0, 3] ∧ g = fun _ d => d) ∨
     (i = .scratchBitSet f off data be {} ∧ viewOf off = 1 ∧ g = fun c d => c ||| d) ∨
     (i = .scratchBitClear f off data be {} ∧ viewOf off = 2 ∧ g = fun c d => c &&& ~~~ d) ∨
     (i = .scratchBitSet f off data be { ecc := .uncorrectable } ∧ viewOf off = 1 ∧ g = fun _ d => 0xFF ||| d) ∨
     (i = .scratchBitClear f off data be { ecc := .uncorrectable } ∧ viewOf off = 2 ∧ g = fun _ d => 0xFF &&& ~~~ d)) →
    ∃ u, exec i s = .next u ∧ u = { s with scratch := u.scratch, fns := u.fns } ∧
      (∀ h : Fn, u.fns[h] = { s.fns[h] with errStatus := u.fns[h].errStatus }) ∧
      (i = .scratchBitSet f off data be { ecc := .uncorrectable } ∨ i = .scratchBitClear f off data be { ecc := .uncorrectable } →
        bit u.fns[f].errStatus 8 = true) ∧
      (∀ k < 8, memRead u.scratch (16384 * f.val + bits off 13 3 * 8 + k) =
        if bit be k then g (memRead s.scratch (16384 * f.val + bits off 13 3 * 8 + k)) (BitVec.ofNat 8 (data.toNat / 2 ^ (8 * k)))
        else memRead s.scratch (16384 * f.val + bits off 13 3 * 8 + k)) ∧
      (∀ a, a < 16384 * f.val + bits off 13 3 * 8 ∨ 16384 * f.val + bits off 13 3 * 8 + 8 ≤ a →
        memRead u.scratch a = memRead s.scratch a)) ∧
  (
  ∀ (s : State) (f : Fn) (off : BitVec 16) (data : BitVec 64) (be : BitVec 8) (i : Instr), reachable s f = true →
    ((i = .scratchWrite f off data be true ∧ viewOf off ∈ [0, 3]) ∨ (∃ ecc, i = .scratchBitSet f off data be { collide := true, ecc := ecc } ∧ viewOf off = 1) ∨
      (∃ ecc, i = .scratchBitClear f off data be { collide := true, ecc := ecc } ∧ viewOf off = 2)) →
    ∃ u, exec i s = .next u ∧ u.scratch = s.scratch ∧ bit u.fns[f].errStatus 0 = true ∧
      u.fns[f].collisionCount = count32 s.fns[f].collisionCount)

/-- A vector's unmasking sends the message that fell due while it was masked, and clears its pending bit; a write that masks
it, and one of MSI-X Enable and Function Mask with nothing pending, changes that alone; the expiry of `holdoff` sends the
source's message and restarts its count. One row for every write of the vectors is the model's choice (log entry 221). At
the end of a rate interval the merged event is sent with its count and a new interval starts, or with nothing merged the
interval is gone; a progress entry of a running job comes 1 ms after the one before, without freeing its tag. -/
def Obligations.MessagesAndMergedEventsComeInTime : Prop :=
  (
  ∀ (s : State) (f : Fn),
    (∀ (v : Fin 8) (off : BitVec 32) (val : Dword), reachable s f = true → off.toNat / 4 * 4 = 16 * v.val + 12 →
      s.fns[f].msixEnable = true → s.fns[f].msixFnMask = false →
      (∀ w : Fin 8, w ≠ v → bit s.fns[f].msixPending w.val = true → bit s.fns[f].msixMask w.val = true) →
      (bit val 0 = false → bit s.fns[f].msixPending v.val = true →
        ∃ u, exec (.msixVectorUnmask f off val 0xF none none) s = .next u ∧
          u.fns[f].msixPending = setBit s.fns[f].msixPending v.val false ∧ u.fns[f].msixMask = setBit s.fns[f].msixMask v.val false ∧
          u.out = s.out ++ [.msix f v s.fns[f].msixAddr[v] s.fns[f].msixData[v] {}]) ∧
      (bit val 0 = true → exec (.msixVectorUnmask f off val 0xF none none) s =
        .next (modFn s f fun r => { r with msixMask := setBit r.msixMask v.val true }))) ∧
    (∀ (enable fnMask : Bool) (off : BitVec 32) (val : Dword), s.pcie.linkUp = true → s.pcie.cfgReady = true → fnExists s f = true → s.fns[f].msixPending = 0 →
      exec (.msixVectorUnmask f off val 0 (some enable) (some fnMask)) s =
        .next (modFn s f fun r => { r with msixEnable := enable, msixFnMask := fnMask })) ∧
    (∀ event : Bool, (if event then s.fns[f].cntE else s.fns[f].cntC) ≠ 0 → bits s.fns[f].cqIrq 23 16 ≠ 0 →
      passed s.tb.now (if event then s.fns[f].oldE else s.fns[f].oldC) (1000 * bits s.fns[f].cqIrq 23 16) = true →
      exec (.msixHoldoffExpiry f event) s = .next
        (sendMsix (modFn s f fun r => if event then { r with cntE := 0 } else { r with cntC := 0 }) f
          (irqVector s.fns[f].cqIrq (if event then 4 else 0))))) ∧
  (
  ∀ (s : State),
    (∀ (key : RateKey) (r : RateEntry), (s.groom.rates.find? fun r => r.key == key) = some r →
      later r.since s.tb.now = false → r.interval.toNat ≤ (s.tb.now - r.since).toNat →
      (r.count = 0 → exec (.eventRateIntervalEnd key) s =
        .next (modGroom s fun g => { g with rates := g.rates.filter fun r => r.key != key })) ∧
      (r.count ≠ 0 → exec (.eventRateIntervalEnd key) s = .next (sendEvents
        (modGroom s fun g => { g with rates := g.rates.map fun r =>
          if r.key == key then { r with since := s.tb.now, count := 0, newest := [] } else r })
        (r.newest.map fun x => (x.1, withCount x.2 r.count))))) ∧
    (∀ (f : Fn) (tag : BitVec 16) (done : Nat) (o : Outst), findOutst s f tag = some o → o.progress = true → jobRuns s f o = true →
      passed s.tb.now o.lastProg ms = true →
      exec (.progressEntryDue f { tag := tag, done := done }) s = .next (pushEntry
        (modOutst s f tag fun x => { x with lastProg := s.tb.now, done := doneNow o done }) f {
          kind := .progress, status := 0, code := tag, stall := BitVec.ofNat 8 f.val, gen := o.gen, time := s.tb.now
          p4 := fld (doneNow o done) 0, p5 := fld (doneNow o done / 2 ^ 32) 0, p6 := fld o.total 0, p7 := fld (o.total / 2 ^ 32) 0 })))

/-- A function-level reset gives the function's window its reset values and starts its stall's reset sequence; of the
physical function it clears VF Enable and resets the link settings too. Lowering NumVFs takes the functions above it away;
VF Enable with ARI gives the functions asked for; D3hot stops a function's rings, and D0 lets its completion ring take what
waits; that Relaxed Ordering Enable and Max_Read_Request_Size come with it, and their values after a reset, are the model's
choice (log entries 2 and 244), as is the system page size that VF Enable gives; that one row of PERST# resets every window
and takes every VF away is log entry 220. The start of a reset sequence sets a created stall to `resetting`, drops its
outstanding commands and its store, and notes its cause and time; a stall that is absent or resetting already is left as it
is. -/
def Obligations.FunctionsAreResetEnabledAndStopped : Prop :=
  (
  ∀ (s : State),
    (∀ f : Fn, s.pcie.cfgReady = true → fnExists s f = true →
      (f ≠ 0 → exec (.functionLevelReset f) s = .next (startReset (resetWindow s f) f 3)) ∧
      (f = 0 → exec (.functionLevelReset f) s = .next (resetLinks (lowerVFs { startReset (resetWindow s f) f 3 with
          pcie := { (startReset (resetWindow s f) f 3).pcie with maxRead := 2, page := 0 } } 0)) ∧
        ∃ u, exec (.functionLevelReset f) s = .next u ∧ ∀ l : Fin 2, u.links[l].setting = 0x200000)) ∧
    (∀ n : Fin 64, s.pcie.vfEnable = true → n.val < s.pcie.numVFs →
      exec (.vfDisable n) s = .next (lowerVFs s n.val) ∧
      ((∀ k : Stall, n.val < k.val → s.stalls[k].st = .absent) → ∃ u, exec (.vfDisable n) s = .next u ∧
        u = { s with fns := u.fns, pcie := { s.pcie with numVFs := n.val, vfEnable := decide (n.val ≠ 0) } } ∧
        (∀ g : Fn, g.val ≤ n.val → u.fns[g] = s.fns[g]) ∧ ∀ g : Fn, n.val < g.val → u.fns[g] = {})) ∧
    (∀ (n : Fin 64) (page : Fin 20), n ≠ 0 → s.pcie.vfEnable = false → s.pcie.cfgReady = true → s.boot.phase ≠ .halted → lifecycleOf s ≠ 4 →
      exec (.vfEnable n { ari := true, page := page }) s = .next { s with pcie := { s.pcie with vfEnable := true, ari := true, page := page, numVFs := n.val } } ∧
      exec (.vfEnable n { ari := false, page := page }) s =
        .next { s with pcie := { s.pcie with vfEnable := true, ari := false, page := page, numVFs := min 7 n.val } }) ∧
    (∀ f : Fn, s.pcie.cfgReady = true → fnExists s f = true →
      ∀ (relaxed : Bool) (m : Fin 6),
      exec (.dStateChange f { d3 := false, relaxed := relaxed, maxRead := m }) s =
        .next (drain (modFn (setMaxRead s f m) f fun r => { r with d3 := false, relaxedEnable := relaxed }) f) ∧
      (∃ u, exec (.dStateChange f { d3 := false, relaxed := relaxed, maxRead := m }) s = .next u ∧ u.fns[f].d3 = false ∧
        u.fns[f].relaxedEnable = relaxed ∧ u.pcie.maxRead = (if f = 0 then m else s.pcie.maxRead)) ∧
      ∀ ecc : List Ecc, exec (.dStateChange f { d3 := true, relaxed := relaxed, maxRead := m, ecc := ecc }) s =
        .next (modFn (setMaxRead s f m) f fun r => { r with d3 := true, relaxedEnable := relaxed })) ∧
    (exec .perst s = .next (resetLinks (lowerVFs (startReset { s with
      fns := vmap s.fns fun f _ => ({ fbPeak := if f = 0 then fbLevel s 0 else 0 } : FnState), pcie := { s.pcie with ari := false, page := 0, maxRead := 2 } } 0 3) 0)) ∧
      ∃ u, exec .perst s = .next u ∧ ∀ l : Fin 2, u.links[l].setting = 0x200000)) ∧
  (
  ∀ (s : State) (n : Stall) (cause : Nat),
    (s.stalls[n].st = .absent ∨ s.stalls[n].st = .resetting → startReset s n cause = s) ∧
    (s.stalls[n].st ≠ .absent → s.stalls[n].st ≠ .resetting → s.pcie.cfgReady = true → fnExists s n = true → n ≠ 0 → cause = 3 →
      ∃ u, exec (.functionLevelReset n) s = .next u ∧ u.stalls[n].st = .resetting ∧ u.stalls[n].outst = [] ∧
        (u.stalls[n].reset.map fun r => (r.cause, r.when)) = some (3, s.tb.now)))

/-! ## Channels, courses, gaits, segments and pods -/

/-- A latch sets only while its enable bit and the channel are enabled: of a channel that is not live, one that is disabled
or forced, no row of the latches sets any, and nothing at all changes (R42); and one that is set does nothing again. While
channels are sampled an excursion, which must be one that the delay of R50 lets out in this stride (log entry 254), restarts
the dwell count; a dwell that is met starts the open check where `open_en` is 1, else the band latch sets; and the check
sets the open latch of an undriven input or the band latch of a driven one. No row of the latches changes a channel other
than the one it names. -/
def Obligations.LatchesFollowTheirConditions : Prop :=
  (
  ∀ (s : State) (c : Fin 48),
    (chLive s.chans[c] = false → (∀ above k, exec (.latchExcursion c above k) s = .next s) ∧
      (∀ first, exec (.dwellMet c first) s = .next s) ∧ ∀ undriven, exec (.openCheckEnd c undriven) s = .next s) ∧
    (∀ (above : Bool) (k : Fin 8) (t from_ : Time), chLive s.chans[c] = true → samplesRun s = true → s.chans[c].sampledAt = s.tb.now →
      t = s.tb.now + BitVec.ofNat 64 (32 * k.val) →
      from_ = (if later (t + 32) s.chans[c].dwellFrom then t + 32 else s.chans[c].dwellFrom) →
      (bit (if above then s.chans[c].overs else s.chans[c].unders) k.val = false → exec (.latchExcursion c above k) s = .next s) ∧
      (bit (if above then s.chans[c].overs else s.chans[c].unders) k.val = true → ∃ u, exec (.latchExcursion c above k) s = .next u ∧
        (chSideEn s.chans[c].setting above = false → u = modChan s c fun x =>
          { x with dwellFrom := from_, dwellMet := false, checking := false, checked := none }) ∧
        (chSideEn s.chans[c].setting above = true → latchOf u.chans[c] (if above then .above else .below) = true ∧
          u.chans[c].dwellFrom = from_ ∧ u.chans[c].dwellMet = false) ∧
        (latchOf s.chans[c] (if above then .above else .below) = true → u.out = s.out ∧ u.groom = s.groom))) ∧
    (∀ first : Time, dwellDue s c first = true → ∃ u, exec (.dwellMet c first) s = .next u ∧
      (chOpenEn s.chans[c].setting = true → u = modChan s c fun x => { x with dwellFrom := first, checking := true }) ∧
      (chOpenEn s.chans[c].setting = false → u.chans[c].band = true ∧ u.chans[c].dwellMet = true)) ∧
    (chLive s.chans[c] = true → samplesRun s = true → s.chans[c].checking = true →
      (∃ u, exec (.openCheckEnd c true) s = .next u ∧ u.chans[c].open_ = (s.chans[c].open_ || chOpenEn s.chans[c].setting) ∧
        u.chans[c].band = s.chans[c].band ∧ u.chans[c].checking = false) ∧
      (∃ u, exec (.openCheckEnd c false) s = .next u ∧ u.chans[c].open_ = s.chans[c].open_ ∧ u.chans[c].checking = false ∧
        u.chans[c].band = (s.chans[c].band || chBandEn s.chans[c].setting)))) ∧
  (
  ∀ (s u : State) (c d : Fin 48) (i : Instr), d ≠ c →
    ((∃ above k, i = .latchExcursion c above k) ∨ (∃ first, i = .dwellMet c first) ∨ (∃ b, i = .openCheckEnd c b)) →
    exec i s = .next u → u.chans[d] = s.chans[d])

/-- A stride of a stall is evaluated once: what falls due at its start, its samples, its course and its playback; a second
time in the same stride nothing happens, and in a relock nothing is sampled. A stall that holds no course, no capture, no
playback and no waiting setting takes its samples and no more: a channel that is not live reads 0 throughout, a live one has
the transitions that its samples show after the sample before them. Timer and counter terms follow their values, a pulse on
TRIG_OUT ends, a store on takes effect. -/
def Obligations.StridesAreEvaluatedOnce : Prop :=
  ∀ (s : State) (n : Stall),
    (∀ (inp : StrideIn) (a b : State), frontEndRuns s = true → s.tb.timeValid = true → s.stalls[n].eng.evalAt ≠ s.tb.now →
      a = beginStride s n inp.seed → b = (chansOf a n).foldl (fun s c => sampleChan s inp c) a →
      (a.tb.bypass = false → exec (.courseStride n inp) s = .next
        (modEng (playStride (courseStep (takeDense { b with fe := { b.fe with trigIn := bit inp.trigIn 7 } } n) n inp.trigIn) n) n fun e =>
          { e with evalAt := s.tb.now, final := none })) ∧
      (a.tb.bypass = true → exec (.courseStride n inp) s = .next (modEng (takeDense a n) n fun e =>
          { e with evalAt := s.tb.now, final := none }))) ∧
    (∀ inp : StrideIn, frontEndRuns s = true → s.tb.timeValid = true → s.tb.bypass = false → s.stalls[n].eng.evalAt ≠ s.tb.now →
      s.stalls[n].cap = none → s.stalls[n].course = none → s.stalls[n].ref.play = none → s.stalls[n].ref.timed = none →
      s.stalls[n].ref.queued = none → s.stalls[n].st ≠ .capturing →
      (∀ c : Fin 48, s.chans[c].pend = none ∧ s.chans[c].pendCorr = 0 ∧ s.chans[c].pendOffs = 0 ∧ s.chans[c].pendAt = 0 ∧
        s.chans[c].driftSent = false ∧ s.chans[c].forced = false ∧ -256 ≤ s.chans[c].corr ∧ s.chans[c].corr ≤ 256) →
      ∃ u, exec (.courseStride n inp) s = .next u ∧ u.fe.trigIn = bit inp.trigIn 7 ∧ u.stalls[n].eng.evalAt = s.tb.now ∧
        (∀ m : Stall, m ≠ n → u.stalls[m] = s.stalls[m]) ∧ u.out = s.out ∧ u.groom = s.groom ∧
        ∀ c : Fin 48, (ownsChan s n c = false → u.chans[c] = s.chans[c]) ∧
          (ownsChan s n c = true → u.chans[c].sampledAt = s.tb.now ∧
            (chLive s.chans[c] = false → u.chans[c].level = false ∧ u.chans[c].samples = 0 ∧ u.chans[c].trans = 0) ∧
            (chLive s.chans[c] = true → u.chans[c].level = bit u.chans[c].samples 7 ∧
              u.chans[c].trans = (transSamples u.chans[c].before u.chans[c].samples).length))) ∧
    (∀ inp : StrideIn, s.stalls[n].eng.evalAt = s.tb.now → s.tb.now ≠ 0 → exec (.courseStride n inp) s = .next s) ∧
    (∀ (p : Course) (k : Fin 32), s.stalls[n].course = some p → s.stalls[n].eng.evalAt ≠ s.tb.now →
      (∀ x : TimerEntry, p.timers[k.val]? = some x → ∃ u, exec (.courseTimerLimit n k) s = .next u ∧
        u = modEng s n (fun e => { e with tmrSince := (followTerms p e s.tb.now).tmrSince }) ∧
        (u.stalls[n].eng.tmrSince.getD k.val {}).on = decide (x.limit.toNat ≤ (s.stalls[n].eng.timers.getD k.val {}).value.toNat)) ∧
      (∀ x : CounterEntry, p.counters[k.val]? = some x → ∃ u, exec (.courseCounterCompare n k) s = .next u ∧
        u = modEng s n (fun e => { e with ctrSince := (followTerms p e s.tb.now).ctrSince }) ∧
        (u.stalls[n].eng.ctrSince.getD k.val {}).on = counterTrue x (s.stalls[n].eng.counters.getD k.val 0))) ∧
    (∀ t : Time, s.stalls[n].eng.pulseEnd = some t → past s.tb.now (t &&& ~~~ (255 : Time)) = false →
      ∃ u, exec (.trigOutPulseEnd n) s = .next u ∧ u = refreshTrigOut (modEng s n fun e => { e with pulseEnd := none }) ∧
        u.stalls[n].eng.pulseEnd = none ∧ u.stalls[n].eng.level = s.stalls[n].eng.level ∧ (∀ m : Stall, m ≠ n → u.stalls[m] = s.stalls[m]) ∧
        (s.stalls[n].eng.level = false → (∀ m : Stall, m ≠ n → capturing s m = false) → u.pins.trigOut = false)) ∧
    exec (.storeOnDeferred n) s = .next (checkFull (applyStoreOn s n) n) ∧
    (∀ (c : Capture) (p : StorePend), s.stalls[n].cap = some c → s.stalls[n].eng.storePend = some p → oneShot c = false →
      (past s.tb.now p.when = true → exec (.storeOnDeferred n) s = .next s) ∧
      (past s.tb.now p.when = false → c.phase = .running → c.arm.gait = .gallop → c.teams = 0 →
        ∃ u, exec (.storeOnDeferred n) s = .next u ∧ u.stalls[n].eng.storing = true ∧ u.stalls[n].eng.storePend = none))

/-- A hoofbeat is written for a stride of a storing Canter segment in which a channel of the team had a transition, after
the keyframe and the gap anchor it needs, with the channel fields of the team's six channels; without a transition nothing
is written. Where no keyframe is due and the block has room, that is one record more in the block. -/
def Obligations.HoofbeatsAreWrittenForTransitions : Prop :=
  ∀ (s k w : State) (t : Fin 8) (n : Stall) (c : Capture) (delta : Nat),
    (allStalls.find? fun n => bit s.stalls[n].grant.teams t.val) = some n → openIn s n .canter = some c →
    ((teamList t).any (fun k => hadTransition s k) = false → exec (.hoofbeat t) s = .next s) ∧
    (bit c.teams t.val = true → storedAt c s.tb.now = true → (teamList t).any (fun k => hadTransition s k) = true →
      (hoofsDone s c).toNat / 2 ^ t.val = 0 →
      (k = dueKey s n → delta = strideOf (k.tb.now - ((k.stalls[n].cap.map fun c => c.chainTime).getD k.tb.now)) →
        w = (if 31 < delta then addRec k n (anchorRec 1 k.tb.now) else k) →
        exec (.hoofbeat t) s = .next (checkFull (addRec
          (modCap w n fun x => { x with chainTime := k.tb.now, hoofAt := some k.tb.now, hoofDone := setBit (hoofsDone w x) t.val true })
          n (hoofRec t.val (if 31 < delta then 0 else delta) ((teamList t).map fun j => hoofField w.chans[j]))) n)) ∧
      (keyDue s c = false → oneShot c = false → c.part.length < 15 → delta = strideOf (s.tb.now - c.chainTime) → delta ≤ 31 →
        ∃ u, exec (.hoofbeat t) s = .next u ∧ u.stalls[n].cap = some { c with
          chainTime := s.tb.now, hoofAt := some s.tb.now, hoofDone := setBit (hoofsDone s c) t.val true
          part := c.part ++ [hoofRec t.val delta ((teamList t).map fun j => hoofField s.chans[j])] } ∧
          ∀ m : Stall, m ≠ n → u.stalls[m] = s.stalls[m]))

/-- The other formatters: a full dense block of Gallop is placed and the next one begins; a due keyframe is written, an
anchor and, but for Trot, the states; and an event record leaves the queue for its stall's stream at most once in 32
strides. -/
def Obligations.FormattersWriteTheirRecords : Prop :=
  ∀ (s : State) (n : Stall) (c : Capture),
    exec (.gallopDenseBlock n) s = .next (checkFull (placeDense s n) n) ∧
    (s.stalls[n].cap = some c → c.arm.gait = .gallop → oneShot c = false →
      (denseFull c = false → exec (.gallopDenseBlock n) s = .next s) ∧
      (denseFull c = true → (c.denseIdx + 1) % (64 - c.sideBlocks) ≠ 0 →
        ∃ u d, exec (.gallopDenseBlock n) s = .next u ∧ u.stalls[n].cap = some d ∧ d.dense = [] ∧ d.denseIdx = c.denseIdx + 1 ∧
          d.seg.written = c.seg.written + 1 ∧ d.sideQ = c.sideQ ∧ d.part = c.part ∧ d.phase = c.phase)) ∧
    (s.stalls[n].cap = some c → fillOver s c = false → exec (.keyframe n) s = .next (checkFull (dueKey s n) n) ∧
      (keyDue s c = false → oneShot c = false → exec (.keyframe n) s = .next s) ∧
      (∀ m : ChanMask, keyDue s c = true → oneShot c = false → c.part.length < 14 → m = stateBefore s c.teams →
        ∃ u, exec (.keyframe n) s = .next u ∧ u.stalls[n].cap = some { c with
          seg := { c.seg with kf := c.seg.kf ++ [{ block := c.seg.written, time := s.tb.now }] }
          chainTime := s.tb.now, hasKey := true, lastKey := s.tb.now, walkStates := m
          part := c.part ++ [anchorRec (if c.resume && !c.hasKey then 2 else 0) s.tb.now] ++ (match c.arm.gait with
            | .canter => [stateRec 3 m 0]
            | .walk => [stateRec 4 m 0]
            | _ => []) })) ∧
    (∀ (e : EvRec) (rest : List EvRec), s.groom.evQueue = e :: rest →
      (past s.tb.now (s.groom.evLast + strides 32) = true → exec .eventRecordLeavesQueue s = .next s) ∧
      (past s.tb.now (s.groom.evLast + strides 32) = false →
      (recording s e.stall = true → exec .eventRecordLeavesQueue s = .next (checkFull (addSide
        (modGroom s fun g => { g with evQueue := rest, evLast := s.tb.now + strides (32 * (e.recs.length - 1)) }) e.stall e.recs) e.stall)) ∧
      (∀ d : Capture, recording s e.stall = true → s.stalls[e.stall].cap = some d → d.arm.gait = .gallop ∨ d.phase ≠ .running →
        oneShot d = false → ∃ u, exec .eventRecordLeavesQueue s = .next u ∧ u.stalls[e.stall].cap = some { d with sideQ := d.sideQ ++ e.recs } ∧
          u.groom.evQueue = rest) ∧
      (recording s e.stall = false → exec .eventRecordLeavesQueue s = .next
        (modGroom s fun g => { g with evQueue := rest, evLast := s.tb.now + strides (32 * (e.recs.length - 1)) }))))

/-- Trot and Walk: a Trot edge, which the clock channel must have in this stride, that matches and lies far enough after the
last writes its state record, one too soon is counted, one of the other polarity does nothing; the end of a Walk period
writes a record where a state differs from the one last stored. -/
def Obligations.TrotAndWalkWriteTheirRecords : Prop :=
  ∀ (s : State) (n : Stall) (c : Capture),
    (∀ (e : TrotEdge) (t : Time), openIn s n .trot = some c → t = s.tb.now + BitVec.ofNat 64 (32 * e.sample.val + e.fine.toNat) →
      (clockHas s (Fin.ofNat 48 c.arm.clockChan.toNat) e = false ∨ edgeMatches c.arm.clockEdge e.rising = false →
        exec (.trotClockEdge n e) s = .next s) ∧
      (clockHas s (Fin.ofNat 48 c.arm.clockChan.toNat) e = true → edgeMatches c.arm.clockEdge e.rising = true →
      (∀ l, c.lastClock = some l → (t - l).toNat < minEdge (1000 * c.arm.gaitParam.toNat) →
        exec (.trotClockEdge n e) s = .next (countOverrun s n c t) ∧
        (c.overruns = 0 → exec (.trotClockEdge n e) s = .next (modCap s n fun c => { c with overruns := 1, overrunAt := t }))) ∧
      ((∀ l, c.lastClock = some l → minEdge (1000 * c.arm.gaitParam.toNat) ≤ (t - l).toNat) →
        (storedAt c s.tb.now = false → exec (.trotClockEdge n e) s = .next (modCap s n fun x => { x with lastClock := some t })) ∧
        (storedAt c s.tb.now = true → exec (.trotClockEdge n e) s =
          .next (checkFull (trotRecord (modCap s n fun x => { x with lastClock := some t }) n c.teams e.sample.val t) n)) ∧
        (∀ delta : Nat, storedAt c s.tb.now = true → keyDue s c = false → oneShot c = false → c.part.length < 15 →
          delta = (t - c.chainTime).toNat → delta ≤ 1048575 →
          ∃ u, exec (.trotClockEdge n e) s = .next u ∧ u.stalls[n].cap = some { c with
            lastClock := some t, chainTime := t, part := c.part ++ [stateRec 3 (statesBefore s c.teams e.sample.val) delta] })))) ∧
    (openIn s n .walk = some c →
      exec (.walkPeriodEnd n) s = .next (checkFull (walkEnd (applyStoreOn s n) n) n) ∧
      (∀ (k : Nat) (m : ChanMask), s.stalls[n].eng.storePend = none → oneShot c = false →
        k = (relStride c s.tb.now / (walkPeriod c : Int)).toNat → m = stateBefore s c.teams →
        (walkBoundary c s.tb.now = false ∨ k ≤ c.walkIdx → exec (.walkPeriodEnd n) s = .next s) ∧
        (walkBoundary c s.tb.now = true → c.walkIdx < k → keyDue s c = false → storedAt c (s.tb.now - 256) = true → c.hasKey = true →
          (m = c.walkStates → exec (.walkPeriodEnd n) s = .next (modCap s n fun c => { c with walkIdx := k })) ∧
          (m ≠ c.walkStates → c.part.length < 15 → ∃ u, exec (.walkPeriodEnd n) s = .next u ∧ u.stalls[n].cap = some { c with
            walkIdx := k, chainTime := s.tb.now, walkStates := m
            part := c.part ++ [stateRec 4 m (strideOf (s.tb.now - c.chainTime) / walkPeriod c)] }))))

/-- A segment closes after the last stride of its fill, a Gallop segment at the end of the furlong of that moment; when its
closing furlong is whole the segment is held with its header and the re-arm of 17 strides begins; it is reported, oldest
first, when every block and the header are acknowledged; and the next one opens when it is due and has room, else the arm
ends. -/
def Obligations.SegmentsCloseAndOpen : Prop :=
  ∀ (s : State) (n : Stall),
    (∀ c : Capture, s.stalls[n].cap = some c →
      (fillOver s c = true → exec (.postTriggerFillEnd n) s = .next (closeFill s n c)) ∧
      (∀ x : Trig, fillOver s c = true → c.seg.trig = some x → c.arm.gait = .gallop →
        ∃ u, exec (.postTriggerFillEnd n) s = .next u ∧ u.stalls[n].eng.running = false ∧ u.stalls[n].eng.storePend = none ∧
          u.stalls[n].cap = some { c with
            phase := .closing, closeCause := some 1
            lastStride := c.openAt + strides (((relStride c x.fillEnd).toNat / furlongStrides c + 1) * furlongStrides c) - 256 }) ∧
      (fillOver s c = false → exec (.postTriggerFillEnd n) s = .next s) ∧
      (furlongDone c = false → exec (.gallopFurlongClose n) s = .next s) ∧
      (furlongDone c = true → exec (.gallopFurlongClose n) s = .next (tryFinish (closeFurlong s n) n)) ∧
      (furlongDone c = true → c.ended = none → c.arm.segments = 0 → ∃ u d x, exec (.gallopFurlongClose n) s = .next u ∧
        u.stalls[n].cap = some d ∧ d.phase = .rearm ∧ d.openAt = c.lastStride + strides 18 ∧ d.closeCause.isSome = true ∧
        u.stalls[n].held = s.stalls[n].held ++ [x] ∧ x.num = c.seg.num ∧ x.endTime = c.lastStride + 256 ∧
        x.cause = (c.closeCause.getD 0) ∧ u.stalls[n].eng.running = false) ∧
      (∀ (seed : SeedIn) (u : State) (ring : Option Nat), openDue s c = true → makeRoom (applyRetire s n) n c 0 = (u, ring) →
        (ring = none → exec (.segmentOpen n seed) s = .next (settleIdle (tryFinish (markEnd u n 2) n) n seed)) ∧
        (∀ k, ring = some k → exec (.segmentOpen n seed) s = .next (openSegment u n seed k))) ∧
      (∀ seed : SeedIn, openDue s c = false → exec (.segmentOpen n seed) s = .next s) ∧
      (∀ seed : SeedIn, openDue s c = true → s.dram.retirePend = [] → c.arm.region ≠ 0 → c.arm.wrap = false →
        1 + c.arm.region ≤ freeBlocks s n → (liveSegs s n).length < 2 ^ 20 →
        ∃ u d, exec (.segmentOpen n seed) s = .next u ∧ u.stalls[n].st = .capturing ∧ u.stalls[n].cap = some d ∧ d.phase = .running ∧
          d.openAt = s.tb.now ∧ d.segNo = c.segNo + 1 ∧ d.seg.num = BitVec.ofNat 20 c.segNo ∧ d.seg.ring = c.arm.region)) ∧
    (∀ (seed : SeedIn) (x : Seg), (s.stalls[n].held.find? fun x => !x.closed) = some x →
      (x.unacked ≠ 0 ∨ x.hdrAcked = false → exec (.segmentClosed n seed) s = .next s) ∧
      (x.unacked = 0 → x.hdrAcked = true → ∀ u : State, u = modStall s n (fun y => { y with
          segsClosed := satAdd 32 y.segsClosed 1
          held := (y.held.map fun h => if h.uid = x.uid then { h with closed := true } else h).filter fun h => !(h.closed && h.gone) }) →
        exec (.segmentClosed n seed) s =
          .next (settleIdle (tryFinish (sendHeld (flushMarks (sendEvent u n (closedEvent u n x)) n x.num) n) n) n seed) ∧
        (∀ c : Capture, s.stalls[n].cap = some c → c.phase = .running → c.ended = none → c.flush = [] → c.heldTrigger = [] →
          exec (.segmentClosed n seed) s = .next (sendEvent u n (closedEvent u n x)))))

/-- A recognised plug powers the port, but for one of no watched team in Dikewatch (R508), and its descriptor is read and
reported after the settling; an unplug or an overcurrent forces the port's channels to 0 with their latches clear and
switches Pp_PWR off; a spur press is reported to the stalls of the port (that a plug which finds the channels unforced
forces them until their release is log entry 253). -/
def Obligations.PodsAndSpursAreRecognised : Prop :=
  ∀ (s : State) (p : Fin 6) (t : Time),
    (recognises s = true → s.ports[p].present = false → s.ports[p].seenHigh = true → s.power.st ≠ .dormant →
      ∃ u, exec (.podPlug p t) s = .next u ∧ u.ports[p].present = true ∧ u.ports[p].pwr = mayPower s p ∧ u.ports[p].phase = .settling ∧
        u.ports[p].plugTime = t ∧ ∀ c : Fin 48, (c.val / 8 ≠ p.val → u.chans[c] = s.chans[c]) ∧
          (c.val / 8 = p.val → u.chans[c].forced = true)) ∧
    (s.ports[p].phase = .settling → s.ports[p].pwr = true → s.power.st ≠ .dormant →
      exec (.podPwrSettled p) s = .next (modPort s p fun x => { x with phase := .reading })) ∧
    (∀ (bytes : Option (List Byte)) (seed : SeedIn), s.ports[p].phase = .reading → s.power.st ≠ .dormant →
      exec (.podDescriptorRead p bytes seed) s = .next (releaseIdle (reportPlug s p bytes) p seed) ∧
      ∃ u, exec (.podDescriptorRead p bytes seed) s = .next u ∧ u.ports[p].phase = .idle ∧
        u.ports[p].desc = (readDescriptor bytes).1 ∧ u.ports[p].descState = (readDescriptor bytes).2) ∧
    (∀ (i : Instr), (i = .podUnplug p t ∧ recognises s = true ∧ s.ports[p].present = true ∧ s.power.st ≠ .dormant) ∨
        (i = .podOvercurrent p t ∧ s.ports[p].pwr = true) →
      ∃ u, exec i s = .next u ∧ u.ports[p].present = false ∧ u.ports[p].pwr = false ∧
        ∀ c : Fin 48, (c.val / 8 ≠ p.val → u.chans[c] = s.chans[c]) ∧
          (c.val / 8 = p.val → u.chans[c].forced = true ∧ u.chans[c].level = false ∧ u.chans[c].trans = 0 ∧
            u.chans[c].above = false ∧ u.chans[c].below = false ∧ u.chans[c].band = false ∧ u.chans[c].open_ = false)) ∧
    (recognises s = true → s.ports[p].spur = false → s.power.st ≠ .dormant →
      (s.ports[p].present = false → exec (.spurPress p t) s = .next (modPort s p fun x => { x with spur := true })) ∧
      (s.ports[p].present = true →
        exec (.spurPress p t) s = .next (raiseSpur (reportSpur (modPort s p fun x => { x with spur := true }) p t) p) ∧
        ∃ u, exec (.spurPress p t) s = .next u ∧ u.ports[p].spur = true ∧ u.chans = s.chans ∧ ∀ q : Fin 6, q ≠ p → u.ports[q] = s.ports[q])) ∧
    exec (.spurRelease p) s = .next (modPort s p fun x => { x with spur := false })

/-- The monitor: a long gate beyond ±50 ppm, a fast gate beyond ±1000 ppm and a loss disqualify their reference; a long gate
within its limits counts towards qualification and the choice is made anew; after 60 s of holdover the always-on clock
steers. A disqualified reference is no longer qualified, and is not the one in use. A lock loss while the timebase runs sets
`bypass`, reports the relock, closes every capture with cause 0x05 `relock` and reason 6, stops every engine and every
chain, and drives TRIG_OUT low. Of the one capture that is armed: a Gallop segment that is open stores on to the end of its
furlong with that cause, a typed one is held with it, or all of it was acknowledged already and the capture is over. The end
of the relock clears `bypass` and lets the channels be sampled anew (log entry 290), but in Dikewatch, where the clocks stay
bypassed. The loss of the always-on clock sets `aon_fault` and stops the gates, and its return clears it and starts them. -/
def Obligations.ReferencesAreJudgedAndLockIsWatched : Prop :=
  (
  ∀ (s : State) (b : Bool) (count : Nat), s.tb.gatesRun = true →
    (s.tb.timeValid = true → 5000 < ((count : Int) - 100000000).natAbs → ∃ u, exec (.longGateEnd b count) s = .next u ∧
      u = disqualify (modMon s b fun m => { m with offset := longOffset count }) b (longOffset count) ∧
      (monOf u.tb b).qualified = false ∧ (monOf u.tb b).within30 = 0 ∧ (monOf u.tb b).offset = longOffset count ∧
      u.tb.selected ≠ refOf b ∧ monOf u.tb (!b) = monOf s.tb (!b)) ∧
    (s.tb.timeValid = true → ((count : Int) - 100000000).natAbs ≤ 5000 → ∃ u v, exec (.longGateEnd b count) s = .next u ∧
      u = reselect (warnStep v b ((count : Int) - 100000000).natAbs) ∧ monOf u.tb b = monOf v.tb b ∧
      (monOf u.tb b).offset = longOffset count ∧ (monOf u.tb b).passOffset = longOffset count ∧
      (monOf u.tb b).within30 = (if ((count : Int) - 100000000).natAbs ≤ 3000 then min 10 ((monOf s.tb b).within30 + 1) else 0) ∧
      ((monOf u.tb b).qualified = true ↔ (monOf s.tb b).qualified = true ∨ (monOf u.tb b).within30 = 10) ∧
      monOf u.tb (!b) = monOf s.tb (!b) ∧ u.tb.selected = preferred u.tb) ∧
    (390625 < (4 * (count : Int) - 390625).natAbs * 1000 → ∃ u, exec (.fastGateEnd b count) s = .next u ∧
      u = disqualify s b (fastOffset count) ∧ (monOf u.tb b).qualified = false ∧ (monOf u.tb b).gateOk = false ∧
      monOf u.tb (!b) = monOf s.tb (!b)) ∧
    ((4 * (count : Int) - 390625).natAbs * 1000 ≤ 390625 →
      exec (.fastGateEnd b count) s = .next (modMon s b fun m => { m with gateOk := true })) ∧
    (s.power.st ≠ .dormant → exec (.referenceLoss b) s = .next (disqualify s b (monOf s.tb b).offset)) ∧
    (s.tb.holdover = true → exec .holdover60s s = .next { s with tb := { s.tb with aonSteered := true } })) ∧
  (
  ∀ (s : State) (b : Bool), s.tb.timeValid = true → s.power.st ≠ .dormant →
    ∃ u, exec (.referenceLoss b) s = .next u ∧ (monOf u.tb b).qualified = false ∧ u.tb.selected ≠ refOf b ∧
      (monOf u.tb (!b)) = monOf s.tb (!b)) ∧
  (
  ∀ (s : State),
    (s.tb.timeValid = true → s.tb.bypass = false →
      (∀ w : State, w = allStalls.foldl (fun s n => stopEngine s n)
          (stopChains (closeAll (startRelock { s with tb := { s.tb with bypass := true } }) 0x05 6) 0xFF) →
        exec .pllLockLoss s = .next { w with pins := { w.pins with trigOut := false } }) ∧
      (∃ u, exec .pllLockLoss s = .next u ∧ u.tb.bypass = true ∧ u.pins.trigOut = false ∧ (∀ n : Stall, u.stalls[n].eng.running = false) ∧
        (∀ k : Fin 8, u.chains[k].stopped = true ∧ u.chains[k].producing = false)) ∧
      (∀ (n : Stall) (c : Capture), armedStalls s = [n] → s.stalls[n].cap = some c → c.phase = .running → c.ended = none →
        fillOver s c = false → ∃ u, exec .pllLockLoss s = .next u ∧
          (c.arm.gait = .gallop → ∃ d, u.stalls[n].cap = some d ∧ d.phase = .closing ∧ d.closeCause = some 5 ∧ d.ended = some 6) ∧
          (c.arm.gait ≠ .gallop → u.stalls[n].cap = none ∨ ∃ d x, u.stalls[n].cap = some d ∧ d.phase = .rearm ∧ d.closeCause = some 5 ∧
            d.ended = some 6 ∧ u.stalls[n].held.getLast? = some x ∧ x.cause = 5))) ∧
    ((s.tb.timeValid = false ∨ s.tb.bypass = true) → exec .pllLockLoss s = .next s) ∧
    (s.tb.bypass = true → s.power.st ≠ .dikewatch →
      exec .relockDone s = .next (tbEvent
        { s with tb := { s.tb with bypass := false }, chans := s.chans.map (sampleAnew s.tb.now) } 6 (offsetOf s.tb s.tb.selected))) ∧
    ((s.tb.bypass = false ∨ s.power.st = .dikewatch) → exec .relockDone s = .next s) ∧
    exec .aonClockLoss s = .next { s with tb := { s.tb with aonFault := true, gatesRun := false } } ∧
    (s.tb.aonFault = true → exec .aonClockRestored s = .next { s with tb := { s.tb with aonFault := false, gatesRun := true } }))

/-! ## Links and chains, DRAM, uploads and playback -/

/-- A SYSREF edge fixes a link's boundaries, and a later one beyond 32 ticks of a period sets `sysref_error`. A SYNC edge
asks for a sync instant 32 strides after its stride; at the instant every request that gives it is served once, and the
chains that no request names stand. A link comes up with alignment on every lane and, in JESD204B, matching ILAS parameters,
and is lost for a lane without alignment; its frames are counted, and an erroneous one is replaced. An output emerges in its
stride when its samples are there, else it counts as a restart; a detector's window likewise; a cycle begins and ends at the
edges of its source, or ends after 2^30 strides; the autofreeze ends when its hold has passed. Each changes its own chain
only, but that a side record which fills a segment of all free space closes it and takes the side samples of the stall's
other chains with it. -/
def Obligations.SyncInstantsLinksAndChainsFollowTheirRules : Prop :=
  (
  ∀ (s : State),
    (∀ t e : Time, s.tb.timeValid = true → e = t &&& ~~~ (31 : Time) →
      exec (.sysrefEdge t) s = .next ([0, 1].foldl (sysrefOn e) s) ∧
      (∃ u, exec (.sysrefEdge t) s = .next u ∧ u.chains = s.chains ∧ ∀ l : Fin 2,
        (linkEnable s.links[l].setting = false → u.links[l] = s.links[l]) ∧
        (linkEnable s.links[l].setting = true → s.links[l].sysrefSeen = false →
          u.links[l] = { s.links[l] with sysrefSeen := true, boundary := e, frame := 0 }) ∧
        (linkEnable s.links[l].setting = true → s.links[l].sysrefSeen = true → u.links[l] = s.links[l] ∧
          (edgeOff s.links[l] e < -32 ∨ 32 < edgeOff s.links[l] e → u.tb.sysrefError = true))) ∧
      (s.tb.bypass = false → exec (.syncEdge t) s = .next { s with tb := { s.tb with
        syncPending := s.tb.syncPending ++ [{ y := (t &&& ~~~ (255 : Time)) + strides 32, chains := syncChains s }] } })) ∧
    (∀ y : Time, nextSync s = some y → past s.tb.now y = false → s.tb.bypass = false →
      ∃ u, exec .syncInstant s = .next u ∧ u.tb = { s.tb with syncPending := s.tb.syncPending.filter fun r => r.y != y } ∧
        ∀ n : Fin 8, (∀ r ∈ s.tb.syncPending, r.y = y → bit r.chains n.val = false) → u.chains[n] = s.chains[n]) ∧
    (∀ (l : Fin 2) (aligned : BitVec 8) (ilas : Option Bool), linkEnable s.links[l].setting = true → s.links[l].up = false →
      (aligned &&& lanesOf s l ≠ lanesOf s l → exec (.linkUp l { lanes := aligned, ilas := ilas }) s = .next (modLink s l fun x => { x with
        aligned := aligned &&& lanesOf s l, phase := 1 })) ∧
      (aligned &&& lanesOf s l = lanesOf s l →
        (ilas = none → exec (.linkUp l { lanes := aligned, ilas := ilas }) s = .next (modLink s l fun x => { x with aligned := lanesOf s l, phase := 2 })) ∧
        (ilas = some false → linkC s.links[l].setting = false → exec (.linkUp l { lanes := aligned, ilas := ilas }) s = .next (modLink s l fun x => { x with
          ilasMismatch := true, aligned := lanesOf s l, phase := 2 })) ∧
        (ilas = some true ∨ (ilas = some false ∧ linkC s.links[l].setting = true) → ∃ u, exec (.linkUp l { lanes := aligned, ilas := ilas }) s = .next u ∧
          u.links[l].up = true ∧ u.links[l].phase = 3 ∧ u.links[l].ilasMismatch = false ∧ u.links[l].syncPin = true ∧
          u.links[l].aligned = lanesOf s l ∧ u.chains = s.chains))) ∧
    (∀ (l : Fin 2) (aligned : BitVec 8), s.links[l].up = true → lanesOf s l &&& ~~~ aligned ≠ 0 →
      ∃ u, exec (.linkLost l aligned) s = .next u ∧ u.links[l].up = false ∧ u.links[l].losses = satAdd 32 s.links[l].losses 1 ∧
        (∀ n : Fin 8, bit (linkChains s l) n.val = true → u.chains[n].stopped = true ∧ u.chains[n].producing = false) ∧
        ∀ n : Fin 8, bit (linkChains s l) n.val = false → u.chains[n] = s.chains[n]) ∧
    (∀ (l : Fin 2) (err : Bool) (v : List (BitVec 16)) (f : Nat), linkEnable s.links[l].setting = true → s.links[l].up = true →
      f = linkM s.links[l].setting * linkS s.links[l].setting → v ≠ [] → v.length % f = 0 →
      linkC s.links[l].setting = true ∨ v.length / f = 1 →
      (s.links[l].sysrefSeen = true → releaseTicks s.links[l].setting s.links[l].frame < ((s.tb.now - s.links[l].boundary).toInt : Rat) + 256) →
      ∃ u, exec (.jesdFrame l err v) s = .next u ∧
        u.links[l].frame = (if s.links[l].sysrefSeen then s.links[l].frame + v.length / f else 0) ∧
        u.links[l].replaced = (if err then satAdd 32 s.links[l].replaced 1 else s.links[l].replaced) ∧
        (s.links[l].sysrefSeen = false → u.chains = s.chains) ∧
        ∀ n : Fin 8, (∀ j, chainSource s n ≠ some (l, j)) → u.chains[n] = s.chains[n])) ∧
  (
  ∀ (s : State) (n : Fin 8) (lw : BitVec 128), linkOfChain s n = some lw →
    (chainRuns s.chains[n] = true → emerged s.tb.now (outputTime s.chains[n]) s.chains[n].delayO = true →
      (aroundPos s.chains[n] (outputPos lw s.chains[n] / 1024) = none → exec (.chainOutput n) s = .next (modChain s n fun c =>
        { c with m := c.m + 1, restarts := satAdd 32 c.restarts 1, anchorOut := true })) ∧
      (∀ l, aroundPos s.chains[n] (outputPos lw s.chains[n] / 1024) = some l →
        ∃ (v : BitVec 20 × Bool) (u w : State), v = sat20 (roundOpen (resample (outputPos lw s.chains[n] % 1024) l)) ∧
          u = modChain s n (fun c => { c with
            m := c.m + 1, producing := true, lastRestart := if c.producing then c.lastRestart else some (outputTime s.chains[n])
            saturations := if v.2 then satAdd 32 c.saturations 1 else c.saturations }) ∧
          w = emergeSample u n v.1 (outputTime s.chains[n]) false ∧
          exec (.chainOutput n) s = .next w ∧ w.chains[n].m = s.chains[n].m + 1 ∧ w.chains[n].producing = true ∧
          (∀ k : Fin 8, k ≠ n → sideless w.chains[k] = sideless s.chains[k]) ∧ (chainOwner s n = none → w = u))) ∧
    (∀ (a : DetAcc) (rest : List DetAcc), s.chains[n].detWin = a :: rest → chainRuns s.chains[n] = true → a.stop ≠ 0 →
      emerged s.tb.now a.stamp s.chains[n].delayD = true →
      (a.done = false → ∃ w, exec (.detectorOutput n) s = .next w ∧ w.chains[n].restarts = satAdd 32 s.chains[n].restarts 1 ∧
        w.chains[n].anchorDet = true ∧ w.stalls = s.stalls ∧ ∀ k : Fin 8, k ≠ n → w.chains[k] = s.chains[k]) ∧
      (a.done = true →
      ∃ (v : BitVec 20 × Bool) (u w : State), v = sat20 (detValue s.chains[n].setting a) ∧
        u = modChain s n (fun c => { c with
          detWin := rest, saturations := if v.2 then satAdd 32 c.saturations 1 else c.saturations }) ∧
        w = emergeSample u n v.1 a.stamp true ∧ exec (.detectorOutput n) s = .next w ∧ w.chains[n].detWin = rest ∧
        (∀ k : Fin 8, k ≠ n → sideless w.chains[k] = sideless s.chains[k]) ∧ (chainOwner s n = none → w = u))) ∧
    (∀ t e : Time, e = t &&& ~~~ (31 : Time) → chainRuns s.chains[n] = true → detMode s.chains[n].setting = 3 →
      past e (s.tb.now + 256) = true →
      (cycleEdgeAt s s.chains[n].setting e = false → (∀ a, s.chains[n].cycleFrom = some a → past e (a + longCycle) = true) →
        exec (.cycleEnd n t) s = .next (modChain s n id)) ∧
      (cycleEdgeAt s s.chains[n].setting e = true →
        (s.chains[n].cycleFrom = none → exec (.cycleEnd n t) s = .next (modChain s n fun c => cycleEdge lw c e) ∧
          (later e s.chains[n].t1 = true → exec (.cycleEnd n t) s = .next (modChain s n fun c =>
            { c with cycleFrom := some e, detWin := [{ first := firstCond lw c ((e - c.y).toInt : Rat) }] }))) ∧
        (∀ a, s.chains[n].cycleFrom = some a → past e (a + longCycle) = true →
          exec (.cycleEnd n t) s = .next (modChain s n fun c => cycleEdge lw c e) ∧
          (leads e a 256 = false → exec (.cycleEnd n t) s = .next (modChain s n fun c => { c with cycleMerges := satAdd 32 c.cycleMerges 1 })))) ∧
      (∀ a, s.chains[n].cycleFrom = some a → e = a + longCycle → past e (a + longCycle) = false →
        exec (.cycleEnd n t) s = .next (modChain s n fun c => endCycle lw { c with cycleForced := satAdd 32 c.cycleForced 1 } (a + longCycle)))) ∧
    (s.chains[n].frozenAuto = true → passed s.tb.now s.chains[n].lastBig (1024 * bits s.chains[n].setting 203 192) = true →
      exec (.dcFreezeHoldExpiry n) s = .next (modChain s n fun c => setFreeze c c.frozenCmd false)))

/-- The oldest block of a lane's slice goes to its bank queue when there is room and, for a header, no data block of its
segment waits; a block beyond the lane's memory, which no rule of the spec forms, stops with the model's own fault
`noSuchBlock`. A slot of a lane serves the choice of the controller, a write of a bank queue becoming a command of the retry
buffer, and a lane that may not be accessed gets none. The choice rests on log entry 269. -/
def Obligations.LanesTakeTheirWritesInOrder : Prop :=
  ∀ (s : State) (l : Fin 4),
    (∀ (b : FbBlock) (rest : List FbBlock), s.fbd.slices[l] = b :: rest → laneRuns s l = true →
      s.lanes[l].banks[bankOf s l b.blk].length < 8 → (b.part = .header → dataWaits s b.stall b.uid = false) →
      (laneAddr s b.blk < laneSize s.lanes[l] →
        exec (.laneWriteIssue l .clean) s = .next (issueBlock s l b rest false) ∧
        exec (.laneWriteIssue l .corrected) s = .next (issueBlock (countSram s 0) l b rest false) ∧
        exec (.laneWriteIssue l .uncorrectable) s = .next (issueBlock s l b rest true) ∧
        ∀ ecc, ∃ u, exec (.laneWriteIssue l ecc) s = .next u ∧ u.fbd.slices[l] = rest ∧ u.lanes[l].lastIssue = s.tb.now ∧
          u.lanes[l].banks[bankOf s l b.blk] = s.lanes[l].banks[bankOf s l b.blk] ++
            [{ blk := b.blk, recs := b.recs, owner := fbOwner b, bad := decide (ecc = .uncorrectable), when := s.tb.now }] ∧
          ∀ k : Fin 4, k ≠ l → u.lanes[k] = s.lanes[k] ∧ u.fbd.slices[k] = s.fbd.slices[k]) ∧
      (laneSize s.lanes[l] ≤ laneAddr s b.blk → ∀ ecc, exec (.laneWriteIssue l ecc) s = .fault .noSuchBlock)) ∧
    (∀ (b : FbBlock) (rest : List FbBlock) (ecc : Ecc), s.fbd.slices[l] = b :: rest → b.part = .header →
      dataWaits s b.stall b.uid = true → exec (.laneWriteIssue l ecc) s = .next s) ∧
    (laneOpen s l = true →
      exec (.dramSchedule l) s = .next (slotStep (modLane s l fun x => { x with slot := x.slot + 1 }) l) ∧
      ∀ x : Lane, x = settled s.tb.now { s.lanes[l] with slot := s.lanes[l].slot + 1 } →
        (mayActivate x = false → exec (.dramSchedule l) s = .next (modLane s l fun _ => x)) ∧
        (mayActivate x = true → x.replaying = [] → x.nrDue ≠ [] → exec (.dramSchedule l) s = .next (modLane s l fun _ => x)) ∧
        (∀ (i : Fin 16) (w : WrReq) (q : List WrReq), mayActivate x = true → x.replaying = [] → x.nrDue = [] → x.retry.length < 64 →
          leavesRead (modLane s l fun _ => x) l = false → pick (modLane s l fun _ => x) l = .bank i → x.banks[i] = w :: q →
          ∃ u, exec (.dramSchedule l) s = .next u ∧ u.lanes[l].banks[i] = q ∧ u.lanes[l].bankRot = (i.val + 1) % 16 ∧
            u.lanes[l].reading = false ∧ u.lanes[l].retry = x.retry ++ [{ id := x.nextId, wr := some w, rd := none, when := s.tb.now }] ∧
            ∀ k : Fin 4, k ≠ l → u.lanes[k] = s.lanes[k])) ∧
    (laneOpen s l = false → exec (.dramSchedule l) s = .next s)

/-- An acknowledged write is in DRAM: its block reads as the records written, every byte outside the block as before, and
the lane holds the command no longer; a failed lane stores nothing. A read whose beats come without a flipped bit gives the
records that the block holds. -/
def Obligations.AcknowledgedWritesReadBack : Prop :=
  ∀ (s : State) (l : Fin 4) (c : LaneCmd),
    (∀ (id : Nat) (w : WrReq), (s.lanes[l].retry.find? fun c => c.id == id) = some c → c.wr = some w → s.lanes[l].alert = false →
      s.lanes[l].replaying.contains id = false → beatsPast s.tb.now s.lanes[l] c = true →
      (∀ d ∈ s.lanes[l].retry, d.id < id → ∀ v, d.wr = some v → v.blk ≠ w.blk) → memWf s.dram.mem = true → w.recs.length = 16 →
      ∃ u, exec (.writeAck l id) s = .next u ∧ (∀ k ∈ u.lanes[l].retry, k.id ≠ id) ∧
        (s.lanes[l].failed = true → u.dram.mem = s.dram.mem) ∧
        (s.lanes[l].failed = false → blockRead u.dram.mem w.blk = w.recs ∧
          ∀ a, a < 144 * w.blk ∨ 144 * w.blk + 144 ≤ a → memRead u.dram.mem a = memRead s.dram.mem a)) ∧
    (∀ q : RdReq, laneRuns s l = true → s.lanes[l].answered = [] → (s.lanes[l].retry.find? fun c => c.rd.isSome && !c.done) = some c →
      c.rd = some q → s.lanes[l].alert = false → s.lanes[l].replaying.contains c.id = false → s.lanes[l].failed = false →
      s.dram.bad.contains q.blk = false → ∀ u : State, u = modLane s l (fun x =>
        { x with retry := x.retry.map fun k => if k.id = c.id then { k with done := true } else k }) →
      exec (.dramReadData l []) s = .next (deliver u l q (some (blockRead s.dram.mem q.blk))) ∧
      (q.owner = .scrub → exec (.dramReadData l []) s = .next (scrubOn u l)) ∧
      (∀ (n : Stall) (k : Nat), q.owner = .play n k → k < s.stalls[n].ref.asked →
        s.stalls[n].ref.came.any (fun b => b.k == k) = false → s.stalls[n].ref.slice.any (fun b => b.k == k) = false →
        exec (.dramReadData l []) s = .next (modRef u n fun r =>
          { r with came := r.came ++ [{ k := k, recs := blockRead s.dram.mem q.blk, bad := false }] })))

/-- A due refresh, the temperature reading, the activate table and its neighbour refreshes, and the drift check of a lane,
which makes a correction due beyond 1/16 of a unit interval (two occurrences of the one row, log entry 293); a lane whose
blocks wait without a write for 20 µs is reported, the captures close and its data blocks are given up. -/
def Obligations.LanesAreRefreshedAndWatched : Prop :=
  ∀ (s : State) (l : Fin 4),
    (s.lanes[l].usable = true → s.dram.selfRefresh = false → s.lanes[l].alert = false → s.lanes[l].replaying = [] →
      past s.tb.now s.lanes[l].nextRefresh = false →
      exec (.dramRefresh l) s = .next (modLane s l fun x => { x with
        refreshes := x.refreshes + 1, nextRefresh := refreshPoint s.dram.refreshBase l x.hot (x.nextRefresh + BitVec.ofNat 64 (refi x.hot))
        stopUntil := s.tb.now + refreshStop x, reading := false, readRun := 0 })) ∧
    (past s.tb.now s.lanes[l].nextRefresh = true → exec (.dramRefresh l) s = .next s) ∧
    (∀ temps : Vector CompTemp 5, (laneOpen s l = false ∨ s.lanes[l].replaying ≠ [] → exec (.mr4Read l temps) s = .next s) ∧
      (laneOpen s l = true → s.lanes[l].replaying = [] → (∀ i : Fin 5, temps[i] ≠ .beyond) →
        ((∀ i : Fin 5, temps[i] = .normal) →
          exec (.mr4Read l temps) s = .next (modLane s l fun x => { makeCool s x with slot := x.slot + 5 }) ∧
          (s.lanes[l].hot = false → s.lanes[l].coolSince = none → ∃ u, exec (.mr4Read l temps) s = .next u ∧
            u.lanes[l] = { s.lanes[l] with slot := s.lanes[l].slot + 5 })) ∧
        ((∃ i : Fin 5, temps[i] ≠ .normal) → ∃ u, exec (.mr4Read l temps) s = .next u ∧
          u = modLane s l (fun x => { makeHot s x with slot := x.slot + 5 }) ∧ u.lanes[l].hot = true ∧ u.lanes[l].coolSince = none))) ∧
    exec (.nrTableClear l) s = .next (modLane s l fun x => { x with nrTable := [], nrFloor := 0 }) ∧
    (∀ (row : BitVec 21) (rest : List (BitVec 21)), s.lanes[l].nrDue = row :: rest → laneOpen s l = true → s.lanes[l].replaying = [] →
      (s.lanes[l].acts.filter fun k => s.lanes[l].slot < k + 25).length +
        (neighbours (rowsOf s.lanes[l]) (bits row 16 0)).length ≤ 22 →
      ∃ u, exec (.neighbourRefresh l) s = .next u ∧ u.lanes[l].nrDue = rest ∧ u.lanes[l].nrCount = satAdd 32 s.lanes[l].nrCount 1 ∧
        u.lanes[l].slot = s.lanes[l].slot + 8 ∧ ∀ k : Fin 4, k ≠ l → u.lanes[k] = s.lanes[k]) ∧
    (∀ drift d : Rat, d = s.lanes[l].drift + drift →
      (∀ t, s.lanes[l].fixAt = some t → past s.tb.now t = false → mayMaintain s l 400 = true →
        exec (.dqsOscCheck l drift) s = .next (modLane s l fun x => { x with
          drift := 0, fixAt := none, lastFix := some s.tb.now, corrections := satAdd 32 x.corrections 1
          stopUntil := s.tb.now + strides 400, reading := false, readRun := 0 })) ∧
      ((∀ t, s.lanes[l].fixAt = some t → past s.tb.now t = true ∨ mayMaintain s l 400 = false) →
        (past s.tb.now s.lanes[l].nextDqs = true ∨ mayMaintain s l 120 = false → exec (.dqsOscCheck l drift) s = .next s) ∧
        (past s.tb.now s.lanes[l].nextDqs = false → mayMaintain s l 120 = true →
          s.lanes[l].driftTrain + drift ≤ 1 / 4 → -1 / 4 ≤ s.lanes[l].driftTrain + drift →
          exec (.dqsOscCheck l drift) s = .next (modLane s l fun x => { x with
            drift := d, driftTrain := x.driftTrain + drift, nextDqs := s.tb.now + strides (2 * ms)
            fixAt := if 1 / 16 < d ∨ d < -1 / 16 then some (x.fixAt.getD (fixDue s.tb.now x)) else none
            stopUntil := s.tb.now + strides 120, reading := false, readRun := 0 })))) ∧
    (s.lanes[l].usable = true → s.dram.selfRefresh = false → s.fbd.slices[l] ≠ [] → passed s.tb.now s.lanes[l].lastIssue 20000 = true →
      ∃ u, exec (.laneFault l) s = .next u ∧ u = dramEvent (giveUp (closeAll s 0x08 7) l) (armedStalls s) 1 l 0 ∧
        ∀ b ∈ u.fbd.slices[l], b.part = .header)

/-- ALERT_n: a fall stops the lane; a rise starts the replay of every command not acknowledged, oldest first. An unstable
lane whose freeboard has drained goes on at a lower grade or fails. A soft repair starts while nothing captures, is about to
or plays, and ends with the breach map telling of it (log entry 271); a parcel wiped on every lane becomes free; the patrol
asks for the read of its next block. -/
def Obligations.LanesReplayRepairAndWipe : Prop :=
  ∀ (s : State) (l : Fin 4),
    (laneRuns s l = true → s.lanes[l].alert = false → (∀ c ∈ s.lanes[l].retry, c.again < 3) →
      ∃ u, exec (.alertNFall l) s = .next u ∧ u.lanes[l].alert = true ∧ u.lanes[l].reading = false ∧ u.lanes[l].replaying = [] ∧
        laneOpen u l = false ∧ ∀ k : Fin 4, k ≠ l → u.lanes[k] = s.lanes[k]) ∧
    (s.lanes[l].alert = true → (s.lanes[l].replayTimes.filter fun t => !passed s.tb.now t ms).length < 32 →
      ∃ u, exec (.alertNRise l) s = .next u ∧ u.lanes[l].alert = false ∧ u.lanes[l].replays = satAdd 32 s.lanes[l].replays 1 ∧
        u.lanes[l].replaying = (s.lanes[l].retry.map fun c => c.id) ∧ u.lanes[l].retry = s.lanes[l].retry ∧
        ∀ k : Fin 4, k ≠ l → u.lanes[k] = s.lanes[k]) ∧
    (laneRuns s l = true → s.lanes[l].unstable = true → s.lanes[l].failed = false → drained s = true →
      (∃ u, exec (.laneDemote l none) s = .next u ∧ u = failLane s l ∧ u.lanes[l].failed = true ∧ u.dram.admFail = true) ∧
      ∀ v : BitVec 2, v < s.lanes[l].speed → ∃ u, exec (.laneDemote l (some v)) s = .next u ∧ u = slowLane s l v ∧
        u.lanes[l].speed = v ∧ u.lanes[l].unstable = false) ∧
    (∀ (r : Repair) (rest : List Repair), s.dram.repairQ = r :: rest → s.dram.repairing = none →
      (∀ n : Stall, capturing s n = false ∧ opensSoon s n = false ∧ s.stalls[n].ref.play = none) → laneRuns s r.lane = true →
      s.lanes[r.lane].alert = false → repairWaits s r = false →
      exec .softRepair s = .next (rowToBuffer { s with dram := { s.dram with repairing := some r, repairQ := rest } } r.lane r.row)) ∧
    (∀ (r : Repair) (flips : List (List (BitVec 80))), s.dram.repairing = some r → s.jobs.waitArms = [] → s.jobs.waitKeys = [] →
      ∃ u, exec (.softRepairEnd flips) s = .next u ∧ u.dram.repairing = none ∧ u.stalls = s.stalls ∧ u.lanes[r.lane].repairBuf = [] ∧
        (s.flash.breach.length < 1024 → ∃ b ∈ u.flash.breach, b.lane = r.lane ∧ b.row = r.row ∧ b.state = 1)) ∧
    (∀ (p : Fin 4096) (q : WipeReq) (rest : List WipeReq), s.dram.wipeQ = q :: rest → q.parcel = p.val →
      (usableLanes s).all (fun l => wipedOn s l q.parcel) = true →
      ∃ u, exec (.wipeParcelDone p) s = .next u ∧ u.dram.wipeQ = rest ∧ u.dram.mem = s.dram.mem) ∧
    (laneRuns s l = true → s.lanes[l].failed = false →
      ∀ ago : BitVec 8, (s.lanes[l].scrubbing.isSome = true → exec (.scrubStep l ago) s = .next s) ∧
        ∀ blk : Nat, s.lanes[l].scrubbing = none → blk = s.lanes[l].scrubAddr * (usableLanes s).length + laneIndex s l →
          exec (.scrubStep l ago) s = .next (modLane s l fun x =>
            { x with scrubbing := some blk, scrubStale := false, p3r := [{ blk := blk, owner := .scrub, when := s.tb.now - ago.zeroExtend 64 }] }))

/-- The chunk that an upload reads is framed, or waits for a compressor; the compressor's chunk, which must spell the chunk,
is written; an uncorrectable word ends a job; a bale that a decompressor ends in error ends its load with the error's
status, and one that passes is taken. A timed start of playback runs in its stride and not before; blocks that came fill the
slice; a reference compared to its end ends; and playback that needs a block the slice does not hold aborts. The fill goes
by whole batches (log entry 272). -/
def Obligations.UploadsLoadsAndPlaybackGoOn : Prop :=
  (
  ∀ (s : State),
    (∀ (n : Stall) (u v : UploadJob) (k : State), chunkCome s n = some u → u.ended = false →
      v = { u with reqd := 0, got := [], crc := crc32cFrom u.crc (chunkBytes u), read := u.read + (chunkBytes u).length } →
      k = putJob (modOutst s u.fn u.tag fun o => { o with done := u.read + (chunkBytes u).length }) u v →
      (u.mode ≠ 0 → exec (.uploadChunkRead n) s = .next (uploadsGoOn (putJob k v { v with recs := chunkBytes u }))) ∧
      (u.mode = 0 → exec (.uploadChunkRead n) s = .next (uploadsGoOn (writeChunk k v ((chunkBytes u).length / 144)
        (storedBlock (u.pos + (chunkBytes u).length / 144 == ((u.bales.head?.map fun b => b.blocks.length).getD 0)) (chunkBytes u))))) ∧
      (u.mode = 0 → s.jobs.uploads = [u] → u.cancel = [] → sglTotal u < u.off + 32 + u.clen +
          (storedBlock (u.pos + (chunkBytes u).length / 144 == ((u.bales.head?.map fun b => b.blocks.length).getD 0)) (chunkBytes u)).length →
        ∃ w, exec (.uploadChunkRead n) s = .next w ∧ w.jobs.uploads = [] ∧ w.lanes = s.lanes)) ∧
    (∀ (k : Fin 4) (block : List Bool) (u : UploadJob), (s.jobs.uploads.find? fun u => u.comp == some k && u.recs != []) = some u →
      exec (.compressorChunkDone k block .uncorrectable) s = .next (uploadsGoOn (endUpload s u .dataError)) ∧
      (s.jobs.uploads = [u] → u.cancel = [] → u.ended = false → ∃ w, exec (.compressorChunkDone k block .uncorrectable) s = .next w ∧
        w.jobs.uploads = [] ∧ w.lanes = s.lanes) ∧
      (∀ (last : Bool) (l bits : List Bool) (v : UploadJob), u.ended = false →
        last = (u.pos + u.recs.length / 144 == ((u.bales.head?.map fun b => b.blocks.length).getD 0)) →
        (chunkFits u block last = false → exec (.compressorChunkDone k block .clean) s = .next s) ∧
        (chunkFits u block last = true → l = u.bitRest ++ block → bits = (if last then l else l.take (l.length / 8 * 8)) →
          v = { u with bitRest := if last then [] else l.drop (l.length / 8 * 8) } →
          exec (.compressorChunkDone k block .clean) s = .next (uploadsGoOn (writeChunk (putJob s u v) v (u.recs.length / 144)
            (bytesOfBits (l.length / 8 + 1) bits)))))) ∧
    (∀ (d : Fin 2) (j : LoadJob) (off ulen : Nat) (crc : BitVec 32) (rest : List (Nat × Nat × BitVec 32)),
      (s.jobs.loads.find? fun j => j.dec == some d) = some j → j.bales = (off, ulen, crc) :: rest →
      (∀ st, baleOut ((j.data.drop off).take (j.clens.headD 0)) ulen crc = .error st →
        exec (.decompressorBaleDone d .clean) s = .next (giveDecs (endLoad s j st {})) ∧
        ∃ w, exec (.decompressorBaleDone d .clean) s = .next w ∧ w.stalls[j.stall].ref.loading = false) ∧
      (exec (.decompressorBaleDone d .uncorrectable) s = .next (giveDecs (endLoad s j .dataError {}))) ∧
      (∀ out, baleOut ((j.data.drop off).take (j.clens.headD 0)) ulen crc = .ok out →
        exec (.decompressorBaleDone d .clean) s = .next (takeBale s j out) ∧
        (rest ≠ [] → ∃ w, exec (.decompressorBaleDone d .clean) s = .next w ∧
          { j with bales := rest, clens := j.clens.drop 1, out := j.out ++ out } ∈ w.jobs.loads)))) ∧
  (
  ∀ (s : State) (n : Stall),
    (s.stalls[n].ref.timed = none → exec (.playbackTimedStart n) s = .next s) ∧
    (∀ t : TimedStart, s.stalls[n].ref.timed = some t →
      (past s.tb.now t.when = true → exec (.playbackTimedStart n) s = .next s) ∧
      (past s.tb.now t.when = false →
        exec (.playbackTimedStart n) s = .next (startPlay (modRef s n fun r => { r with timed := none }) n t) ∧
        (s.stalls[n].ref.play.isSome = true → exec (.playbackTimedStart n) s =
          .next (modRef s n fun r => { r with timed := none, ignored := satAdd 32 r.ignored 1 })) ∧
        (s.stalls[n].ref.play = none → startFault s n = none → ∃ u, exec (.playbackTimedStart n) s = .next u ∧
          u.stalls[n].ref.timed = none ∧ u.stalls[n].ref.play = some { first := t.when, refValue := t.value } ∧
          u.stalls[n].ref.starts = satAdd 32 s.stalls[n].ref.starts 1) ∧
        (∀ k, s.stalls[n].ref.play = none → startFault s n = some k → ∃ u, exec (.playbackTimedStart n) s = .next u ∧
          u.stalls[n].ref.timed = none ∧ u.stalls[n].ref.play = none))) ∧
    (s.stalls[n].ref.came ≠ [] →
      exec (.playbackStagingRefill n .clean) s = .next (drainSlice (modRef s n fun r => moveStaged .clean r.came.length r) n) ∧
      exec (.playbackStagingRefill n .corrected) s =
        .next (drainSlice (modRef (countSram s 5) n fun r => moveStaged .corrected r.came.length r) n) ∧
      exec (.playbackStagingRefill n .uncorrectable) s =
        .next (drainSlice (modRef s n fun r => moveStaged .uncorrectable r.came.length r) n)) ∧
    (∀ b : StagedBlock, s.stalls[n].ref.came = [b] → b.k = nextStaged s.stalls[n].ref → s.stalls[n].ref.play = none →
      ∃ u, exec (.playbackStagingRefill n .clean) s = .next u ∧ u.stalls[n].ref.came = [] ∧
        u.stalls[n].ref.slice = s.stalls[n].ref.slice ++ [b]) ∧
    (s.stalls[n].ref.came = [] → ∀ ecc, exec (.playbackStagingRefill n ecc) s = .next s) ∧
    (s.stalls[n].ref.play = none → exec (.playbackEnd n) s = .next s) ∧
    (∀ p : Playback, s.stalls[n].ref.play = some p →
      (past s.tb.now (playStop s.stalls[n].ref p) = false → ∃ u, exec (.playbackEnd n) s = .next u ∧
        u = endPlayback (refMarker s n 1 p.refValue (playStop s.stalls[n].ref p)) n ∧ u.stalls[n].ref.play = none) ∧
      (past s.tb.now (playStop s.stalls[n].ref p) = true → exec (.playbackEnd n) s = .next s) ∧
      (∀ k, past s.tb.now p.first = false → playSample s p < s.stalls[n].ref.length → p.next ≠ playSample s p + 8 →
        missingBlock s.stalls[n].ref (playSample s p) = some k → ∃ u, exec (.playbackUnderrun n) s = .next u ∧
        u = underrun s n p (playSample s p) k ∧ u.stalls[n].ref.play = none)))

/-! ## Quera, power, Dikewatch and boot -/

/-- A second block without its first, a message with a bad CRC and one of a kind that R476 does not list are discarded: the
sixteenth discard on a port within 1 ms takes the port down, and one before it changes the port's discard times and its
count of topology messages alone, beside what its receiver keeps of the blocks (block lock and its header counts: log entry
265). A timing request waits with the port's sequence number. A request that arrives is answered with its arrival time; a
response to the open request gives the one-way delay. A time step moves system time by whole strides, leaves less than one
for steering, and stops every chain. -/
def Obligations.QueraMessagesAreCheckedAndTimed : Prop :=
  (
  ∀ (s : State) (p : Fin 4) (rx : Received) (t v : Time) (i : Instr), portLive s p = true →
    breaksLock s.quera.ports[p] (lineBlocks rx) = false →
    (∀ m, received rx = some m → crcOk m = false ∨ kindListed m = false) →
    i ∈ [Instr.queraTimingRequest p rx t v, .queraTimingResponse p rx t, .queraTopologyMsg p rx, .queraIdentifyMsg p rx,
      .queraCensusMsg p rx, .queraCrossTriggerMsg p rx] →
    ((s.quera.ports[p].discards.filter fun t => !passed s.tb.now t ms).length < 15 →
      ∃ u, exec i s = .next u ∧ u = { s with quera := { s.quera with ports := u.quera.ports } } ∧
        (∀ q : Fin 4, q ≠ p → u.quera.ports[q] = s.quera.ports[q]) ∧
        u.quera.ports[p] = { s.quera.ports[p] with
          discards := s.tb.now :: s.quera.ports[p].discards.filter fun t => !passed s.tb.now t ms
          topoOk := 0, lockSince := some (s.quera.ports[p].lockSince.getD s.tb.now)
          headers := u.quera.ports[p].headers, badHeaders := u.quera.ports[p].badHeaders }) ∧
    (15 ≤ (s.quera.ports[p].discards.filter fun t => !passed s.tb.now t ms).length →
      ∃ u, exec i s = .next u ∧ u.quera.ports[p].up = false)) ∧
  (
  ∀ (s : State),
    (∀ (p : Fin 4) (due : Time), portLive s p = true → ∃ u, exec (.queraTimingSend p due) s = .next u ∧
        u = { s with quera := { s.quera with ports := u.quera.ports } } ∧ (∀ q : Fin 4, q ≠ p → u.quera.ports[q] = s.quera.ports[q]) ∧
        u.quera.ports[p].queue = s.quera.ports[p].queue ++
          [{ msg := withCrc (timingMsg false s.quera.ports[p].seq.toNat 0 0), after := some due }] ∧
        u.quera.ports[p].seq = s.quera.ports[p].seq + 1 ∧ u.tb = s.tb ∧ u.stalls = s.stalls) ∧
    (∀ (p : Fin 4) (rx : Received) (msg : BitVec 112), portLive s p = true → breaksLock s.quera.ports[p] (lineBlocks rx) = false →
      received rx = some msg → crcOk msg = true → msgKind msg = 2 →
      (∀ t2 ready : Time, bit msg 107 = false → exec (.queraTimingRequest p rx t2 ready) s =
        .next (modQport (seeBlocks s p rx) p fun q => { q with
          queue := q.queue ++ [{
            msg := withCrc (timingMsg true (bits msg 106 100) (moveTime t2 (owed s)) 0), since := some t2
            after := some (if past ready t2 then t2 else ready) }] })) ∧
      (∀ (t1 t4 : Time) (d : Int), s.quera.ports[p].t1 = some t1 → bit msg 107 = true → bits msg 106 100 = s.quera.ports[p].reqSeq.toNat →
        s.quera.upstream ≠ some p → d = ((t4 - t1).toInt - (bits msg 35 20 : Int)) / 2 →
        exec (.queraTimingResponse p rx t4) s = .next (modQport (seeBlocks s p rx) p fun x => { x with
          t1 := none, delay := (max 0 (min 65535 d)).toNat, measured := decide (0 ≤ d ∧ d ≤ 65535)
          exchanges := if x.up then min 256 (x.exchanges + 1) else 0 }))) ∧
    (∀ e : Int, s.quera.step = some e → stepAllowed s = true → s.tb.timeValid = true →
      ∃ u, exec .queraTimeStep s = .next u ∧ u.quera.step = none ∧ u.quera.hist = [] ∧ u.tb.timeEstimated = false ∧
        (∀ n : Fin 8, u.chains[n].stopped = true ∧ u.chains[n].producing = false) ∧
        ∃ k : Int, u.tb.now = s.tb.now + BitVec.ofInt 64 (256 * k) ∧ u.tb.steer = e - 256 * k ∧ u.tb.steer.natAbs ≤ 128) ∧
    (stepAllowed s = false → exec .queraTimeStep s = .next s))

/-- Ports come up after 1 ms of block lock, three valid topology messages and a measured delay, unless they are wired
otherwise than R472 asks, and go down; topology and identify messages leave and are kept by the port they come in on; the
anchor learns its ring's size from the census; a cross-trigger of another epoch is dropped. -/
def Obligations.PortsExchangeTopologyAndTriggers : Prop :=
  ∀ (s : State) (p : Fin 4),
    (portLive s p = true → exec (.queraTopologySend p) s = .next (sendMsg s p (topologyMsg s p)) ∧
      ∃ u, exec (.queraTopologySend p) s = .next u ∧ u.tb = s.tb ∧
        u.quera.ports[p].queue = s.quera.ports[p].queue ++ [{ msg := withCrc (topologyMsg s p) }]) ∧
    (portUp s p = true → shedStage s < 2 → exec (.queraIdentifySend p) s = .next (sendMsg s p (0x4 * 2 ^ 108 +
      s.quera.deviceId.toNat * 2 ^ 96 + p.val * 2 ^ 94 + s.quera.role.toNat * 2 ^ 92 + s.quera.autoId.toNat * 2 ^ 91)) ∧
      ∃ u, exec (.queraIdentifySend p) s = .next u ∧ u.quera.ports[p].queue.length = s.quera.ports[p].queue.length + 1) ∧
    (portLive s p = true → s.quera.ports[p].up = false → s.quera.ports[p].topoOk = 3 → s.quera.ports[p].measured = true →
      lockHeld s p = true →
      (wiredRight s.quera.ports[p] p = true → ∃ u, exec (.queraPortUp p) s = .next u ∧ u.quera.ports[p].up = true) ∧
      (wiredRight s.quera.ports[p] p = false → exec (.queraPortUp p) s = .next s)) ∧
    (∃ u, exec (.queraPortDown p) s = .next u ∧ u.quera.ports[p].up = false ∧ u.quera.ports[p].lockSince = none ∧
      u.quera.ports[p].topoOk = 0 ∧ u.quera.ports[p].measured = false ∧
      (s.quera.ports[p].up = false → u = modQport s p lockLost)) ∧
    (∀ (rx : Received) (msg : BitVec 112) (v : State), portLive s p = true → breaksLock s.quera.ports[p] (lineBlocks rx) = false →
      received rx = some msg → crcOk msg = true → v = seeBlocks s p rx →
      (msgKind msg = 3 → portUp s p = false → exec (.queraTopologyMsg p rx) s = .next (announce v (noteTopology v p msg)) ∧
        ∃ u, exec (.queraTopologyMsg p rx) s = .next u ∧ u.quera.ports[p].topoOk = min 3 (s.quera.ports[p].topoOk + 1) ∧
          u.quera.ports[p].lastTopo = s.tb.now ∧ u.quera.ports[p].farId = BitVec.ofNat 12 (bits msg 56 45) ∧
          u.quera.ports[p].farHops = bits msg 63 57 ∧
          ∀ q : Fin 4, q ≠ p → { u.quera.ports[q] with queue := s.quera.ports[q].queue } = s.quera.ports[q]) ∧
      (msgKind msg = 4 → portUp s p = false → exec (.queraIdentifyMsg p rx) s = .next (modQport v p fun q => { q with
        farId := BitVec.ofNat 12 (bits msg 107 96), farPort := some (BitVec.ofNat 2 (bits msg 95 94))
        farRole := BitVec.ofNat 2 (bits msg 93 92), farAuto := bit msg 91 })) ∧
      (msgKind msg = 5 → portUp s p = true → p = opposite (firstPort (bit msg 88)) →
        censusHome s (bits msg 107 102) (bits msg 101 96) (bits msg 95 89) (bit msg 88) = true →
        exec (.queraCensusMsg p rx) s = .next (announce v (setSize v (bit msg 88) (bits msg 95 89))) ∧
        ∃ u, exec (.queraCensusMsg p rx) s = .next u ∧
          (bit msg 88 = true → u.quera.rootSize = bits msg 95 89) ∧ (bit msg 88 = false → u.quera.ringSize = bits msg 95 89)) ∧
      (msgKind msg = 1 → portUp s p = true → isAlone s = false →
        (bits msg 91 84 = bits s.quera.epoch 7 0 →
          exec (.queraCrossTriggerMsg p rx) s = .next (announce v (acceptXtrig (passOn v p msg) msg)) ∧
          ((∀ r ∈ s.quera.routes, bit r.recv (bits msg 107 104) = false) → ∃ u, exec (.queraCrossTriggerMsg p rx) s = .next u ∧
            u.quera.received = satAdd 32 s.quera.received 1 ∧ u.stalls = s.stalls)) ∧
        (bits msg 91 84 ≠ bits s.quera.epoch 7 0 → ∃ u, exec (.queraCrossTriggerMsg p rx) s = .next u ∧
          u.quera.staleDropped = satAdd 32 s.quera.staleDropped 1 ∧ u.stalls = s.stalls)))

/-- At a block boundary a port starts a message of the first rank among those that wait and may leave by then: a
cross-trigger, a timing response, a timing request, a topology message, then an identify or census message; it leaves the
queue whole, in two blocks (the line code is that of log entry 265), a response with its turnaround, and a request stamps
T1. A response whose turnaround exceeds 65,535 ticks waits no longer; a request does not leave before it is due, nor a
response before it is ready (operands of their rows, log entry 310). With none to start an idle block leaves. -/
def Obligations.PortsSendTheFirstRank : Prop :=
  ∀ (s : State) (p : Fin 4) (start : Nat),
    (ready s.quera.ports[p] start ≠ [] → ∃ (w : QOut) (m : BitVec 112) (a b : BitVec 66), w ∈ ready s.quera.ports[p] start ∧
      (∀ x ∈ ready s.quera.ports[p] start, sendRank w.msg ≤ sendRank x.msg) ∧
      (w.since = none → m = w.msg) ∧
      (∀ t2, w.since = some t2 → past (atTick start) t2 = false →
        m = withCrc (w.msg.toNat + (atTick start - t2).toNat * 2 ^ 20)) ∧
      (startBlock s p start).quera.ports[p].queue = (waiting s.quera.ports[p] start).erase w ∧
      (startBlock s p start).quera.ports[p].blockAt = start + 2 * blockTime ∧
      (sendRank m = 2 → (startBlock s p start).quera.ports[p].t1 = some (atTick start)) ∧
      (startBlock s p start).out = s.out ++ [.quera p m a b]) ∧
    (ready s.quera.ports[p] start = [] → ∃ (w : BitVec 58) (b : BitVec 66), startBlock s p start =
      emit (modQport s p fun x => { x with queue := waiting s.quera.ports[p] start, scrambler := w, blockAt := start + blockTime }) (.queraIdle p b)) ∧
    (∀ m : QOut, m ∈ waiting s.quera.ports[p] start ↔ m ∈ s.quera.ports[p].queue ∧
      ∀ t2, m.since = some t2 → past (atTick start) t2 = true ∨ (atTick start - t2).toNat ≤ 65535) ∧
    (∀ m : QOut, m ∈ ready s.quera.ports[p] start ↔ m ∈ waiting s.quera.ports[p] start ∧
      ∀ t, m.after = some t → later t (atTick start) = false) ∧
    (∀ m : BitVec 112, (msgKind m = 1 → sendRank m = 0) ∧ (msgKind m = 2 → sendRank m = if bit m 107 then 1 else 2) ∧
      (msgKind m = 3 → sendRank m = 3) ∧ (msgKind m = 4 ∨ msgKind m = 5 → sendRank m = 4))

/-- A supply stage is entered upward only, its event and its actions follow, and it falls when a leaving condition has held;
in reset and in Dormant the monitor keeps the stage alone. Stage 4, once the closures are over, begins the transition to
Dormant with the lanes in self-refresh. Stage 1 stops every upload and load: a load ends at once and its stall loads no
more; an upload goes on to no chunk beyond the one it is at. -/
def Obligations.SupplyStagesAreEnteredAndLeft : Prop :=
  (
  ∀ (s : State),
    (∀ (n : Fin 5) (src : BitVec 4) (mv : BitVec 16) (u : State), s.power.supply < n.val →
      u = { s with power := { s.power with
        vdd := mv, supply := n.val, supplySrc := if s.power.supply = 0 ∨ n.val = 4 then src else s.power.supplySrc } } →
      (awake s = true → exec (.shedStageEnter n src mv) s = .next (runStages (shedEvent u src.toNat) false) ∧
        ∃ v, exec (.shedStageEnter n src mv) s = .next v ∧ v.power.supply = n.val ∧ v.power.vdd = mv ∧
          v.power.done = max s.power.done (min 3 (shedStage v))) ∧
      (awake s = false → exec (.shedStageEnter n src mv) s = .next u)) ∧
    (∀ (n : Fin 4) (mv : BitVec 16),
      (n.val < s.power.supply → s.power.supply < 4 → ∃ u, exec (.shedStageLeave n mv) s = .next u ∧ u.power.supply = n.val ∧
        u.power.vdd = mv ∧ u.power.done = min s.power.done (shedStage u) ∧ u.jobs = s.jobs ∧ u.chains = s.chains) ∧
      (s.power.supply ≤ n.val ∨ s.power.supply = 4 → exec (.shedStageLeave n mv) s = .next s)) ∧
    (s.power.supply = 4 → awake s = true → s.power.tripped = false → closuresOver s = true → s.power.target = none →
      ∃ u, exec .stage4Begin s = .next u ∧ u.dram.selfRefresh = true ∧ u.flash.upd = none ∧
        (u.power.target.map fun p => (p.dest, p.when, p.cmd)) = some (.dormant, s.tb.now, false))) ∧
  (
  ∀ (s : State) (n : Fin 5) (src : BitVec 4) (mv : BitVec 16), s.power.supply = 0 → s.power.thermal = 0 → s.power.done = 0 →
    n.val = 1 → s.boot.phase = .ready → s.power.st = .run →
    ∃ u, exec (.shedStageEnter n src mv) s = .next u ∧ u.power.supply = 1 ∧ u.power.done = 1 ∧ u.jobs.loads = [] ∧
      (∀ j ∈ s.jobs.loads, u.stalls[j.stall].ref.loading = false) ∧ ∀ x ∈ u.jobs.uploads, x.stop.isSome = true)

/-- Heat: Tj is the highest sensor's reading; a sample at a stage's temperature enters the stage, one below it changes no
stage, and the heat falls to the highest stage entered whose leaving condition is not met. A trip drives THERM_TRIP#, is
stage 4 of heat with the actions not yet done, and stops the flash (the operand says how far it had come, log entry 279),
and the core goes into reset when the closures are over. A transition ends in the state it was for. -/
def Obligations.HeatAndTransitionsTakeTheirCourse : Prop :=
  ∀ (s : State),
    (∀ (q : Vector (BitVec 16) 8) (mv : BitVec 16) (v : State), v = { sampleTj s q with power := { (sampleTj s q).power with vdd := mv } } →
      ((∃ i : Fin 8, hottest q = q[i]) ∧ ∀ i : Fin 8, q[i].toInt ≤ (hottest q).toInt) ∧
      (sampleTj s q).power.tj = hottest q ∧ (sampleTj s q).power.sensors = q ∧
      (awake s = true →
        (s.power.thermal < heatStage (hottest q).toInt →
          exec (.tjSample ⟨q, mv⟩) s = .next (enterHeat v (heatStage (hottest q).toInt)) ∧
          ∃ u, exec (.tjSample ⟨q, mv⟩) s = .next u ∧ u.power.thermal = heatStage (hottest q).toInt ∧ u.power.tj = hottest q ∧
            u.power.done = max s.power.done (min 3 (shedStage u))) ∧
        (heatStage (hottest q).toInt ≤ s.power.thermal → exec (.tjSample ⟨q, mv⟩) s = .next v)) ∧
      (s.power.tripped = true → s.power.st = .dormant → exec (.tjSample ⟨q, mv⟩) s = .next (sampleTj s q))) ∧
    ((∀ k : Fin 3, heatLeft s ≤ k.val → k.val < s.power.thermal → cooled s k = true) ∧
      (heatLeft s < s.power.thermal → s.power.thermal ≠ 4 → awake s = true →
        ∃ u, exec .thermalStageLeave s = .next u ∧ u.power.thermal = heatLeft s ∧ u.power.vdd = s.power.vdd ∧
          u.power.done = min s.power.done (shedStage u)) ∧
      (s.power.thermal ≤ heatLeft s ∨ s.power.thermal = 4 ∨ awake s = false → exec .thermalStageLeave s = .next s)) ∧
    (∀ (fl : FlashAt) (mv : BitVec 16), awake s = true → s.power.tripped = false →
      ∃ u, exec (.thermalTrip fl mv) s = .next u ∧ u.power.tripped = true ∧ u.power.thermal = 4 ∧ u.power.done = max s.power.done 3 ∧
        u.pins.thermTrip = true ∧ u.pins.trigOut = false ∧ u.flash.noMore = true ∧ u.flash.ops = [] ∧
        u.sec.recTrip = some s.power.tj ∧ (u.power.target.map fun p => p.dest) = some .dormant) ∧
    (∀ (p : PowerTarget) (bad : BitVec 4), s.power.target = some p →
      (s.power.tripped = true → closuresOver s = true → ∃ u, exec (.powerTransitionDone bad) s = .next u ∧ u.power.st = .dormant ∧
        u.boot.phase = .inReset ∧ u.sec.recTrip = s.sec.recTrip ∧ u.dram.mem = []) ∧
      (s.power.tripped = true → closuresOver s = false → exec (.powerTransitionDone bad) s = .next s) ∧
      (s.power.tripped = false → p.dest ≠ .off → s.power.st ≠ .dikewatch ∨ p.dest ≠ .run → mayEnter s p.dest = true →
        ∃ u, exec (.powerTransitionDone bad) s = .next u ∧ u.power.st = p.dest ∧ u.power.target = none))

/-- Dikewatch: a sample takes the states of the watched channels, and one in which the watch is true is the hit that starts
the wake to Run; the wake's end enters Run with the clocks back (log entry 262). A wake from Dormant enters Ready with the
estimated time, by a count of the always-on cycles that is an operand (log entry 211); after a trip, once it is cool, and
for a device that was not ready (log entry 288), it begins a boot. -/
def Obligations.WakesLeaveDikewatchAndDormant : Prop :=
  ∀ (s : State),
    (∀ inp : StrideIn, s.power.st = .dikewatch → s.dike.stall.isSome = true → s.dike.seen ≠ some s.tb.now →
      ∃ u, exec (.dikewatchSample inp) s = .next u ∧ u.dike.prev = dikeStates s inp ∧ u.dike.seen = some s.tb.now ∧
        (watchTrue s.dike.watch s.dike.prev (dikeStates s inp) = false ∨ s.dike.hit.isSome = true →
          u.power = s.power ∧ u.dike.hit = s.dike.hit) ∧
        (watchTrue s.dike.watch s.dike.prev (dikeStates s inp) = true → s.dike.hit = none → s.power.target = none →
          u.power.target = some { dest := .run, when := s.tb.now, hit := true } ∧ u.dike.hit = some s.tb.now)) ∧
    (∀ (lost : List Nat) (bad : BitVec 4) (seed : SeedIn) (p : PowerTarget), s.power.st = .dikewatch → s.power.target = some p →
      p.dest = .run → ∃ u, exec (.dikewatchWakeDone .clean lost bad seed) s = .next u ∧ u.power.st = .run ∧ u.power.target = none ∧
        u.tb.bypass = false ∧ u.dike.stall = none) ∧
    (∀ (src : WakeSrc) (cycles : Nat) (seed : SeedIn) (ecc : List (Fn × List Ecc)), s.power.st = .dormant →
      wakeCounts s src = true →
      (s.power.tripped = false → s.boot.phase = .ready → s.sec.wipeBad = false →
        ∃ u, exec (.dormantWake src cycles ⟨seed, ecc⟩) s = .next u ∧ u.power.st = .ready ∧ u.tb.timeValid = true ∧
        u.tb.timeEstimated = true ∧
        u.tb.now = (s.power.dormantAt + BitVec.ofNat 64 (cycles * 7812500)) &&& ~~~ (255 : Time)) ∧
      (s.power.tripped = true → 380 ≤ s.power.tj.toInt → exec (.dormantWake src cycles ⟨seed, ecc⟩) s = .next s) ∧
      ((s.power.tripped = true ∧ s.power.tj.toInt < 380) ∨ (s.power.tripped = false ∧ s.boot.phase ≠ .ready) →
        ∃ u, exec (.dormantWake src cycles ⟨seed, ecc⟩) s = .next u ∧
          u.boot.phase = .booting ∧ u.boot.step = 1 ∧ u.power.tripped = false ∧ u.power.st = .off))

/-- Reset and loss of power leave the flash's contents, the fuses and the calibration store, and nothing of the captures,
the stalls, the memories or the windows (what else the core's reset clears is log entry 72); a step that runs past its time
ends in such a reset; a boot begins at step 1, and a step that passes begins the next; step 12 leaves the device ready in
Run with stall 0 created. -/
def Obligations.ResetsAndBootSteps : Prop :=
  ∀ (s : State),
    (∀ i : Instr, i = .resetAssert ∨ i = .powerLoss ∨ (i = .bootStepTimeout ∧ s.boot.phase = .booting ∧ s.boot.step ≠ 1 ∧
        s.power.target = none ∧ s.power.st ≠ .dormant) →
      ∃ u, exec i s = .next u ∧ u.boot.phase = .inReset ∧ u.power.st = .off ∧ u.stalls = State.reset.stalls ∧
        u.fns = State.reset.fns ∧ u.chans = State.reset.chans ∧ u.scratch = [] ∧ u.dram.mem = [] ∧
        u.flash.journal = s.flash.journal ∧ u.flash.slotA = s.flash.slotA ∧ u.flash.slotB = s.flash.slotB ∧
        u.flash.breach = s.flash.breachCommitted ∧ u.sec.slots = s.sec.slots ∧ u.sec.floor = s.sec.floor ∧ u.sec.keys = false ∧
        ∀ p : Fin 6, u.tiles[p].stored = s.tiles[p].stored ∧ u.tiles[p].storedCorr = s.tiles[p].storedCorr) ∧
    (∀ why : BootWhy, s.boot.phase = .inReset → s.power.st ≠ .dormant →
      ∃ u, exec (.bootStart why) s = .next u ∧ u.boot.phase = .booting ∧ u.boot.step = 1 ∧
        (why = .powerOn → u.sec.recTrip = none ∧ u.sec.recTamper = [] ∧ u.pins.thermTrip = false)) ∧
    (∀ crystal : Bool, s.boot.phase = .booting → s.boot.step = 1 → s.power.target = none → s.power.st ≠ .dormant →
      ∃ u, exec (.bootStepDone (.aon crystal)) s = .next u ∧ u.boot.step = 2 ∧ u.tb.aonFault = !crystal ∧ u.boot.phase = .booting) ∧
    (s.boot.phase = .booting → s.boot.step = 12 → s.power.target = none → s.power.st ≠ .dormant →
      ∃ u, exec (.bootStepDone (.ready true)) s = .next u ∧ u.boot.phase = .ready ∧ u.power.st = .run ∧ u.stalls[(0 : Fin 64)].st = .idle ∧
        u.stalls[(0 : Fin 64)].grant.outstanding = 256 ∧ u.stalls[(0 : Fin 64)].grant.rate = 65535 ∧
        ∀ k, k < s.dram.total → k ∉ s.dram.retired → ∃ q ∈ u.dram.wipeQ, q.parcel = k)

/-- The state after reset: no function's ring is enabled, locked or in Fault, every register of a window, the tails, heads
and counters of its rings, and the MSI-X table have the value of the Reset column (the internal phase of the completion
ring, and Relaxed Ordering Enable, follow R398 and the PCIe base specification), no stall is created, every channel has the
setting of the Reset column, and no time runs. -/
def Obligations.ResetStateHasTheResetColumn : Prop :=
  (∀ f : Fn, State.reset.fns[f] = {
    lock := false, winPar := false, cqEnable := false, sqEnable := false, sqBaseLo := 0, sqBaseHi := 0, sqSize := 0, sqTail := 0, sqHead := 0
    cqBaseLo := 0, cqBaseHi := 0, cqSize := 0, cqHead := 0, cqIrq := 0x20000010, errStatus := 0, parityCount := 0, accessLog := 0
    collisionCount := 0, lockedCount := 0, droppedCount := 0, fault := false, sqStopped := false, cqIndex := 0, cqPhase := true
    cntC := 0, oldC := 0, cntE := 0, oldE := 0, msixEnable := false, msixFnMask := false, msixMask := 0xFF, msixPending := 0
    msixAddr := Vector.replicate 8 0, msixData := Vector.replicate 8 0, d3 := false, relaxedEnable := true, ratePeriod := 0
    rateTaken := 0, fbPeak := 0 }) ∧
  (∀ n : Stall, State.reset.stalls[n].st = .absent) ∧
  (∀ c : Fin 48, chUpper State.reset.chans[c].setting = 2089 ∧ chLower State.reset.chans[c].setting = 2007 ∧
    chDwell State.reset.chans[c].setting = 10 ∧ chEnable State.reset.chans[c].setting = false ∧
    chDeskew State.reset.chans[c].setting = 0) ∧
  State.reset.tb.timeValid = false ∧ State.reset.tb.now = 0 ∧ State.reset.boot.phase = .inReset ∧ State.reset.groom.taken = none
end

