-- ==== Sys2Proof/Laws/State.lean ====
section
/-!
SUPPORT. What each named update of the state leaves and gives, one lemma per field and update, and the members of an updated vector.
-/

namespace Sys2Proof.Machine

/-! ## Vectors -/

theorem vmod_same {α : Type} {n : Nat} (v : Vector α n) (i : Fin n) (f : α → α) : (vmod v i f)[i] = f v[i] := by
  simp [vmod]

/-- The same, in the form in which `simp` leaves an index. -/
@[simp] theorem vmod_at {α : Type} {n : Nat} (v : Vector α n) (i : Fin n) (f : α → α) : (vmod v i f)[i.val] = f v[i.val] := by
  simp [vmod]

theorem vmod_ne {α : Type} {n : Nat} (v : Vector α n) {i j : Fin n} (h : i ≠ j) (f : α → α) : (vmod v i f)[j] = v[j] := by
  have h' : i.val ≠ j.val := fun e => h (Fin.ext e)
  simp [vmod, h']

theorem vmap_get {α : Type} {n : Nat} (v : Vector α n) (f : Fin n → α → α) (i : Fin n) : (vmap v f)[i] = f i v[i] := by
  simp [vmap]

/-- The same, in the form in which `simp` leaves an index. -/
@[simp] theorem vmap_at {α : Type} {n : Nat} (v : Vector α n) (f : Fin n → α → α) (i : Nat) (h : i < n) :
    (vmap v f)[i] = f ⟨i, h⟩ v[i] := by
  simp [vmap]

/-! ## `modStall` -/

@[simp] theorem modStall_tb (s : State) (n : Stall) (f : StallState → StallState) : (modStall s n f).tb = s.tb := rfl
@[simp] theorem modStall_fns (s : State) (n : Stall) (f : StallState → StallState) : (modStall s n f).fns = s.fns := rfl
@[simp] theorem modStall_pcie (s : State) (n : Stall) (f : StallState → StallState) : (modStall s n f).pcie = s.pcie := rfl
@[simp] theorem modStall_groom (s : State) (n : Stall) (f : StallState → StallState) : (modStall s n f).groom = s.groom := rfl
@[simp] theorem modStall_stalls (s : State) (n : Stall) (f : StallState → StallState) : (modStall s n f).stalls = vmod s.stalls n f := rfl
@[simp] theorem modStall_chans (s : State) (n : Stall) (f : StallState → StallState) : (modStall s n f).chans = s.chans := rfl
@[simp] theorem modStall_ports (s : State) (n : Stall) (f : StallState → StallState) : (modStall s n f).ports = s.ports := rfl
@[simp] theorem modStall_tiles (s : State) (n : Stall) (f : StallState → StallState) : (modStall s n f).tiles = s.tiles := rfl
@[simp] theorem modStall_fe (s : State) (n : Stall) (f : StallState → StallState) : (modStall s n f).fe = s.fe := rfl
@[simp] theorem modStall_links (s : State) (n : Stall) (f : StallState → StallState) : (modStall s n f).links = s.links := rfl
@[simp] theorem modStall_chains (s : State) (n : Stall) (f : StallState → StallState) : (modStall s n f).chains = s.chains := rfl
@[simp] theorem modStall_lanes (s : State) (n : Stall) (f : StallState → StallState) : (modStall s n f).lanes = s.lanes := rfl
@[simp] theorem modStall_dram (s : State) (n : Stall) (f : StallState → StallState) : (modStall s n f).dram = s.dram := rfl
@[simp] theorem modStall_fbd (s : State) (n : Stall) (f : StallState → StallState) : (modStall s n f).fbd = s.fbd := rfl
@[simp] theorem modStall_scratch (s : State) (n : Stall) (f : StallState → StallState) : (modStall s n f).scratch = s.scratch := rfl
@[simp] theorem modStall_jobs (s : State) (n : Stall) (f : StallState → StallState) : (modStall s n f).jobs = s.jobs := rfl
@[simp] theorem modStall_quera (s : State) (n : Stall) (f : StallState → StallState) : (modStall s n f).quera = s.quera := rfl
@[simp] theorem modStall_flash (s : State) (n : Stall) (f : StallState → StallState) : (modStall s n f).flash = s.flash := rfl
@[simp] theorem modStall_sec (s : State) (n : Stall) (f : StallState → StallState) : (modStall s n f).sec = s.sec := rfl
@[simp] theorem modStall_boot (s : State) (n : Stall) (f : StallState → StallState) : (modStall s n f).boot = s.boot := rfl
@[simp] theorem modStall_power (s : State) (n : Stall) (f : StallState → StallState) : (modStall s n f).power = s.power := rfl
@[simp] theorem modStall_dike (s : State) (n : Stall) (f : StallState → StallState) : (modStall s n f).dike = s.dike := rfl
@[simp] theorem modStall_panel (s : State) (n : Stall) (f : StallState → StallState) : (modStall s n f).panel = s.panel := rfl
@[simp] theorem modStall_pins (s : State) (n : Stall) (f : StallState → StallState) : (modStall s n f).pins = s.pins := rfl
@[simp] theorem modStall_out (s : State) (n : Stall) (f : StallState → StallState) : (modStall s n f).out = s.out := rfl
@[simp] theorem modStall_free (s : State) (n : Stall) (f : StallState → StallState) : (modStall s n f).free = s.free := rfl
@[simp] theorem modStall_pending (s : State) (n : Stall) (f : StallState → StallState) : (modStall s n f).pending = s.pending := rfl

/-! ## `modFn` -/

@[simp] theorem modFn_tb (s : State) (n : Fn) (f : FnState → FnState) : (modFn s n f).tb = s.tb := rfl
@[simp] theorem modFn_fns (s : State) (n : Fn) (f : FnState → FnState) : (modFn s n f).fns = vmod s.fns n f := rfl
@[simp] theorem modFn_pcie (s : State) (n : Fn) (f : FnState → FnState) : (modFn s n f).pcie = s.pcie := rfl
@[simp] theorem modFn_groom (s : State) (n : Fn) (f : FnState → FnState) : (modFn s n f).groom = s.groom := rfl
@[simp] theorem modFn_stalls (s : State) (n : Fn) (f : FnState → FnState) : (modFn s n f).stalls = s.stalls := rfl
@[simp] theorem modFn_chans (s : State) (n : Fn) (f : FnState → FnState) : (modFn s n f).chans = s.chans := rfl
@[simp] theorem modFn_ports (s : State) (n : Fn) (f : FnState → FnState) : (modFn s n f).ports = s.ports := rfl
@[simp] theorem modFn_tiles (s : State) (n : Fn) (f : FnState → FnState) : (modFn s n f).tiles = s.tiles := rfl
@[simp] theorem modFn_fe (s : State) (n : Fn) (f : FnState → FnState) : (modFn s n f).fe = s.fe := rfl
@[simp] theorem modFn_links (s : State) (n : Fn) (f : FnState → FnState) : (modFn s n f).links = s.links := rfl
@[simp] theorem modFn_chains (s : State) (n : Fn) (f : FnState → FnState) : (modFn s n f).chains = s.chains := rfl
@[simp] theorem modFn_lanes (s : State) (n : Fn) (f : FnState → FnState) : (modFn s n f).lanes = s.lanes := rfl
@[simp] theorem modFn_dram (s : State) (n : Fn) (f : FnState → FnState) : (modFn s n f).dram = s.dram := rfl
@[simp] theorem modFn_fbd (s : State) (n : Fn) (f : FnState → FnState) : (modFn s n f).fbd = s.fbd := rfl
@[simp] theorem modFn_scratch (s : State) (n : Fn) (f : FnState → FnState) : (modFn s n f).scratch = s.scratch := rfl
@[simp] theorem modFn_jobs (s : State) (n : Fn) (f : FnState → FnState) : (modFn s n f).jobs = s.jobs := rfl
@[simp] theorem modFn_quera (s : State) (n : Fn) (f : FnState → FnState) : (modFn s n f).quera = s.quera := rfl
@[simp] theorem modFn_flash (s : State) (n : Fn) (f : FnState → FnState) : (modFn s n f).flash = s.flash := rfl
@[simp] theorem modFn_sec (s : State) (n : Fn) (f : FnState → FnState) : (modFn s n f).sec = s.sec := rfl
@[simp] theorem modFn_boot (s : State) (n : Fn) (f : FnState → FnState) : (modFn s n f).boot = s.boot := rfl
@[simp] theorem modFn_power (s : State) (n : Fn) (f : FnState → FnState) : (modFn s n f).power = s.power := rfl
@[simp] theorem modFn_dike (s : State) (n : Fn) (f : FnState → FnState) : (modFn s n f).dike = s.dike := rfl
@[simp] theorem modFn_panel (s : State) (n : Fn) (f : FnState → FnState) : (modFn s n f).panel = s.panel := rfl
@[simp] theorem modFn_pins (s : State) (n : Fn) (f : FnState → FnState) : (modFn s n f).pins = s.pins := rfl
@[simp] theorem modFn_out (s : State) (n : Fn) (f : FnState → FnState) : (modFn s n f).out = s.out := rfl
@[simp] theorem modFn_free (s : State) (n : Fn) (f : FnState → FnState) : (modFn s n f).free = s.free := rfl
@[simp] theorem modFn_pending (s : State) (n : Fn) (f : FnState → FnState) : (modFn s n f).pending = s.pending := rfl

/-! ## `modChan` -/

@[simp] theorem modChan_tb (s : State) (c : Fin 48) (f : Channel → Channel) : (modChan s c f).tb = s.tb := rfl
@[simp] theorem modChan_fns (s : State) (c : Fin 48) (f : Channel → Channel) : (modChan s c f).fns = s.fns := rfl
@[simp] theorem modChan_pcie (s : State) (c : Fin 48) (f : Channel → Channel) : (modChan s c f).pcie = s.pcie := rfl
@[simp] theorem modChan_groom (s : State) (c : Fin 48) (f : Channel → Channel) : (modChan s c f).groom = s.groom := rfl
@[simp] theorem modChan_stalls (s : State) (c : Fin 48) (f : Channel → Channel) : (modChan s c f).stalls = s.stalls := rfl
@[simp] theorem modChan_chans (s : State) (c : Fin 48) (f : Channel → Channel) : (modChan s c f).chans = vmod s.chans c f := rfl
@[simp] theorem modChan_ports (s : State) (c : Fin 48) (f : Channel → Channel) : (modChan s c f).ports = s.ports := rfl
@[simp] theorem modChan_tiles (s : State) (c : Fin 48) (f : Channel → Channel) : (modChan s c f).tiles = s.tiles := rfl
@[simp] theorem modChan_fe (s : State) (c : Fin 48) (f : Channel → Channel) : (modChan s c f).fe = s.fe := rfl
@[simp] theorem modChan_links (s : State) (c : Fin 48) (f : Channel → Channel) : (modChan s c f).links = s.links := rfl
@[simp] theorem modChan_chains (s : State) (c : Fin 48) (f : Channel → Channel) : (modChan s c f).chains = s.chains := rfl
@[simp] theorem modChan_lanes (s : State) (c : Fin 48) (f : Channel → Channel) : (modChan s c f).lanes = s.lanes := rfl
@[simp] theorem modChan_dram (s : State) (c : Fin 48) (f : Channel → Channel) : (modChan s c f).dram = s.dram := rfl
@[simp] theorem modChan_fbd (s : State) (c : Fin 48) (f : Channel → Channel) : (modChan s c f).fbd = s.fbd := rfl
@[simp] theorem modChan_scratch (s : State) (c : Fin 48) (f : Channel → Channel) : (modChan s c f).scratch = s.scratch := rfl
@[simp] theorem modChan_jobs (s : State) (c : Fin 48) (f : Channel → Channel) : (modChan s c f).jobs = s.jobs := rfl
@[simp] theorem modChan_quera (s : State) (c : Fin 48) (f : Channel → Channel) : (modChan s c f).quera = s.quera := rfl
@[simp] theorem modChan_flash (s : State) (c : Fin 48) (f : Channel → Channel) : (modChan s c f).flash = s.flash := rfl
@[simp] theorem modChan_sec (s : State) (c : Fin 48) (f : Channel → Channel) : (modChan s c f).sec = s.sec := rfl
@[simp] theorem modChan_boot (s : State) (c : Fin 48) (f : Channel → Channel) : (modChan s c f).boot = s.boot := rfl
@[simp] theorem modChan_power (s : State) (c : Fin 48) (f : Channel → Channel) : (modChan s c f).power = s.power := rfl
@[simp] theorem modChan_dike (s : State) (c : Fin 48) (f : Channel → Channel) : (modChan s c f).dike = s.dike := rfl
@[simp] theorem modChan_panel (s : State) (c : Fin 48) (f : Channel → Channel) : (modChan s c f).panel = s.panel := rfl
@[simp] theorem modChan_pins (s : State) (c : Fin 48) (f : Channel → Channel) : (modChan s c f).pins = s.pins := rfl
@[simp] theorem modChan_out (s : State) (c : Fin 48) (f : Channel → Channel) : (modChan s c f).out = s.out := rfl
@[simp] theorem modChan_free (s : State) (c : Fin 48) (f : Channel → Channel) : (modChan s c f).free = s.free := rfl
@[simp] theorem modChan_pending (s : State) (c : Fin 48) (f : Channel → Channel) : (modChan s c f).pending = s.pending := rfl

/-! ## `modPort` -/

@[simp] theorem modPort_tb (s : State) (p : Fin 6) (f : PodPort → PodPort) : (modPort s p f).tb = s.tb := rfl
@[simp] theorem modPort_fns (s : State) (p : Fin 6) (f : PodPort → PodPort) : (modPort s p f).fns = s.fns := rfl
@[simp] theorem modPort_pcie (s : State) (p : Fin 6) (f : PodPort → PodPort) : (modPort s p f).pcie = s.pcie := rfl
@[simp] theorem modPort_groom (s : State) (p : Fin 6) (f : PodPort → PodPort) : (modPort s p f).groom = s.groom := rfl
@[simp] theorem modPort_stalls (s : State) (p : Fin 6) (f : PodPort → PodPort) : (modPort s p f).stalls = s.stalls := rfl
@[simp] theorem modPort_chans (s : State) (p : Fin 6) (f : PodPort → PodPort) : (modPort s p f).chans = s.chans := rfl
@[simp] theorem modPort_ports (s : State) (p : Fin 6) (f : PodPort → PodPort) : (modPort s p f).ports = vmod s.ports p f := rfl
@[simp] theorem modPort_tiles (s : State) (p : Fin 6) (f : PodPort → PodPort) : (modPort s p f).tiles = s.tiles := rfl
@[simp] theorem modPort_fe (s : State) (p : Fin 6) (f : PodPort → PodPort) : (modPort s p f).fe = s.fe := rfl
@[simp] theorem modPort_links (s : State) (p : Fin 6) (f : PodPort → PodPort) : (modPort s p f).links = s.links := rfl
@[simp] theorem modPort_chains (s : State) (p : Fin 6) (f : PodPort → PodPort) : (modPort s p f).chains = s.chains := rfl
@[simp] theorem modPort_lanes (s : State) (p : Fin 6) (f : PodPort → PodPort) : (modPort s p f).lanes = s.lanes := rfl
@[simp] theorem modPort_dram (s : State) (p : Fin 6) (f : PodPort → PodPort) : (modPort s p f).dram = s.dram := rfl
@[simp] theorem modPort_fbd (s : State) (p : Fin 6) (f : PodPort → PodPort) : (modPort s p f).fbd = s.fbd := rfl
@[simp] theorem modPort_scratch (s : State) (p : Fin 6) (f : PodPort → PodPort) : (modPort s p f).scratch = s.scratch := rfl
@[simp] theorem modPort_jobs (s : State) (p : Fin 6) (f : PodPort → PodPort) : (modPort s p f).jobs = s.jobs := rfl
@[simp] theorem modPort_quera (s : State) (p : Fin 6) (f : PodPort → PodPort) : (modPort s p f).quera = s.quera := rfl
@[simp] theorem modPort_flash (s : State) (p : Fin 6) (f : PodPort → PodPort) : (modPort s p f).flash = s.flash := rfl
@[simp] theorem modPort_sec (s : State) (p : Fin 6) (f : PodPort → PodPort) : (modPort s p f).sec = s.sec := rfl
@[simp] theorem modPort_boot (s : State) (p : Fin 6) (f : PodPort → PodPort) : (modPort s p f).boot = s.boot := rfl
@[simp] theorem modPort_power (s : State) (p : Fin 6) (f : PodPort → PodPort) : (modPort s p f).power = s.power := rfl
@[simp] theorem modPort_dike (s : State) (p : Fin 6) (f : PodPort → PodPort) : (modPort s p f).dike = s.dike := rfl
@[simp] theorem modPort_panel (s : State) (p : Fin 6) (f : PodPort → PodPort) : (modPort s p f).panel = s.panel := rfl
@[simp] theorem modPort_pins (s : State) (p : Fin 6) (f : PodPort → PodPort) : (modPort s p f).pins = s.pins := rfl
@[simp] theorem modPort_out (s : State) (p : Fin 6) (f : PodPort → PodPort) : (modPort s p f).out = s.out := rfl
@[simp] theorem modPort_free (s : State) (p : Fin 6) (f : PodPort → PodPort) : (modPort s p f).free = s.free := rfl
@[simp] theorem modPort_pending (s : State) (p : Fin 6) (f : PodPort → PodPort) : (modPort s p f).pending = s.pending := rfl

/-! ## `modTile` -/

@[simp] theorem modTile_tb (s : State) (p : Fin 6) (f : Tile → Tile) : (modTile s p f).tb = s.tb := rfl
@[simp] theorem modTile_fns (s : State) (p : Fin 6) (f : Tile → Tile) : (modTile s p f).fns = s.fns := rfl
@[simp] theorem modTile_pcie (s : State) (p : Fin 6) (f : Tile → Tile) : (modTile s p f).pcie = s.pcie := rfl
@[simp] theorem modTile_groom (s : State) (p : Fin 6) (f : Tile → Tile) : (modTile s p f).groom = s.groom := rfl
@[simp] theorem modTile_stalls (s : State) (p : Fin 6) (f : Tile → Tile) : (modTile s p f).stalls = s.stalls := rfl
@[simp] theorem modTile_chans (s : State) (p : Fin 6) (f : Tile → Tile) : (modTile s p f).chans = s.chans := rfl
@[simp] theorem modTile_ports (s : State) (p : Fin 6) (f : Tile → Tile) : (modTile s p f).ports = s.ports := rfl
@[simp] theorem modTile_tiles (s : State) (p : Fin 6) (f : Tile → Tile) : (modTile s p f).tiles = vmod s.tiles p f := rfl
@[simp] theorem modTile_fe (s : State) (p : Fin 6) (f : Tile → Tile) : (modTile s p f).fe = s.fe := rfl
@[simp] theorem modTile_links (s : State) (p : Fin 6) (f : Tile → Tile) : (modTile s p f).links = s.links := rfl
@[simp] theorem modTile_chains (s : State) (p : Fin 6) (f : Tile → Tile) : (modTile s p f).chains = s.chains := rfl
@[simp] theorem modTile_lanes (s : State) (p : Fin 6) (f : Tile → Tile) : (modTile s p f).lanes = s.lanes := rfl
@[simp] theorem modTile_dram (s : State) (p : Fin 6) (f : Tile → Tile) : (modTile s p f).dram = s.dram := rfl
@[simp] theorem modTile_fbd (s : State) (p : Fin 6) (f : Tile → Tile) : (modTile s p f).fbd = s.fbd := rfl
@[simp] theorem modTile_scratch (s : State) (p : Fin 6) (f : Tile → Tile) : (modTile s p f).scratch = s.scratch := rfl
@[simp] theorem modTile_jobs (s : State) (p : Fin 6) (f : Tile → Tile) : (modTile s p f).jobs = s.jobs := rfl
@[simp] theorem modTile_quera (s : State) (p : Fin 6) (f : Tile → Tile) : (modTile s p f).quera = s.quera := rfl
@[simp] theorem modTile_flash (s : State) (p : Fin 6) (f : Tile → Tile) : (modTile s p f).flash = s.flash := rfl
@[simp] theorem modTile_sec (s : State) (p : Fin 6) (f : Tile → Tile) : (modTile s p f).sec = s.sec := rfl
@[simp] theorem modTile_boot (s : State) (p : Fin 6) (f : Tile → Tile) : (modTile s p f).boot = s.boot := rfl
@[simp] theorem modTile_power (s : State) (p : Fin 6) (f : Tile → Tile) : (modTile s p f).power = s.power := rfl
@[simp] theorem modTile_dike (s : State) (p : Fin 6) (f : Tile → Tile) : (modTile s p f).dike = s.dike := rfl
@[simp] theorem modTile_panel (s : State) (p : Fin 6) (f : Tile → Tile) : (modTile s p f).panel = s.panel := rfl
@[simp] theorem modTile_pins (s : State) (p : Fin 6) (f : Tile → Tile) : (modTile s p f).pins = s.pins := rfl
@[simp] theorem modTile_out (s : State) (p : Fin 6) (f : Tile → Tile) : (modTile s p f).out = s.out := rfl
@[simp] theorem modTile_free (s : State) (p : Fin 6) (f : Tile → Tile) : (modTile s p f).free = s.free := rfl
@[simp] theorem modTile_pending (s : State) (p : Fin 6) (f : Tile → Tile) : (modTile s p f).pending = s.pending := rfl

/-! ## `modLink` -/

@[simp] theorem modLink_tb (s : State) (l : Fin 2) (f : JLink → JLink) : (modLink s l f).tb = s.tb := rfl
@[simp] theorem modLink_fns (s : State) (l : Fin 2) (f : JLink → JLink) : (modLink s l f).fns = s.fns := rfl
@[simp] theorem modLink_pcie (s : State) (l : Fin 2) (f : JLink → JLink) : (modLink s l f).pcie = s.pcie := rfl
@[simp] theorem modLink_groom (s : State) (l : Fin 2) (f : JLink → JLink) : (modLink s l f).groom = s.groom := rfl
@[simp] theorem modLink_stalls (s : State) (l : Fin 2) (f : JLink → JLink) : (modLink s l f).stalls = s.stalls := rfl
@[simp] theorem modLink_chans (s : State) (l : Fin 2) (f : JLink → JLink) : (modLink s l f).chans = s.chans := rfl
@[simp] theorem modLink_ports (s : State) (l : Fin 2) (f : JLink → JLink) : (modLink s l f).ports = s.ports := rfl
@[simp] theorem modLink_tiles (s : State) (l : Fin 2) (f : JLink → JLink) : (modLink s l f).tiles = s.tiles := rfl
@[simp] theorem modLink_fe (s : State) (l : Fin 2) (f : JLink → JLink) : (modLink s l f).fe = s.fe := rfl
@[simp] theorem modLink_links (s : State) (l : Fin 2) (f : JLink → JLink) : (modLink s l f).links = vmod s.links l f := rfl
@[simp] theorem modLink_chains (s : State) (l : Fin 2) (f : JLink → JLink) : (modLink s l f).chains = s.chains := rfl
@[simp] theorem modLink_lanes (s : State) (l : Fin 2) (f : JLink → JLink) : (modLink s l f).lanes = s.lanes := rfl
@[simp] theorem modLink_dram (s : State) (l : Fin 2) (f : JLink → JLink) : (modLink s l f).dram = s.dram := rfl
@[simp] theorem modLink_fbd (s : State) (l : Fin 2) (f : JLink → JLink) : (modLink s l f).fbd = s.fbd := rfl
@[simp] theorem modLink_scratch (s : State) (l : Fin 2) (f : JLink → JLink) : (modLink s l f).scratch = s.scratch := rfl
@[simp] theorem modLink_jobs (s : State) (l : Fin 2) (f : JLink → JLink) : (modLink s l f).jobs = s.jobs := rfl
@[simp] theorem modLink_quera (s : State) (l : Fin 2) (f : JLink → JLink) : (modLink s l f).quera = s.quera := rfl
@[simp] theorem modLink_flash (s : State) (l : Fin 2) (f : JLink → JLink) : (modLink s l f).flash = s.flash := rfl
@[simp] theorem modLink_sec (s : State) (l : Fin 2) (f : JLink → JLink) : (modLink s l f).sec = s.sec := rfl
@[simp] theorem modLink_boot (s : State) (l : Fin 2) (f : JLink → JLink) : (modLink s l f).boot = s.boot := rfl
@[simp] theorem modLink_power (s : State) (l : Fin 2) (f : JLink → JLink) : (modLink s l f).power = s.power := rfl
@[simp] theorem modLink_dike (s : State) (l : Fin 2) (f : JLink → JLink) : (modLink s l f).dike = s.dike := rfl
@[simp] theorem modLink_panel (s : State) (l : Fin 2) (f : JLink → JLink) : (modLink s l f).panel = s.panel := rfl
@[simp] theorem modLink_pins (s : State) (l : Fin 2) (f : JLink → JLink) : (modLink s l f).pins = s.pins := rfl
@[simp] theorem modLink_out (s : State) (l : Fin 2) (f : JLink → JLink) : (modLink s l f).out = s.out := rfl
@[simp] theorem modLink_free (s : State) (l : Fin 2) (f : JLink → JLink) : (modLink s l f).free = s.free := rfl
@[simp] theorem modLink_pending (s : State) (l : Fin 2) (f : JLink → JLink) : (modLink s l f).pending = s.pending := rfl

/-! ## `modChain` -/

@[simp] theorem modChain_tb (s : State) (n : Fin 8) (f : Chain → Chain) : (modChain s n f).tb = s.tb := rfl
@[simp] theorem modChain_fns (s : State) (n : Fin 8) (f : Chain → Chain) : (modChain s n f).fns = s.fns := rfl
@[simp] theorem modChain_pcie (s : State) (n : Fin 8) (f : Chain → Chain) : (modChain s n f).pcie = s.pcie := rfl
@[simp] theorem modChain_groom (s : State) (n : Fin 8) (f : Chain → Chain) : (modChain s n f).groom = s.groom := rfl
@[simp] theorem modChain_stalls (s : State) (n : Fin 8) (f : Chain → Chain) : (modChain s n f).stalls = s.stalls := rfl
@[simp] theorem modChain_chans (s : State) (n : Fin 8) (f : Chain → Chain) : (modChain s n f).chans = s.chans := rfl
@[simp] theorem modChain_ports (s : State) (n : Fin 8) (f : Chain → Chain) : (modChain s n f).ports = s.ports := rfl
@[simp] theorem modChain_tiles (s : State) (n : Fin 8) (f : Chain → Chain) : (modChain s n f).tiles = s.tiles := rfl
@[simp] theorem modChain_fe (s : State) (n : Fin 8) (f : Chain → Chain) : (modChain s n f).fe = s.fe := rfl
@[simp] theorem modChain_links (s : State) (n : Fin 8) (f : Chain → Chain) : (modChain s n f).links = s.links := rfl
@[simp] theorem modChain_chains (s : State) (n : Fin 8) (f : Chain → Chain) : (modChain s n f).chains = vmod s.chains n f := rfl
@[simp] theorem modChain_lanes (s : State) (n : Fin 8) (f : Chain → Chain) : (modChain s n f).lanes = s.lanes := rfl
@[simp] theorem modChain_dram (s : State) (n : Fin 8) (f : Chain → Chain) : (modChain s n f).dram = s.dram := rfl
@[simp] theorem modChain_fbd (s : State) (n : Fin 8) (f : Chain → Chain) : (modChain s n f).fbd = s.fbd := rfl
@[simp] theorem modChain_scratch (s : State) (n : Fin 8) (f : Chain → Chain) : (modChain s n f).scratch = s.scratch := rfl
@[simp] theorem modChain_jobs (s : State) (n : Fin 8) (f : Chain → Chain) : (modChain s n f).jobs = s.jobs := rfl
@[simp] theorem modChain_quera (s : State) (n : Fin 8) (f : Chain → Chain) : (modChain s n f).quera = s.quera := rfl
@[simp] theorem modChain_flash (s : State) (n : Fin 8) (f : Chain → Chain) : (modChain s n f).flash = s.flash := rfl
@[simp] theorem modChain_sec (s : State) (n : Fin 8) (f : Chain → Chain) : (modChain s n f).sec = s.sec := rfl
@[simp] theorem modChain_boot (s : State) (n : Fin 8) (f : Chain → Chain) : (modChain s n f).boot = s.boot := rfl
@[simp] theorem modChain_power (s : State) (n : Fin 8) (f : Chain → Chain) : (modChain s n f).power = s.power := rfl
@[simp] theorem modChain_dike (s : State) (n : Fin 8) (f : Chain → Chain) : (modChain s n f).dike = s.dike := rfl
@[simp] theorem modChain_panel (s : State) (n : Fin 8) (f : Chain → Chain) : (modChain s n f).panel = s.panel := rfl
@[simp] theorem modChain_pins (s : State) (n : Fin 8) (f : Chain → Chain) : (modChain s n f).pins = s.pins := rfl
@[simp] theorem modChain_out (s : State) (n : Fin 8) (f : Chain → Chain) : (modChain s n f).out = s.out := rfl
@[simp] theorem modChain_free (s : State) (n : Fin 8) (f : Chain → Chain) : (modChain s n f).free = s.free := rfl
@[simp] theorem modChain_pending (s : State) (n : Fin 8) (f : Chain → Chain) : (modChain s n f).pending = s.pending := rfl

/-! ## `modLane` -/

@[simp] theorem modLane_tb (s : State) (l : Fin 4) (f : Lane → Lane) : (modLane s l f).tb = s.tb := rfl
@[simp] theorem modLane_fns (s : State) (l : Fin 4) (f : Lane → Lane) : (modLane s l f).fns = s.fns := rfl
@[simp] theorem modLane_pcie (s : State) (l : Fin 4) (f : Lane → Lane) : (modLane s l f).pcie = s.pcie := rfl
@[simp] theorem modLane_groom (s : State) (l : Fin 4) (f : Lane → Lane) : (modLane s l f).groom = s.groom := rfl
@[simp] theorem modLane_stalls (s : State) (l : Fin 4) (f : Lane → Lane) : (modLane s l f).stalls = s.stalls := rfl
@[simp] theorem modLane_chans (s : State) (l : Fin 4) (f : Lane → Lane) : (modLane s l f).chans = s.chans := rfl
@[simp] theorem modLane_ports (s : State) (l : Fin 4) (f : Lane → Lane) : (modLane s l f).ports = s.ports := rfl
@[simp] theorem modLane_tiles (s : State) (l : Fin 4) (f : Lane → Lane) : (modLane s l f).tiles = s.tiles := rfl
@[simp] theorem modLane_fe (s : State) (l : Fin 4) (f : Lane → Lane) : (modLane s l f).fe = s.fe := rfl
@[simp] theorem modLane_links (s : State) (l : Fin 4) (f : Lane → Lane) : (modLane s l f).links = s.links := rfl
@[simp] theorem modLane_chains (s : State) (l : Fin 4) (f : Lane → Lane) : (modLane s l f).chains = s.chains := rfl
@[simp] theorem modLane_lanes (s : State) (l : Fin 4) (f : Lane → Lane) : (modLane s l f).lanes = vmod s.lanes l f := rfl
@[simp] theorem modLane_dram (s : State) (l : Fin 4) (f : Lane → Lane) : (modLane s l f).dram = s.dram := rfl
@[simp] theorem modLane_fbd (s : State) (l : Fin 4) (f : Lane → Lane) : (modLane s l f).fbd = s.fbd := rfl
@[simp] theorem modLane_scratch (s : State) (l : Fin 4) (f : Lane → Lane) : (modLane s l f).scratch = s.scratch := rfl
@[simp] theorem modLane_jobs (s : State) (l : Fin 4) (f : Lane → Lane) : (modLane s l f).jobs = s.jobs := rfl
@[simp] theorem modLane_quera (s : State) (l : Fin 4) (f : Lane → Lane) : (modLane s l f).quera = s.quera := rfl
@[simp] theorem modLane_flash (s : State) (l : Fin 4) (f : Lane → Lane) : (modLane s l f).flash = s.flash := rfl
@[simp] theorem modLane_sec (s : State) (l : Fin 4) (f : Lane → Lane) : (modLane s l f).sec = s.sec := rfl
@[simp] theorem modLane_boot (s : State) (l : Fin 4) (f : Lane → Lane) : (modLane s l f).boot = s.boot := rfl
@[simp] theorem modLane_power (s : State) (l : Fin 4) (f : Lane → Lane) : (modLane s l f).power = s.power := rfl
@[simp] theorem modLane_dike (s : State) (l : Fin 4) (f : Lane → Lane) : (modLane s l f).dike = s.dike := rfl
@[simp] theorem modLane_panel (s : State) (l : Fin 4) (f : Lane → Lane) : (modLane s l f).panel = s.panel := rfl
@[simp] theorem modLane_pins (s : State) (l : Fin 4) (f : Lane → Lane) : (modLane s l f).pins = s.pins := rfl
@[simp] theorem modLane_out (s : State) (l : Fin 4) (f : Lane → Lane) : (modLane s l f).out = s.out := rfl
@[simp] theorem modLane_free (s : State) (l : Fin 4) (f : Lane → Lane) : (modLane s l f).free = s.free := rfl
@[simp] theorem modLane_pending (s : State) (l : Fin 4) (f : Lane → Lane) : (modLane s l f).pending = s.pending := rfl

/-! ## `modQport` -/

@[simp] theorem modQport_tb (s : State) (p : Fin 4) (f : QPort → QPort) : (modQport s p f).tb = s.tb := rfl
@[simp] theorem modQport_fns (s : State) (p : Fin 4) (f : QPort → QPort) : (modQport s p f).fns = s.fns := rfl
@[simp] theorem modQport_pcie (s : State) (p : Fin 4) (f : QPort → QPort) : (modQport s p f).pcie = s.pcie := rfl
@[simp] theorem modQport_groom (s : State) (p : Fin 4) (f : QPort → QPort) : (modQport s p f).groom = s.groom := rfl
@[simp] theorem modQport_stalls (s : State) (p : Fin 4) (f : QPort → QPort) : (modQport s p f).stalls = s.stalls := rfl
@[simp] theorem modQport_chans (s : State) (p : Fin 4) (f : QPort → QPort) : (modQport s p f).chans = s.chans := rfl
@[simp] theorem modQport_ports (s : State) (p : Fin 4) (f : QPort → QPort) : (modQport s p f).ports = s.ports := rfl
@[simp] theorem modQport_tiles (s : State) (p : Fin 4) (f : QPort → QPort) : (modQport s p f).tiles = s.tiles := rfl
@[simp] theorem modQport_fe (s : State) (p : Fin 4) (f : QPort → QPort) : (modQport s p f).fe = s.fe := rfl
@[simp] theorem modQport_links (s : State) (p : Fin 4) (f : QPort → QPort) : (modQport s p f).links = s.links := rfl
@[simp] theorem modQport_chains (s : State) (p : Fin 4) (f : QPort → QPort) : (modQport s p f).chains = s.chains := rfl
@[simp] theorem modQport_lanes (s : State) (p : Fin 4) (f : QPort → QPort) : (modQport s p f).lanes = s.lanes := rfl
@[simp] theorem modQport_dram (s : State) (p : Fin 4) (f : QPort → QPort) : (modQport s p f).dram = s.dram := rfl
@[simp] theorem modQport_fbd (s : State) (p : Fin 4) (f : QPort → QPort) : (modQport s p f).fbd = s.fbd := rfl
@[simp] theorem modQport_scratch (s : State) (p : Fin 4) (f : QPort → QPort) : (modQport s p f).scratch = s.scratch := rfl
@[simp] theorem modQport_jobs (s : State) (p : Fin 4) (f : QPort → QPort) : (modQport s p f).jobs = s.jobs := rfl
@[simp] theorem modQport_quera (s : State) (p : Fin 4) (f : QPort → QPort) : (modQport s p f).quera = { s.quera with ports := vmod s.quera.ports p f } := rfl
@[simp] theorem modQport_flash (s : State) (p : Fin 4) (f : QPort → QPort) : (modQport s p f).flash = s.flash := rfl
@[simp] theorem modQport_sec (s : State) (p : Fin 4) (f : QPort → QPort) : (modQport s p f).sec = s.sec := rfl
@[simp] theorem modQport_boot (s : State) (p : Fin 4) (f : QPort → QPort) : (modQport s p f).boot = s.boot := rfl
@[simp] theorem modQport_power (s : State) (p : Fin 4) (f : QPort → QPort) : (modQport s p f).power = s.power := rfl
@[simp] theorem modQport_dike (s : State) (p : Fin 4) (f : QPort → QPort) : (modQport s p f).dike = s.dike := rfl
@[simp] theorem modQport_panel (s : State) (p : Fin 4) (f : QPort → QPort) : (modQport s p f).panel = s.panel := rfl
@[simp] theorem modQport_pins (s : State) (p : Fin 4) (f : QPort → QPort) : (modQport s p f).pins = s.pins := rfl
@[simp] theorem modQport_out (s : State) (p : Fin 4) (f : QPort → QPort) : (modQport s p f).out = s.out := rfl
@[simp] theorem modQport_free (s : State) (p : Fin 4) (f : QPort → QPort) : (modQport s p f).free = s.free := rfl
@[simp] theorem modQport_pending (s : State) (p : Fin 4) (f : QPort → QPort) : (modQport s p f).pending = s.pending := rfl

/-! ## `modCap` -/

@[simp] theorem modCap_tb (s : State) (n : Stall) (f : Capture → Capture) : (modCap s n f).tb = s.tb := rfl
@[simp] theorem modCap_fns (s : State) (n : Stall) (f : Capture → Capture) : (modCap s n f).fns = s.fns := rfl
@[simp] theorem modCap_pcie (s : State) (n : Stall) (f : Capture → Capture) : (modCap s n f).pcie = s.pcie := rfl
@[simp] theorem modCap_groom (s : State) (n : Stall) (f : Capture → Capture) : (modCap s n f).groom = s.groom := rfl
@[simp] theorem modCap_stalls (s : State) (n : Stall) (f : Capture → Capture) : (modCap s n f).stalls = vmod s.stalls n fun x => { x with cap := x.cap.map f } := rfl
@[simp] theorem modCap_chans (s : State) (n : Stall) (f : Capture → Capture) : (modCap s n f).chans = s.chans := rfl
@[simp] theorem modCap_ports (s : State) (n : Stall) (f : Capture → Capture) : (modCap s n f).ports = s.ports := rfl
@[simp] theorem modCap_tiles (s : State) (n : Stall) (f : Capture → Capture) : (modCap s n f).tiles = s.tiles := rfl
@[simp] theorem modCap_fe (s : State) (n : Stall) (f : Capture → Capture) : (modCap s n f).fe = s.fe := rfl
@[simp] theorem modCap_links (s : State) (n : Stall) (f : Capture → Capture) : (modCap s n f).links = s.links := rfl
@[simp] theorem modCap_chains (s : State) (n : Stall) (f : Capture → Capture) : (modCap s n f).chains = s.chains := rfl
@[simp] theorem modCap_lanes (s : State) (n : Stall) (f : Capture → Capture) : (modCap s n f).lanes = s.lanes := rfl
@[simp] theorem modCap_dram (s : State) (n : Stall) (f : Capture → Capture) : (modCap s n f).dram = s.dram := rfl
@[simp] theorem modCap_fbd (s : State) (n : Stall) (f : Capture → Capture) : (modCap s n f).fbd = s.fbd := rfl
@[simp] theorem modCap_scratch (s : State) (n : Stall) (f : Capture → Capture) : (modCap s n f).scratch = s.scratch := rfl
@[simp] theorem modCap_jobs (s : State) (n : Stall) (f : Capture → Capture) : (modCap s n f).jobs = s.jobs := rfl
@[simp] theorem modCap_quera (s : State) (n : Stall) (f : Capture → Capture) : (modCap s n f).quera = s.quera := rfl
@[simp] theorem modCap_flash (s : State) (n : Stall) (f : Capture → Capture) : (modCap s n f).flash = s.flash := rfl
@[simp] theorem modCap_sec (s : State) (n : Stall) (f : Capture → Capture) : (modCap s n f).sec = s.sec := rfl
@[simp] theorem modCap_boot (s : State) (n : Stall) (f : Capture → Capture) : (modCap s n f).boot = s.boot := rfl
@[simp] theorem modCap_power (s : State) (n : Stall) (f : Capture → Capture) : (modCap s n f).power = s.power := rfl
@[simp] theorem modCap_dike (s : State) (n : Stall) (f : Capture → Capture) : (modCap s n f).dike = s.dike := rfl
@[simp] theorem modCap_panel (s : State) (n : Stall) (f : Capture → Capture) : (modCap s n f).panel = s.panel := rfl
@[simp] theorem modCap_pins (s : State) (n : Stall) (f : Capture → Capture) : (modCap s n f).pins = s.pins := rfl
@[simp] theorem modCap_out (s : State) (n : Stall) (f : Capture → Capture) : (modCap s n f).out = s.out := rfl
@[simp] theorem modCap_free (s : State) (n : Stall) (f : Capture → Capture) : (modCap s n f).free = s.free := rfl
@[simp] theorem modCap_pending (s : State) (n : Stall) (f : Capture → Capture) : (modCap s n f).pending = s.pending := rfl

/-! ## `modEng` -/

@[simp] theorem modEng_tb (s : State) (n : Stall) (f : Engine → Engine) : (modEng s n f).tb = s.tb := rfl
@[simp] theorem modEng_fns (s : State) (n : Stall) (f : Engine → Engine) : (modEng s n f).fns = s.fns := rfl
@[simp] theorem modEng_pcie (s : State) (n : Stall) (f : Engine → Engine) : (modEng s n f).pcie = s.pcie := rfl
@[simp] theorem modEng_groom (s : State) (n : Stall) (f : Engine → Engine) : (modEng s n f).groom = s.groom := rfl
@[simp] theorem modEng_stalls (s : State) (n : Stall) (f : Engine → Engine) : (modEng s n f).stalls = vmod s.stalls n fun x => { x with eng := f x.eng } := rfl
@[simp] theorem modEng_chans (s : State) (n : Stall) (f : Engine → Engine) : (modEng s n f).chans = s.chans := rfl
@[simp] theorem modEng_ports (s : State) (n : Stall) (f : Engine → Engine) : (modEng s n f).ports = s.ports := rfl
@[simp] theorem modEng_tiles (s : State) (n : Stall) (f : Engine → Engine) : (modEng s n f).tiles = s.tiles := rfl
@[simp] theorem modEng_fe (s : State) (n : Stall) (f : Engine → Engine) : (modEng s n f).fe = s.fe := rfl
@[simp] theorem modEng_links (s : State) (n : Stall) (f : Engine → Engine) : (modEng s n f).links = s.links := rfl
@[simp] theorem modEng_chains (s : State) (n : Stall) (f : Engine → Engine) : (modEng s n f).chains = s.chains := rfl
@[simp] theorem modEng_lanes (s : State) (n : Stall) (f : Engine → Engine) : (modEng s n f).lanes = s.lanes := rfl
@[simp] theorem modEng_dram (s : State) (n : Stall) (f : Engine → Engine) : (modEng s n f).dram = s.dram := rfl
@[simp] theorem modEng_fbd (s : State) (n : Stall) (f : Engine → Engine) : (modEng s n f).fbd = s.fbd := rfl
@[simp] theorem modEng_scratch (s : State) (n : Stall) (f : Engine → Engine) : (modEng s n f).scratch = s.scratch := rfl
@[simp] theorem modEng_jobs (s : State) (n : Stall) (f : Engine → Engine) : (modEng s n f).jobs = s.jobs := rfl
@[simp] theorem modEng_quera (s : State) (n : Stall) (f : Engine → Engine) : (modEng s n f).quera = s.quera := rfl
@[simp] theorem modEng_flash (s : State) (n : Stall) (f : Engine → Engine) : (modEng s n f).flash = s.flash := rfl
@[simp] theorem modEng_sec (s : State) (n : Stall) (f : Engine → Engine) : (modEng s n f).sec = s.sec := rfl
@[simp] theorem modEng_boot (s : State) (n : Stall) (f : Engine → Engine) : (modEng s n f).boot = s.boot := rfl
@[simp] theorem modEng_power (s : State) (n : Stall) (f : Engine → Engine) : (modEng s n f).power = s.power := rfl
@[simp] theorem modEng_dike (s : State) (n : Stall) (f : Engine → Engine) : (modEng s n f).dike = s.dike := rfl
@[simp] theorem modEng_panel (s : State) (n : Stall) (f : Engine → Engine) : (modEng s n f).panel = s.panel := rfl
@[simp] theorem modEng_pins (s : State) (n : Stall) (f : Engine → Engine) : (modEng s n f).pins = s.pins := rfl
@[simp] theorem modEng_out (s : State) (n : Stall) (f : Engine → Engine) : (modEng s n f).out = s.out := rfl
@[simp] theorem modEng_free (s : State) (n : Stall) (f : Engine → Engine) : (modEng s n f).free = s.free := rfl
@[simp] theorem modEng_pending (s : State) (n : Stall) (f : Engine → Engine) : (modEng s n f).pending = s.pending := rfl

/-! ## `modRef` -/

@[simp] theorem modRef_tb (s : State) (n : Stall) (f : Reference → Reference) : (modRef s n f).tb = s.tb := rfl
@[simp] theorem modRef_fns (s : State) (n : Stall) (f : Reference → Reference) : (modRef s n f).fns = s.fns := rfl
@[simp] theorem modRef_pcie (s : State) (n : Stall) (f : Reference → Reference) : (modRef s n f).pcie = s.pcie := rfl
@[simp] theorem modRef_groom (s : State) (n : Stall) (f : Reference → Reference) : (modRef s n f).groom = s.groom := rfl
@[simp] theorem modRef_stalls (s : State) (n : Stall) (f : Reference → Reference) : (modRef s n f).stalls = vmod s.stalls n fun x => { x with ref := f x.ref } := rfl
@[simp] theorem modRef_chans (s : State) (n : Stall) (f : Reference → Reference) : (modRef s n f).chans = s.chans := rfl
@[simp] theorem modRef_ports (s : State) (n : Stall) (f : Reference → Reference) : (modRef s n f).ports = s.ports := rfl
@[simp] theorem modRef_tiles (s : State) (n : Stall) (f : Reference → Reference) : (modRef s n f).tiles = s.tiles := rfl
@[simp] theorem modRef_fe (s : State) (n : Stall) (f : Reference → Reference) : (modRef s n f).fe = s.fe := rfl
@[simp] theorem modRef_links (s : State) (n : Stall) (f : Reference → Reference) : (modRef s n f).links = s.links := rfl
@[simp] theorem modRef_chains (s : State) (n : Stall) (f : Reference → Reference) : (modRef s n f).chains = s.chains := rfl
@[simp] theorem modRef_lanes (s : State) (n : Stall) (f : Reference → Reference) : (modRef s n f).lanes = s.lanes := rfl
@[simp] theorem modRef_dram (s : State) (n : Stall) (f : Reference → Reference) : (modRef s n f).dram = s.dram := rfl
@[simp] theorem modRef_fbd (s : State) (n : Stall) (f : Reference → Reference) : (modRef s n f).fbd = s.fbd := rfl
@[simp] theorem modRef_scratch (s : State) (n : Stall) (f : Reference → Reference) : (modRef s n f).scratch = s.scratch := rfl
@[simp] theorem modRef_jobs (s : State) (n : Stall) (f : Reference → Reference) : (modRef s n f).jobs = s.jobs := rfl
@[simp] theorem modRef_quera (s : State) (n : Stall) (f : Reference → Reference) : (modRef s n f).quera = s.quera := rfl
@[simp] theorem modRef_flash (s : State) (n : Stall) (f : Reference → Reference) : (modRef s n f).flash = s.flash := rfl
@[simp] theorem modRef_sec (s : State) (n : Stall) (f : Reference → Reference) : (modRef s n f).sec = s.sec := rfl
@[simp] theorem modRef_boot (s : State) (n : Stall) (f : Reference → Reference) : (modRef s n f).boot = s.boot := rfl
@[simp] theorem modRef_power (s : State) (n : Stall) (f : Reference → Reference) : (modRef s n f).power = s.power := rfl
@[simp] theorem modRef_dike (s : State) (n : Stall) (f : Reference → Reference) : (modRef s n f).dike = s.dike := rfl
@[simp] theorem modRef_panel (s : State) (n : Stall) (f : Reference → Reference) : (modRef s n f).panel = s.panel := rfl
@[simp] theorem modRef_pins (s : State) (n : Stall) (f : Reference → Reference) : (modRef s n f).pins = s.pins := rfl
@[simp] theorem modRef_out (s : State) (n : Stall) (f : Reference → Reference) : (modRef s n f).out = s.out := rfl
@[simp] theorem modRef_free (s : State) (n : Stall) (f : Reference → Reference) : (modRef s n f).free = s.free := rfl
@[simp] theorem modRef_pending (s : State) (n : Stall) (f : Reference → Reference) : (modRef s n f).pending = s.pending := rfl

/-! ## `modGroom` -/

@[simp] theorem modGroom_tb (s : State) (f : Groom → Groom) : (modGroom s f).tb = s.tb := rfl
@[simp] theorem modGroom_fns (s : State) (f : Groom → Groom) : (modGroom s f).fns = s.fns := rfl
@[simp] theorem modGroom_pcie (s : State) (f : Groom → Groom) : (modGroom s f).pcie = s.pcie := rfl
@[simp] theorem modGroom_groom (s : State) (f : Groom → Groom) : (modGroom s f).groom = f s.groom := rfl
@[simp] theorem modGroom_stalls (s : State) (f : Groom → Groom) : (modGroom s f).stalls = s.stalls := rfl
@[simp] theorem modGroom_chans (s : State) (f : Groom → Groom) : (modGroom s f).chans = s.chans := rfl
@[simp] theorem modGroom_ports (s : State) (f : Groom → Groom) : (modGroom s f).ports = s.ports := rfl
@[simp] theorem modGroom_tiles (s : State) (f : Groom → Groom) : (modGroom s f).tiles = s.tiles := rfl
@[simp] theorem modGroom_fe (s : State) (f : Groom → Groom) : (modGroom s f).fe = s.fe := rfl
@[simp] theorem modGroom_links (s : State) (f : Groom → Groom) : (modGroom s f).links = s.links := rfl
@[simp] theorem modGroom_chains (s : State) (f : Groom → Groom) : (modGroom s f).chains = s.chains := rfl
@[simp] theorem modGroom_lanes (s : State) (f : Groom → Groom) : (modGroom s f).lanes = s.lanes := rfl
@[simp] theorem modGroom_dram (s : State) (f : Groom → Groom) : (modGroom s f).dram = s.dram := rfl
@[simp] theorem modGroom_fbd (s : State) (f : Groom → Groom) : (modGroom s f).fbd = s.fbd := rfl
@[simp] theorem modGroom_scratch (s : State) (f : Groom → Groom) : (modGroom s f).scratch = s.scratch := rfl
@[simp] theorem modGroom_jobs (s : State) (f : Groom → Groom) : (modGroom s f).jobs = s.jobs := rfl
@[simp] theorem modGroom_quera (s : State) (f : Groom → Groom) : (modGroom s f).quera = s.quera := rfl
@[simp] theorem modGroom_flash (s : State) (f : Groom → Groom) : (modGroom s f).flash = s.flash := rfl
@[simp] theorem modGroom_sec (s : State) (f : Groom → Groom) : (modGroom s f).sec = s.sec := rfl
@[simp] theorem modGroom_boot (s : State) (f : Groom → Groom) : (modGroom s f).boot = s.boot := rfl
@[simp] theorem modGroom_power (s : State) (f : Groom → Groom) : (modGroom s f).power = s.power := rfl
@[simp] theorem modGroom_dike (s : State) (f : Groom → Groom) : (modGroom s f).dike = s.dike := rfl
@[simp] theorem modGroom_panel (s : State) (f : Groom → Groom) : (modGroom s f).panel = s.panel := rfl
@[simp] theorem modGroom_pins (s : State) (f : Groom → Groom) : (modGroom s f).pins = s.pins := rfl
@[simp] theorem modGroom_out (s : State) (f : Groom → Groom) : (modGroom s f).out = s.out := rfl
@[simp] theorem modGroom_free (s : State) (f : Groom → Groom) : (modGroom s f).free = s.free := rfl
@[simp] theorem modGroom_pending (s : State) (f : Groom → Groom) : (modGroom s f).pending = s.pending := rfl

/-! ## `emit` -/

@[simp] theorem emit_tb (s : State) (o : Output) : (emit s o).tb = s.tb := rfl
@[simp] theorem emit_fns (s : State) (o : Output) : (emit s o).fns = s.fns := rfl
@[simp] theorem emit_pcie (s : State) (o : Output) : (emit s o).pcie = s.pcie := rfl
@[simp] theorem emit_groom (s : State) (o : Output) : (emit s o).groom = s.groom := rfl
@[simp] theorem emit_stalls (s : State) (o : Output) : (emit s o).stalls = s.stalls := rfl
@[simp] theorem emit_chans (s : State) (o : Output) : (emit s o).chans = s.chans := rfl
@[simp] theorem emit_ports (s : State) (o : Output) : (emit s o).ports = s.ports := rfl
@[simp] theorem emit_tiles (s : State) (o : Output) : (emit s o).tiles = s.tiles := rfl
@[simp] theorem emit_fe (s : State) (o : Output) : (emit s o).fe = s.fe := rfl
@[simp] theorem emit_links (s : State) (o : Output) : (emit s o).links = s.links := rfl
@[simp] theorem emit_chains (s : State) (o : Output) : (emit s o).chains = s.chains := rfl
@[simp] theorem emit_lanes (s : State) (o : Output) : (emit s o).lanes = s.lanes := rfl
@[simp] theorem emit_dram (s : State) (o : Output) : (emit s o).dram = s.dram := rfl
@[simp] theorem emit_fbd (s : State) (o : Output) : (emit s o).fbd = s.fbd := rfl
@[simp] theorem emit_scratch (s : State) (o : Output) : (emit s o).scratch = s.scratch := rfl
@[simp] theorem emit_jobs (s : State) (o : Output) : (emit s o).jobs = s.jobs := rfl
@[simp] theorem emit_quera (s : State) (o : Output) : (emit s o).quera = s.quera := rfl
@[simp] theorem emit_flash (s : State) (o : Output) : (emit s o).flash = s.flash := rfl
@[simp] theorem emit_sec (s : State) (o : Output) : (emit s o).sec = s.sec := rfl
@[simp] theorem emit_boot (s : State) (o : Output) : (emit s o).boot = s.boot := rfl
@[simp] theorem emit_power (s : State) (o : Output) : (emit s o).power = s.power := rfl
@[simp] theorem emit_dike (s : State) (o : Output) : (emit s o).dike = s.dike := rfl
@[simp] theorem emit_panel (s : State) (o : Output) : (emit s o).panel = s.panel := rfl
@[simp] theorem emit_pins (s : State) (o : Output) : (emit s o).pins = s.pins := rfl
@[simp] theorem emit_out (s : State) (o : Output) : (emit s o).out = s.out ++ [o] := rfl
@[simp] theorem emit_free (s : State) (o : Output) : (emit s o).free = s.free := rfl
@[simp] theorem emit_pending (s : State) (o : Output) : (emit s o).pending = s.pending := rfl

end Sys2Proof.Machine
end

