-- ==== Sys2Proof/Laws/Answers.lean ====
section
/-! SUPPORT. The frame of an entry to a function's ring: writing it, draining the store, completing a command and sending an
event change what `answersOnly` names and nothing else. -/

namespace Sys2Proof.Machine

theorem answersOnly_refl (f : Fn) (s : State) : answersOnly f s s := ⟨rfl, fun _ _ => ⟨rfl, rfl⟩, rfl, rfl, [], (List.append_nil _).symm⟩

theorem answersOnly_trans {f : Fn} {s t u : State} (h : answersOnly f s t) (k : answersOnly f t u) : answersOnly f s u := by
  obtain ⟨h1, h2, h3, h4, l, h5⟩ := h
  obtain ⟨k1, k2, k3, k4, m, k5⟩ := k
  refine ⟨?_, fun g hg => ⟨(k2 g hg).1.trans (h2 g hg).1, (k2 g hg).2.trans (h2 g hg).2⟩, ?_, ?_, l ++ m, ?_⟩
  · rw [k1, h1]
  · rw [k3, h3]
  · rw [k4, h4]
  · rw [k5, h5, List.append_assoc]

theorem ite_answers {f : Fn} {s t u : State} {c : Prop} [Decidable c] (h : answersOnly f s t) (k : answersOnly f s u) :
    answersOnly f s (if c then t else u) := by
  split <;> assumption

theorem emit_answers (f : Fn) (s : State) (o : Output) : answersOnly f s (emit s o) :=
  ⟨rfl, fun _ _ => ⟨rfl, rfl⟩, rfl, rfl, [o], rfl⟩

theorem modFn_answers (f : Fn) (s : State) (g : FnState → FnState)
    (h : ∀ r, g r = { r with
      cqIndex := (g r).cqIndex, cqPhase := (g r).cqPhase, cntC := (g r).cntC, oldC := (g r).oldC
      cntE := (g r).cntE, oldE := (g r).oldE, msixPending := (g r).msixPending }) : answersOnly f s (modFn s f g) := by
  refine ⟨rfl, fun k hk => ⟨vmod_ne _ (Ne.symm hk) _, rfl⟩, ?_, rfl, [], (List.append_nil _).symm⟩
  simp only [modFn, vmod_same]
  exact h _

theorem modStall_answers (f : Fn) (s : State) (g : StallState → StallState)
    (h : ∀ x, g x = { x with store := (g x).store, outst := (g x).outst, eventsDropped := (g x).eventsDropped }) :
    answersOnly f s (modStall s f g) := by
  refine ⟨rfl, fun k hk => ⟨rfl, vmod_ne _ (Ne.symm hk) _⟩, rfl, ?_, [], (List.append_nil _).symm⟩
  simp only [modStall, vmod_same]
  exact h _

theorem sendMsix_answers (s : State) (f : Fn) (v : Fin 8) : answersOnly f s (sendMsix s f v) := by
  unfold sendMsix
  dsimp only
  split
  · exact answersOnly_refl _ _
  · split
    · exact modFn_answers _ _ _ fun _ => rfl
    · exact emit_answers _ _ _

theorem countEntry_answers (s : State) (f : Fn) (event : Bool) : answersOnly f s (countEntry s f event) := by
  unfold countEntry
  dsimp only
  have h (a b : Nat) (c : BitVec 64) : answersOnly f s
      (modFn s f fun r => if event then { r with cntE := a, oldE := c } else { r with cntC := b, oldC := c }) := by
    refine modFn_answers _ _ _ fun r => ?_
    cases event <;> rfl
  exact ite_answers (answersOnly_trans (h _ _ _) (sendMsix_answers _ _ _)) (h _ _ _)

theorem writeEntry_answers (s : State) (f : Fn) (e : CqEntry) : answersOnly f s (writeEntry s f e) := by
  unfold writeEntry
  dsimp only
  refine answersOnly_trans ?_ (countEntry_answers _ _ _)
  have h (o : Output) (i n : Nat) : answersOnly f s (modFn (emit s o) f fun r => { r with
      cqIndex := BitVec.ofNat 12 i, cqPhase := if n = 0 then !r.cqPhase else r.cqPhase }) :=
    answersOnly_trans (emit_answers f s o) (modFn_answers f _ _ fun _ => rfl)
  exact ite_answers (answersOnly_trans (h _ _ _) (modStall_answers f _ _ fun _ => rfl)) (h _ _ _)

theorem drainLoop_answers (f : Fn) (k : Nat) (s : State) : answersOnly f s (drainLoop f k s) := by
  induction k generalizing s with
  | zero => exact answersOnly_refl _ _
  | succ k ih =>
    unfold drainLoop
    split
    · exact answersOnly_refl _ _
    · split
      · exact answersOnly_trans (modStall_answers f s _ fun _ => rfl) (answersOnly_trans (writeEntry_answers _ _ _) (ih _))
      · exact answersOnly_refl _ _

theorem drain_answers (s : State) (f : Fn) : answersOnly f s (drain s f) := drainLoop_answers _ _ _

/-- An entry changes only what the ring and the store of its function hold. -/
theorem pushEntry_answers (s : State) (f : Fn) (e : CqEntry) : answersOnly f s (pushEntry s f e) := by
  unfold pushEntry
  split
  · exact modStall_answers _ _ _ fun _ => rfl
  · exact answersOnly_trans (modStall_answers f s _ fun _ => rfl) (drain_answers _ _)

theorem completeAt_answers (s : State) (t : Taken) (st : Status) (p : Pay) : answersOnly t.fn s (completeAt s t st p) :=
  pushEntry_answers _ _ _

theorem completeTag_answers (s : State) (f : Fn) (tag : BitVec 16) (st : Status) (p : Pay) :
    answersOnly f s (completeTag s f tag st p) := by
  unfold completeTag
  split
  · exact answersOnly_refl _ _
  · exact pushEntry_answers _ _ _

theorem sendEvent_answers (s : State) (f : Fn) (e : CqEntry) : answersOnly f s (sendEvent s f e) := by
  unfold sendEvent
  split
  · exact answersOnly_refl _ _
  · exact pushEntry_answers _ _ _

/-- A completion keeps the event part of the store within what it was. -/
theorem eventPart_append_completion {l : List CqEntry} {e : CqEntry} (h : e.kind = .completion) :
    eventPart (l ++ [e]) = eventPart l := by
  simp [eventPart, h]

end Sys2Proof.Machine
end

