-- ==== Sys2Proof/Laws/Bits.lean ====
section
/-!
SUPPORT. The bits of the masks: a mask made from a predicate has the predicate's bits, and setting one bit of a word leaves the
others.
-/

namespace Sys2Proof.Machine

/-- The sum that a mask is made of, and its size. -/
theorem maskSum_spec (p : Nat → Bool) (n : Nat) :
    ((List.range n).map fun i => if p i then 2 ^ i else 0).foldl (· + ·) 0 < 2 ^ n ∧
    ∀ i, (((List.range n).map fun i => if p i then 2 ^ i else 0).foldl (· + ·) 0).testBit i = (decide (i < n) && p i) := by
  induction n with
  | zero => simp
  | succ n ih =>
    rw [List.range_succ, List.map_append, List.foldl_append]
    simp only [List.map_cons, List.map_nil, List.foldl_cons, List.foldl_nil]
    obtain ⟨hlt, hb⟩ := ih
    generalize ((List.range n).map fun i => if p i then 2 ^ i else 0).foldl (· + ·) 0 = x at hlt hb
    cases hp : p n
    · refine ⟨by rw [Nat.pow_succ]; simp; omega, fun i => ?_⟩
      simp only [Bool.false_eq_true, if_false, Nat.add_zero]
      rw [hb i]
      by_cases h : i = n
      · subst h; simp [hp]
      · congr 1; simp; omega
    · simp only [if_true]
      refine ⟨by rw [Nat.pow_succ]; omega, fun i => ?_⟩
      rw [Nat.add_comm]
      rcases Nat.lt_trichotomy i n with h | h | h
      · rw [Nat.testBit_two_pow_add_gt h, hb i]; congr 1; simp; omega
      · subst h; rw [Nat.testBit_two_pow_add_eq, Nat.testBit_lt_two_pow hlt]; simp [hp]
      · rw [Nat.testBit_lt_two_pow]
        · have : ¬ i < n + 1 := by omega
          simp [this]
        · calc 2 ^ n + x < 2 ^ n + 2 ^ n := by omega
            _ = 2 ^ (n + 1) := by rw [Nat.pow_succ]; omega
            _ ≤ 2 ^ i := Nat.pow_le_pow_right (by omega) (by omega)

/-- A mask made from a predicate has its bits. -/
theorem bit_maskOf {n : Nat} (p : Nat → Bool) {i : Nat} (h : i < n) : bit (maskOf n p) i = p i := by
  unfold bit maskOf
  rw [BitVec.getLsbD_ofNat, (maskSum_spec p n).2 i]
  simp [h]

/-- Setting a bit to 1 or 0 changes that bit alone. -/
theorem bit_setBit {n : Nat} (w : BitVec n) {k i : Nat} (b : Bool) (h : i < n) :
    bit (setBit w k b) i = if i = k then b else bit w i := by
  unfold bit setBit
  cases b <;> simp only [Bool.false_eq_true, if_false, if_true] <;>
    simp only [BitVec.getLsbD_or, BitVec.getLsbD_and, BitVec.getLsbD_not, BitVec.getLsbD_ofNat, h, decide_true, Bool.true_and, Nat.testBit_two_pow]
  · by_cases e : i = k
    · subst e; simp
    · rw [if_neg e]; have : ¬ k = i := fun x => e x.symm
      simp [this]
  · by_cases e : i = k
    · subst e; simp
    · rw [if_neg e]; have : ¬ k = i := fun x => e x.symm
      simp [this]

end Sys2Proof.Machine
end

