-- ==== Sys2Proof/Laws/Commands.lean ====
section
/-! SUPPORT. What the shared operations over a command in hand answer: taking it out of the Groom's hand, and delivering a
result. -/

namespace Sys2Proof.Machine

/-- The command in hand is the row's: it leaves the Groom's hand and the row's effect follows. -/
theorem withCmd_at {s : State} {t : Taken} {p : Taken → Bool} {g : State → Taken → State} (h : s.groom.taken = some t)
    (hp : p t = true) : withCmd s p g = g { s with groom := { s.groom with taken := none } } t := by
  unfold withCmd
  rw [h]
  exact if_pos hp

/-- Without the row's command in hand nothing happens. -/
theorem withCmd_other {s : State} {p : Taken → Bool} {g : State → Taken → State} (h : ∀ t, s.groom.taken = some t → p t = false) :
    withCmd s p g = s := by
  unfold withCmd
  split
  · rfl
  · rename_i t e
    rw [h t e]
    exact if_neg Bool.false_ne_true

theorem isOp_of {n : Nat} {t : Taken} (h : opcode t.e = n) : isOp n t = true := by
  unfold isOp
  rw [h]
  exact beq_self_eq_true n

/-- A result that fits is written whole and the command completes. -/
theorem giveResult_fits {s : State} {t : Taken} {l : List Byte} {p : Pay} (h : l.length ≤ resultLen t.e) :
    giveResult s t l p = completeAt (writeResult s t l) t .ok p := if_neg (Nat.not_lt.mpr h)

/-- A result too long for its space is not written. -/
theorem giveResult_overflows {s : State} {t : Taken} {l : List Byte} {p : Pay} (h : resultLen t.e < l.length) :
    giveResult s t l p = complete s t .outputOverflow := if_pos h

theorem resultCommand_fits {s : State} {t : Taken} {l : List Byte} {p : Pay} (hr : reservedBit t.e resultBits = none)
    (hb : badResult t.e = none) (h : l.length ≤ resultLen t.e) :
    resultCommand s t l p = completeAt (writeResult s t l) t .ok p := by
  unfold resultCommand
  rw [hr, hb]
  exact giveResult_fits h

end Sys2Proof.Machine
end

