-- ==== Sys2Proof/Laws/Kept.lean ====
section
/-! SUPPORT. The frame the lemmas of Laws/Kept*.lean are about: system time, the two addressed memories and the queue of
commands. One lemma per function of the machine says that it keeps the four; the few that write one of them are in
Laws/Sound.lean. -/

namespace Sys2Proof.Machine

/-- What the frame lemmas are about: system time, the two addressed memories, and the queue of commands. -/
def kept (s : State) : Time × Memory × Memory × List Instr := (s.tb.now, s.scratch, s.dram.mem, s.pending)

theorem kept_fold (s : State) : (s.tb.now, s.scratch, s.dram.mem, s.pending) = kept s := rfl

theorem kept_mk (tb fns pcie groom stalls chans ports tiles fe links chains lanes dram fbd scratch jobs quera flash sec boot power dike
    panel pins out free pending) :
    kept (State.mk tb fns pcie groom stalls chans ports tiles fe links chains lanes dram fbd scratch jobs quera flash sec boot power dike
      panel pins out free pending) = (tb.now, scratch, dram.mem, pending) := rfl

theorem kept_fns (s : State) (x) : kept { s with fns := x } = kept s := rfl

theorem kept_pcie (s : State) (x) : kept { s with pcie := x } = kept s := rfl

theorem kept_groom (s : State) (x) : kept { s with groom := x } = kept s := rfl

theorem kept_stalls (s : State) (x) : kept { s with stalls := x } = kept s := rfl

theorem kept_chans (s : State) (x) : kept { s with chans := x } = kept s := rfl

theorem kept_ports (s : State) (x) : kept { s with ports := x } = kept s := rfl

theorem kept_tiles (s : State) (x) : kept { s with tiles := x } = kept s := rfl

theorem kept_fe (s : State) (x) : kept { s with fe := x } = kept s := rfl

theorem kept_links (s : State) (x) : kept { s with links := x } = kept s := rfl

theorem kept_chains (s : State) (x) : kept { s with chains := x } = kept s := rfl

theorem kept_lanes (s : State) (x) : kept { s with lanes := x } = kept s := rfl

theorem kept_fbd (s : State) (x) : kept { s with fbd := x } = kept s := rfl

theorem kept_jobs (s : State) (x) : kept { s with jobs := x } = kept s := rfl

theorem kept_quera (s : State) (x) : kept { s with quera := x } = kept s := rfl

theorem kept_flash (s : State) (x) : kept { s with flash := x } = kept s := rfl

theorem kept_sec (s : State) (x) : kept { s with sec := x } = kept s := rfl

theorem kept_boot (s : State) (x) : kept { s with boot := x } = kept s := rfl

theorem kept_power (s : State) (x) : kept { s with power := x } = kept s := rfl

theorem kept_dike (s : State) (x) : kept { s with dike := x } = kept s := rfl

theorem kept_panel (s : State) (x) : kept { s with panel := x } = kept s := rfl

theorem kept_pins (s : State) (x) : kept { s with pins := x } = kept s := rfl

theorem kept_out (s : State) (x) : kept { s with out := x } = kept s := rfl

theorem kept_free (s : State) (x) : kept { s with free := x } = kept s := rfl

theorem kept_tb (s : State) (x : Timebase) (h : x.now = s.tb.now) : kept { s with tb := x } = kept s := by
  unfold kept; rw [h]

theorem kept_upd (s t : State) (h1 : t.tb.now = s.tb.now) (h2 : t.scratch = s.scratch) (h3 : t.dram.mem = s.dram.mem)
    (h4 : t.pending = s.pending) : kept t = kept s := by
  unfold kept; rw [h1, h2, h3, h4]

theorem kept_ite {c : Prop} [Decidable c] (a b : State) : kept (if c then a else b) = if c then kept a else kept b := by
  split <;> rfl

theorem kept_foldl {α : Type} (f : State → α → State) (h : ∀ s a, kept (f s a) = kept s) (l : List α) (s : State) :
    kept (l.foldl f s) = kept s := by
  induction l generalizing s with
  | nil => rfl
  | cons a l ih => rw [List.foldl_cons, ih, h]

/-- An outcome that goes on keeps what the frame lemmas are about. -/
def keptBy (s : State) : Host.Outcome State Fault Refusal → Prop
  | .next t => kept t = kept s
  | .fault _ => True
  | .refused _ => True

theorem keptBy_next (s t : State) : keptBy s (.next t) = (kept t = kept s) := rfl

end Sys2Proof.Machine
end

