-- ==== Sys2Proof/Laws/KeptBase.lean ====
section
/-! SUPPORT. What each function keeps (Laws/Kept.lean): the named operations, the journal, the records, the storage of a polder, the staging of events, uploads, captures and the probe latches. -/

set_option linter.unusedSimpArgs false

namespace Sys2Proof.Machine

set_option Elab.async false

theorem modStall_kept (s : State) (n : Stall) (f : StallState → StallState) : kept (modStall s n f) = kept s := by
  unfold modStall
  repeat' (first | (simp only [↓kept_stalls]) | split | with_reducible rfl | (simp only [↓kept_mk, ↓kept_fold]))

theorem modFn_kept (s : State) (n : Fn) (f : FnState → FnState) : kept (modFn s n f) = kept s := by
  unfold modFn
  repeat' (first | (simp only [↓kept_fns]) | split | with_reducible rfl | (simp only [↓kept_mk, ↓kept_fold]))

theorem modChan_kept (s : State) (c : Fin 48) (f : Channel → Channel) : kept (modChan s c f) = kept s := by
  unfold modChan
  repeat' (first | (simp only [↓kept_chans]) | split | with_reducible rfl | (simp only [↓kept_mk, ↓kept_fold]))

theorem modPort_kept (s : State) (p : Fin 6) (f : PodPort → PodPort) : kept (modPort s p f) = kept s := by
  unfold modPort
  repeat' (first | (simp only [↓kept_ports]) | split | with_reducible rfl | (simp only [↓kept_mk, ↓kept_fold]))

theorem modTile_kept (s : State) (p : Fin 6) (f : Tile → Tile) : kept (modTile s p f) = kept s := by
  unfold modTile
  repeat' (first | (simp only [↓kept_tiles]) | split | with_reducible rfl | (simp only [↓kept_mk, ↓kept_fold]))

theorem modLink_kept (s : State) (l : Fin 2) (f : JLink → JLink) : kept (modLink s l f) = kept s := by
  unfold modLink
  repeat' (first | (simp only [↓kept_links]) | split | with_reducible rfl | (simp only [↓kept_mk, ↓kept_fold]))

theorem modChain_kept (s : State) (n : Fin 8) (f : Chain → Chain) : kept (modChain s n f) = kept s := by
  unfold modChain
  repeat' (first | (simp only [↓kept_chains]) | split | with_reducible rfl | (simp only [↓kept_mk, ↓kept_fold]))

theorem modLane_kept (s : State) (l : Fin 4) (f : Lane → Lane) : kept (modLane s l f) = kept s := by
  unfold modLane
  repeat' (first | (simp only [↓kept_lanes]) | split | with_reducible rfl | (simp only [↓kept_mk, ↓kept_fold]))

theorem modQport_kept (s : State) (p : Fin 4) (f : QPort → QPort) : kept (modQport s p f) = kept s := by
  unfold modQport
  repeat' (first | (simp only [↓kept_ports, ↓kept_quera]) | split | with_reducible rfl | (simp only [↓kept_mk, ↓kept_fold]))

theorem modCap_kept (s : State) (n : Stall) (f : Capture → Capture) : kept (modCap s n f) = kept s := by
  unfold modCap
  repeat' (first | (simp only [↓modStall_kept]) | split | with_reducible rfl | (simp only [↓kept_mk, ↓kept_fold]))

theorem modEng_kept (s : State) (n : Stall) (f : Engine → Engine) : kept (modEng s n f) = kept s := by
  unfold modEng
  repeat' (first | (simp only [↓modStall_kept]) | split | with_reducible rfl | (simp only [↓kept_mk, ↓kept_fold]))

theorem modRef_kept (s : State) (n : Stall) (f : Reference → Reference) : kept (modRef s n f) = kept s := by
  unfold modRef
  repeat' (first | (simp only [↓modStall_kept]) | split | with_reducible rfl | (simp only [↓kept_mk, ↓kept_fold]))

theorem modGroom_kept (s : State) (f : Groom → Groom) : kept (modGroom s f) = kept s := by
  unfold modGroom
  repeat' (first | (simp only [↓kept_groom]) | split | with_reducible rfl | (simp only [↓kept_mk, ↓kept_fold]))

theorem emit_kept (s : State) (o : Output) : kept (emit s o) = kept s := by
  unfold emit
  repeat' (first | (simp only [↓kept_out]) | split | with_reducible rfl | (simp only [↓kept_mk, ↓kept_fold]))

theorem drawFree_kept (s : State) : kept (drawFree s).2 = kept s := by
  unfold drawFree
  repeat' (first | (simp only [↓kept_free]) | split | with_reducible rfl | (simp only [↓kept_mk, ↓kept_fold]))

theorem sendMsix_kept (s : State) (f : Fn) (v : Fin 8) : kept (sendMsix s f v) = kept s := by
  unfold sendMsix
  repeat' (first | (simp only [↓kept_ite, ite_self, ↓emit_kept, ↓modFn_kept]) | split | with_reducible rfl
                    | (simp only [↓kept_mk, ↓kept_fold]))

theorem countEntry_kept (s : State) (f : Fn) (event : Bool) : kept (countEntry s f event) = kept s := by
  unfold countEntry
  repeat' (first | (simp only [↓kept_ite, ite_self, ↓modFn_kept, ↓sendMsix_kept]) | split | with_reducible rfl
                    | (simp only [↓kept_mk, ↓kept_fold]))

theorem writeEntry_kept (s : State) (f : Fn) (e : CqEntry) : kept (writeEntry s f e) = kept s := by
  unfold writeEntry
  repeat' (first | (simp only [↓kept_ite, ite_self, ↓countEntry_kept, ↓emit_kept, ↓modFn_kept, ↓modStall_kept])
                    | split | with_reducible rfl | (simp only [↓kept_mk, ↓kept_fold]))

theorem drainLoop_kept (f : Fn) (k : Nat) (s : State) : kept (drainLoop f k s) = kept s := by
  induction k generalizing s with
  | zero => rfl
  | succ k ih =>
    unfold drainLoop
    repeat' (first | (simp only [↓ih, ↓writeEntry_kept, ↓modStall_kept, ↓kept_ite, ite_self]) | split)

theorem drain_kept (s : State) (f : Fn) : kept (drain s f) = kept s := by
  unfold drain
  repeat' (first | (simp only [↓drainLoop_kept]) | split | with_reducible rfl)

theorem pushEntry_kept (s : State) (f : Fn) (e : CqEntry) : kept (pushEntry s f e) = kept s := by
  unfold pushEntry
  repeat' (first | (simp only [↓kept_ite, ite_self, ↓drain_kept, ↓modStall_kept]) | split | with_reducible rfl
                    | (simp only [↓kept_mk, ↓kept_fold]))

theorem sendEvent_kept (s : State) (f : Fn) (e : CqEntry) : kept (sendEvent s f e) = kept s := by
  unfold sendEvent
  repeat' (first | (simp only [↓kept_ite, ite_self, ↓pushEntry_kept]) | split | with_reducible rfl
                    | (simp only [↓kept_mk, ↓kept_fold]))

theorem sendEvents_kept (s : State) (l : List (Fn × CqEntry)) : kept (sendEvents s l) = kept s := by
  unfold sendEvents
  repeat' (first | (simp only [↓sendEvent_kept]) | split | refine (kept_foldl _ ?_ _ _).trans ?_ | intro _ _ | with_reducible rfl)

theorem sendRated_kept (s : State) (key : RateKey) (interval : Nat) (l : List (Fn × CqEntry)) : kept (sendRated s key interval
    l) = kept s := by
  unfold sendRated
  repeat' (first | (simp only [↓kept_ite, ite_self, ↓modGroom_kept, ↓sendEvents_kept]) | split
                    | with_reducible rfl | (simp only [↓kept_mk, ↓kept_fold]))

theorem completeAt_kept (s : State) (t : Taken) (st : Status) (p : Pay) : kept (completeAt s t st p) = kept s := by
  unfold completeAt
  repeat' (first | (simp only [↓pushEntry_kept]) | split | with_reducible rfl)

theorem complete_kept (s : State) (t : Taken) (st : Status) : kept (complete s t st) = kept s := by
  unfold complete
  repeat' (first | (simp only [↓completeAt_kept]) | split | with_reducible rfl)

theorem invalidAt_kept (s : State) (t : Taken) (d b : Nat) : kept (invalidAt s t d b) = kept s := by
  unfold invalidAt
  repeat' (first | (simp only [↓completeAt_kept]) | split | with_reducible rfl)

theorem invalid_kept (s : State) (t : Taken) : kept (invalid s t) = kept s := by
  unfold invalid
  repeat' (first | (simp only [↓completeAt_kept]) | split | with_reducible rfl)

theorem completeTag_kept (s : State) (f : Fn) (tag : BitVec 16) (st : Status) (p : Pay) : kept (completeTag s f tag st p) =
    kept s := by
  unfold completeTag
  repeat' (first | (simp only [↓kept_ite, ite_self, ↓pushEntry_kept]) | split | with_reducible rfl
                    | (simp only [↓kept_mk, ↓kept_fold]))

theorem modOutst_kept (s : State) (f : Fn) (tag : BitVec 16) (g : Outst → Outst) : kept (modOutst s f tag g) = kept s := by
  unfold modOutst
  repeat' (first | (simp only [↓kept_ite, ite_self, ↓modStall_kept]) | split | with_reducible rfl
                    | (simp only [↓kept_mk, ↓kept_fold]))

theorem handOff_kept (s : State) (t : Taken) (w : Work) (total : Nat) : kept (handOff s t w total) = kept s := by
  unfold handOff
  repeat' (first | (simp only [↓modOutst_kept]) | split | with_reducible rfl | (simp only [↓kept_mk, ↓kept_fold]))

theorem violation_kept (s : State) (f : Fn) (op : Nat) (tag : BitVec 16) (t : Time) (r : Reason) (resource index : Nat) : kept
    (violation s f op tag t r resource index) = kept s := by
  unfold violation
  repeat' (first | (simp only [↓modFn_kept, ↓sendRated_kept]) | split | with_reducible rfl | (simp only [↓kept_mk, ↓kept_fold]))

theorem deny_kept (s : State) (t : Taken) (r : Reason) (resource index : Nat) : kept (deny s t r resource index) = kept s := by
  unfold deny
  repeat' (first | (simp only [↓complete_kept, ↓violation_kept]) | split | with_reducible rfl)

theorem denyTag_kept (s : State) (f : Fn) (tag : BitVec 16) (r : Reason) (resource index : Nat) : kept (denyTag s f tag r
    resource index) = kept s := by
  unfold denyTag
  repeat' (first | (simp only [↓completeTag_kept, ↓violation_kept]) | split | with_reducible rfl
                    | (simp only [↓kept_mk, ↓kept_fold]))

theorem withCmd_kept (s : State) (p : Taken → Bool) (g : State → Taken → State) (h : ∀ s t, kept (g s t) = kept s) :
    kept (withCmd s p g) = kept s := by
  unfold withCmd
  repeat' (first | (simp only [↓h, ↓modGroom_kept, ↓kept_ite, ite_self]) | split)

theorem countSram_kept (s : State) (k : Fin 10) : kept (countSram s k) = kept s := by
  unfold countSram
  repeat' (first | (simp only [↓modGroom_kept]) | split | with_reducible rfl | (simp only [↓kept_mk, ↓kept_fold]))

theorem noteEcc_kept (s : State) (k : Fin 10) (ecc : Ecc) : kept (noteEcc s k ecc) = kept s := by
  unfold noteEcc
  repeat' (first | (simp only [↓kept_ite, ite_self, ↓countSram_kept]) | split | with_reducible rfl)

theorem readSecure_kept (s : State) (ecc : Ecc) : kept (readSecure s ecc) = kept s := by
  unfold readSecure
  repeat' (first | (simp only [↓kept_sec, ↓kept_ite, ite_self, ↓noteEcc_kept]) | split | with_reducible rfl
                    | (simp only [↓kept_mk, ↓kept_fold]))

theorem issueRead_kept (s : State) (f : Fn) (tag : BitVec 16) (w : ReadFor) (addr : BitVec 64) (len : Nat) : kept (issueRead s
    f tag w addr len) = kept s := by
  unfold issueRead
  repeat' (first | (simp only [↓kept_out, ↓modGroom_kept]) | split | with_reducible rfl | (simp only [↓kept_mk, ↓kept_fold]))


theorem journalAdd_kept (s : State) (e : JEntry) (committed : Bool) : kept (journalAdd s e committed) = kept s := by
  unfold journalAdd
  repeat' (first | (simp only [↓kept_flash]) | split | with_reducible rfl | (simp only [↓kept_mk, ↓kept_fold]))

theorem queueJournal_kept (s : State) (kind : BitVec 8) (detail : Dword) (w : Work) : kept (queueJournal s kind detail w) =
    kept s := by
  unfold queueJournal
  repeat' (first | (simp only [↓kept_flash, ↓kept_ite, ite_self]) | split | with_reducible rfl
                    | (simp only [↓kept_mk, ↓kept_fold]))

theorem queueBreach_kept (s : State) : kept (queueBreach s) = kept s := by
  unfold queueBreach
  repeat' (first | (simp only [↓kept_flash, ↓kept_ite, ite_self]) | split | with_reducible rfl
                    | (simp only [↓kept_mk, ↓kept_fold]))

theorem queueRecs_kept (s : State) (n : Stall) (l : List Rec) : kept (queueRecs s n l) = kept s := by
  unfold queueRecs
  repeat' (first | (simp only [↓kept_ite, ite_self, ↓modGroom_kept, ↓modStall_kept]) | split
                    | with_reducible rfl | (simp only [↓kept_mk, ↓kept_fold]))

theorem marker_kept (s : State) (n : Stall) (kind : Nat) (t : Time) (d : BitVec 64) : kept (marker s n kind t d) = kept s := by
  unfold marker
  repeat' (first | (simp only [↓kept_ite, ite_self, ↓queueRecs_kept]) | split | with_reducible rfl)

theorem latchReport_kept (s : State) (n : Stall) (c : Fin 48) (cond : Nat) (seed : Bool) (t : Time) : kept (latchReport s n c
    cond seed t) = kept s := by
  unfold latchReport
  repeat' (first | (simp only [↓kept_ite, ite_self, ↓queueRecs_kept, ↓sendEvent_kept]) | split
                    | with_reducible rfl | (simp only [↓kept_mk, ↓kept_fold]))

theorem raisePulse_kept (s : State) (n : Stall) (k : PulseKind) (index : Nat) (at_ onset : Time) (exact : Bool) : kept
    (raisePulse s n k index at_ onset exact) = kept s := by
  unfold raisePulse
  repeat' (first | (simp only [↓modEng_kept]) | split | with_reducible rfl | (simp only [↓kept_mk, ↓kept_fold]))

theorem notePeak_kept (s : State) (n : Stall) : kept (notePeak s n) = kept s := by
  unfold notePeak
  repeat' (first | (simp only [↓modFn_kept, ↓modStall_kept]) | split | refine (kept_foldl _ ?_ _ _).trans ?_
                    | intro _ _ | with_reducible rfl | (simp only [↓kept_mk, ↓kept_fold]))

theorem putSlice_kept (s : State) (l : Fin 4) (b : FbBlock) : kept (putSlice s l b) = kept s := by
  unfold putSlice
  repeat' (first | (simp only [↓kept_fbd, ↓kept_ite, ite_self, ↓modLane_kept]) | split | with_reducible rfl
                    | (simp only [↓kept_mk, ↓kept_fold]))

theorem placeIn_kept (s : State) (c : Capture) (l : Fin 4) (b : FbBlock) (part : FbPart) : kept (placeIn s c l b part) = kept
    s := by
  unfold placeIn
  repeat' (first | (simp only [↓kept_ite, ite_self, ↓modCap_kept, ↓notePeak_kept, ↓putSlice_kept]) | split
                    | with_reducible rfl | (simp only [↓kept_mk, ↓kept_fold]))

theorem putBlock_kept (l : Fin 4) (s : State) (b : FbBlock) : kept (putBlock l s b) = kept s := by
  unfold putBlock
  repeat' (first | (simp only [↓kept_fbd, ↓kept_ite, ite_self, ↓placeIn_kept, ↓putSlice_kept]) | split
                    | with_reducible rfl | (simp only [↓kept_mk, ↓kept_fold]))

theorem offerLane_kept (s : State) (l : Fin 4) : kept (offerLane s l) = kept s := by
  unfold offerLane
  repeat' (first | (simp only [↓kept_fbd, ↓putBlock_kept]) | split | refine (kept_foldl _ ?_ _ _).trans ?_
                    | intro _ _ | with_reducible rfl | (simp only [↓kept_mk, ↓kept_fold]))

theorem offerBlocks_kept (s : State) : kept (offerBlocks s) = kept s := by
  unfold offerBlocks
  repeat' (first | (simp only [↓offerLane_kept]) | split | refine (kept_foldl _ ?_ _ _).trans ?_ | intro _ _ | with_reducible rfl)

theorem placeAt_kept (s : State) (n : Stall) (c : Capture) (blk : Nat) (recs : List Rec) (typed : Bool) : kept (placeAt s n c
    blk recs typed) = kept s := by
  unfold placeAt
  repeat' (first | (simp only [↓kept_ite, ite_self, ↓modCap_kept, ↓putBlock_kept]) | split | with_reducible rfl
                    | (simp only [↓kept_mk, ↓kept_fold]))

theorem placeBlock_kept (s : State) (n : Stall) (typed : Bool) (recs : List Rec) : kept (placeBlock s n typed recs) = kept s := by
  unfold placeBlock
  repeat' (first | (simp only [↓modCap_kept, ↓placeAt_kept]) | split | with_reducible rfl | (simp only [↓kept_mk, ↓kept_fold]))

theorem addRec_kept (s : State) (n : Stall) (r : Rec) : kept (addRec s n r) = kept s := by
  unfold addRec
  repeat' (first | (simp only [↓kept_ite, ite_self, ↓modCap_kept, ↓placeBlock_kept]) | split
                    | with_reducible rfl | (simp only [↓kept_mk, ↓kept_fold]))

theorem addRecs_kept (s : State) (n : Stall) (l : List Rec) : kept (addRecs s n l) = kept s := by
  unfold addRecs
  repeat' (first | (simp only [↓addRec_kept]) | split | refine (kept_foldl _ ?_ _ _).trans ?_ | intro _ _ | with_reducible rfl)

theorem fillPart_kept (s : State) (n : Stall) : kept (fillPart s n) = kept s := by
  unfold fillPart
  repeat' (first | (simp only [↓kept_ite, ite_self, ↓addRecs_kept]) | split | with_reducible rfl
                    | (simp only [↓kept_mk, ↓kept_fold]))

theorem addSide_kept (s : State) (n : Stall) (l : List Rec) : kept (addSide s n l) = kept s := by
  unfold addSide
  repeat' (first | (simp only [↓kept_ite, ite_self, ↓addRecs_kept, ↓modCap_kept]) | split | with_reducible rfl
                    | (simp only [↓kept_mk, ↓kept_fold]))

theorem writeKey_kept (s : State) (n : Stall) (cause : Nat) : kept (writeKey s n cause) = kept s := by
  unfold writeKey
  repeat' (first | (simp only [↓kept_ite, ite_self, ↓addRec_kept, ↓modCap_kept]) | split | with_reducible rfl
                    | (simp only [↓kept_mk, ↓kept_fold]))

theorem dueKey_kept (s : State) (n : Stall) : kept (dueKey s n) = kept s := by
  unfold dueKey
  repeat' (first | (simp only [↓kept_ite, ite_self, ↓writeKey_kept]) | split | with_reducible rfl
                    | (simp only [↓kept_mk, ↓kept_fold]))

theorem walkEnd_kept (s : State) (n : Stall) : kept (walkEnd s n) = kept s := by
  unfold walkEnd
  repeat' (first | (simp only [↓kept_ite, ite_self, ↓addRec_kept, ↓dueKey_kept, ↓modCap_kept]) | split
                    | with_reducible rfl | (simp only [↓kept_mk, ↓kept_fold]))

theorem placeBlocks_kept (s : State) (n : Stall) (l : List (List Rec)) : kept (placeBlocks s n l) = kept s := by
  unfold placeBlocks
  repeat' (first | (simp only [↓placeBlock_kept]) | split | refine (kept_foldl _ ?_ _ _).trans ?_ | intro _ _
                    | with_reducible rfl)

theorem placeDense_kept (s : State) (n : Stall) : kept (placeDense s n) = kept s := by
  unfold placeDense
  repeat' (first | (simp only [↓kept_ite, ite_self, ↓modCap_kept, ↓placeBlock_kept, ↓placeBlocks_kept]) | split
                    | with_reducible rfl | (simp only [↓kept_mk, ↓kept_fold]))

theorem placeHeader_kept (s : State) (n : Stall) (uid start : Nat) (recs : List Rec) : kept (placeHeader s n uid start recs) =
    kept s := by
  unfold placeHeader
  repeat' (first | (simp only [↓putBlock_kept]) | split | with_reducible rfl | (simp only [↓kept_mk, ↓kept_fold]))

theorem syncHeaders_kept (s : State) : kept (syncHeaders s) = kept s := by
  unfold syncHeaders
  repeat' (first | (simp only [↓kept_lanes, ↓kept_fbd, ↓kept_ite, ite_self]) | split | with_reducible rfl
                    | (simp only [↓kept_mk, ↓kept_fold]))

theorem renewHeader_kept (n : Stall) (s : State) (x : Seg) : kept (renewHeader n s x) = kept s := by
  unfold renewHeader
  repeat' (first | (simp only [↓kept_ite, ite_self, ↓modStall_kept, ↓placeHeader_kept]) | split
                    | with_reducible rfl | (simp only [↓kept_mk, ↓kept_fold]))

theorem askDense_kept (s : State) (n : Stall) (k : Nat) : kept (askDense s n k) = kept s := by
  unfold askDense
  repeat' (first | (simp only [↓modLane_kept]) | split | with_reducible rfl | (simp only [↓kept_mk, ↓kept_fold]))

theorem askUpto_kept (s : State) (n : Stall) (stop : Nat) : kept (askUpto s n stop) = kept s := by
  unfold askUpto
  repeat' (first | (simp only [↓askDense_kept, ↓modRef_kept]) | split | refine (kept_foldl _ ?_ _ _).trans ?_
                    | intro _ _ | with_reducible rfl | (simp only [↓kept_mk, ↓kept_fold]))

theorem dropLoadWrites_kept (s : State) (n : Stall) : kept (dropLoadWrites s n) = kept s := by
  unfold dropLoadWrites
  repeat' (first | (simp only [↓kept_lanes]) | split | with_reducible rfl | (simp only [↓kept_mk, ↓kept_fold]))

theorem fillSlice_kept (s : State) (n : Stall) : kept (fillSlice s n) = kept s := by
  unfold fillSlice
  repeat' (first | (simp only [↓kept_lanes, ↓askUpto_kept, ↓modRef_kept]) | split | with_reducible rfl
                    | (simp only [↓kept_mk, ↓kept_fold]))

theorem stageBlock_kept (s : State) (n : Stall) (k : Nat) (recs : List Rec) (bad : Bool) : kept (stageBlock s n k recs bad) =
    kept s := by
  unfold stageBlock
  repeat' (first | (simp only [↓kept_ite, ite_self, ↓modRef_kept]) | split | with_reducible rfl
                    | (simp only [↓kept_mk, ↓kept_fold]))

theorem drainSlice_kept (s : State) (n : Stall) : kept (drainSlice s n) = kept s := by
  unfold drainSlice
  repeat' (first | (simp only [↓kept_ite, ite_self, ↓askUpto_kept, ↓modRef_kept]) | split | with_reducible rfl
                    | (simp only [↓kept_mk, ↓kept_fold]))

theorem putJob_kept (s : State) (u v : UploadJob) : kept (putJob s u v) = kept s := by
  unfold putJob
  repeat' (first | (simp only [↓kept_jobs, ↓kept_ite, ite_self]) | split | with_reducible rfl
                    | (simp only [↓kept_mk, ↓kept_fold]))

theorem drawBytes_kept (s : State) (n : Nat) : kept (drawBytes s n).2 = kept s := by
  unfold drawBytes
  repeat' (first | (simp only [↓kept_free]) | split | with_reducible rfl | (simp only [↓kept_mk, ↓kept_fold]))

theorem writePiece_kept (s : State) (u : UploadJob) (a : BitVec 64) (l : List Byte) : kept (writePiece s u a l) = kept s := by
  unfold writePiece
  repeat' (first | (simp only [↓kept_ite, ite_self, ↓drawBytes_kept, ↓emit_kept]) | split | with_reducible rfl)

theorem askEntries_kept (s : State) (u : UploadJob) : kept (askEntries s u).1 = kept s := by
  unfold askEntries
  repeat' (first | (simp only [↓issueRead_kept]) | split | refine (kept_foldl _ ?_ _ _).trans ?_ | intro _ _
                    | with_reducible rfl | (simp only [↓kept_mk, ↓kept_fold]))

theorem queueWrite_kept (s : State) (u : UploadJob) (off : Nat) (l : List Byte) : kept (queueWrite s u off l).1 = kept s := by
  unfold queueWrite
  repeat' (first | (simp only [↓kept_ite, ite_self, ↓askEntries_kept]) | split | with_reducible rfl
                    | (simp only [↓kept_mk, ↓kept_fold]))

theorem releaseWrites_kept (k : Nat) (s : State) (u : UploadJob) : kept (releaseWrites k s u).1 = kept s := by
  induction k generalizing s u with
  | zero => rfl
  | succ k ih =>
    unfold releaseWrites
    split
    · rfl
    · split
      · rfl
      · exact (ih _ _).trans (kept_foldl _ (fun (s : State) (x : BitVec 64 × List Byte) => writePiece_kept s u x.1 x.2) _ _)

theorem readChunk_kept (s : State) (u : UploadJob) : kept (readChunk s u) = kept s := by
  unfold readChunk
  repeat' (first | (simp only [↓modLane_kept, ↓putJob_kept]) | split | refine (kept_foldl _ ?_ _ _).trans ?_
                    | intro _ _ | with_reducible rfl | (simp only [↓kept_mk, ↓kept_fold]))

theorem issueChunks_kept (x0 : Nat) (s : State) : kept (issueChunks x0 s) = kept s := by
  induction x0 generalizing s with
  | zero => rfl
  | succ k ih =>
    unfold issueChunks
    repeat' (first | (simp only [↓kept_jobs, ↓readChunk_kept, ↓ih]) | split | with_reducible rfl
                      | (simp only [↓kept_mk, ↓kept_fold]))

theorem takeComp_kept (s : State) (k : Fin 4) : kept (takeComp s k) = kept s := by
  unfold takeComp
  repeat' (first | (simp only [↓kept_jobs, ↓kept_ite, ite_self, ↓putJob_kept]) | split | with_reducible rfl
                    | (simp only [↓kept_mk, ↓kept_fold]))

theorem giveComps_kept (s : State) : kept (giveComps s) = kept s := by
  unfold giveComps
  repeat' (first | (simp only [↓takeComp_kept]) | split | refine (kept_foldl _ ?_ _ _).trans ?_ | intro _ _ | with_reducible rfl)

theorem startUploads_kept (s : State) : kept (startUploads s) = kept s := by
  unfold startUploads
  repeat' (first | (simp only [↓kept_jobs, ↓kept_ite, ite_self, ↓giveComps_kept, ↓issueChunks_kept]) | split
                    | with_reducible rfl | (simp only [↓kept_mk, ↓kept_fold]))

theorem endUpload_kept (s : State) (u : UploadJob) (st : Status) : kept (endUpload s u st) = kept s := by
  unfold endUpload
  repeat' (first | (simp only [↓kept_jobs, ↓kept_ite, ite_self, ↓completeTag_kept, ↓modGroom_kept,
                    ↓startUploads_kept]) | split | refine (kept_foldl _ ?_ _ _).trans ?_ | intro _ _ | with_reducible rfl
                    | (simp only [↓kept_mk, ↓kept_fold]))

theorem reapUploads_kept (x0 : Nat) (s : State) : kept (reapUploads x0 s) = kept s := by
  induction x0 generalizing s with
  | zero => rfl
  | succ k ih =>
    unfold reapUploads
    repeat' (first | (simp only [↓endUpload_kept, ↓ih]) | split | with_reducible rfl | (simp only [↓kept_mk, ↓kept_fold]))

theorem stopUploads_kept (s : State) (p : UploadJob → Bool) (st : Status) : kept (stopUploads s p st) = kept s := by
  unfold stopUploads
  repeat' (first | (simp only [↓kept_jobs, ↓kept_ite, ite_self, ↓reapUploads_kept]) | split | with_reducible rfl
                    | (simp only [↓kept_mk, ↓kept_fold]))

theorem killUploads_kept (p : UploadJob → Bool) (x0 : Nat) (s : State) : kept (killUploads p x0 s) = kept s := by
  induction x0 generalizing s with
  | zero => rfl
  | succ k ih =>
    unfold killUploads
    repeat' (first | (simp only [↓endUpload_kept, ↓ih]) | split | with_reducible rfl | (simp only [↓kept_mk, ↓kept_fold]))

theorem abortUploads_kept (s : State) (n : Stall) (gone : List Nat) : kept (abortUploads s n gone) = kept s := by
  unfold abortUploads
  repeat' (first | (simp only [↓killUploads_kept]) | split | with_reducible rfl)

theorem settleWrites_kept (s : State) (old u : UploadJob) : kept (settleWrites s old u) = kept s := by
  unfold settleWrites
  dsimp only
  generalize (if (releaseWrites u.wait.length s u).2.wait = [] then _ else _) = v
  split
  · exact (endUpload_kept _ _ _).trans ((putJob_kept _ _ _).trans (releaseWrites_kept _ _ _))
  · exact (putJob_kept _ _ _).trans (releaseWrites_kept _ _ _)

theorem finishBale_kept (s : State) (u : UploadJob) (b : BalePlan) (rest : List BalePlan) : kept (finishBale s u b rest).1 =
    kept s := by
  unfold finishBale
  repeat' (first | (simp only [↓queueWrite_kept]) | split | with_reducible rfl | (simp only [↓kept_mk, ↓kept_fold]))

theorem writeChunk_kept (s : State) (u : UploadJob) (blocks : Nat) (stream : List Byte) : kept (writeChunk s u blocks stream)
    = kept s := by
  unfold writeChunk
  repeat' (first | (simp only [↓kept_ite, ite_self, ↓endUpload_kept, ↓finishBale_kept, ↓queueWrite_kept,
                    ↓settleWrites_kept]) | split | with_reducible rfl | (simp only [↓kept_mk, ↓kept_fold]))

theorem uploadsGoOn_kept (s : State) : kept (uploadsGoOn s) = kept s := by
  unfold uploadsGoOn
  repeat' (first | (simp only [↓giveComps_kept, ↓issueChunks_kept, ↓reapUploads_kept]) | split | with_reducible rfl)

theorem uploadData_kept (s : State) (f : Fn) (tag : BitVec 16) (k blk : Nat) (recs : Option (List Rec)) : kept (uploadData s f
    tag k blk recs) = kept s := by
  unfold uploadData
  repeat' (first | (simp only [↓kept_ite, ite_self, ↓endUpload_kept, ↓putJob_kept]) | split | with_reducible rfl
                    | (simp only [↓kept_mk, ↓kept_fold]))

theorem deleteHeld_kept (s : State) (n : Stall) (keep : Seg → Bool) : kept (deleteHeld s n keep) = kept s := by
  unfold deleteHeld
  repeat' (first | (simp only [↓kept_ite, ite_self, ↓abortUploads_kept, ↓modStall_kept]) | split
                    | with_reducible rfl | (simp only [↓kept_mk, ↓kept_fold]))

theorem changePolder_kept (s : State) (n : Stall) (parcels refArea : List Nat) : kept (changePolder s n parcels refArea).1 =
    kept s := by
  unfold changePolder
  repeat' (first | (simp only [↓deleteHeld_kept, ↓modStall_kept]) | split | with_reducible rfl
                    | (simp only [↓kept_mk, ↓kept_fold]))

theorem applyRetire_kept (s : State) (n : Stall) : kept (applyRetire s n) = kept s := by
  unfold applyRetire
  repeat' (first | (simp only [↓kept_ite, ite_self, ↓changePolder_kept]) | split | with_reducible rfl
                    | (simp only [↓kept_mk, ↓kept_fold]))

theorem queueWipe_kept (s : State) (l : List Nat) : kept (queueWipe s l) = kept s := by
  unfold queueWipe
  repeat' (first | split | with_reducible rfl | (simp only [↓kept_mk, ↓kept_fold]))

theorem dropTeams_kept (s : State) (teams : BitVec 8) : kept (dropTeams s teams) = kept s := by
  unfold dropTeams
  repeat' (first | (simp only [↓kept_chans, ↓kept_ite, ite_self]) | split | with_reducible rfl
                    | (simp only [↓kept_mk, ↓kept_fold]))

theorem dropChains_kept (s : State) (chains : BitVec 8) : kept (dropChains s chains) = kept s := by
  unfold dropChains
  repeat' (first | (simp only [↓kept_chains, ↓kept_ite, ite_self]) | split | with_reducible rfl
                    | (simp only [↓kept_mk, ↓kept_fold]))

theorem stopChains_kept (s : State) (chains : BitVec 8) : kept (stopChains s chains) = kept s := by
  unfold stopChains
  repeat' (first | (simp only [↓kept_chains, ↓kept_ite, ite_self]) | split | with_reducible rfl
                    | (simp only [↓kept_mk, ↓kept_fold]))

theorem refreshTrigOut_kept (s : State) : kept (refreshTrigOut s) = kept s := by
  unfold refreshTrigOut
  repeat' (first | (simp only [↓kept_pins, ↓kept_out]) | split | with_reducible rfl | (simp only [↓kept_mk, ↓kept_fold]))

theorem stopEngine_kept (s : State) (n : Stall) : kept (stopEngine s n) = kept s := by
  unfold stopEngine
  repeat' (first | (simp only [↓modEng_kept, ↓refreshTrigOut_kept]) | split | with_reducible rfl
                    | (simp only [↓kept_mk, ↓kept_fold]))

theorem endPlayback_kept (s : State) (n : Stall) : kept (endPlayback s n) = kept s := by
  unfold endPlayback
  repeat' (first | (simp only [↓kept_ite, ite_self, ↓fillSlice_kept, ↓modEng_kept, ↓modRef_kept]) | split
                    | with_reducible rfl | (simp only [↓kept_mk, ↓kept_fold]))

theorem refFault_kept (s : State) (n : Stall) (cause block : Nat) (t : Time) : kept (refFault s n cause block t) = kept s := by
  unfold refFault
  repeat' (first | (simp only [↓sendRated_kept]) | split | with_reducible rfl)

theorem refMarker_kept (s : State) (n : Stall) (what : Nat) (value : BitVec 16) (t : Time) : kept (refMarker s n what value t)
    = kept s := by
  unfold refMarker
  repeat' (first | (simp only [↓marker_kept]) | split | with_reducible rfl)

theorem abortPlayback_kept (s : State) (n : Stall) (cause : Nat) : kept (abortPlayback s n cause) = kept s := by
  unfold abortPlayback
  repeat' (first | (simp only [↓endPlayback_kept, ↓refFault_kept, ↓refMarker_kept]) | split | with_reducible rfl
                    | (simp only [↓kept_mk, ↓kept_fold]))

theorem giveMissed_kept (s : State) (n : Stall) (m : MissedEntry) : kept (giveMissed s n m) = kept s := by
  unfold giveMissed
  repeat' (first | (simp only [↓modCap_kept, ↓modStall_kept, ↓sendRated_kept]) | split | with_reducible rfl
                    | (simp only [↓kept_mk, ↓kept_fold]))

theorem giveTaken_kept (s : State) (n : Stall) (o : OwedTrig) (e : CqEntry) : kept (giveTaken s n o e) = kept s := by
  unfold giveTaken
  repeat' (first | (simp only [↓kept_ite, ite_self, ↓marker_kept, ↓modCap_kept, ↓sendEvent_kept]) | split
                    | with_reducible rfl | (simp only [↓kept_mk, ↓kept_fold]))

theorem giveTrigger_kept (n : Stall) (s : State) (o : OwedTrig) : kept (giveTrigger n s o) = kept s := by
  unfold giveTrigger
  repeat' (first | (simp only [↓giveMissed_kept, ↓giveTaken_kept, ↓modStall_kept]) | split | with_reducible rfl
                    | (simp only [↓kept_mk, ↓kept_fold]))

theorem giveTriggers_kept (s : State) (n : Stall) : kept (giveTriggers s n) = kept s := by
  unfold giveTriggers
  repeat' (first | (simp only [↓kept_ite, ite_self, ↓giveTrigger_kept, ↓modCap_kept]) | split
                    | refine (kept_foldl _ ?_ _ _).trans ?_ | intro _ _ | with_reducible rfl | (simp only [↓kept_mk, ↓kept_fold]))

theorem takeQueued_kept (s : State) (n : Stall) : kept (takeQueued s n).1 = kept s := by
  unfold takeQueued
  repeat' (first | (simp only [↓modGroom_kept]) | split | with_reducible rfl | (simp only [↓kept_mk, ↓kept_fold]))

theorem flushOverrun_kept (s : State) (n : Stall) : kept (flushOverrun s n) = kept s := by
  unfold flushOverrun
  repeat' (first | (simp only [↓kept_ite, ite_self, ↓marker_kept, ↓modCap_kept]) | split | with_reducible rfl
                    | (simp only [↓kept_mk, ↓kept_fold]))

theorem sideRest_kept (s : State) (n : Stall) : kept (sideRest s n).1 = kept s := by
  unfold sideRest
  repeat' (first | (simp only [↓modChain_kept, ↓takeQueued_kept]) | split
                    | refine (kept_foldl _ ?_ _ _).trans ?_ | intro _ _ | with_reducible rfl | (simp only [↓kept_mk, ↓kept_fold]))

theorem markEnd_kept (s : State) (n : Stall) (reason : Nat) : kept (markEnd s n reason) = kept s := by
  unfold markEnd
  repeat' (first | (simp only [↓kept_ite, ite_self, ↓modCap_kept]) | split | with_reducible rfl
                    | (simp only [↓kept_mk, ↓kept_fold]))

theorem holdSegment_kept (s : State) (n : Stall) (c : Capture) (cause tail : Nat) (endT last : Time) : kept (holdSegment s n c
    cause tail endT last) = kept s := by
  unfold holdSegment
  repeat' (first | (simp only [↓kept_ite, ite_self, ↓endPlayback_kept, ↓markEnd_kept, ↓modCap_kept,
                    ↓modEng_kept, ↓modStall_kept, ↓placeHeader_kept, ↓stopEngine_kept]) | split | with_reducible rfl
                    | (simp only [↓kept_mk, ↓kept_fold]))

theorem closeTyped_kept (s : State) (n : Stall) (cause : Nat) (stop : Time) : kept (closeTyped s n cause stop) = kept s := by
  unfold closeTyped
  repeat' (first | (simp only [↓kept_ite, ite_self, ↓addRec_kept, ↓addRecs_kept, ↓fillPart_kept,
                    ↓flushOverrun_kept, ↓holdSegment_kept, ↓modCap_kept, ↓sideRest_kept, ↓walkEnd_kept]) | split
                    | with_reducible rfl | (simp only [↓kept_mk, ↓kept_fold]))

theorem closeDense_kept (s : State) (n : Stall) (c : Capture) (cause : Nat) (moment : Time) : kept (closeDense s n c cause
    moment) = kept s := by
  unfold closeDense
  repeat' (first | (simp only [↓kept_ite, ite_self, ↓modCap_kept, ↓modEng_kept, ↓stopEngine_kept]) | split
                    | with_reducible rfl | (simp only [↓kept_mk, ↓kept_fold]))

theorem closeNow_kept (s : State) (n : Stall) (c : Capture) (cause : Nat) : kept (closeNow s n c cause) = kept s := by
  unfold closeNow
  repeat' (first | (simp only [↓kept_ite, ite_self, ↓closeDense_kept, ↓closeTyped_kept]) | split | with_reducible rfl)

theorem closeFill_kept (s : State) (n : Stall) (c : Capture) : kept (closeFill s n c) = kept s := by
  unfold closeFill
  repeat' (first | (simp only [↓kept_ite, ite_self, ↓closeDense_kept, ↓closeTyped_kept]) | split
                    | with_reducible rfl | (simp only [↓kept_mk, ↓kept_fold]))

theorem closeFurlong_kept (s : State) (n : Stall) : kept (closeFurlong s n) = kept s := by
  unfold closeFurlong
  repeat' (first | (simp only [↓kept_ite, ite_self, ↓giveTriggers_kept, ↓holdSegment_kept, ↓modCap_kept,
                    ↓placeBlocks_kept, ↓sideRest_kept]) | split | with_reducible rfl | (simp only [↓kept_mk, ↓kept_fold]))

theorem finishArm_kept (s : State) (n : Stall) (c : Capture) (reason : BitVec 8) : kept (finishArm s n c reason) = kept s := by
  unfold finishArm
  repeat' (first | (simp only [↓kept_ite, ite_self, ↓applyRetire_kept, ↓completeTag_kept, ↓modStall_kept,
                    ↓sendEvent_kept, ↓stopEngine_kept]) | split | refine (kept_foldl _ ?_ _ _).trans ?_ | intro _ _
                    | with_reducible rfl | (simp only [↓kept_mk, ↓kept_fold]))

theorem tryFinish_kept (s : State) (n : Stall) : kept (tryFinish s n) = kept s := by
  unfold tryFinish
  repeat' (first | (simp only [↓kept_ite, ite_self, ↓finishArm_kept]) | split | with_reducible rfl
                    | (simp only [↓kept_mk, ↓kept_fold]))

theorem raiseCause_kept (s : State) (n : Stall) (c : Capture) (cause reason : Nat) : kept (raiseCause s n c cause reason) =
    kept s := by
  unfold raiseCause
  repeat' (first | (simp only [↓kept_ite, ite_self, ↓modCap_kept, ↓modStall_kept, ↓syncHeaders_kept]) | split
                    | with_reducible rfl | (simp only [↓kept_mk, ↓kept_fold]))

theorem closeCapture_kept (s : State) (n : Stall) (cause : Nat) (reason : Option Nat) : kept (closeCapture s n cause reason) =
    kept s := by
  unfold closeCapture
  repeat' (first | (simp only [↓kept_ite, ite_self, ↓closeFill_kept, ↓closeNow_kept, ↓markEnd_kept,
                    ↓modCap_kept, ↓raiseCause_kept, ↓tryFinish_kept]) | split | with_reducible rfl | (simp only [↓kept_mk,
                    ↓kept_fold]))

theorem noteOpen_kept (s : State) (n : Stall) (f : Capture → Capture) : kept (noteOpen s n f) = kept s := by
  unfold noteOpen
  repeat' (first | (simp only [↓kept_ite, ite_self, ↓modCap_kept]) | split | with_reducible rfl)

theorem noteDrift_kept (s : State) (l : List Stall) : kept (noteDrift s l) = kept s := by
  unfold noteDrift
  repeat' (first | (simp only [↓noteOpen_kept]) | split | refine (kept_foldl _ ?_ _ _).trans ?_ | intro _ _
                    | with_reducible rfl | (simp only [↓kept_mk, ↓kept_fold]))

theorem checkFull_kept (s : State) (n : Stall) : kept (checkFull s n) = kept s := by
  unfold checkFull
  repeat' (first | (simp only [↓kept_ite, ite_self, ↓closeDense_kept, ↓closeTyped_kept, ↓markEnd_kept,
                    ↓modCap_kept, ↓tryFinish_kept]) | split | with_reducible rfl | (simp only [↓kept_mk, ↓kept_fold]))

theorem closeAll_kept (s : State) (cause reason : Nat) : kept (closeAll s cause reason) = kept s := by
  unfold closeAll
  repeat' (first | (simp only [↓closeCapture_kept]) | split | refine (kept_foldl _ ?_ _ _).trans ?_ | intro _ _
                    | with_reducible rfl)

theorem shedClose_kept (s : State) (stage cause reason : Nat) : kept (shedClose s stage cause reason) = kept s := by
  unfold shedClose
  repeat' (first | (simp only [↓closeAll_kept, ↓marker_kept]) | split | refine (kept_foldl _ ?_ _ _).trans ?_
                    | intro _ _ | with_reducible rfl)

theorem giveDecs_kept (s : State) : kept (giveDecs s) = kept s := by
  unfold giveDecs
  repeat' (first | (simp only [↓kept_jobs, ↓kept_ite, ite_self]) | split | refine (kept_foldl _ ?_ _ _).trans ?_
                    | intro _ _ | with_reducible rfl | (simp only [↓kept_mk, ↓kept_fold]))

theorem dropGroom_kept (s : State) (n : Stall) : kept (dropGroom s n) = kept s := by
  unfold dropGroom
  repeat' (first | (simp only [↓kept_ite, ite_self, ↓modGroom_kept]) | split | with_reducible rfl
                    | (simp only [↓kept_mk, ↓kept_fold]))

theorem endUploads_kept (s : State) (n : Stall) : kept (endUploads s n) = kept s := by
  unfold endUploads
  repeat' (first | (simp only [↓kept_jobs, ↓kept_ite, ite_self, ↓stopUploads_kept]) | split | with_reducible rfl
                    | (simp only [↓kept_mk, ↓kept_fold]))

theorem endDeviceWork_kept (s : State) : kept (endDeviceWork s) = kept s := by
  unfold endDeviceWork
  repeat' (first | (simp only [↓kept_jobs, ↓kept_flash, ↓kept_power]) | split | with_reducible rfl
                    | (simp only [↓kept_mk, ↓kept_fold]))

theorem startReset_kept (s : State) (n : Stall) (cause : Nat) : kept (startReset s n cause) = kept s := by
  unfold startReset
  repeat' (first | (simp only [↓kept_jobs, ↓kept_ite, ite_self, ↓closeCapture_kept, ↓dropGroom_kept,
                    ↓dropLoadWrites_kept, ↓endDeviceWork_kept, ↓endUploads_kept, ↓giveDecs_kept, ↓modStall_kept, ↓stopChains_kept,
                    ↓stopEngine_kept]) | split | with_reducible rfl | (simp only [↓kept_mk, ↓kept_fold]))

theorem lowerVFs_kept (s : State) (n : Nat) : kept (lowerVFs s n) = kept s := by
  unfold lowerVFs
  repeat' (first | (simp only [↓kept_fns, ↓kept_pcie, ↓kept_ite, ite_self, ↓startReset_kept]) | split
                    | refine (kept_foldl _ ?_ _ _).trans ?_ | intro _ _ | with_reducible rfl | (simp only [↓kept_mk, ↓kept_fold]))

theorem startReturned_kept (s : State) : kept (startReturned s) = kept s := by
  unfold startReturned
  repeat' (first | (simp only [↓kept_flash, ↓kept_ite, ite_self, ↓lowerVFs_kept, ↓startReset_kept]) | split
                    | refine (kept_foldl _ ?_ _ _).trans ?_ | intro _ _ | with_reducible rfl | (simp only [↓kept_mk, ↓kept_fold]))

theorem haltBoot_kept (s : State) : kept (haltBoot s) = kept s := by
  unfold haltBoot
  repeat' (first | (simp only [↓kept_pcie, ↓kept_boot, ↓kept_ite, ite_self, ↓drawBytes_kept, ↓drawFree_kept,
                    ↓modStall_kept]) | split | with_reducible rfl | (simp only [↓kept_mk, ↓kept_fold]))

theorem safeHalt_kept (s : State) (step cause : Nat) : kept (safeHalt s step cause) = kept s := by
  unfold safeHalt
  repeat' (first | (simp only [↓kept_ports, ↓kept_links, ↓kept_quera, ↓kept_boot, ↓kept_pins, ↓closeAll_kept,
                    ↓haltBoot_kept, ↓lowerVFs_kept, ↓queueJournal_kept, ↓stopChains_kept]) | split | with_reducible rfl
                    | (simp only [↓kept_mk, ↓kept_fold]))

theorem raiseLatchTerms_kept (s : State) (n : Stall) (c k : Nat) (t : Time) : kept (raiseLatchTerms s n c k t) = kept s := by
  unfold raiseLatchTerms
  repeat' (first | (simp only [↓kept_ite, ite_self, ↓modEng_kept]) | split | with_reducible rfl
                    | (simp only [↓kept_mk, ↓kept_fold]))

theorem dropLatchTerms_kept (s : State) (n : Stall) : kept (dropLatchTerms s n) = kept s := by
  unfold dropLatchTerms
  repeat' (first | (simp only [↓kept_ite, ite_self, ↓modEng_kept]) | split | with_reducible rfl
                    | (simp only [↓kept_mk, ↓kept_fold]))

theorem setLatch_kept (s : State) (c : Fin 48) (k : Cond) (seed : Bool) (t : Time) : kept (setLatch s c k seed t) = kept s := by
  unfold setLatch
  repeat' (first | (simp only [↓kept_ite, ite_self, ↓latchReport_kept, ↓modChan_kept, ↓raiseLatchTerms_kept])
                    | split | with_reducible rfl | (simp only [↓kept_mk, ↓kept_fold]))

theorem setAgain_kept (s : State) (c : Fin 48) (old : Channel) : kept (setAgain s c old) = kept s := by
  unfold setAgain
  repeat' (first | (simp only [↓kept_ite, ite_self, ↓setLatch_kept]) | split | with_reducible rfl
                    | (simp only [↓kept_mk, ↓kept_fold]))

theorem releaseLatches_kept (s : State) (conds : BitVec 4) (c : Fin 48) : kept (releaseLatches s conds c) = kept s := by
  unfold releaseLatches
  repeat' (first | (simp only [↓dropLatchTerms_kept, ↓modChan_kept]) | split | with_reducible rfl
                    | (simp only [↓kept_mk, ↓kept_fold]))

theorem clearChans_kept (s : State) (conds : BitVec 4) (l : List (Fin 48)) : kept (clearChans s conds l) = kept s := by
  unfold clearChans
  repeat' (first | (simp only [↓releaseLatches_kept, ↓setAgain_kept]) | split
                    | refine (kept_foldl _ ?_ _ _).trans ?_ | intro _ _ | with_reducible rfl)

theorem clearStall_kept (s : State) (n : Stall) : kept (clearStall s n) = kept s := by
  unfold clearStall
  repeat' (first | (simp only [↓clearChans_kept]) | split | with_reducible rfl)

theorem seedChan_kept (s : State) (seed : SeedIn) (c : Fin 48) : kept (seedChan s seed c) = kept s := by
  unfold seedChan
  repeat' (first | (simp only [↓kept_ite, ite_self, ↓modChan_kept, ↓setLatch_kept]) | split | with_reducible rfl
                    | (simp only [↓kept_mk, ↓kept_fold]))

theorem applySetting_kept (s : State) (seed : SeedIn) (c : Fin 48) (w : BitVec 64) : kept (applySetting s seed c w) = kept s := by
  unfold applySetting
  repeat' (first | (simp only [↓kept_ite, ite_self, ↓modChan_kept, ↓seedChan_kept]) | split | with_reducible rfl
                    | (simp only [↓kept_mk, ↓kept_fold]))

theorem applyPending_kept (s : State) (n : Stall) (seed : SeedIn) : kept (applyPending s n seed) = kept s := by
  unfold applyPending
  repeat' (first | (simp only [↓applySetting_kept]) | split | refine (kept_foldl _ ?_ _ _).trans ?_ | intro _ _
                    | with_reducible rfl | (simp only [↓kept_mk, ↓kept_fold]))

theorem applyCorrs_kept (s : State) (n : Stall) : kept (applyCorrs s n) = kept s := by
  unfold applyCorrs
  repeat' (first | (simp only [↓modChan_kept]) | split | refine (kept_foldl _ ?_ _ _).trans ?_ | intro _ _ | with_reducible rfl)

theorem releaseChan_kept (s : State) (seed : SeedIn) (c : Fin 48) : kept (releaseChan s seed c) = kept s := by
  unfold releaseChan
  repeat' (first | (simp only [↓kept_ite, ite_self, ↓modChan_kept, ↓seedChan_kept]) | split | with_reducible rfl
                    | (simp only [↓kept_mk, ↓kept_fold]))

theorem releasePort_kept (s : State) (n : Stall) (seed : SeedIn) (p : Fin 6) : kept (releasePort s n seed p) = kept s := by
  unfold releasePort
  repeat' (first | (simp only [↓kept_ite, ite_self, ↓marker_kept, ↓releaseChan_kept]) | split
                    | refine (kept_foldl _ ?_ _ _).trans ?_ | intro _ _ | with_reducible rfl)

theorem releaseStallChans_kept (s : State) (n : Stall) (seed : SeedIn) : kept (releaseStallChans s n seed) = kept s := by
  unfold releaseStallChans
  repeat' (first | (simp only [↓releasePort_kept]) | split | refine (kept_foldl _ ?_ _ _).trans ?_ | intro _ _
                    | with_reducible rfl)

theorem releaseIdle_kept (s : State) (p : Fin 6) (seed : SeedIn) : kept (releaseIdle s p seed) = kept s := by
  unfold releaseIdle
  repeat' (first | (simp only [↓kept_ite, ite_self, ↓releaseChan_kept]) | split
                    | refine (kept_foldl _ ?_ _ _).trans ?_ | intro _ _ | with_reducible rfl | (simp only [↓kept_mk, ↓kept_fold]))

theorem execLatchExcursion_kept (c : Fin 48) (above : Bool) (sample : Fin 8) (s : State) : keptBy s (execLatchExcursion c
    above sample s) := by
  unfold execLatchExcursion
  repeat' (first | (simp only [keptBy_next, ↓kept_ite, ite_self, ↓modChan_kept, ↓setLatch_kept]) | split | with_reducible rfl)

theorem execDwellMet_kept (c : Fin 48) (first : Time) (s : State) : keptBy s (execDwellMet c first s) := by
  unfold execDwellMet
  repeat' (first | (simp only [keptBy_next, ↓kept_ite, ite_self, ↓modChan_kept, ↓setLatch_kept]) | split
                    | with_reducible rfl | (simp only [↓kept_mk, ↓kept_fold]))

theorem execOpenCheckEnd_kept (c : Fin 48) (undriven : Bool) (s : State) : keptBy s (execOpenCheckEnd c undriven s) := by
  unfold execOpenCheckEnd
  repeat' (first | (simp only [keptBy_next, ↓kept_ite, ite_self, ↓modChan_kept, ↓setLatch_kept]) | split
                    | with_reducible rfl | (simp only [↓kept_mk, ↓kept_fold]))

end Sys2Proof.Machine
end

