-- ==== Sys2Proof/Machine/Balls.lean ====
section
/-!
DEFINITION. The balls: the state of each ball or group of R570 as it follows from the state of the device, which the boundary scan captures
in every lifecycle state (R568, R570; log entry 289).
-/

namespace Sys2Proof.Machine

/-- The balls and groups of R570. -/
inductive Ball where
  | podChannels (p : Fin 6)
  | podPower (p : Fin 6)
  | trigOut
  | led (k : Fin 8)
  | thermTrip
  | jesdSync (l : Fin 2)
  | refOut
  | ddrReset
  | ddrBus
  | pcieTx
  | queraTx (p : Fin 4)
  | xspi
  deriving DecidableEq, Repr

/-- What a ball or group shows. -/
inductive BallState where
  | highZ
  | low
  | high
  /-- Terminated and biased. -/
  | terminated
  | on
  | off
  | running
  /-- Held so that the components stay in self-refresh. -/
  | selfRefresh
  /-- In electrical idle, the receiver's idle-exit detector on. -/
  | idle
  | active
  /-- XSPI_CS# high, the others of the group high impedance. -/
  | deselected
  deriving DecidableEq, Repr

/-- In reset, or in a boot before step k, and not in Dormant (R570). -/
def early (s : State) (k : Nat) : Bool :=
  s.power.st != .dormant && (s.boot.phase == .inReset || (s.boot.phase == .booting && decide (s.boot.step < k)))

/-- A level as a ball shows it. -/
def driven (b : Bool) : BallState := if b then .high else .low

/-- The state of a ball or group (R570). -/
def ballState (s : State) : Ball → BallState
  | .podChannels p => if bit s.pins.terminated p.val then .terminated else .highZ
  | .podPower p => if s.ports[p].pwr then .on else .off
  | .trigOut => driven s.pins.trigOut
  | .led k => if bit (ledsLit s) k.val then .low else .highZ
  | .thermTrip => if s.pins.thermTrip then .low else .highZ
  | .jesdSync l => if early s 9 then .highZ else driven (s.power.st == .dormant || s.links[l].syncPin)
  | .refOut => if s.pins.refOut then .running else .low
  | .ddrReset => driven (s.power.st == .dormant || !s.pins.ddrReset)
  | .ddrBus => if early s 8 then .highZ else if s.dram.selfRefresh then .selfRefresh else .active
  | .pcieTx => if s.pcie.linkUp then .active else .idle
  | .queraTx p =>
    if early s 10 then .idle
    else if s.boot.phase = .halted ∨ s.power.st = .dormant ∨ s.power.st = .dikewatch ∨ !bit s.quera.portEnable p.val then .off
    else .active
  | .xspi => if early s 3 then .highZ else if s.power.st = .dormant then .deselected else .active

/-- Every ball and group. -/
def allBalls : List Ball :=
  (List.finRange 6).map .podChannels ++ (List.finRange 6).map .podPower ++ [.trigOut] ++ (List.finRange 8).map .led ++
  [.thermTrip, .jesdSync 0, .jesdSync 1, .refOut, .ddrReset, .ddrBus, .pcieTx] ++ (List.finRange 4).map .queraTx ++ [.xspi]

/-- What a boundary scan captures; the test port has no other access (R568). -/
def boundaryScan (s : State) : List (Ball × BallState) := allBalls.map fun b => (b, ballState s b)

end Sys2Proof.Machine
end

