-- ==== Sys2Proof/Laws/KeptCapture.lean ====
section
/-! SUPPORT. What each function keeps (Laws/Kept.lean): the register window, the clocks, the segments, the device commands, courses, the trigger, the pods, the probe, arming and the panel. -/

set_option linter.unusedSimpArgs false

namespace Sys2Proof.Machine

set_option Elab.async false

theorem logAccess_kept (s : State) (f : Fn) (reason : Nat) (off : BitVec 12) : kept (logAccess s f reason off) = kept s := by
  unfold logAccess
  repeat' (first | (simp only [↓modFn_kept]) | split | with_reducible rfl | (simp only [↓kept_mk, ↓kept_fold]))

theorem setErr_kept (s : State) (f : Fn) (k : Nat) : kept (setErr s f k) = kept s := by
  unfold setErr
  repeat' (first | (simp only [↓modFn_kept]) | split | with_reducible rfl | (simp only [↓kept_mk, ↓kept_fold]))

theorem dropWrite_kept (s : State) (f : Fn) (off : BitVec 12) : kept (dropWrite s f off) = kept s := by
  unfold dropWrite
  repeat' (first | (simp only [↓logAccess_kept, ↓modFn_kept, ↓setErr_kept]) | split | with_reducible rfl
                    | (simp only [↓kept_mk, ↓kept_fold]))

theorem parityFault_kept (s : State) (f : Fn) (off : BitVec 12) (val : Dword) : kept (parityFault s f off val) = kept s := by
  unfold parityFault
  repeat' (first | (simp only [↓kept_ite, ite_self, ↓logAccess_kept, ↓modFn_kept, ↓sendMsix_kept,
                    ↓sendRated_kept, ↓setErr_kept]) | split | with_reducible rfl | (simp only [↓kept_mk, ↓kept_fold]))

theorem lockedWrite_kept (s : State) (f : Fn) (off : BitVec 12) : kept (lockedWrite s f off) = kept s := by
  unfold lockedWrite
  repeat' (first | (simp only [↓logAccess_kept, ↓modFn_kept, ↓setErr_kept]) | split | with_reducible rfl
                    | (simp only [↓kept_mk, ↓kept_fold]))

theorem configError_kept (s : State) (f : Fn) (off : BitVec 12) : kept (configError s f off) = kept s := by
  unfold configError
  repeat' (first | (simp only [↓logAccess_kept, ↓setErr_kept]) | split | with_reducible rfl)

theorem doorbellRange_kept (s : State) (f : Fn) (off : BitVec 12) : kept (doorbellRange s f off) = kept s := by
  unfold doorbellRange
  repeat' (first | (simp only [↓logAccess_kept, ↓setErr_kept]) | split | with_reducible rfl)

theorem setSqEnable_kept (s : State) (f : Fn) (on : Bool) (off : BitVec 12) : kept (setSqEnable s f on off) = kept s := by
  unfold setSqEnable
  repeat' (first | (simp only [↓kept_ite, ite_self, ↓configError_kept, ↓modFn_kept]) | split
                    | with_reducible rfl | (simp only [↓kept_mk, ↓kept_fold]))

theorem setCqEnable_kept (s : State) (f : Fn) (on : Bool) (off : BitVec 12) : kept (setCqEnable s f on off) = kept s := by
  unfold setCqEnable
  repeat' (first | (simp only [↓kept_ite, ite_self, ↓configError_kept, ↓drain_kept, ↓modFn_kept]) | split
                    | with_reducible rfl | (simp only [↓kept_mk, ↓kept_fold]))

theorem writeControl_kept (s : State) (f : Fn) (val : Dword) (off : BitVec 12) : kept (writeControl s f val off) = kept s := by
  unfold writeControl
  repeat' (first | (simp only [↓kept_ite, ite_self, ↓modFn_kept, ↓setCqEnable_kept, ↓setSqEnable_kept]) | split
                    | with_reducible rfl | (simp only [↓kept_mk, ↓kept_fold]))

theorem writeTail_kept (s : State) (f : Fn) (val : Dword) (off : BitVec 12) : kept (writeTail s f val off) = kept s := by
  unfold writeTail
  repeat' (first | (simp only [↓kept_ite, ite_self, ↓doorbellRange_kept, ↓modFn_kept]) | split
                    | with_reducible rfl | (simp only [↓kept_mk, ↓kept_fold]))

theorem writeHead_kept (s : State) (f : Fn) (val : Dword) (off : BitVec 12) : kept (writeHead s f val off) = kept s := by
  unfold writeHead
  repeat' (first | (simp only [↓kept_ite, ite_self, ↓doorbellRange_kept, ↓drain_kept, ↓modFn_kept]) | split
                    | with_reducible rfl | (simp only [↓kept_mk, ↓kept_fold]))

theorem applyWrite_kept (s : State) (f : Fn) (o : Nat) (val : Dword) (off : BitVec 12) : kept (applyWrite s f o val off) =
    kept s := by
  unfold applyWrite
  repeat' (first | (simp only [↓modFn_kept, ↓writeControl_kept, ↓writeHead_kept, ↓writeTail_kept]) | split
                    | with_reducible rfl | (simp only [↓kept_mk, ↓kept_fold]))

theorem writeRegister_kept (s : State) (f : Fn) (off : BitVec 12) (val : Dword) (be : BitVec 4) : kept (writeRegister s f off
    val be) = kept s := by
  unfold writeRegister
  repeat' (first | (simp only [↓kept_ite, ite_self, ↓applyWrite_kept, ↓configError_kept, ↓dropWrite_kept,
                    ↓lockedWrite_kept, ↓parityFault_kept]) | split | with_reducible rfl)

theorem execSqTailDoorbell_kept (f : Fn) (off : BitVec 12) (val : Dword) (be : BitVec 4) (s : State) : keptBy s
    (execSqTailDoorbell f off val be s) := by
  unfold execSqTailDoorbell
  repeat' (first | (simp only [keptBy_next, ↓kept_ite, ite_self, ↓writeRegister_kept]) | split | with_reducible rfl)

theorem queueEcc_kept (s : State) (f : Fn) (ecc : List Ecc) : kept (queueEcc s f ecc) = kept s := by
  unfold queueEcc
  repeat' (first | (simp only [↓kept_ite, ite_self, ↓modGroom_kept, ↓modStall_kept]) | split
                    | with_reducible rfl | (simp only [↓kept_mk, ↓kept_fold]))

theorem execCqHeadDoorbell_kept (f : Fn) (off : BitVec 12) (val : Dword) (be : BitVec 4) (ecc : List Ecc) (s : State) : keptBy
    s (execCqHeadDoorbell f off val be ecc s) := by
  unfold execCqHeadDoorbell
  repeat' (first | (simp only [keptBy_next, ↓kept_ite, ite_self, ↓queueEcc_kept, ↓writeRegister_kept]) | split
                    | with_reducible rfl)

theorem execSqEnable_kept (f : Fn) (off : BitVec 12) (val : Dword) (be : BitVec 4) (s : State) : keptBy s (execSqEnable f off
    val be s) := by
  unfold execSqEnable
  repeat' (first | (simp only [keptBy_next, ↓kept_ite, ite_self, ↓writeRegister_kept]) | split | with_reducible rfl)

theorem execSqDisable_kept (f : Fn) (off : BitVec 12) (val : Dword) (be : BitVec 4) (s : State) : keptBy s (execSqDisable f
    off val be s) := by
  unfold execSqDisable
  repeat' (first | (simp only [keptBy_next, ↓kept_ite, ite_self, ↓writeRegister_kept]) | split | with_reducible rfl)

theorem execCqEnable_kept (f : Fn) (off : BitVec 12) (val : Dword) (be : RingBytes) (s : State) : keptBy s (execCqEnable f off
    val be s) := by
  unfold execCqEnable
  repeat' (first | (simp only [keptBy_next, ↓kept_ite, ite_self, ↓queueEcc_kept, ↓writeRegister_kept]) | split
                    | with_reducible rfl)

theorem execCqDisable_kept (f : Fn) (off : BitVec 12) (val : Dword) (be : BitVec 4) (s : State) : keptBy s (execCqDisable f
    off val be s) := by
  unfold execCqDisable
  repeat' (first | (simp only [keptBy_next, ↓kept_ite, ite_self, ↓writeRegister_kept]) | split | with_reducible rfl)

theorem execWinControlLock_kept (f : Fn) (off : BitVec 12) (val : Dword) (be : BitVec 4) (s : State) : keptBy s
    (execWinControlLock f off val be s) := by
  unfold execWinControlLock
  repeat' (first | (simp only [keptBy_next, ↓kept_ite, ite_self, ↓writeRegister_kept]) | split | with_reducible rfl)

theorem execFaultLeave_kept (f : Fn) (off : BitVec 12) (val : Dword) (be : BitVec 4) (s : State) : keptBy s (execFaultLeave f
    off val be s) := by
  unfold execFaultLeave
  repeat' (first | (simp only [keptBy_next, ↓kept_ite, ite_self, ↓writeRegister_kept]) | split
                    | with_reducible rfl | exact True.intro)

theorem execErrStatusClear_kept (f : Fn) (off : BitVec 12) (val : Dword) (be : BitVec 4) (s : State) : keptBy s
    (execErrStatusClear f off val be s) := by
  unfold execErrStatusClear
  repeat' (first | (simp only [keptBy_next, ↓kept_ite, ite_self, ↓writeRegister_kept]) | split | with_reducible rfl)

theorem execRegisterWrite_kept (f : Fn) (off : BitVec 12) (val : Dword) (be : BitVec 4) (s : State) : keptBy s
    (execRegisterWrite f off val be s) := by
  unfold execRegisterWrite
  repeat' (first | (simp only [keptBy_next, ↓writeRegister_kept]) | split | with_reducible rfl)

theorem scratchCollision_kept (s : State) (f : Fn) (off : BitVec 16) : kept (scratchCollision s f off) = kept s := by
  unfold scratchCollision
  repeat' (first | (simp only [↓modFn_kept, ↓sendRated_kept, ↓setErr_kept]) | split | with_reducible rfl
                    | (simp only [↓kept_mk, ↓kept_fold]))

theorem portBError_kept (s : State) (f : Fn) (ecc : Ecc) : kept (portBError s f ecc) = kept s := by
  unfold portBError
  repeat' (first | (simp only [↓kept_ite, ite_self, ↓noteEcc_kept, ↓setErr_kept]) | split | with_reducible rfl)

theorem scratchWindowRead_kept (s : State) (f : Fn) (off : BitVec 16) (ecc : Ecc) : kept (scratchWindowRead s f off ecc).2 =
    kept s := by
  unfold scratchWindowRead
  repeat' (first | (simp only [↓kept_ite, ite_self, ↓portBError_kept]) | split | with_reducible rfl)

theorem bar4Write_kept (s : State) (f : Fn) (off : BitVec 32) (val : Dword) (be : BitVec 4) : kept (bar4Write s f off val be)
    = kept s := by
  unfold bar4Write
  repeat' (first | (simp only [↓kept_ite, ite_self, ↓modFn_kept]) | split | with_reducible rfl
                    | (simp only [↓kept_mk, ↓kept_fold]))

theorem sendPending_kept (s : State) (f : Fn) : kept (sendPending s f) = kept s := by
  unfold sendPending
  repeat' (first | (simp only [↓kept_ite, ite_self, ↓modFn_kept, ↓sendMsix_kept]) | split
                    | refine (kept_foldl _ ?_ _ _).trans ?_ | intro _ _ | with_reducible rfl | (simp only [↓kept_mk, ↓kept_fold]))

theorem msixControl_kept (s : State) (f : Fn) (enable fnMask : Option Bool) : kept (msixControl s f enable fnMask) = kept s := by
  unfold msixControl
  repeat' (first | (simp only [↓kept_ite, ite_self, ↓modFn_kept]) | split | with_reducible rfl
                    | (simp only [↓kept_mk, ↓kept_fold]))

theorem execMsixVectorUnmask_kept (f : Fn) (off : BitVec 32) (val : Dword) (be : BitVec 4) (enable fnMask : Option Bool) (s :
    State) : keptBy s (execMsixVectorUnmask f off val be enable fnMask s) := by
  unfold execMsixVectorUnmask
  repeat' (first | (simp only [keptBy_next, ↓kept_ite, ite_self, ↓bar4Write_kept, ↓msixControl_kept,
                    ↓sendPending_kept]) | split | with_reducible rfl)

theorem execMsixHoldoffExpiry_kept (f : Fn) (event : Bool) (s : State) : keptBy s (execMsixHoldoffExpiry f event s) := by
  unfold execMsixHoldoffExpiry
  repeat' (first | (simp only [keptBy_next, ↓kept_ite, ite_self, ↓modFn_kept, ↓sendMsix_kept]) | split
                    | with_reducible rfl | (simp only [↓kept_mk, ↓kept_fold]))

theorem execEventRateIntervalEnd_kept (key : RateKey) (s : State) : keptBy s (execEventRateIntervalEnd key s) := by
  unfold execEventRateIntervalEnd
  repeat' (first | (simp only [keptBy_next, ↓kept_ite, ite_self, ↓modGroom_kept, ↓sendEvents_kept]) | split
                    | with_reducible rfl | (simp only [↓kept_mk, ↓kept_fold]))

theorem execProgressEntryDue_kept (f : Fn) (job : JobAt) (s : State) : keptBy s (execProgressEntryDue f job s) := by
  unfold execProgressEntryDue
  repeat' (first | (simp only [keptBy_next, ↓kept_ite, ite_self, ↓modOutst_kept, ↓pushEntry_kept]) | split
                    | with_reducible rfl | (simp only [↓kept_mk, ↓kept_fold]))


theorem tbEvent_kept (s : State) (cause : Nat) (offset : Int) : kept (tbEvent s cause offset) = kept s := by
  unfold tbEvent
  repeat' (first | (simp only [↓sendRated_kept]) | split | with_reducible rfl)

theorem modMon_kept (s : State) (b : Bool) (f : RefMon → RefMon) : kept (modMon s b f) = kept s := by
  unfold modMon
  repeat' (first | (simp only [↓kept_tb, ↓kept_ite, ite_self]) | split | with_reducible rfl | (simp only [↓kept_mk, ↓kept_fold]))

theorem setFreeRunning_kept (s : State) : kept (setFreeRunning s) = kept s := by
  unfold setFreeRunning
  repeat' (first | (simp only [↓kept_tb, ↓kept_ite, ite_self, ↓noteOpen_kept]) | split
                    | refine (kept_foldl _ ?_ _ _).trans ?_ | intro _ _ | with_reducible rfl | (simp only [↓kept_mk, ↓kept_fold]))

theorem enterHoldover_kept (s : State) (offset : Int) : kept (enterHoldover s offset) = kept s := by
  unfold enterHoldover
  repeat' (first | (simp only [↓kept_tb, ↓noteOpen_kept, ↓tbEvent_kept]) | split
                    | refine (kept_foldl _ ?_ _ _).trans ?_ | intro _ _ | with_reducible rfl | (simp only [↓kept_mk, ↓kept_fold]))

theorem switchTo_kept (s : State) (r : RefSel) : kept (switchTo s r) = kept s := by
  unfold switchTo
  repeat' (first | (simp only [↓kept_tb, ↓tbEvent_kept]) | split | with_reducible rfl | (simp only [↓kept_mk, ↓kept_fold]))

theorem reselect_kept (s : State) : kept (reselect s) = kept s := by
  unfold reselect
  repeat' (first | (simp only [↓kept_ite, ite_self, ↓enterHoldover_kept, ↓setFreeRunning_kept, ↓switchTo_kept])
                    | split | with_reducible rfl)

theorem disqualify_kept (s : State) (b : Bool) (offset : Int) : kept (disqualify s b offset) = kept s := by
  unfold disqualify
  repeat' (first | (simp only [↓kept_ite, ite_self, ↓enterHoldover_kept, ↓modMon_kept, ↓reselect_kept]) | split
                    | with_reducible rfl | (simp only [↓kept_mk, ↓kept_fold]))

theorem warnStep_kept (s : State) (b : Bool) (d : Nat) : kept (warnStep s b d) = kept s := by
  unfold warnStep
  repeat' (first | (simp only [↓kept_tb, ↓kept_ite, ite_self, ↓tbEvent_kept]) | split | with_reducible rfl
                    | (simp only [↓kept_mk, ↓kept_fold]))

theorem execLongGateEnd_kept (b : Bool) (count : Nat) (s : State) : keptBy s (execLongGateEnd b count s) := by
  unfold execLongGateEnd
  simp only [keptBy_next]
  split
  · rfl
  · split
    · simp only [↓disqualify_kept, ↓modMon_kept]
    · simp only [↓modMon_kept, ↓reselect_kept, ↓warnStep_kept]

theorem execFastGateEnd_kept (b : Bool) (count : Nat) (s : State) : keptBy s (execFastGateEnd b count s) := by
  unfold execFastGateEnd
  simp only [keptBy_next]
  split
  · rfl
  · split
    · simp only [↓disqualify_kept]
    · simp only [↓modMon_kept]

theorem execReferenceLoss_kept (b : Bool) (s : State) : keptBy s (execReferenceLoss b s) := by
  unfold execReferenceLoss
  repeat' (first | (simp only [keptBy_next, ↓kept_ite, ite_self, ↓disqualify_kept]) | split | with_reducible rfl)

theorem execHoldover60s_kept (s : State) : keptBy s (execHoldover60s s) := by
  unfold execHoldover60s
  repeat' (first | (simp only [keptBy_next, ↓kept_tb, ↓kept_ite, ite_self]) | split | with_reducible rfl
                    | (simp only [↓kept_mk, ↓kept_fold]))

theorem startRelock_kept (s : State) : kept (startRelock s) = kept s := by
  unfold startRelock
  repeat' (first | (simp only [↓tbEvent_kept]) | split | with_reducible rfl)

theorem leaveBypass_kept (s : State) : kept (leaveBypass s) = kept s := by
  unfold leaveBypass
  repeat' (first | (simp only [↓kept_chans, ↓kept_tb, ↓kept_ite, ite_self, ↓tbEvent_kept]) | split
                    | with_reducible rfl | (simp only [↓kept_mk, ↓kept_fold]))

theorem execPllLockLoss_kept (s : State) : keptBy s (execPllLockLoss s) := by
  unfold execPllLockLoss
  rw [keptBy_next]
  by_cases h : (!s.tb.timeValid || s.tb.bypass) = true
  · rw [if_pos h]
  · rw [if_neg h]
    exact (kept_pins _ _).trans ((kept_foldl _ (fun s n => stopEngine_kept s n) _ _).trans ((stopChains_kept _ _).trans
      ((closeAll_kept _ _ _).trans ((startRelock_kept _).trans (kept_tb _ _ rfl)))))

theorem execRelockDone_kept (s : State) : keptBy s (execRelockDone s) := by
  unfold execRelockDone
  repeat' (first | (simp only [keptBy_next, ↓kept_ite, ite_self, ↓leaveBypass_kept]) | split | with_reducible rfl)

theorem execAonClockLoss_kept (s : State) : keptBy s (execAonClockLoss s) := by
  unfold execAonClockLoss
  repeat' (first | (simp only [keptBy_next, ↓kept_tb]) | split | with_reducible rfl | (simp only [↓kept_mk, ↓kept_fold]))

theorem execAonClockRestored_kept (s : State) : keptBy s (execAonClockRestored s) := by
  unfold execAonClockRestored
  repeat' (first | (simp only [keptBy_next, ↓kept_tb, ↓kept_ite, ite_self]) | split | with_reducible rfl
                    | (simp only [↓kept_mk, ↓kept_fold]))

theorem execPostTriggerFillEnd_kept (st : Stall) (s : State) : keptBy s (execPostTriggerFillEnd st s) := by
  unfold execPostTriggerFillEnd
  repeat' (first | (simp only [keptBy_next, ↓kept_ite, ite_self, ↓closeFill_kept]) | split | with_reducible rfl
                    | (simp only [↓kept_mk, ↓kept_fold]))

theorem execGallopFurlongClose_kept (st : Stall) (s : State) : keptBy s (execGallopFurlongClose st s) := by
  unfold execGallopFurlongClose
  repeat' (first | (simp only [keptBy_next, ↓kept_ite, ite_self, ↓closeFurlong_kept, ↓tryFinish_kept]) | split
                    | with_reducible rfl | (simp only [↓kept_mk, ↓kept_fold]))

theorem flushMark_kept (s : State) (n : Stall) (num : BitVec 20) (q : FlushReq) : kept (flushMark s n num q) = kept s := by
  unfold flushMark
  repeat' (first | (simp only [↓completeTag_kept, ↓marker_kept]) | split | with_reducible rfl
                    | (simp only [↓kept_mk, ↓kept_fold]))

theorem flushMarks_kept (s : State) (n : Stall) (num : BitVec 20) : kept (flushMarks s n num) = kept s := by
  unfold flushMarks
  repeat' (first | (simp only [↓flushMark_kept, ↓modCap_kept]) | split | refine (kept_foldl _ ?_ _ _).trans ?_
                    | intro _ _ | with_reducible rfl | (simp only [↓kept_mk, ↓kept_fold]))

theorem sendHeldList_kept (n : Stall) (l : List CqEntry) (s : State) : kept (sendHeldList n l s) = kept s := by
  induction l generalizing s with
  | nil => rfl
  | cons e l ih =>
    unfold sendHeldList
    split
    · rfl
    · exact (ih _).trans ((sendEvent_kept _ _ _).trans (modCap_kept _ _ _))

theorem sendHeld_kept (s : State) (n : Stall) : kept (sendHeld s n) = kept s := by
  unfold sendHeld
  repeat' (first | (simp only [↓sendHeldList_kept]) | split | with_reducible rfl | (simp only [↓kept_mk, ↓kept_fold]))

theorem settleIdle_kept (s : State) (n : Stall) (seed : SeedIn) : kept (settleIdle s n seed) = kept s := by
  unfold settleIdle
  repeat' (first | (simp only [↓kept_ite, ite_self, ↓applyCorrs_kept, ↓applyPending_kept,
                    ↓releaseStallChans_kept]) | split | with_reducible rfl)

theorem execSegmentClosed_kept (st : Stall) (seed : SeedIn) (s : State) : keptBy s (execSegmentClosed st seed s) := by
  unfold execSegmentClosed
  repeat' (first | (simp only [keptBy_next, ↓kept_ite, ite_self, ↓flushMarks_kept, ↓modStall_kept,
                    ↓sendEvent_kept, ↓sendHeld_kept, ↓settleIdle_kept, ↓tryFinish_kept]) | split | with_reducible rfl
                    | (simp only [↓kept_mk, ↓kept_fold]))

theorem deleteOldest_kept (s : State) (n : Stall) : kept (deleteOldest s n) = kept s := by
  unfold deleteOldest
  repeat' (first | (simp only [↓deleteHeld_kept]) | split | with_reducible rfl | (simp only [↓kept_mk, ↓kept_fold]))

theorem deleteUntil_kept (n : Stall) (need : Nat) (x0 : Nat) (s : State) : kept (deleteUntil n need x0 s) = kept s := by
  induction x0 generalizing s with
  | zero => rfl
  | succ k ih =>
    unfold deleteUntil
    repeat' (first | (simp only [↓kept_ite, ite_self, ↓deleteOldest_kept, ↓ih]) | split | with_reducible rfl)

theorem makeRoom_kept (s : State) (n : Stall) (c : Capture) (extra : Nat) : kept (makeRoom s n c extra).1 = kept s := by
  unfold makeRoom
  repeat' (first | (simp only [↓kept_ite, ite_self, ↓deleteHeld_kept, ↓deleteUntil_kept]) | split | with_reducible rfl)

theorem noteChans_kept (s : State) (n : Stall) : kept (noteChans s n) = kept s := by
  unfold noteChans
  repeat' (first | (simp only [↓modCap_kept]) | split | with_reducible rfl | (simp only [↓kept_mk, ↓kept_fold]))

theorem rearmStall_kept (s : State) (n : Stall) (seed : SeedIn) : kept (rearmStall s n seed) = kept s := by
  unfold rearmStall
  repeat' (first | (simp only [↓applyCorrs_kept, ↓applyPending_kept, ↓modChain_kept, ↓modEng_kept,
                    ↓releaseLatches_kept, ↓releaseStallChans_kept, ↓setAgain_kept]) | split
                    | refine (kept_foldl _ ?_ _ _).trans ?_ | intro _ _ | with_reducible rfl | (simp only [↓kept_mk, ↓kept_fold]))

theorem flushSide_kept (s : State) (n : Stall) : kept (flushSide s n) = kept s := by
  unfold flushSide
  repeat' (first | (simp only [↓kept_ite, ite_self, ↓addRecs_kept, ↓modCap_kept]) | split | with_reducible rfl
                    | (simp only [↓kept_mk, ↓kept_fold]))

theorem openWith_kept (s : State) (n : Stall) (seed : SeedIn) (ring : Nat) (g : State → State) (h : ∀ s, kept (g s) = kept s) :
    kept (openWith s n seed ring g) = kept s := by
  unfold openWith
  simp only [↓flushSide_kept, ↓dueKey_kept, ↓h, ↓modStall_kept, ↓modCap_kept, ↓rearmStall_kept, ↓noteChans_kept]

theorem openSegment_kept (s : State) (n : Stall) (seed : SeedIn) (ring : Nat) : kept (openSegment s n seed ring) = kept s :=
  openWith_kept s n seed ring id fun _ => rfl

theorem execSegmentOpen_kept (st : Stall) (seed : SeedIn) (s : State) : keptBy s (execSegmentOpen st seed s) := by
  unfold execSegmentOpen
  rw [keptBy_next]
  split
  · rfl
  · split
    · rfl
    · rename_i c _ _
      have h := makeRoom_kept (applyRetire s st) st c 0
      dsimp only
      split
      · rename_i e
        rw [e] at h
        simp only [↓settleIdle_kept, ↓tryFinish_kept, ↓markEnd_kept]
        exact h.trans (applyRetire_kept _ _)
      · rename_i e; rw [e] at h
        exact (openSegment_kept _ _ _ _).trans (h.trans (applyRetire_kept _ _))



theorem putCourse_kept (s : State) (n : Stall) (p : Course) : kept (putCourse s n p) = kept s := by
  unfold putCourse
  repeat' (first | (simp only [↓modStall_kept]) | split | with_reducible rfl | (simp only [↓kept_mk, ↓kept_fold]))

theorem finishCourseLoad_kept (s : State) (f : Fn) (tag : BitVec 16) (len : Nat) (l : List Byte) : kept (finishCourseLoad s f
    tag len l) = kept s := by
  unfold finishCourseLoad
  repeat' (first | (simp only [↓kept_ite, ite_self, ↓completeTag_kept, ↓denyTag_kept, ↓invalid_kept,
                    ↓putCourse_kept]) | split | with_reducible rfl | (simp only [↓kept_mk, ↓kept_fold]))

theorem settleLoads_kept (x0 : Nat) (s : State) : kept (settleLoads x0 s) = kept s := by
  induction x0 generalizing s with
  | zero => rfl
  | succ k ih =>
    unfold settleLoads
    repeat' (first | (simp only [↓finishCourseLoad_kept, ↓modGroom_kept, ↓ih]) | split | with_reducible rfl
                      | (simp only [↓kept_mk, ↓kept_fold]))

theorem settleAll_kept (s : State) : kept (settleAll s) = kept s := by
  unfold settleAll
  repeat' (first | (simp only [↓settleLoads_kept]) | split | with_reducible rfl)

theorem imageRead_kept (s : State) (f : Fn) (tag : BitVec 16) (data : HostData) : kept (imageRead s f tag data) = kept s := by
  unfold imageRead
  repeat' (first | (simp only [↓kept_ite, ite_self, ↓completeTag_kept, ↓modGroom_kept, ↓settleAll_kept]) | split
                    | with_reducible rfl | (simp only [↓kept_mk, ↓kept_fold]))

theorem execCourseLoad_kept (s : State) : keptBy s (execCourseLoad s) := by
  unfold execCourseLoad
  repeat' (first | (simp only [keptBy_next, ↓kept_ite, ite_self, ↓complete_kept, ↓completeAt_kept, ↓deny_kept,
                    ↓handOff_kept, ↓invalid_kept, ↓issueRead_kept, ↓modGroom_kept, ↓withCmd_kept]) | split | intro _ _
                    | refine (withCmd_kept _ _ _ ?_).trans ?_ | with_reducible rfl | (simp only [↓kept_mk, ↓kept_fold]))

theorem owe_kept (s : State) (n : Stall) (o : OwedTrig) : kept (owe s n o) = kept s := by
  unfold owe
  repeat' (first | (simp only [↓modCap_kept]) | split | with_reducible rfl | (simp only [↓kept_mk, ↓kept_fold]))

theorem missTrigger_kept (s : State) (n : Stall) (c : Capture) (reason : Nat) (q : TrigReq) : kept (missTrigger s n c reason
    q) = kept s := by
  unfold missTrigger
  repeat' (first | (simp only [↓kept_ite, ite_self, ↓owe_kept]) | split | with_reducible rfl | (simp only [↓kept_mk, ↓kept_fold]))

theorem takeTrigger_kept (s : State) (n : Stall) (c : Capture) (q : TrigReq) : kept (takeTrigger s n c q) = kept s := by
  unfold takeTrigger
  repeat' (first | (simp only [↓kept_ite, ite_self, ↓modCap_kept, ↓owe_kept]) | split | with_reducible rfl
                    | (simp only [↓kept_mk, ↓kept_fold]))

theorem requestOpen_kept (s : State) (n : Stall) (c : Capture) (q : TrigReq) : kept (requestOpen s n c q).1 = kept s := by
  unfold requestOpen
  repeat' (first | (simp only [↓kept_ite, ite_self, ↓missTrigger_kept, ↓owe_kept, ↓takeTrigger_kept]) | split
                    | with_reducible rfl)

theorem requestTrigger_kept (s : State) (n : Stall) (q : TrigReq) : kept (requestTrigger s n q).1 = kept s := by
  unfold requestTrigger
  repeat' (first | (simp only [↓kept_ite, ite_self, ↓closeFill_kept, ↓missTrigger_kept, ↓requestOpen_kept])
                    | split | with_reducible rfl | (simp only [↓kept_mk, ↓kept_fold]))

theorem forceTrigger_kept (s : State) (n : Stall) : kept (forceTrigger s n).1 = kept s := by
  unfold forceTrigger
  repeat' (first | (simp only [↓requestTrigger_kept]) | split | with_reducible rfl)

theorem podEvent_kept (s : State) (p : Fin 6) (code : Nat) (t : Time) (p4 p5 p6 p7 : Dword) : kept (podEvent s p code t p4 p5
    p6 p7) = kept s := by
  unfold podEvent
  repeat' (first | (simp only [↓kept_ite, ite_self, ↓sendEvents_kept]) | split | with_reducible rfl)

theorem reportPlug_kept (s : State) (p : Fin 6) (bytes : Option (List Byte)) : kept (reportPlug s p bytes) = kept s := by
  unfold reportPlug
  repeat' (first | (simp only [↓modPort_kept, ↓podEvent_kept]) | split | with_reducible rfl | (simp only [↓kept_mk, ↓kept_fold]))

theorem forcePort_kept (s : State) (p : Fin 6) : kept (forcePort s p) = kept s := by
  unfold forcePort
  repeat' (first | (simp only [↓kept_chans, ↓kept_ite, ite_self, ↓dropLatchTerms_kept]) | split
                    | refine (kept_foldl _ ?_ _ _).trans ?_ | intro _ _ | with_reducible rfl | (simp only [↓kept_mk, ↓kept_fold]))

theorem recognisePlug_kept (s : State) (p : Fin 6) (t : Time) : kept (recognisePlug s p t) = kept s := by
  unfold recognisePlug
  repeat' (first | (simp only [↓forcePort_kept, ↓modPort_kept]) | split | with_reducible rfl | (simp only [↓kept_mk, ↓kept_fold]))

theorem reportUnread_kept (s : State) (p : Fin 6) : kept (reportUnread s p) = kept s := by
  unfold reportUnread
  repeat' (first | (simp only [↓kept_ite, ite_self, ↓reportPlug_kept]) | split | with_reducible rfl)

theorem recogniseUnplug_kept (s : State) (p : Fin 6) (t : Time) (overcurrent : Bool) : kept (recogniseUnplug s p t
    overcurrent) = kept s := by
  unfold recogniseUnplug
  repeat' (first | (simp only [↓forcePort_kept, ↓marker_kept, ↓modPort_kept, ↓podEvent_kept]) | split
                    | refine (kept_foldl _ ?_ _ _).trans ?_ | intro _ _ | with_reducible rfl | (simp only [↓kept_mk, ↓kept_fold]))

theorem holdPress_kept (s : State) (kind : BitVec 2) (index : Nat) (t : Time) : kept (holdPress s kind index t) = kept s := by
  unfold holdPress
  repeat' (first | (simp only [↓kept_power, ↓kept_ite, ite_self]) | split | with_reducible rfl
                    | (simp only [↓kept_mk, ↓kept_fold]))

theorem execPodPlug_kept (p : Fin 6) (t : Time) (s : State) : keptBy s (execPodPlug p t s) := by
  unfold execPodPlug
  repeat' (first | (simp only [keptBy_next, ↓kept_ite, ite_self, ↓holdPress_kept, ↓modPort_kept,
                    ↓recognisePlug_kept]) | split | with_reducible rfl | (simp only [↓kept_mk, ↓kept_fold]))

theorem execPodPwrSettled_kept (p : Fin 6) (s : State) : keptBy s (execPodPwrSettled p s) := by
  unfold execPodPwrSettled
  repeat' (first | (simp only [keptBy_next, ↓kept_ite, ite_self, ↓modPort_kept]) | split | with_reducible rfl
                    | (simp only [↓kept_mk, ↓kept_fold]))

theorem execPodDescriptorRead_kept (p : Fin 6) (bytes : Option (List Byte)) (seed : SeedIn) (s : State) : keptBy s
    (execPodDescriptorRead p bytes seed s) := by
  unfold execPodDescriptorRead
  repeat' (first | (simp only [keptBy_next, ↓kept_ite, ite_self, ↓releaseIdle_kept, ↓reportPlug_kept]) | split
                    | with_reducible rfl)

theorem execPodUnplug_kept (p : Fin 6) (t : Time) (s : State) : keptBy s (execPodUnplug p t s) := by
  unfold execPodUnplug
  repeat' (first | (simp only [keptBy_next, ↓kept_ite, ite_self, ↓holdPress_kept, ↓modPort_kept,
                    ↓recogniseUnplug_kept]) | split | with_reducible rfl | (simp only [↓kept_mk, ↓kept_fold]))

theorem execPodOvercurrent_kept (p : Fin 6) (t : Time) (s : State) : keptBy s (execPodOvercurrent p t s) := by
  unfold execPodOvercurrent
  repeat' (first | (simp only [keptBy_next, ↓kept_ite, ite_self, ↓recogniseUnplug_kept, ↓reportUnread_kept])
                    | split | with_reducible rfl)

theorem reportSpur_kept (s : State) (p : Fin 6) (t : Time) : kept (reportSpur s p t) = kept s := by
  unfold reportSpur
  repeat' (first | (simp only [↓marker_kept, ↓sendEvents_kept]) | split | refine (kept_foldl _ ?_ _ _).trans ?_
                    | intro _ _ | with_reducible rfl)

theorem raiseSpur_kept (s : State) (p : Fin 6) : kept (raiseSpur s p) = kept s := by
  unfold raiseSpur
  repeat' (first | (simp only [↓raisePulse_kept]) | split | refine (kept_foldl _ ?_ _ _).trans ?_ | intro _ _
                    | with_reducible rfl)

theorem execSpurPress_kept (p : Fin 6) (t : Time) (s : State) : keptBy s (execSpurPress p t s) := by
  unfold execSpurPress
  repeat' (first | (simp only [keptBy_next, ↓kept_ite, ite_self, ↓holdPress_kept, ↓modPort_kept,
                    ↓raiseSpur_kept, ↓reportSpur_kept]) | split | with_reducible rfl | (simp only [↓kept_mk, ↓kept_fold]))

theorem execSpurRelease_kept (p : Fin 6) (s : State) : keptBy s (execSpurRelease p s) := by
  unfold execSpurRelease
  repeat' (first | (simp only [keptBy_next, ↓modPort_kept]) | split | with_reducible rfl | (simp only [↓kept_mk, ↓kept_fold]))

theorem writeSettings_kept (s : State) (n : Stall) (e : SqEntry) (seed : SeedIn) : kept (writeSettings s n e seed) = kept s := by
  unfold writeSettings
  repeat' (first | (simp only [↓kept_ite, ite_self, ↓applySetting_kept, ↓modChan_kept]) | split
                    | refine (kept_foldl _ ?_ _ _).trans ?_ | intro _ _ | with_reducible rfl | (simp only [↓kept_mk, ↓kept_fold]))

theorem execProbeConfig_kept (seed : SeedIn) (s : State) : keptBy s (execProbeConfig seed s) := by
  unfold execProbeConfig
  repeat' (first | (simp only [keptBy_next, ↓kept_ite, ite_self, ↓complete_kept, ↓completeAt_kept, ↓deny_kept,
                    ↓invalidAt_kept, ↓withCmd_kept, ↓writeSettings_kept]) | split | intro _ _
                    | refine (withCmd_kept _ _ _ ?_).trans ?_ | with_reducible rfl | (simp only [↓kept_mk, ↓kept_fold]))

theorem clearNamed_kept (s : State) (t : Taken) (named : ChanMask) (conds : BitVec 4) : kept (clearNamed s t named conds) =
    kept s := by
  unfold clearNamed
  repeat' (first | (simp only [↓clearChans_kept, ↓completeAt_kept, ↓deny_kept]) | split | with_reducible rfl
                    | (simp only [↓kept_mk, ↓kept_fold]))

theorem execLatchClear_kept (s : State) : keptBy s (execLatchClear s) := by
  unfold execLatchClear
  repeat' (first | (simp only [keptBy_next, ↓kept_ite, ite_self, ↓clearNamed_kept, ↓invalidAt_kept,
                    ↓withCmd_kept]) | split | intro _ _ | refine (withCmd_kept _ _ _ ?_).trans ?_ | with_reducible rfl
                    | (simp only [↓kept_mk, ↓kept_fold]))

theorem armApply_kept (s : State) (n : Stall) (a : ArmParams) (when_ : Time) : kept (armApply s n a when_) = kept s := by
  unfold armApply
  repeat' (first | (simp only [↓kept_chains, ↓kept_ite, ite_self, ↓clearStall_kept, ↓fillSlice_kept,
                    ↓modStall_kept]) | split | with_reducible rfl | (simp only [↓kept_mk, ↓kept_fold]))

theorem decideArm_kept (s : State) (t : Taken) : kept (decideArm s t) = kept s := by
  unfold decideArm
  repeat' (first | (simp only [↓kept_ite, ite_self, ↓armApply_kept, ↓complete_kept, ↓completeAt_kept,
                    ↓modStall_kept]) | split | with_reducible rfl | (simp only [↓kept_mk, ↓kept_fold]))

theorem execCaptureArm_kept (s : State) : keptBy s (execCaptureArm s) := by
  unfold execCaptureArm
  repeat' (first | (simp only [keptBy_next, ↓kept_jobs, ↓kept_ite, ite_self, ↓decideArm_kept, ↓withCmd_kept])
                    | split | intro _ _ | refine (withCmd_kept _ _ _ ?_).trans ?_ | with_reducible rfl | (simp only [↓kept_mk,
                    ↓kept_fold]))

theorem stopCapture_kept (s : State) (n : Stall) : kept (stopCapture s n) = kept s := by
  unfold stopCapture
  repeat' (first | (simp only [↓closeCapture_kept]) | split | with_reducible rfl)

theorem execCaptureStop_kept (s : State) : keptBy s (execCaptureStop s) := by
  unfold execCaptureStop
  repeat' (first | (simp only [keptBy_next, ↓kept_ite, ite_self, ↓completeAt_kept, ↓handOff_kept,
                    ↓invalidAt_kept, ↓modCap_kept, ↓stopCapture_kept, ↓withCmd_kept]) | split | intro _ _
                    | refine (withCmd_kept _ _ _ ?_).trans ?_ | with_reducible rfl | (simp only [↓kept_mk, ↓kept_fold]))

theorem execCaptureForce_kept (s : State) : keptBy s (execCaptureForce s) := by
  unfold execCaptureForce
  repeat' (first | (simp only [keptBy_next, ↓kept_ite, ite_self, ↓complete_kept, ↓completeAt_kept,
                    ↓forceTrigger_kept, ↓invalid_kept, ↓invalidAt_kept, ↓withCmd_kept]) | split | intro _ _
                    | refine (withCmd_kept _ _ _ ?_).trans ?_ | with_reducible rfl | (simp only [↓kept_mk, ↓kept_fold]))

theorem doMark_kept (s : State) (t : Taken) : kept (doMark s t) = kept s := by
  unfold doMark
  repeat' (first | (simp only [↓kept_ite, ite_self, ↓completeAt_kept, ↓handOff_kept, ↓marker_kept,
                    ↓modCap_kept]) | split | with_reducible rfl | (simp only [↓kept_mk, ↓kept_fold]))

theorem execCaptureMark_kept (s : State) : keptBy s (execCaptureMark s) := by
  unfold execCaptureMark
  repeat' (first | (simp only [keptBy_next, ↓kept_ite, ite_self, ↓doMark_kept, ↓invalid_kept, ↓invalidAt_kept,
                    ↓withCmd_kept]) | split | intro _ _ | refine (withCmd_kept _ _ _ ?_).trans ?_ | with_reducible rfl
                    | (simp only [↓kept_mk, ↓kept_fold]))

theorem keyEvent_kept (s : State) (w : KeyWait) (status : BitVec 8) : kept (keyEvent s w status) = kept s := by
  unfold keyEvent
  repeat' (first | (simp only [↓sendEvents_kept]) | split | with_reducible rfl)

theorem keyArm_kept (s : State) (w : KeyWait) : kept (keyArm s w) = kept s := by
  unfold keyArm
  repeat' (first | (simp only [↓kept_ite, ite_self, ↓armApply_kept, ↓keyEvent_kept]) | split
                    | with_reducible rfl | (simp only [↓kept_mk, ↓kept_fold]))

theorem applyPanel_kept (s : State) (e : SqEntry) : kept (applyPanel s e) = kept s := by
  unfold applyPanel
  repeat' (first | (simp only [↓kept_panel, ↓kept_ite, ite_self]) | split | with_reducible rfl
                    | (simp only [↓kept_mk, ↓kept_fold]))

theorem panelCommand_kept (s : State) (t : Taken) : kept (panelCommand s t) = kept s := by
  unfold panelCommand
  repeat' (first | (simp only [↓applyPanel_kept, ↓complete_kept, ↓invalidAt_kept]) | split | with_reducible rfl
                    | (simp only [↓kept_mk, ↓kept_fold]))

theorem execPanelConfigKeys_kept (s : State) : keptBy s (execPanelConfigKeys s) := by
  unfold execPanelConfigKeys
  repeat' (first | (simp only [keptBy_next, ↓panelCommand_kept, ↓withCmd_kept]) | split | intro _ _
                    | refine (withCmd_kept _ _ _ ?_).trans ?_ | with_reducible rfl)

theorem execPanelConfigLeds_kept (s : State) : keptBy s (execPanelConfigLeds s) := by
  unfold execPanelConfigLeds
  repeat' (first | (simp only [keptBy_next, ↓panelCommand_kept, ↓withCmd_kept]) | split | intro _ _
                    | refine (withCmd_kept _ _ _ ?_).trans ?_ | with_reducible rfl)

theorem raiseKey_kept (s : State) (k : Nat) : kept (raiseKey s k) = kept s := by
  unfold raiseKey
  repeat' (first | (simp only [↓raisePulse_kept]) | split | refine (kept_foldl _ ?_ _ _).trans ?_ | intro _ _
                    | with_reducible rfl)

theorem keyForce_kept (s : State) (w : KeyWait) : kept (keyForce s w) = kept s := by
  unfold keyForce
  repeat' (first | (simp only [↓kept_ite, ite_self, ↓forceTrigger_kept, ↓keyEvent_kept]) | split
                    | with_reducible rfl | (simp only [↓kept_mk, ↓kept_fold]))

theorem keyRearm_kept (s : State) (w : KeyWait) : kept (keyRearm s w) = kept s := by
  unfold keyRearm
  repeat' (first | (simp only [↓kept_jobs, ↓kept_ite, ite_self, ↓keyArm_kept, ↓keyEvent_kept]) | split
                    | with_reducible rfl | (simp only [↓kept_mk, ↓kept_fold]))

theorem keyRunStop_kept (s : State) (w : KeyWait) : kept (keyRunStop s w) = kept s := by
  unfold keyRunStop
  repeat' (first | (simp only [↓kept_ite, ite_self, ↓keyEvent_kept, ↓keyRearm_kept, ↓stopCapture_kept]) | split
                    | with_reducible rfl | (simp only [↓kept_mk, ↓kept_fold]))

theorem keyAct_kept (s : State) (w : KeyWait) : kept (keyAct s w) = kept s := by
  unfold keyAct
  repeat' (first | (simp only [↓kept_ite, ite_self, ↓keyEvent_kept, ↓keyForce_kept, ↓keyRearm_kept,
                    ↓keyRunStop_kept, ↓marker_kept, ↓raiseKey_kept]) | split | with_reducible rfl)

theorem execKeyPress_kept (k : Fin 8) (t : Time) (s : State) : keptBy s (execKeyPress k t s) := by
  unfold execKeyPress
  repeat' (first | (simp only [keptBy_next, ↓kept_panel, ↓kept_ite, ite_self, ↓holdPress_kept, ↓keyAct_kept])
                    | split | with_reducible rfl | (simp only [↓kept_mk, ↓kept_fold]))

theorem execKeyRelease_kept (k : Fin 8) (s : State) : keptBy s (execKeyRelease k s) := by
  unfold execKeyRelease
  repeat' (first | (simp only [keptBy_next, ↓kept_panel]) | split | with_reducible rfl | (simp only [↓kept_mk, ↓kept_fold]))

theorem reportHeldPlug_kept (s : State) (p : Fin 6) (t : Time) (gone : Bool) : kept (reportHeldPlug s p t gone) = kept s := by
  unfold reportHeldPlug
  repeat' (first | (simp only [↓kept_ite, ite_self, ↓modPort_kept, ↓recognisePlug_kept, ↓reportPlug_kept])
                    | split | with_reducible rfl | (simp only [↓kept_mk, ↓kept_fold]))

theorem reportHeld_kept (s : State) (h : HeldPress) (rest : List HeldPress) : kept (reportHeld s h rest) = kept s := by
  unfold reportHeld
  repeat' (first | (simp only [↓kept_ite, ite_self, ↓keyEvent_kept, ↓recogniseUnplug_kept, ↓reportHeldPlug_kept,
                    ↓reportSpur_kept, ↓reportUnread_kept]) | split | with_reducible rfl)

theorem reportAll_kept (s : State) (l : List HeldPress) : kept (reportAll s l) = kept s := by
  induction l generalizing s with
  | nil => rfl
  | cons h l ih => exact (ih _).trans (reportHeld_kept _ _ _)

theorem giveHeld_kept (s : State) : kept (giveHeld s) = kept s := by
  unfold giveHeld
  repeat' (first | (simp only [↓kept_power, ↓reportAll_kept]) | split | with_reducible rfl | (simp only [↓kept_mk, ↓kept_fold]))

theorem execLedBlinkToggle_kept (s : State) : keptBy s (execLedBlinkToggle s) := by
  unfold execLedBlinkToggle
  repeat' (first | (simp only [keptBy_next, ↓kept_panel]) | split | with_reducible rfl | (simp only [↓kept_mk, ↓kept_fold]))


end Sys2Proof.Machine
end

