-- ==== Sys2Proof/Laws/KeptStore.lean ====
section
/-! SUPPORT. What each function keeps (Laws/Kept.lean): reference loads, the DRAM lanes, their faults and calibration. -/

set_option linter.unusedSimpArgs false

namespace Sys2Proof.Machine

set_option Elab.async false


theorem takeArea_kept (s : State) (n : Stall) (k : Nat) : kept (takeArea s n k).1 = kept s := by
  unfold takeArea
  repeat' (first | (simp only [↓kept_ite, ite_self, ↓changePolder_kept, ↓modStall_kept]) | split
                    | with_reducible rfl | (simp only [↓kept_mk, ↓kept_fold]))

theorem loseReference_kept (s : State) (n : Stall) : kept (loseReference s n) = kept s := by
  unfold loseReference
  repeat' (first | (simp only [↓modRef_kept]) | split | with_reducible rfl | (simp only [↓kept_mk, ↓kept_fold]))

theorem endLoad_kept (s : State) (j : LoadJob) (st : Status) (p : Pay) : kept (endLoad s j st p) = kept s := by
  unfold endLoad
  repeat' (first | (simp only [↓kept_jobs, ↓completeTag_kept, ↓dropLoadWrites_kept, ↓modRef_kept]) | split
                    | with_reducible rfl | (simp only [↓kept_mk, ↓kept_fold]))

theorem loadRead_kept (s : State) (f : Fn) (tag : BitVec 16) (data : HostData) : kept (loadRead s f tag data) = kept s := by
  unfold loadRead
  repeat' (first | (simp only [↓kept_jobs, ↓kept_ite, ite_self, ↓endLoad_kept, ↓giveDecs_kept]) | split
                    | with_reducible rfl | (simp only [↓kept_mk, ↓kept_fold]))

theorem execReferenceLoad_kept (s : State) : keptBy s (execReferenceLoad s) := by
  unfold execReferenceLoad
  rw [keptBy_next]
  refine (withCmd_kept _ _ _ ?_).trans rfl
  intro s t
  dsimp only
  split
  · exact complete_kept _ _ _
  · split
    · refine (completeAt_kept _ _ _ _).trans ?_
      split
      · rfl
      · exact loseReference_kept _ _
    · refine (issueRead_kept _ _ _ _ _ _).trans ((giveDecs_kept _).trans ((kept_jobs _ _).trans ((modRef_kept _ _ _).trans
        ((handOff_kept _ _ _ _).trans ?_))))
      split
      · exact loseReference_kept _ _
      · exact (takeArea_kept _ _ _).trans (loseReference_kept _ _)

theorem writeRef_kept (s : State) (n : Stall) (k : Nat) (recs : List Rec) : kept (writeRef s n k recs) = kept s := by
  unfold writeRef
  repeat' (first | (simp only [↓modLane_kept]) | split | with_reducible rfl | (simp only [↓kept_mk, ↓kept_fold]))

theorem writeOut_kept (s : State) (n : Stall) (at_ : Nat) (out : List Byte) : kept (writeOut s n at_ out) = kept s := by
  unfold writeOut
  repeat' (first | (simp only [↓writeRef_kept]) | split | refine (kept_foldl _ ?_ _ _).trans ?_ | intro _ _ | with_reducible rfl)

theorem finishLoad_kept (s : State) (j : LoadJob) : kept (finishLoad s j) = kept s := by
  unfold finishLoad
  repeat' (first | (simp only [↓kept_ite, ite_self, ↓endLoad_kept, ↓giveDecs_kept, ↓modRef_kept]) | split | with_reducible rfl)

theorem takeBale_kept (s : State) (j : LoadJob) (out : List Byte) : kept (takeBale s j out) = kept s := by
  unfold takeBale
  repeat' (first | (simp only [↓kept_jobs, ↓kept_out, ↓kept_ite, ite_self, ↓endLoad_kept, ↓finishLoad_kept,
                    ↓giveDecs_kept, ↓invalid_kept, ↓modOutst_kept, ↓writeOut_kept]) | split | with_reducible rfl
                    | (simp only [↓kept_mk, ↓kept_fold]))

theorem execDecompressorBaleDone_kept (d : Fin 2) (ecc : Ecc) (s : State) : keptBy s (execDecompressorBaleDone d ecc s) := by
  unfold execDecompressorBaleDone
  repeat' (first | (simp only [keptBy_next, ↓kept_ite, ite_self, ↓endLoad_kept, ↓giveDecs_kept, ↓noteEcc_kept,
                    ↓takeBale_kept]) | split | with_reducible rfl | (simp only [↓kept_mk, ↓kept_fold]))

theorem ackLoad_kept (s : State) (n : Stall) : kept (ackLoad s n) = kept s := by
  unfold ackLoad
  repeat' (first | (simp only [↓finishLoad_kept]) | split | with_reducible rfl | (simp only [↓kept_mk, ↓kept_fold]))

theorem access_kept (s : State) (l : Fin 4) (blk : Nat) : kept (access s l blk) = kept s := by
  unfold access
  repeat' (first | (simp only [↓modLane_kept]) | split | with_reducible rfl)

theorem issueBlock_kept (s : State) (l : Fin 4) (b : FbBlock) (rest : List FbBlock) (bad : Bool) : kept (issueBlock s l b rest
    bad) = kept s := by
  unfold issueBlock
  repeat' (first | (simp only [↓kept_fbd, ↓kept_ite, ite_self, ↓modCap_kept, ↓modLane_kept]) | split
                    | with_reducible rfl | (simp only [↓kept_mk, ↓kept_fold]))

theorem execLaneWriteIssue_kept (l : Fin 4) (ecc : Ecc) (s : State) : keptBy s (execLaneWriteIssue l ecc s) := by
  unfold execLaneWriteIssue
  repeat' (first | (simp only [keptBy_next, ↓kept_ite, ite_self, ↓countSram_kept, ↓issueBlock_kept]) | split
                    | with_reducible rfl | (simp only [↓kept_mk, ↓kept_fold]) | exact True.intro)

theorem pushCmd_kept (s : State) (l : Fin 4) (wr : Option WrReq) (rd : Option RdReq) : kept (pushCmd s l wr rd) = kept s := by
  unfold pushCmd
  repeat' (first | (simp only [↓modLane_kept]) | split | with_reducible rfl | (simp only [↓kept_mk, ↓kept_fold]))

theorem issueWrite_kept (s : State) (l : Fin 4) (w : WrReq) : kept (issueWrite s l w) = kept s := by
  unfold issueWrite
  repeat' (first | (simp only [↓access_kept, ↓modLane_kept, ↓pushCmd_kept]) | split | with_reducible rfl
                    | (simp only [↓kept_mk, ↓kept_fold]))

theorem issueRd_kept (s : State) (l : Fin 4) (q : RdReq) : kept (issueRd s l q) = kept s := by
  unfold issueRd
  repeat' (first | (simp only [↓kept_ite, ite_self, ↓access_kept, ↓modLane_kept, ↓pushCmd_kept]) | split
                    | with_reducible rfl | (simp only [↓kept_mk, ↓kept_fold]))

theorem scrubOn_kept (s : State) (l : Fin 4) : kept (scrubOn s l) = kept s := by
  unfold scrubOn
  repeat' (first | (simp only [↓kept_ite, ite_self, ↓modLane_kept]) | split | with_reducible rfl
                    | (simp only [↓kept_mk, ↓kept_fold]))

theorem issueWipe_kept (s : State) (l : Fin 4) (b : Nat) (q : WipeReq) : kept (issueWipe s l b q) = kept s := by
  unfold issueWipe
  repeat' (first | (simp only [↓kept_ite, ite_self, ↓issueWrite_kept, ↓modLane_kept]) | split
                    | with_reducible rfl | (simp only [↓kept_mk, ↓kept_fold]))

theorem serve_kept (s : State) (l : Fin 4) (p : Pick) : kept (serve s l p) = kept s := by
  unfold serve
  repeat' (first | (simp only [↓kept_ite, ite_self, ↓issueRd_kept, ↓issueWipe_kept, ↓issueWrite_kept,
                    ↓modLane_kept, ↓scrubOn_kept]) | split | with_reducible rfl | (simp only [↓kept_mk, ↓kept_fold]))

theorem replayNext_kept (s : State) (l : Fin 4) : kept (replayNext s l) = kept s := by
  unfold replayNext
  repeat' (first | (simp only [↓kept_ite, ite_self, ↓access_kept, ↓modLane_kept]) | split | with_reducible rfl
                    | (simp only [↓kept_mk, ↓kept_fold]))

theorem slotStep_kept (s : State) (l : Fin 4) : kept (slotStep s l) = kept s := by
  unfold slotStep
  repeat' (first | (simp only [↓kept_ite, ite_self, ↓modLane_kept, ↓replayNext_kept, ↓serve_kept]) | split
                    | with_reducible rfl | (simp only [↓kept_mk, ↓kept_fold]))

theorem execDramSchedule_kept (l : Fin 4) (s : State) : keptBy s (execDramSchedule l s) := by
  unfold execDramSchedule
  repeat' (first | (simp only [keptBy_next, ↓kept_ite, ite_self, ↓modLane_kept, ↓slotStep_kept]) | split
                    | with_reducible rfl | (simp only [↓kept_mk, ↓kept_fold]))

theorem modSeg_kept (s : State) (n : Stall) (uid : Nat) (f : Seg → Seg) : kept (modSeg s n uid f) = kept s := by
  unfold modSeg
  repeat' (first | (simp only [↓kept_ite, ite_self, ↓modStall_kept]) | split | with_reducible rfl
                    | (simp only [↓kept_mk, ↓kept_fold]))

theorem ackOwner_kept (s : State) (x0 : WrOwner) : kept (ackOwner s x0) = kept s := by
  unfold ackOwner
  repeat' (first | (simp only [↓kept_ite, ite_self, ↓ackLoad_kept, ↓modSeg_kept]) | split | with_reducible rfl
                    | (simp only [↓kept_mk, ↓kept_fold]))

theorem noteWritten_kept (s : State) (l : Fin 4) (w : WrReq) : kept (noteWritten s l w) = kept s := by
  unfold noteWritten
  repeat' (first | (simp only [↓kept_ite, ite_self, ↓modLane_kept]) | split | with_reducible rfl
                    | (simp only [↓kept_mk, ↓kept_fold]))

theorem dramEventAt_kept (s : State) (t : Time) (who : List Stall) (cause : Nat) (l : Fin 4) (detail : Nat) : kept
    (dramEventAt s t who cause l detail) = kept s := by
  unfold dramEventAt
  repeat' (first | (simp only [↓kept_ite, ite_self, ↓sendRated_kept]) | split | with_reducible rfl)

theorem dramEvent_kept (s : State) (who : List Stall) (cause : Nat) (l : Fin 4) (detail : Nat) : kept (dramEvent s who cause l
    detail) = kept s := by
  unfold dramEvent
  repeat' (first | (simp only [↓dramEventAt_kept]) | split | with_reducible rfl)

theorem retireParcel_kept (s : State) (l : Fin 4) (p : Nat) : kept (retireParcel s l p) = kept s := by
  unfold retireParcel
  repeat' (first | (simp only [↓kept_lanes, ↓kept_ite, ite_self, ↓applyRetire_kept, ↓dramEvent_kept,
                    ↓modLane_kept]) | split | with_reducible rfl | (simp only [↓kept_mk, ↓kept_fold]))

theorem putBreach_kept (s : State) (e : BreachEntry) : kept (putBreach s e) = kept s := by
  unfold putBreach
  repeat' (first | (simp only [↓kept_flash, ↓kept_ite, ite_self, ↓queueBreach_kept]) | split
                    | with_reducible rfl | (simp only [↓kept_mk, ↓kept_fold]))

theorem breachCandidate_kept (s : State) (l : Fin 4) (row : BitVec 21) (cause : BitVec 3) : kept (breachCandidate s l row
    cause) = kept s := by
  unfold breachCandidate
  repeat' (first | (simp only [↓kept_ite, ite_self, ↓modLane_kept, ↓putBreach_kept, ↓retireParcel_kept]) | split
                    | refine (kept_foldl _ ?_ _ _).trans ?_ | intro _ _ | with_reducible rfl | (simp only [↓kept_mk, ↓kept_fold]))

theorem deliver_kept (s : State) (l : Fin 4) (q : RdReq) (recs : Option (List Rec)) : kept (deliver s l q recs) = kept s := by
  unfold deliver
  repeat' (first | (simp only [↓scrubOn_kept, ↓stageBlock_kept, ↓uploadData_kept]) | split | with_reducible rfl
                    | (simp only [↓kept_mk, ↓kept_fold]))

theorem deliverPoison_kept (s : State) (l : Fin 4) (q : RdReq) : kept (deliverPoison s l q) = kept s := by
  unfold deliverPoison
  repeat' (first | (simp only [↓deliver_kept, ↓modLane_kept]) | split | with_reducible rfl | (simp only [↓kept_mk, ↓kept_fold]))

theorem readFailed_kept (s : State) (l : Fin 4) (q : RdReq) : kept (readFailed s l q) = kept s := by
  unfold readFailed
  repeat' (first | (simp only [↓kept_ite, ite_self, ↓breachCandidate_kept, ↓deliverPoison_kept, ↓modLane_kept])
                    | split | with_reducible rfl | (simp only [↓kept_mk, ↓kept_fold]))

theorem scrubFix_kept (s : State) (l : Fin 4) (q : RdReq) (recs : List Rec) : kept (scrubFix s l q recs) = kept s := by
  unfold scrubFix
  repeat' (first | (simp only [↓kept_ite, ite_self, ↓breachCandidate_kept, ↓modLane_kept]) | split
                    | with_reducible rfl | (simp only [↓kept_mk, ↓kept_fold]))

theorem readBack_kept (s : State) (l : Fin 4) (q : RdReq) (flips : List (BitVec 80)) : kept (readBack s l q flips) = kept s := by
  unfold readBack
  repeat' (first | (simp only [↓kept_ite, ite_self, ↓deliver_kept, ↓deliverPoison_kept, ↓modLane_kept,
                    ↓readFailed_kept, ↓scrubFix_kept]) | split | with_reducible rfl | (simp only [↓kept_mk, ↓kept_fold]))

theorem execDramReadData_kept (l : Fin 4) (flips : List (BitVec 80)) (s : State) : keptBy s (execDramReadData l flips s) := by
  unfold execDramReadData
  repeat' (first | (simp only [keptBy_next, ↓kept_ite, ite_self, ↓deliver_kept, ↓modLane_kept, ↓readBack_kept,
                    ↓readFailed_kept]) | split | with_reducible rfl | (simp only [↓kept_mk, ↓kept_fold]))

theorem loseBlock_kept (s : State) (n : Stall) (uid blk : Nat) : kept (loseBlock s n uid blk) = kept s := by
  unfold loseBlock
  repeat' (first | (simp only [↓modSeg_kept]) | split | with_reducible rfl | (simp only [↓kept_mk, ↓kept_fold]))

theorem cutHeld_kept (s : State) : kept (cutHeld s) = kept s := by
  unfold cutHeld
  repeat' (first | (simp only [↓kept_stalls, ↓kept_ite, ite_self, ↓renewHeader_kept, ↓syncHeaders_kept]) | split
                    | refine (kept_foldl _ ?_ _ _).trans ?_ | intro _ _ | with_reducible rfl | (simp only [↓kept_mk, ↓kept_fold]))

theorem giveUp_kept (s : State) (l : Fin 4) : kept (giveUp s l) = kept s := by
  unfold giveUp
  repeat' (first | (simp only [↓kept_fbd, ↓cutHeld_kept, ↓loseBlock_kept, ↓modCap_kept, ↓modLane_kept]) | split
                    | refine (kept_foldl _ ?_ _ _).trans ?_ | intro _ _ | with_reducible rfl | (simp only [↓kept_mk, ↓kept_fold]))

theorem execLaneFault_kept (l : Fin 4) (s : State) : keptBy s (execLaneFault l s) := by
  unfold execLaneFault
  repeat' (first | (simp only [keptBy_next, ↓kept_ite, ite_self, ↓closeAll_kept, ↓dramEvent_kept, ↓giveUp_kept])
                    | split | with_reducible rfl)

theorem execDramRefresh_kept (l : Fin 4) (s : State) : keptBy s (execDramRefresh l s) := by
  unfold execDramRefresh
  repeat' (first | (simp only [keptBy_next, ↓kept_ite, ite_self, ↓modLane_kept]) | split | with_reducible rfl
                    | (simp only [↓kept_mk, ↓kept_fold]))

theorem execMr4Read_kept (l : Fin 4) (temps : Vector CompTemp 5) (s : State) : keptBy s (execMr4Read l temps s) := by
  unfold execMr4Read
  repeat' (first | (simp only [keptBy_next, ↓kept_ite, ite_self, ↓dramEvent_kept, ↓modLane_kept,
                    ↓shedClose_kept]) | split | with_reducible rfl | (simp only [↓kept_mk, ↓kept_fold]))

theorem execNrTableClear_kept (l : Fin 4) (s : State) : keptBy s (execNrTableClear l s) := by
  unfold execNrTableClear
  repeat' (first | (simp only [keptBy_next, ↓modLane_kept]) | split | with_reducible rfl | (simp only [↓kept_mk, ↓kept_fold]))

theorem execNeighbourRefresh_kept (l : Fin 4) (s : State) : keptBy s (execNeighbourRefresh l s) := by
  unfold execNeighbourRefresh
  repeat' (first | (simp only [keptBy_next, ↓kept_ite, ite_self, ↓modLane_kept]) | split | with_reducible rfl
                    | (simp only [↓kept_mk, ↓kept_fold]))

theorem markUnstable_kept (s : State) (l : Fin 4) : kept (markUnstable s l) = kept s := by
  unfold markUnstable
  repeat' (first | (simp only [↓kept_ite, ite_self, ↓closeAll_kept, ↓modLane_kept]) | split | with_reducible rfl
                    | (simp only [↓kept_mk, ↓kept_fold]))

theorem replayLimit_kept (s : State) (l : Fin 4) : kept (replayLimit s l) = kept s := by
  unfold replayLimit
  repeat' (first | (simp only [↓kept_ite, ite_self, ↓dramEvent_kept, ↓markUnstable_kept]) | split | with_reducible rfl)

theorem execDqsOscCheck_kept (l : Fin 4) (drift : Rat) (s : State) : keptBy s (execDqsOscCheck l drift s) := by
  unfold execDqsOscCheck
  repeat' (first | (simp only [keptBy_next, ↓kept_ite, ite_self, ↓markUnstable_kept, ↓modLane_kept]) | split | with_reducible rfl)

theorem execAlertNFall_kept (l : Fin 4) (s : State) : keptBy s (execAlertNFall l s) := by
  unfold execAlertNFall
  repeat' (first | (simp only [keptBy_next, ↓kept_ite, ite_self, ↓modLane_kept, ↓replayLimit_kept]) | split
                    | with_reducible rfl | (simp only [↓kept_mk, ↓kept_fold]))

theorem execAlertNRise_kept (l : Fin 4) (s : State) : keptBy s (execAlertNRise l s) := by
  unfold execAlertNRise
  repeat' (first | (simp only [keptBy_next, ↓kept_ite, ite_self, ↓modLane_kept, ↓replayLimit_kept]) | split
                    | with_reducible rfl | (simp only [↓kept_mk, ↓kept_fold]))

theorem noteG_kept (s : State) (old : Nat) : kept (noteG s old) = kept s := by
  unfold noteG
  repeat' (first | (simp only [↓kept_ite, ite_self, ↓dramEvent_kept]) | split | with_reducible rfl)

theorem slowLane_kept (s : State) (l : Fin 4) (speed : BitVec 2) : kept (slowLane s l speed) = kept s := by
  unfold slowLane
  repeat' (first | (simp only [↓dramEvent_kept, ↓modLane_kept, ↓noteG_kept]) | split | with_reducible rfl
                    | (simp only [↓kept_mk, ↓kept_fold]))

theorem failLane_kept (s : State) (l : Fin 4) : kept (failLane s l) = kept s := by
  unfold failLane
  repeat' (first | (simp only [↓dramEvent_kept, ↓modLane_kept, ↓noteG_kept, ↓queueJournal_kept]) | split
                    | with_reducible rfl | (simp only [↓kept_mk, ↓kept_fold]))

theorem execLaneDemote_kept (l : Fin 4) (passed : Option (BitVec 2)) (s : State) : keptBy s (execLaneDemote l passed s) := by
  unfold execLaneDemote
  repeat' (first | (simp only [keptBy_next, ↓kept_ite, ite_self, ↓failLane_kept, ↓slowLane_kept]) | split
                    | with_reducible rfl | (simp only [↓kept_mk, ↓kept_fold]))

theorem rowToBuffer_kept (s : State) (l : Fin 4) (row : BitVec 21) : kept (rowToBuffer s l row) = kept s := modLane_kept _ _ _

theorem execSoftRepair_kept (s : State) : keptBy s (execSoftRepair s) := by
  unfold execSoftRepair
  repeat' (first | (simp only [keptBy_next, ↓kept_ite, ite_self, ↓rowToBuffer_kept]) | split
                    | with_reducible rfl | (simp only [↓kept_mk, ↓kept_fold]))

theorem execScrubStep_kept (l : Fin 4) (ago : BitVec 8) (s : State) : keptBy s (execScrubStep l ago s) := by
  unfold execScrubStep
  repeat' (first | (simp only [keptBy_next, ↓kept_ite, ite_self, ↓modLane_kept]) | split | with_reducible rfl
                    | (simp only [↓kept_mk, ↓kept_fold]))

theorem execWipeParcelDone_kept (p : Fin 4096) (s : State) : keptBy s (execWipeParcelDone p s) := by
  unfold execWipeParcelDone
  repeat' (first | (simp only [keptBy_next, ↓kept_lanes, ↓kept_ite, ite_self]) | split | with_reducible rfl
                    | (simp only [↓kept_mk, ↓kept_fold]))

theorem finishCal_kept (s : State) (j : CalJob) : kept (finishCal s j) = kept s := by
  unfold finishCal
  repeat' (first | (simp only [↓kept_tb, ↓kept_ite, ite_self, ↓completeTag_kept]) | split | with_reducible rfl
                    | (simp only [↓kept_mk, ↓kept_fold]))

theorem execCalibrate_kept (s : State) : keptBy s (execCalibrate s) := by
  unfold execCalibrate
  repeat' (first | (simp only [keptBy_next, ↓kept_tiles, ↓kept_jobs, ↓kept_ite, ite_self, ↓complete_kept,
                    ↓finishCal_kept, ↓handOff_kept, ↓invalid_kept, ↓invalidAt_kept, ↓withCmd_kept]) | split | intro _ _
                    | refine (withCmd_kept _ _ _ ?_).trans ?_ | with_reducible rfl | (simp only [↓kept_mk, ↓kept_fold]))

theorem takeCorr_kept (s : State) (p : Fin 6) (delay offset : List Int) : kept (takeCorr s p delay offset) = kept s := by
  unfold takeCorr
  repeat' (first | (simp only [↓kept_chans, ↓kept_ite, ite_self]) | split | with_reducible rfl
                    | (simp only [↓kept_mk, ↓kept_fold]))

theorem storeTile_kept (s : State) (p : Fin 6) (m : CalMeas) : kept (storeTile s p m) = kept s := by
  unfold storeTile
  repeat' (first | (simp only [↓modTile_kept, ↓takeCorr_kept]) | split | with_reducible rfl | (simp only [↓kept_mk, ↓kept_fold]))

theorem execCalibrateTileDone_kept (p : Fin 6) (pass : Bool) (meas : CalMeas) (s : State) : keptBy s (execCalibrateTileDone p
    pass meas s) := by
  unfold execCalibrateTileDone
  repeat' (first | (simp only [keptBy_next, ↓kept_jobs, ↓kept_ite, ite_self, ↓finishCal_kept, ↓modOutst_kept,
                    ↓modTile_kept, ↓storeTile_kept]) | split | with_reducible rfl | (simp only [↓kept_mk, ↓kept_fold]))

theorem execSelftest_kept (s : State) : keptBy s (execSelftest s) := by
  unfold execSelftest
  repeat' (first | (simp only [keptBy_next, ↓kept_chans, ↓kept_jobs, ↓kept_ite, ite_self, ↓complete_kept,
                    ↓deny_kept, ↓handOff_kept, ↓invalidAt_kept, ↓withCmd_kept]) | split | intro _ _
                    | refine (withCmd_kept _ _ _ ?_).trans ?_ | with_reducible rfl | (simp only [↓kept_mk, ↓kept_fold]))

theorem queueRetry_kept (s : State) (kind : BitVec 8) (detail : Dword) : kept (queueRetry s kind detail) = kept s := by
  unfold queueRetry
  repeat' (first | (simp only [↓kept_flash, ↓kept_ite, ite_self]) | split | with_reducible rfl
                    | (simp only [↓kept_mk, ↓kept_fold]))

theorem execRetryLanes_kept (s : State) : keptBy s (execRetryLanes s) := by
  unfold execRetryLanes
  repeat' (first | (simp only [keptBy_next, ↓kept_ite, ite_self, ↓complete_kept, ↓deny_kept, ↓drawFree_kept,
                    ↓handOff_kept, ↓invalidAt_kept, ↓queueRetry_kept, ↓withCmd_kept]) | split | intro _ _
                    | refine (withCmd_kept _ _ _ ?_).trans ?_ | with_reducible rfl | (simp only [↓kept_mk, ↓kept_fold]))

theorem execSelftestDone_kept (f : Fn) (tag : BitVec 16) (failed : ChanMask) (checks : BitVec 4) (s : State) : keptBy s
    (execSelftestDone f tag failed checks s) := by
  unfold execSelftestDone
  repeat' (first | (simp only [keptBy_next, ↓kept_jobs, ↓kept_ite, ite_self, ↓completeTag_kept]) | split
                    | with_reducible rfl | (simp only [↓kept_mk, ↓kept_fold]))

theorem execShadowCycle_kept (p : Fin 6) (corr : List (Int × Int)) (s : State) : keptBy s (execShadowCycle p corr s) := by
  unfold execShadowCycle
  repeat' (first | (simp only [keptBy_next, ↓kept_chans, ↓kept_ite, ite_self]) | split | with_reducible rfl
                    | (simp only [↓kept_mk, ↓kept_fold]))

theorem execCalibrationDriftPending_kept (c : Fin 48) (s : State) : keptBy s (execCalibrationDriftPending c s) := by
  unfold execCalibrationDriftPending
  repeat' (first | (simp only [keptBy_next, ↓kept_ite, ite_self, ↓modChan_kept, ↓noteDrift_kept,
                    ↓sendEvent_kept]) | split | with_reducible rfl | (simp only [↓kept_mk, ↓kept_fold]))

theorem tileEvent_kept (s : State) (reason tiles : Nat) : kept (tileEvent s reason tiles) = kept s := by
  unfold tileEvent
  repeat' (first | (simp only [↓noteDrift_kept, ↓sendRated_kept]) | split | with_reducible rfl)

theorem execTileSensorSample_kept (temps : Vector (BitVec 16) 6) (supplies : Vector Int 6) (s : State) : keptBy s
    (execTileSensorSample temps supplies s) := by
  unfold execTileSensorSample
  repeat' (first | (simp only [keptBy_next, ↓kept_tiles, ↓kept_fe, ↓kept_ite, ite_self, ↓tileEvent_kept])
                    | split | with_reducible rfl | (simp only [↓kept_mk, ↓kept_fold]))

theorem execTileSpreadRestored_kept (s : State) : keptBy s (execTileSpreadRestored s) := by
  unfold execTileSpreadRestored
  repeat' (first | (simp only [keptBy_next, ↓kept_fe, ↓kept_ite, ite_self, ↓tileEvent_kept]) | split
                    | with_reducible rfl | (simp only [↓kept_mk, ↓kept_fold]))

end Sys2Proof.Machine
end

