-- ==== Sys2Proof/Laws/KeptDevice.lean ====
section
/-! SUPPORT. What each function keeps (Laws/Kept.lean): Quera, the firmware, the secure element, the boot and the stall commands. -/

set_option linter.unusedSimpArgs false

namespace Sys2Proof.Machine

set_option Elab.async false

theorem sendMsg_kept (s : State) (p : Fin 4) (v : Nat) : kept (sendMsg s p v) = kept s := by
  unfold sendMsg
  repeat' (first | (simp only [↓modQport_kept]) | split | with_reducible rfl | (simp only [↓kept_mk, ↓kept_fold]))

theorem sendTopology_kept (s : State) (p : Fin 4) : kept (sendTopology s p) = kept s := by
  unfold sendTopology
  repeat' (first | (simp only [↓modQport_kept, ↓sendMsg_kept]) | split | with_reducible rfl | (simp only [↓kept_mk, ↓kept_fold]))

theorem announce_kept (old s : State) : kept (announce old s) = kept s := by
  unfold announce
  repeat' (first | (simp only [↓sendTopology_kept]) | split | refine (kept_foldl _ ?_ _ _).trans ?_ | intro _ _
                    | with_reducible rfl)

theorem topoEvent_kept (s : State) (cause : Nat) (port : Nat) (far : BitVec 12) : kept (topoEvent s cause port far) = kept s := by
  unfold topoEvent
  repeat' (first | (simp only [↓sendRated_kept]) | split | with_reducible rfl)

theorem newEpoch_kept (s : State) (counts : List Nat) : kept (newEpoch s counts) = kept s := kept_quera _ _

theorem follow__kept (s : State) (m : BitVec 12) : kept (follow_ s m) = kept s := by
  unfold follow_
  repeat' (first | (simp only [↓kept_quera, ↓kept_tb, ↓kept_ite, ite_self]) | split | with_reducible rfl
                    | (simp only [↓kept_mk, ↓kept_fold]))

theorem becomeMaster_kept (s : State) : kept (becomeMaster s) = kept s := by
  have h := newEpoch_kept s (farCounts s)
  unfold becomeMaster
  dsimp only
  revert h
  generalize newEpoch s (farCounts s) = t
  intro h
  exact (kept_upd _ t rfl rfl rfl rfl).trans h

theorem noMaster_kept (s : State) : kept (noMaster s) = kept s := by
  unfold noMaster
  repeat' (first | (simp only [↓kept_quera]) | split | with_reducible rfl | (simp only [↓kept_mk, ↓kept_fold]))

theorem electNew_kept (s : State) : kept (electNew s) = kept s := by
  unfold electNew
  repeat' (first | (simp only [↓kept_ite, ite_self, ↓becomeMaster_kept, ↓follow__kept, ↓noMaster_kept]) | split
                    | with_reducible rfl | (simp only [↓kept_mk, ↓kept_fold]))

theorem elect_kept (s : State) : kept (elect s) = kept s := by
  unfold elect
  repeat' (first | (simp only [↓kept_quera, ↓kept_ite, ite_self, ↓electNew_kept, ↓follow__kept]) | split
                    | with_reducible rfl | (simp only [↓kept_mk, ↓kept_fold]))

theorem adopt_kept (s : State) : kept (adopt s) = kept s := by
  unfold adopt
  repeat' (first | (simp only [↓kept_quera, ↓setFreeRunning_kept, ↓topoEvent_kept]) | split | with_reducible rfl
                    | (simp only [↓kept_mk, ↓kept_fold]))

theorem trackEpoch_kept (s : State) : kept (trackEpoch s) = kept s := by
  unfold trackEpoch
  repeat' (first | (simp only [↓kept_quera, ↓kept_ite, ite_self, ↓adopt_kept]) | split | with_reducible rfl
                    | (simp only [↓kept_mk, ↓kept_fold]))

theorem putRing_kept (s : State) (root : Bool) (r : BitVec 2) : kept (putRing s root r) = kept s := by
  unfold putRing
  repeat' (first | (simp only [↓kept_quera, ↓kept_ite, ite_self]) | split | with_reducible rfl
                    | (simp only [↓kept_mk, ↓kept_fold]))

theorem startCensus_kept (s : State) (root : Bool) : kept (startCensus s root) = kept s := by
  unfold startCensus
  repeat' (first | (simp only [↓kept_ite, ite_self, ↓sendMsg_kept]) | split | with_reducible rfl)

theorem ringTurned_kept (s : State) (root : Bool) : kept (ringTurned s root) = kept s := by
  unfold ringTurned
  repeat' (first | (simp only [↓kept_quera, ↓kept_ite, ite_self, ↓startCensus_kept]) | split
                    | with_reducible rfl | (simp only [↓kept_mk, ↓kept_fold]))

theorem ringEvent_kept (s : State) (root : Bool) (port : Fin 4) : kept (ringEvent s root port) = kept s := by
  unfold ringEvent
  repeat' (first | (simp only [↓kept_ite, ite_self, ↓topoEvent_kept]) | split | with_reducible rfl)

theorem settleRings_kept (old s : State) (port : Fin 4) : kept (settleRings old s port) = kept s := by
  unfold settleRings
  repeat' (first | (simp only [↓kept_ite, ite_self, ↓newEpoch_kept, ↓putRing_kept, ↓ringEvent_kept,
                    ↓ringTurned_kept, ↓setFreeRunning_kept]) | split | with_reducible rfl)

theorem reconverge_kept (old s : State) (port : Fin 4) : kept (reconverge old s port) = kept s := by
  unfold reconverge
  repeat' (first | (simp only [↓kept_quera, ↓kept_ite, ite_self, ↓elect_kept, ↓setFreeRunning_kept,
                    ↓settleRings_kept, ↓trackEpoch_kept]) | split | with_reducible rfl | (simp only [↓kept_mk, ↓kept_fold]))

theorem takeDown_kept (s : State) (p : Fin 4) : kept (takeDown s p) = kept s := by
  unfold takeDown
  repeat' (first | (simp only [↓kept_ite, ite_self, ↓announce_kept, ↓modQport_kept, ↓reconverge_kept]) | split
                    | with_reducible rfl)

theorem discardMsg_kept (s : State) (p : Fin 4) : kept (discardMsg s p) = kept s := by
  unfold discardMsg
  repeat' (first | (simp only [↓kept_ite, ite_self, ↓modQport_kept, ↓takeDown_kept]) | split
                    | with_reducible rfl | (simp only [↓kept_mk, ↓kept_fold]))

theorem spread_kept (s : State) (root : Bool) (m : Nat → Nat) : kept (spread s root m) = kept s := by
  unfold spread
  repeat' (first | (simp only [↓kept_ite, ite_self, ↓sendMsg_kept]) | split
                    | refine (kept_foldl _ ?_ _ _).trans ?_ | intro _ _ | with_reducible rfl)

theorem emitXtrig_kept (s : State) (n : Stall) (ch : Nat) (t : Time) (exact : Bool) : kept (emitXtrig s n ch t exact) = kept s
    := by
  unfold emitXtrig
  repeat' (first | (simp only [↓kept_quera, ↓kept_ite, ite_self, ↓modStall_kept, ↓spread_kept]) | split
                    | with_reducible rfl | (simp only [↓kept_mk, ↓kept_fold]))

theorem deliverXtrig_kept (s : State) (n : Stall) (ch : Nat) (src : Nat) (t : Time) (exact : Bool) : kept (deliverXtrig s n ch
    src t exact) = kept s := by
  unfold deliverXtrig
  repeat' (first | (simp only [↓kept_ite, ite_self, ↓raisePulse_kept, ↓requestTrigger_kept, ↓sendRated_kept])
                    | split | with_reducible rfl)

theorem dropPorts_kept (s : State) : kept (dropPorts s) = kept s := by
  unfold dropPorts
  repeat' (first | (simp only [↓kept_ite, ite_self, ↓takeDown_kept]) | split
                    | refine (kept_foldl _ ?_ _ _).trans ?_ | intro _ _ | with_reducible rfl)

theorem clearUnused_kept (s : State) : kept (clearUnused s) = kept s := by
  unfold clearUnused
  repeat' (first | (simp only [↓kept_quera, ↓kept_ite, ite_self]) | split | with_reducible rfl
                    | (simp only [↓kept_mk, ↓kept_fold]))

theorem identityChanged_kept (old s : State) : kept (identityChanged old s) = kept s := by
  unfold identityChanged
  repeat' (first | (simp only [↓kept_quera, ↓kept_ite, ite_self, ↓becomeMaster_kept, ↓reconverge_kept,
                    ↓startCensus_kept]) | split | with_reducible rfl | (simp only [↓kept_mk, ↓kept_fold]))

theorem applyQuera_kept (s : State) (e : SqEntry) : kept (applyQuera s e) = kept s := by
  unfold applyQuera
  repeat' (first | (simp only [↓kept_quera, ↓kept_tb, ↓kept_ite, ite_self, ↓announce_kept, ↓clearUnused_kept,
                    ↓dropPorts_kept, ↓identityChanged_kept, ↓reselect_kept]) | split | with_reducible rfl | (simp only [↓kept_mk,
                    ↓kept_fold]))

theorem execQueraConfig_kept (s : State) : keptBy s (execQueraConfig s) := by
  unfold execQueraConfig
  repeat' (first | (simp only [keptBy_next, ↓applyQuera_kept, ↓completeAt_kept, ↓invalid_kept, ↓invalidAt_kept,
                    ↓withCmd_kept]) | split | intro _ _ | refine (withCmd_kept _ _ _ ?_).trans ?_ | with_reducible rfl
                    | (simp only [↓kept_mk, ↓kept_fold]))

theorem putRoute_kept (s : State) (n : Stall) (send recv : BitVec 16) : kept (putRoute s n send recv) = kept s := by
  unfold putRoute
  repeat' (first | (simp only [↓kept_quera, ↓kept_ite, ite_self]) | split | with_reducible rfl
                    | (simp only [↓kept_mk, ↓kept_fold]))

theorem execCrossTriggerRoute_kept (s : State) : keptBy s (execCrossTriggerRoute s) := by
  unfold execCrossTriggerRoute
  repeat' (first | (simp only [keptBy_next, ↓kept_ite, ite_self, ↓completeAt_kept, ↓invalidAt_kept,
                    ↓putRoute_kept, ↓withCmd_kept]) | split | intro _ _ | refine (withCmd_kept _ _ _ ?_).trans ?_
                    | with_reducible rfl | (simp only [↓kept_mk, ↓kept_fold]))

theorem completeJob_kept (s : State) (ended : Bool) (tag : BitVec 16) (st : Status) (p : Pay) : kept (completeJob s ended tag
    st p) = kept s := by
  unfold completeJob
  repeat' (first | (simp only [↓kept_ite, ite_self, ↓completeTag_kept]) | split | with_reducible rfl)

theorem setUpd_kept (s : State) (u : Option UpdJob) : kept (setUpd s u) = kept s := by
  unfold setUpd
  repeat' (first | (simp only [↓kept_flash]) | split | with_reducible rfl | (simp only [↓kept_mk, ↓kept_fold]))

theorem setLife_kept (s : State) (j : Option LifeJob) : kept (setLife s j) = kept s := by
  unfold setLife
  repeat' (first | (simp only [↓kept_flash]) | split | with_reducible rfl | (simp only [↓kept_mk, ↓kept_fold]))

theorem setSlot_kept (s : State) (b : Bool) (i : Image) : kept (setSlot s b i) = kept s := by
  unfold setSlot
  repeat' (first | (simp only [↓kept_flash, ↓kept_ite, ite_self]) | split | with_reducible rfl
                    | (simp only [↓kept_mk, ↓kept_fold]))

theorem execFirmwareUpdate_kept (s : State) : keptBy s (execFirmwareUpdate s) := by
  unfold execFirmwareUpdate
  repeat' (first | (simp only [keptBy_next, ↓kept_ite, ite_self, ↓complete_kept, ↓handOff_kept, ↓invalidAt_kept,
                    ↓issueRead_kept, ↓setUpd_kept, ↓withCmd_kept]) | split | intro _ _ | refine (withCmd_kept _ _ _ ?_).trans ?_
                    | with_reducible rfl | (simp only [↓kept_mk, ↓kept_fold]))

theorem failUpdate_kept (s : State) (u : UpdJob) (st : Status) (p : Pay) : kept (failUpdate s u st p) = kept s := by
  unfold failUpdate
  repeat' (first | (simp only [↓completeJob_kept, ↓setSlot_kept, ↓setUpd_kept]) | split | with_reducible rfl
                    | (simp only [↓kept_mk, ↓kept_fold]))

theorem updateRead_kept (s : State) (len : Nat) (data : HostData) : kept (updateRead s len data) = kept s := by
  unfold updateRead
  repeat' (first | (simp only [↓kept_ite, ite_self, ↓completeJob_kept, ↓failUpdate_kept, ↓invalid_kept,
                    ↓setSlot_kept, ↓setUpd_kept]) | split | with_reducible rfl | (simp only [↓kept_mk, ↓kept_fold]))

theorem verifyUpdate_kept (s : State) (u : UpdJob) (signed : Bool) : kept (verifyUpdate s u signed) = kept s := by
  unfold verifyUpdate
  repeat' (first | (simp only [↓kept_ite, ite_self, ↓completeJob_kept, ↓failUpdate_kept, ↓queueJournal_kept,
                    ↓setSlot_kept, ↓setUpd_kept]) | split | with_reducible rfl | (simp only [↓kept_mk, ↓kept_fold]))

theorem execFirmwareUpdateDone_kept (verdict : UpdateOut) (s : State) : keptBy s (execFirmwareUpdateDone verdict s) := by
  unfold execFirmwareUpdateDone
  repeat' (first | (simp only [keptBy_next, ↓kept_ite, ite_self, ↓failUpdate_kept, ↓verifyUpdate_kept]) | split
                    | with_reducible rfl | (simp only [↓kept_mk, ↓kept_fold]))

theorem activated_kept (s : State) (u : UpdJob) : kept (activated s u) = kept s := by
  unfold activated
  repeat' (first | (simp only [↓kept_boot]) | split | with_reducible rfl | (simp only [↓kept_mk, ↓kept_fold]))

theorem updateCommitted_kept (s : State) (ok : Bool) : kept (updateCommitted s ok) = kept s := by
  unfold updateCommitted
  repeat' (first | (simp only [↓kept_ite, ite_self, ↓activated_kept, ↓completeJob_kept, ↓failUpdate_kept,
                    ↓setUpd_kept]) | split | with_reducible rfl | (simp only [↓kept_mk, ↓kept_fold]))

theorem abortUpdate_kept (s : State) : kept (abortUpdate s) = kept s := by
  unfold abortUpdate
  repeat' (first | (simp only [↓kept_flash, ↓failUpdate_kept, ↓modGroom_kept]) | split | with_reducible rfl
                    | (simp only [↓kept_mk, ↓kept_fold]))

theorem execLifecycle_kept (s : State) : keptBy s (execLifecycle s) := by
  unfold execLifecycle
  repeat' (first | (simp only [keptBy_next, ↓kept_ite, ite_self, ↓complete_kept, ↓handOff_kept, ↓invalidAt_kept,
                    ↓issueRead_kept, ↓setLife_kept, ↓withCmd_kept]) | split | intro _ _ | refine (withCmd_kept _ _ _ ?_).trans ?_
                    | with_reducible rfl | (simp only [↓kept_mk, ↓kept_fold]))

theorem endLife_kept (s : State) (j : LifeJob) (st : Status) (p : Pay) : kept (endLife s j st p) = kept s := by
  unfold endLife
  repeat' (first | (simp only [↓completeJob_kept, ↓setLife_kept]) | split | with_reducible rfl)

theorem lifeRead_kept (s : State) (data : HostData) : kept (lifeRead s data) = kept s := by
  unfold lifeRead
  repeat' (first | (simp only [↓kept_ite, ite_self, ↓endLife_kept, ↓setLife_kept]) | split | with_reducible rfl
                    | (simp only [↓kept_mk, ↓kept_fold]))

theorem credential_kept (s : State) (j : LifeJob) (ok : Bool) (ecc : Ecc) : kept (credential s j ok ecc) = kept s := by
  unfold credential
  repeat' (first | (simp only [↓kept_sec, ↓kept_ite, ite_self, ↓endLife_kept, ↓noteEcc_kept, ↓readSecure_kept,
                    ↓setLife_kept]) | split | with_reducible rfl | (simp only [↓kept_mk, ↓kept_fold]))

theorem programSlot_kept (s : State) (j : LifeJob) : kept (programSlot s j) = kept s := by
  unfold programSlot
  repeat' (first | (simp only [↓kept_sec, ↓kept_ite, ite_self, ↓setLife_kept]) | split | with_reducible rfl
                    | (simp only [↓kept_mk, ↓kept_fold]))

theorem finishLife_kept (s : State) (j : LifeJob) : kept (finishLife s j) = kept s := by
  unfold finishLife
  repeat' (first | (simp only [↓kept_flash, ↓kept_sec, ↓kept_ite, ite_self, ↓queueJournal_kept]) | split
                    | with_reducible rfl | (simp only [↓kept_mk, ↓kept_fold]))

theorem execLifecycleDone_kept (verdict : LifeOut) (s : State) : keptBy s (execLifecycleDone verdict s) := by
  unfold execLifecycleDone
  repeat' (first | (simp only [keptBy_next, ↓credential_kept, ↓finishLife_kept, ↓programSlot_kept]) | split
                    | with_reducible rfl | (simp only [↓kept_mk, ↓kept_fold]))

theorem lifeCommitted_kept (s : State) : kept (lifeCommitted s) = kept s := by
  unfold lifeCommitted
  repeat' (first | (simp only [↓kept_flash, ↓kept_ite, ite_self, ↓endLife_kept, ↓startReturned_kept]) | split
                    | with_reducible rfl | (simp only [↓kept_mk, ↓kept_fold]))

theorem lifeTampered_kept (s : State) : kept (lifeTampered s) = kept s := by
  unfold lifeTampered
  repeat' (first | (simp only [↓kept_ite, ite_self, ↓endLife_kept, ↓setLife_kept]) | split | with_reducible rfl
                    | (simp only [↓kept_mk, ↓kept_fold]))

theorem startWipe_kept (s : State) (src : BitVec 2) : kept (startWipe s src) = kept s := by
  unfold startWipe
  repeat' (first | (simp only [↓kept_sec, ↓kept_ite, ite_self, ↓lifeTampered_kept]) | split | with_reducible rfl
                    | (simp only [↓kept_mk, ↓kept_fold]))

theorem execTamperAssert_kept (which : Bool) (s : State) : keptBy s (execTamperAssert which s) := by
  unfold execTamperAssert
  repeat' (first | (simp only [keptBy_next, ↓kept_ite, ite_self, ↓startWipe_kept]) | split | with_reducible rfl)

theorem execGlitchDetect_kept (s : State) : keptBy s (execGlitchDetect s) := by
  unfold execGlitchDetect
  repeat' (first | (simp only [keptBy_next, ↓kept_ite, ite_self, ↓startWipe_kept]) | split | with_reducible rfl)

theorem recordWipe_kept (s : State) (src : BitVec 2) (verified : Bool) : kept (recordWipe s src verified) = kept s := by
  unfold recordWipe
  repeat' (first | (simp only [↓kept_sec, ↓kept_ite, ite_self, ↓queueJournal_kept]) | split | with_reducible rfl
                    | (simp only [↓kept_mk, ↓kept_fold]))

theorem wipeVerified_kept (s : State) (src : BitVec 2) : kept (wipeVerified s src) = kept s := by
  unfold wipeVerified
  repeat' (first | (simp only [↓kept_sec, ↓kept_ite, ite_self, ↓recordWipe_kept, ↓setLife_kept]) | split
                    | with_reducible rfl | (simp only [↓kept_mk, ↓kept_fold]))

theorem bankHalt_kept (s : State) : kept (bankHalt s) = kept s := by
  unfold bankHalt
  repeat' (first | (simp only [↓kept_sec, ↓kept_ite, ite_self, ↓safeHalt_kept]) | split | with_reducible rfl
                    | (simp only [↓kept_mk, ↓kept_fold]))

theorem wipeFailed_kept (s : State) (src : BitVec 2) : kept (wipeFailed s src) = kept s := by
  unfold wipeFailed
  repeat' (first | (simp only [↓kept_sec, ↓kept_ite, ite_self, ↓bankHalt_kept, ↓endLife_kept, ↓recordWipe_kept])
                    | split | with_reducible rfl | (simp only [↓kept_mk, ↓kept_fold]))

theorem execSecureWipeDone_kept (ok : Bool) (s : State) : keptBy s (execSecureWipeDone ok s) := by
  unfold execSecureWipeDone
  repeat' (first | (simp only [keptBy_next, ↓kept_sec, ↓kept_ite, ite_self, ↓wipeFailed_kept,
                    ↓wipeVerified_kept]) | split | with_reducible rfl | (simp only [↓kept_mk, ↓kept_fold]))

theorem bootAfter_kept (s : State) (w : Work) : kept (bootAfter s w) = kept s := by
  unfold bootAfter
  repeat' (first | (simp only [↓kept_ite, ite_self, ↓activated_kept]) | split | with_reducible rfl
                    | (simp only [↓kept_mk, ↓kept_fold]))

theorem clearRecord_kept (s : State) (e : JEntry) : kept (clearRecord s e) = kept s := by
  unfold clearRecord
  repeat' (first | (simp only [↓kept_sec, ↓kept_ite, ite_self]) | split | with_reducible rfl | (simp only [↓kept_mk, ↓kept_fold]))

theorem programmed_kept (s : State) (o : FlashOp) (ok : Bool) : kept (programmed s o ok) = kept s := by
  unfold programmed
  repeat' (first | (simp only [↓kept_flash, ↓kept_ite, ite_self, ↓bootAfter_kept, ↓clearRecord_kept,
                    ↓journalAdd_kept]) | split | with_reducible rfl | (simp only [↓kept_mk, ↓kept_fold]))

theorem retryCommitted_kept (s : State) (ok : Bool) : kept (retryCommitted s ok) = kept s := by
  unfold retryCommitted
  repeat' (first | (simp only [↓kept_boot, ↓kept_ite, ite_self, ↓completeTag_kept]) | split | with_reducible rfl
                    | (simp only [↓kept_mk, ↓kept_fold]))

theorem flashWaiter_kept (s : State) (w : Work) (ok : Bool) : kept (flashWaiter s w ok) = kept s := by
  unfold flashWaiter
  repeat' (first | (simp only [↓lifeCommitted_kept, ↓retryCommitted_kept, ↓updateCommitted_kept]) | split
                    | with_reducible rfl | (simp only [↓kept_mk, ↓kept_fold]))

theorem dropFlashWork_kept (s : State) : kept (dropFlashWork s) = kept s := by
  unfold dropFlashWork
  repeat' (first | (simp only [↓kept_flash, ↓kept_ite, ite_self]) | split | with_reducible rfl
                    | (simp only [↓kept_mk, ↓kept_fold]))

theorem execFlashWriteDone_kept (ok : Bool) (s : State) : keptBy s (execFlashWriteDone ok s) := by
  unfold execFlashWriteDone
  repeat' (first | (simp only [keptBy_next, ↓kept_flash, ↓kept_ite, ite_self, ↓dropFlashWork_kept,
                    ↓flashWaiter_kept, ↓programmed_kept]) | split | with_reducible rfl | (simp only [↓kept_mk, ↓kept_fold]))

theorem dropAlwaysOn_kept (s : State) : kept (dropAlwaysOn s) = kept s := by
  unfold dropAlwaysOn
  repeat' (first | (simp only [↓kept_sec, ↓kept_power, ↓kept_pins, ↓kept_tb]) | split | with_reducible rfl
                    | (simp only [↓kept_mk, ↓kept_fold]))

theorem markProgress_kept (s : State) (k : Nat) (v : Byte) : kept (markProgress s k v) = kept s := by
  unfold markProgress
  repeat' (first | (simp only [↓kept_flash, ↓kept_boot, ↓kept_ite, ite_self]) | split | with_reducible rfl
                    | (simp only [↓kept_mk, ↓kept_fold]))

theorem setFails_kept (s : State) (k n : Nat) : kept (setFails s k n) = kept s := by
  unfold setFails
  repeat' (first | (simp only [↓kept_boot]) | split | with_reducible rfl | (simp only [↓kept_mk, ↓kept_fold]))

theorem addFallback_kept (s : State) (cause step attempts : Nat) (detail : Dword) : kept (addFallback s cause step attempts
    detail) = kept s := by
  unfold addFallback
  repeat' (first | (simp only [↓kept_boot, ↓kept_ite, ite_self]) | split | with_reducible rfl
                    | (simp only [↓kept_mk, ↓kept_fold]))

theorem trainLanes_kept (s : State) (b : Board) (t : Vector LaneTrain 4) : kept (trainLanes s b t) = kept s := by
  unfold trainLanes
  repeat' (first | (simp only [↓kept_lanes, ↓kept_ite, ite_self]) | split | with_reducible rfl
                    | (simp only [↓kept_mk, ↓kept_fold]))

theorem bootRetire_kept (s : State) (l : Fin 4) (p : Nat) : kept (bootRetire s l p) = kept s := by
  unfold bootRetire
  repeat' (first | (simp only [↓kept_ite, ite_self, ↓modLane_kept]) | split | with_reducible rfl
                    | (simp only [↓kept_mk, ↓kept_fold]))

theorem trainRow_kept (s : State) (k : Nat) : kept (trainRow s k) = kept s := by
  unfold trainRow
  repeat' (first | (simp only [↓kept_ite, ite_self, ↓modLane_kept, ↓putBreach_kept]) | split
                    | with_reducible rfl | (simp only [↓kept_mk, ↓kept_fold]))

theorem repairRows_kept (s : State) (noHard : List Nat) : kept (repairRows s noHard) = kept s := by
  unfold repairRows
  repeat' (first | (simp only [↓kept_flash, ↓kept_ite, ite_self, ↓bootRetire_kept, ↓queueBreach_kept]) | split
                    | refine (kept_foldl _ ?_ _ _).trans ?_ | intro _ _ | with_reducible rfl | (simp only [↓kept_mk, ↓kept_fold]))

theorem runTraining_kept (s : State) (t : Vector LaneTrain 4) (noHard badRows : List Nat) : kept (runTraining s t noHard
    badRows) = kept s := by
  unfold runTraining
  repeat' (first | (simp only [↓kept_boot, ↓kept_ite, ite_self, ↓addFallback_kept, ↓repairRows_kept,
                    ↓trainLanes_kept, ↓trainRow_kept]) | split | refine (kept_foldl _ ?_ _ _).trans ?_ | intro _ _
                    | with_reducible rfl | (simp only [↓kept_mk, ↓kept_fold]))

theorem recordLanes_kept (s : State) (old : JEntry) (retry : Bool) : kept (recordLanes s old retry) = kept s := by
  unfold recordLanes
  repeat' (first | (simp only [↓kept_ite, ite_self, ↓queueJournal_kept]) | split | with_reducible rfl)

theorem enterStep_kept (s : State) (k : Nat) : kept (enterStep s k) = kept s := by
  unfold enterStep
  repeat' (first | (simp only [↓kept_boot, ↓kept_pins, ↓markProgress_kept]) | split | with_reducible rfl
                    | (simp only [↓kept_mk, ↓kept_fold]))

theorem enterOrHalt_kept (s : State) (k : Nat) : kept (enterOrHalt s k) = kept s := by
  unfold enterOrHalt
  repeat' (first | (simp only [↓kept_boot, ↓kept_ite, ite_self, ↓enterStep_kept, ↓safeHalt_kept]) | split
                    | with_reducible rfl | (simp only [↓kept_mk, ↓kept_fold]))

theorem tileFallback_kept (s : State) (p : Fin 6) (useStore : Bool) : kept (tileFallback s p useStore) = kept s := by
  unfold tileFallback
  repeat' (first | (simp only [↓kept_ite, ite_self, ↓modTile_kept, ↓takeCorr_kept]) | split | with_reducible rfl
                    | (simp only [↓kept_mk, ↓kept_fold]))

theorem skipCalibration_kept (s : State) : kept (skipCalibration s) = kept s := by
  unfold skipCalibration
  exact (addFallback_kept _ _ _ _ _).trans ((kept_pins _ _).trans
    ((kept_foldl _ (fun s p => tileFallback_kept s p false) _ _).trans (markProgress_kept _ _ _)))

theorem skipQuera_kept (s : State) : kept (skipQuera s) = kept s := by
  unfold skipQuera
  repeat' (first | (simp only [↓addFallback_kept, ↓markProgress_kept]) | split | with_reducible rfl)

theorem skipDram_kept (s : State) : kept (skipDram s) = kept s := by
  unfold skipDram
  repeat' (first | (simp only [↓kept_boot, ↓kept_pins, ↓addFallback_kept, ↓markProgress_kept, ↓runTraining_kept,
                    ↓setFails_kept]) | split | with_reducible rfl | (simp only [↓kept_mk, ↓kept_fold]))

theorem beginDram_kept (s : State) : kept (beginDram s) = kept s := by
  unfold beginDram
  repeat' (first | (simp only [↓kept_ite, ite_self, ↓enterStep_kept, ↓recordLanes_kept, ↓skipDram_kept]) | split
                    | with_reducible rfl)

theorem beginStep_kept (s : State) (k : Nat) : kept (beginStep s k) = kept s := by
  unfold beginStep
  repeat' (first | (simp only [↓kept_boot, ↓kept_ite, ite_self, ↓beginDram_kept, ↓enterOrHalt_kept,
                    ↓skipCalibration_kept, ↓skipQuera_kept]) | split | with_reducible rfl | (simp only [↓kept_mk, ↓kept_fold]))

theorem passStep_kept (s : State) (k : Nat) (fallback : Bool) : kept (passStep s k fallback) = kept s := by
  unfold passStep
  repeat' (first | (simp only [↓kept_ite, ite_self, ↓beginStep_kept, ↓markProgress_kept, ↓setFails_kept])
                    | split | with_reducible rfl)

theorem leaveStage4_kept (s : State) : kept (leaveStage4 s) = kept s := by
  unfold leaveStage4
  repeat' (first | (simp only [↓kept_power, ↓kept_ite, ite_self]) | split | with_reducible rfl
                    | (simp only [↓kept_mk, ↓kept_fold]))

theorem startBoot_kept (s : State) : kept (startBoot s) = kept s := by
  unfold startBoot
  repeat' (first | (simp only [↓kept_pcie, ↓kept_boot, ↓enterStep_kept, ↓leaveStage4_kept]) | split
                    | with_reducible rfl | (simp only [↓kept_mk, ↓kept_fold]))

theorem execBootStart_kept (why : BootWhy) (s : State) : keptBy s (execBootStart why s) := by
  unfold execBootStart
  repeat' (first | (simp only [keptBy_next, ↓kept_ite, ite_self, ↓dropAlwaysOn_kept, ↓startBoot_kept]) | split
                    | with_reducible rfl)

theorem stepAon_kept (s : State) (crystal : Bool) : kept (stepAon s crystal) = kept s := by
  unfold stepAon
  repeat' (first | (simp only [↓kept_boot, ↓kept_tb, ↓passStep_kept]) | split | with_reducible rfl
                    | (simp only [↓kept_mk, ↓kept_fold]))

theorem stepFuses_kept (s : State) (good : Bool) : kept (stepFuses s good) = kept s := by
  unfold stepFuses
  repeat' (first | (simp only [↓kept_sec, ↓kept_ite, ite_self, ↓passStep_kept, ↓safeHalt_kept]) | split
                    | with_reducible rfl | (simp only [↓kept_mk, ↓kept_fold]))

theorem chooseSlot_kept (l : List JEntry) (s : State) (k : Nat) : kept (chooseSlot l s k) = kept s := by
  unfold chooseSlot
  repeat' (first | (simp only [↓kept_boot, ↓kept_ite, ite_self, ↓addFallback_kept, ↓setFails_kept]) | split
                    | with_reducible rfl | (simp only [↓kept_mk, ↓kept_fold]))

theorem chooseTiles_kept (l : List JEntry) (s : State) : kept (chooseTiles l s) = kept s := by
  unfold chooseTiles
  repeat' (first | (simp only [↓kept_boot, ↓kept_ite, ite_self, ↓setFails_kept]) | split | with_reducible rfl
                    | (simp only [↓kept_mk, ↓kept_fold]))

theorem loadJournal_kept (s : State) : kept (loadJournal s) = kept s := by
  unfold loadJournal
  repeat' (first | (simp only [↓kept_boot, ↓chooseSlot_kept, ↓chooseTiles_kept]) | split | with_reducible rfl
                    | (simp only [↓kept_mk, ↓kept_fold]))

theorem commitEntry_kept (s : State) (kind : BitVec 8) (detail : Dword) : kept (commitEntry s kind detail) = kept s := by
  unfold commitEntry
  repeat' (first | (simp only [↓journalAdd_kept]) | split | with_reducible rfl)

theorem commitRecords_kept (s : State) (lifeBefore : Option (BitVec 8)) : kept (commitRecords s lifeBefore) = kept s := by
  unfold commitRecords
  repeat' (first | (simp only [↓kept_sec, ↓kept_pins, ↓kept_ite, ite_self, ↓commitEntry_kept]) | split
                    | refine (kept_foldl _ ?_ _ _).trans ?_ | intro _ _ | with_reducible rfl | (simp only [↓kept_mk, ↓kept_fold]))

theorem markSlot_kept (s : State) (b failed : Bool) : kept (markSlot s b failed) = kept s := by
  unfold markSlot
  repeat' (first | (simp only [↓kept_boot, ↓kept_ite, ite_self]) | split | with_reducible rfl
                    | (simp only [↓kept_mk, ↓kept_fold]))

theorem calibrateTile_kept (pass : BitVec 6) (meas : Vector CalMeas 6) (plan : Bool) (s : State) (p : Fin 6) : kept
    (calibrateTile pass meas plan s p) = kept s := by
  unfold calibrateTile
  repeat' (first | (simp only [↓kept_ite, ite_self, ↓storeTile_kept, ↓tileFallback_kept]) | split | with_reducible rfl)

theorem stepCalibrate_kept (s : State) (pass : BitVec 6) (meas : Vector CalMeas 6) : kept (stepCalibrate s pass meas) = kept s
    := by
  unfold stepCalibrate
  refine (passStep_kept _ _ _).trans ?_
  have ite (c : Prop) [Decidable c] (a b : State) (h : kept b = kept a) : kept (if c then a else b) = kept a := by
    split <;> simp only [h]
  refine (ite _ _ _ (addFallback_kept _ _ _ _ _)).trans ?_
  refine (ite _ _ _ (addFallback_kept _ _ _ _ _)).trans ?_
  exact (kept_boot _ _).trans (kept_foldl _ (fun s p => calibrateTile_kept pass meas _ s p) _ _)

theorem stepDram_kept (s : State) (t : Vector LaneTrain 4) (noHard badRows : List Nat) : kept (stepDram s t noHard badRows) =
    kept s := by
  unfold stepDram
  repeat' (first | (simp only [↓kept_boot, ↓passStep_kept, ↓recordLanes_kept, ↓runTraining_kept]) | split
                    | with_reducible rfl | (simp only [↓kept_mk, ↓kept_fold]))

theorem stepRom_kept (s : State) (bad : BitVec 24) : kept (stepRom s bad) = kept s := by
  unfold stepRom
  repeat' (first | (simp only [↓kept_boot, ↓kept_ite, ite_self, ↓addFallback_kept, ↓passStep_kept]) | split
                    | with_reducible rfl | (simp only [↓kept_mk, ↓kept_fold]))

theorem applyNode_kept (s : State) (l : List Byte) : kept (applyNode s l) = kept s := by
  unfold applyNode
  repeat' (first | (simp only [↓kept_quera, ↓kept_ite, ite_self, ↓reconverge_kept]) | split | with_reducible rfl
                    | (simp only [↓kept_mk, ↓kept_fold]))

theorem raiseFloor_kept (s : State) : kept (raiseFloor s) = kept s := by
  unfold raiseFloor
  repeat' (first | (simp only [↓kept_sec, ↓kept_ite, ite_self]) | split | with_reducible rfl | (simp only [↓kept_mk, ↓kept_fold]))

theorem resetCommand_kept (s : State) (t : Taken) (n : Stall) (cause : Nat) : kept (resetCommand s t n cause) = kept s := by
  unfold resetCommand
  repeat' (first | (simp only [↓completeAt_kept, ↓startReset_kept]) | split | with_reducible rfl)

theorem execStallDestroy_kept (s : State) : keptBy s (execStallDestroy s) := by
  unfold execStallDestroy
  repeat' (first | (simp only [keptBy_next, ↓kept_ite, ite_self, ↓invalidAt_kept, ↓resetCommand_kept,
                    ↓withCmd_kept]) | split | intro _ _ | refine (withCmd_kept _ _ _ ?_).trans ?_ | with_reducible rfl
                    | (simp only [↓kept_mk, ↓kept_fold]))

theorem execStallReset_kept (s : State) : keptBy s (execStallReset s) := by
  unfold execStallReset
  repeat' (first | (simp only [keptBy_next, ↓invalidAt_kept, ↓resetCommand_kept, ↓withCmd_kept]) | split
                    | intro _ _ | refine (withCmd_kept _ _ _ ?_).trans ?_ | with_reducible rfl | (simp only [↓kept_mk,
                    ↓kept_fold]))

theorem applyGrant_kept (s : State) (t : Taken) (n : Stall) : kept (applyGrant s t n) = kept s := by
  unfold applyGrant
  repeat' (first | (simp only [↓kept_chains, ↓kept_ite, ite_self, ↓changePolder_kept, ↓completeAt_kept,
                    ↓modStall_kept, ↓refreshTrigOut_kept]) | split | with_reducible rfl | (simp only [↓kept_mk, ↓kept_fold]))

theorem execStallGrant_kept (s : State) : keptBy s (execStallGrant s) := by
  unfold execStallGrant
  repeat' (first | (simp only [keptBy_next, ↓applyGrant_kept, ↓complete_kept, ↓invalidAt_kept, ↓withCmd_kept])
                    | split | intro _ _ | refine (withCmd_kept _ _ _ ?_).trans ?_ | with_reducible rfl | (simp only [↓kept_mk,
                    ↓kept_fold]))

theorem dropEngine_kept (s : State) (n : Stall) : kept (dropEngine s n) = kept s := by
  unfold dropEngine
  repeat' (first | (simp only [↓modStall_kept, ↓stopEngine_kept]) | split | with_reducible rfl
                    | (simp only [↓kept_mk, ↓kept_fold]))

theorem abortLoad_kept (s : State) (n : Stall) : kept (abortLoad s n) = kept s := by
  unfold abortLoad
  repeat' (first | (simp only [↓kept_ite, ite_self, ↓endLoad_kept, ↓giveDecs_kept, ↓modGroom_kept]) | split
                    | with_reducible rfl | (simp only [↓kept_mk, ↓kept_fold]))

theorem dropParcels_kept (s : State) (n : Stall) (k : Nat) : kept (dropParcels s n k).1 = kept s := by
  unfold dropParcels
  repeat' (first | (simp only [↓kept_ite, ite_self, ↓abortLoad_kept, ↓changePolder_kept, ↓modRef_kept,
                    ↓queueWipe_kept]) | split | with_reducible rfl | (simp only [↓kept_mk, ↓kept_fold]))

theorem applyRevoke_kept (s : State) (t : Taken) (n : Stall) : kept (applyRevoke s t n) = kept s := by
  unfold applyRevoke
  repeat' (first | (simp only [↓kept_chains, ↓kept_ite, ite_self, ↓completeAt_kept, ↓dropChains_kept,
                    ↓dropEngine_kept, ↓dropParcels_kept, ↓dropTeams_kept, ↓modStall_kept]) | split | with_reducible rfl
                    | (simp only [↓kept_mk, ↓kept_fold]))

theorem execStallRevoke_kept (s : State) : keptBy s (execStallRevoke s) := by
  unfold execStallRevoke
  repeat' (first | (simp only [keptBy_next, ↓kept_ite, ite_self, ↓applyRevoke_kept, ↓complete_kept,
                    ↓invalidAt_kept, ↓withCmd_kept]) | split | intro _ _ | refine (withCmd_kept _ _ _ ?_).trans ?_
                    | with_reducible rfl | (simp only [↓kept_mk, ↓kept_fold]))

end Sys2Proof.Machine
end

