-- ==== Sys2Proof/Laws/KeptFlow.lean ====
section
/-! SUPPORT. What each function keeps (Laws/Kept.lean): the sluices, uploads, the formatter, playback and the power commands. -/

set_option linter.unusedSimpArgs false

namespace Sys2Proof.Machine

set_option Elab.async false

theorem putLink_kept (s : State) (l : Fin 2) (w : BitVec 128) : kept (putLink s l w) = kept s := by
  unfold putLink
  repeat' (first | (simp only [↓kept_tb, ↓kept_ite, ite_self, ↓modLink_kept, ↓stopChains_kept]) | split
                    | with_reducible rfl | (simp only [↓kept_mk, ↓kept_fold]))

theorem resetLinks_kept (s : State) : kept (resetLinks s) = kept s := by
  unfold resetLinks
  repeat' (first | (simp only [↓putLink_kept]) | split | with_reducible rfl)

theorem execSluiceConfigLink_kept (s : State) : keptBy s (execSluiceConfigLink s) := by
  unfold execSluiceConfigLink
  repeat' (first | (simp only [keptBy_next, ↓kept_ite, ite_self, ↓complete_kept, ↓completeAt_kept, ↓deny_kept,
                    ↓invalid_kept, ↓putLink_kept, ↓withCmd_kept]) | split | intro _ _ | refine (withCmd_kept _ _ _ ?_).trans ?_
                    | with_reducible rfl | (simp only [↓kept_mk, ↓kept_fold]))

theorem putChain_kept (s : State) (n : Fin 8) (w : BitVec 256) (fallback : Bool) : kept (putChain s n w fallback) = kept s := by
  unfold putChain
  repeat' (first | (simp only [↓modChain_kept]) | split | with_reducible rfl | (simp only [↓kept_mk, ↓kept_fold]))

theorem firFallbackEvent_kept (s : State) (n : Stall) (k : Fin 8) : kept (firFallbackEvent s n k) = kept s := by
  unfold firFallbackEvent
  repeat' (first | (simp only [↓sendEvents_kept]) | split | with_reducible rfl)

theorem execSluiceConfigChain_kept (s : State) : keptBy s (execSluiceConfigChain s) := by
  unfold execSluiceConfigChain
  repeat' (first | (simp only [keptBy_next, ↓kept_ite, ite_self, ↓complete_kept, ↓completeAt_kept, ↓deny_kept,
                    ↓firFallbackEvent_kept, ↓invalid_kept, ↓putChain_kept, ↓withCmd_kept]) | split | intro _ _
                    | refine (withCmd_kept _ _ _ ?_).trans ?_ | with_reducible rfl | (simp only [↓kept_mk, ↓kept_fold]))

theorem dcControl_kept (s : State) (t : Taken) (f : Chain → Chain) : kept (dcControl s t f) = kept s := by
  unfold dcControl
  repeat' (first | (simp only [↓kept_ite, ite_self, ↓completeAt_kept, ↓deny_kept, ↓invalidAt_kept,
                    ↓modChain_kept]) | split | with_reducible rfl | (simp only [↓kept_mk, ↓kept_fold]))

theorem execDcFreeze_kept (s : State) : keptBy s (execDcFreeze s) := by
  unfold execDcFreeze
  repeat' (first | (simp only [keptBy_next, ↓dcControl_kept, ↓withCmd_kept]) | split | intro _ _
                    | refine (withCmd_kept _ _ _ ?_).trans ?_ | with_reducible rfl)

theorem execDcThaw_kept (s : State) : keptBy s (execDcThaw s) := by
  unfold execDcThaw
  repeat' (first | (simp only [keptBy_next, ↓dcControl_kept, ↓withCmd_kept]) | split | intro _ _
                    | refine (withCmd_kept _ _ _ ?_).trans ?_ | with_reducible rfl)

theorem execDcReset_kept (s : State) : keptBy s (execDcReset s) := by
  unfold execDcReset
  repeat' (first | (simp only [keptBy_next, ↓dcControl_kept, ↓withCmd_kept]) | split | intro _ _
                    | refine (withCmd_kept _ _ _ ?_).trans ?_ | with_reducible rfl | (simp only [↓kept_mk, ↓kept_fold]))

theorem execSluiceSync_kept (s : State) : keptBy s (execSluiceSync s) := by
  unfold execSluiceSync
  repeat' (first | (simp only [keptBy_next, ↓kept_chains, ↓kept_tb, ↓kept_ite, ite_self, ↓complete_kept,
                    ↓completeAt_kept, ↓deny_kept, ↓invalidAt_kept, ↓withCmd_kept]) | split | intro _ _
                    | refine (withCmd_kept _ _ _ ?_).trans ?_ | with_reducible rfl | (simp only [↓kept_mk, ↓kept_fold]))

theorem execUpload_kept (s : State) : keptBy s (execUpload s) := by
  unfold execUpload
  repeat' (first | (simp only [keptBy_next, ↓kept_jobs, ↓kept_ite, ite_self, ↓complete_kept, ↓deny_kept,
                    ↓handOff_kept, ↓invalidAt_kept, ↓issueRead_kept, ↓withCmd_kept]) | split | intro _ _
                    | refine (withCmd_kept _ _ _ ?_).trans ?_ | with_reducible rfl | (simp only [↓kept_mk, ↓kept_fold]))

theorem finishSgl_kept (s : State) (u : UploadJob) (l : List Byte) : kept (finishSgl s u l) = kept s := by
  unfold finishSgl
  repeat' (first | (simp only [↓kept_jobs, ↓kept_ite, ite_self, ↓completeTag_kept, ↓endUpload_kept,
                    ↓invalid_kept, ↓putJob_kept, ↓startUploads_kept]) | split | with_reducible rfl | (simp only [↓kept_mk,
                    ↓kept_fold]))

theorem rereadSgl_kept (s : State) (u : UploadJob) (at_ : BitVec 64) (l : List Byte) : kept (rereadSgl s u at_ l) = kept s := by
  unfold rereadSgl
  repeat' (first | (simp only [↓askEntries_kept, ↓settleWrites_kept]) | split | with_reducible rfl
                    | (simp only [↓kept_mk, ↓kept_fold]))

theorem uploadRead_kept (s : State) (f : Fn) (tag : BitVec 16) (at_ : BitVec 64) (data : HostData) : kept (uploadRead s f tag
    at_ data) = kept s := by
  unfold uploadRead
  repeat' (first | (simp only [↓kept_ite, ite_self, ↓endUpload_kept, ↓finishSgl_kept, ↓rereadSgl_kept,
                    ↓uploadsGoOn_kept]) | split | with_reducible rfl | (simp only [↓kept_mk, ↓kept_fold]))

theorem execUploadCancel_kept (s : State) : keptBy s (execUploadCancel s) := by
  unfold execUploadCancel
  repeat' (first | (simp only [keptBy_next, ↓kept_ite, ite_self, ↓completeAt_kept, ↓handOff_kept,
                    ↓invalidAt_kept, ↓putJob_kept, ↓stopUploads_kept, ↓withCmd_kept]) | split | intro _ _
                    | refine (withCmd_kept _ _ _ ?_).trans ?_ | with_reducible rfl | (simp only [↓kept_mk, ↓kept_fold]))

theorem execUploadChunkRead_kept (st : Stall) (s : State) : keptBy s (execUploadChunkRead st s) := by
  unfold execUploadChunkRead
  repeat' (first | (simp only [keptBy_next, ↓kept_ite, ite_self, ↓modOutst_kept, ↓putJob_kept,
                    ↓uploadsGoOn_kept, ↓writeChunk_kept]) | split | with_reducible rfl | (simp only [↓kept_mk, ↓kept_fold]))

theorem execCompressorChunkDone_kept (k : Fin 4) (block : List Bool) (ecc : Ecc) (s : State) : keptBy s
    (execCompressorChunkDone k block ecc s) := by
  unfold execCompressorChunkDone
  repeat' (first | (simp only [keptBy_next, ↓kept_ite, ite_self, ↓endUpload_kept, ↓noteEcc_kept, ↓putJob_kept,
                    ↓uploadsGoOn_kept, ↓writeChunk_kept]) | split | with_reducible rfl | (simp only [↓kept_mk, ↓kept_fold]))

theorem applyStoreOn_kept (s : State) (n : Stall) : kept (applyStoreOn s n) = kept s := by
  unfold applyStoreOn
  repeat' (first | (simp only [↓kept_ite, ite_self, ↓marker_kept, ↓modCap_kept, ↓modChain_kept, ↓modEng_kept,
                    ↓writeKey_kept]) | split | refine (kept_foldl _ ?_ _ _).trans ?_ | intro _ _ | with_reducible rfl
                    | (simp only [↓kept_mk, ↓kept_fold]))

theorem execStoreOnDeferred_kept (st : Stall) (s : State) : keptBy s (execStoreOnDeferred st s) := by
  unfold execStoreOnDeferred
  repeat' (first | (simp only [keptBy_next, ↓applyStoreOn_kept, ↓checkFull_kept]) | split | with_reducible rfl)

theorem execKeyframe_kept (st : Stall) (s : State) : keptBy s (execKeyframe st s) := by
  unfold execKeyframe
  repeat' (first | (simp only [keptBy_next, ↓kept_ite, ite_self, ↓checkFull_kept, ↓dueKey_kept]) | split
                    | with_reducible rfl | (simp only [↓kept_mk, ↓kept_fold]))

theorem execHoofbeat_kept (t : Fin 8) (s : State) : keptBy s (execHoofbeat t s) := by
  unfold execHoofbeat
  repeat' (first | (simp only [keptBy_next, ↓kept_ite, ite_self, ↓addRec_kept, ↓checkFull_kept, ↓dueKey_kept,
                    ↓modCap_kept]) | split | with_reducible rfl | (simp only [↓kept_mk, ↓kept_fold]))

theorem countOverrun_kept (s : State) (n : Stall) (c : Capture) (t : Time) : kept (countOverrun s n c t) = kept s := by
  unfold countOverrun
  repeat' (first | (simp only [↓kept_ite, ite_self, ↓flushOverrun_kept, ↓modCap_kept]) | split
                    | with_reducible rfl | (simp only [↓kept_mk, ↓kept_fold]))

theorem trotRecord_kept (s : State) (n : Stall) (teams : BitVec 8) (k : Nat) (t : Time) : kept (trotRecord s n teams k t) =
    kept s := by
  unfold trotRecord
  repeat' (first | (simp only [↓kept_ite, ite_self, ↓addRec_kept, ↓dueKey_kept, ↓modCap_kept]) | split
                    | with_reducible rfl | (simp only [↓kept_mk, ↓kept_fold]))

theorem execTrotClockEdge_kept (st : Stall) (edge : TrotEdge) (s : State) : keptBy s (execTrotClockEdge st edge s) := by
  unfold execTrotClockEdge
  repeat' (first | (simp only [keptBy_next, ↓kept_ite, ite_self, ↓checkFull_kept, ↓countOverrun_kept,
                    ↓modCap_kept, ↓trotRecord_kept]) | split | with_reducible rfl | (simp only [↓kept_mk, ↓kept_fold]))

theorem execWalkPeriodEnd_kept (st : Stall) (s : State) : keptBy s (execWalkPeriodEnd st s) := by
  unfold execWalkPeriodEnd
  repeat' (first | (simp only [keptBy_next, ↓applyStoreOn_kept, ↓checkFull_kept, ↓walkEnd_kept]) | split
                    | with_reducible rfl | (simp only [↓kept_mk, ↓kept_fold]))

theorem execGallopDenseBlock_kept (st : Stall) (s : State) : keptBy s (execGallopDenseBlock st s) := by
  unfold execGallopDenseBlock
  repeat' (first | (simp only [keptBy_next, ↓checkFull_kept, ↓placeDense_kept]) | split | with_reducible rfl)

theorem execEventRecordLeavesQueue_kept (s : State) : keptBy s (execEventRecordLeavesQueue s) := by
  unfold execEventRecordLeavesQueue
  repeat' (first | (simp only [keptBy_next, ↓kept_ite, ite_self, ↓addSide_kept, ↓checkFull_kept,
                    ↓modGroom_kept]) | split | with_reducible rfl | (simp only [↓kept_mk, ↓kept_fold]))

theorem sampleChan_kept (s : State) (inp : StrideIn) (c : Fin 48) : kept (sampleChan s inp c) = kept s := by
  unfold sampleChan
  repeat' (first | (simp only [↓kept_ite, ite_self, ↓modChan_kept]) | split
                    | refine (kept_foldl _ ?_ _ _).trans ?_ | intro _ _ | with_reducible rfl | (simp only [↓kept_mk, ↓kept_fold]))

theorem beginPlayback_kept (s : State) (n : Stall) (t : TimedStart) : kept (beginPlayback s n t) = kept s := by
  unfold beginPlayback
  repeat' (first | (simp only [↓modRef_kept, ↓refMarker_kept]) | split | with_reducible rfl | (simp only [↓kept_mk, ↓kept_fold]))

theorem startPlay_kept (s : State) (n : Stall) (t : TimedStart) : kept (startPlay s n t) = kept s := by
  unfold startPlay
  repeat' (first | (simp only [↓kept_ite, ite_self, ↓beginPlayback_kept, ↓modRef_kept, ↓refFault_kept,
                    ↓refMarker_kept]) | split | with_reducible rfl | (simp only [↓kept_mk, ↓kept_fold]))

theorem runTimed_kept (s : State) (n : Stall) : kept (runTimed s n) = kept s := by
  unfold runTimed
  repeat' (first | (simp only [↓modRef_kept, ↓startPlay_kept]) | split | with_reducible rfl | (simp only [↓kept_mk, ↓kept_fold]))

theorem runQueued_kept (s : State) (n : Stall) : kept (runQueued s n) = kept s := by
  unfold runQueued
  repeat' (first | (simp only [↓modRef_kept, ↓startPlay_kept]) | split | with_reducible rfl | (simp only [↓kept_mk, ↓kept_fold]))

theorem finishPlay_kept (s : State) (n : Stall) : kept (finishPlay s n) = kept s := by
  unfold finishPlay
  repeat' (first | (simp only [↓kept_ite, ite_self, ↓endPlayback_kept, ↓refMarker_kept]) | split
                    | with_reducible rfl | (simp only [↓kept_mk, ↓kept_fold]))

theorem underrun_kept (s : State) (n : Stall) (p : Playback) (j0 k : Nat) : kept (underrun s n p j0 k) = kept s := by
  unfold underrun
  repeat' (first | (simp only [↓endPlayback_kept, ↓refFault_kept, ↓refMarker_kept]) | split | with_reducible rfl)

theorem poisonDue_kept (s : State) (n : Stall) (p : Playback) (j0 : Nat) : kept (poisonDue s n p j0) = kept s := by
  unfold poisonDue
  repeat' (first | (simp only [↓kept_ite, ite_self, ↓modRef_kept, ↓refFault_kept]) | split | with_reducible rfl
                    | (simp only [↓kept_mk, ↓kept_fold]))

theorem lagEvent_kept (s : State) (n : Stall) (cause : Nat) (l : LagSt) : kept (lagEvent s n cause l) = kept s := by
  unfold lagEvent
  repeat' (first | (simp only [↓sendRated_kept]) | split | with_reducible rfl)

theorem putLag_kept (s : State) (n : Stall) (l : LagSt) : kept (putLag s n l) = kept s := by
  unfold putLag
  repeat' (first | (simp only [↓kept_ite, ite_self, ↓modRef_kept]) | split | with_reducible rfl
                    | (simp only [↓kept_mk, ↓kept_fold]))

theorem recordLag_kept (s : State) (n : Stall) (limit : Nat) (l : LagSt) (lag : Int) : kept (recordLag s n limit l lag) = kept
    s := by
  unfold recordLag
  repeat' (first | (simp only [↓kept_ite, ite_self, ↓lagEvent_kept, ↓putLag_kept]) | split | with_reducible rfl
                    | (simp only [↓kept_mk, ↓kept_fold]))

theorem lagOf_kept (s : State) (n : Stall) (limit c j : Nat) (dest : Bool) : kept (lagOf s n limit c j dest) = kept s := by
  unfold lagOf
  repeat' (first | (simp only [↓kept_ite, ite_self, ↓drawFree_kept, ↓recordLag_kept]) | split
                    | with_reducible rfl | (simp only [↓kept_mk, ↓kept_fold]))

theorem recordLags_kept (s : State) (n : Stall) (q : RefParams) (j0 : Nat) : kept (recordLags s n q j0) = kept s := by
  unfold recordLags
  repeat' (first | (simp only [↓lagOf_kept]) | split | refine (kept_foldl _ ?_ _ _).trans ?_ | intro _ _ | with_reducible rfl)

theorem compareStride_kept (s : State) (n : Stall) (p : Playback) (q : RefParams) (j0 : Nat) : kept (compareStride s n p q j0)
    = kept s := by
  unfold compareStride
  repeat' (first | (simp only [↓drainSlice_kept, ↓modEng_kept, ↓modRef_kept, ↓poisonDue_kept, ↓recordLags_kept])
                    | split | with_reducible rfl | (simp only [↓kept_mk, ↓kept_fold]))

theorem playStride_kept (s : State) (n : Stall) : kept (playStride s n) = kept s := by
  unfold playStride
  repeat' (first | (simp only [↓compareStride_kept, ↓underrun_kept]) | split | with_reducible rfl
                    | (simp only [↓kept_mk, ↓kept_fold]))

theorem execPlaybackTimedStart_kept (st : Stall) (s : State) : keptBy s (execPlaybackTimedStart st s) := by
  unfold execPlaybackTimedStart
  repeat' (first | (simp only [keptBy_next, ↓runTimed_kept]) | split | with_reducible rfl)

theorem execPlaybackEnd_kept (st : Stall) (s : State) : keptBy s (execPlaybackEnd st s) := by
  unfold execPlaybackEnd
  repeat' (first | (simp only [keptBy_next, ↓finishPlay_kept]) | split | with_reducible rfl)

theorem execPlaybackUnderrun_kept (st : Stall) (s : State) : keptBy s (execPlaybackUnderrun st s) := by
  unfold execPlaybackUnderrun
  repeat' (first | (simp only [keptBy_next, ↓kept_ite, ite_self, ↓underrun_kept]) | split | with_reducible rfl
                    | (simp only [↓kept_mk, ↓kept_fold]))

theorem execPlaybackStagingRefill_kept (st : Stall) (ecc : Ecc) (s : State) : keptBy s (execPlaybackStagingRefill st ecc s) := by
  unfold execPlaybackStagingRefill
  repeat' (first | (simp only [keptBy_next, ↓kept_ite, ite_self, ↓countSram_kept, ↓drainSlice_kept,
                    ↓modRef_kept]) | split | with_reducible rfl)

theorem applySelect_kept (s : State) (t : Taken) : kept (applySelect s t) = kept s := by
  unfold applySelect
  repeat' (first | (simp only [↓kept_ite, ite_self, ↓fillSlice_kept, ↓modCap_kept, ↓modRef_kept]) | split
                    | with_reducible rfl | (simp only [↓kept_mk, ↓kept_fold]))

theorem execReferenceSelect_kept (s : State) : keptBy s (execReferenceSelect s) := by
  unfold execReferenceSelect
  repeat' (first | (simp only [keptBy_next, ↓kept_ite, ite_self, ↓applySelect_kept, ↓complete_kept,
                    ↓completeAt_kept, ↓invalidAt_kept, ↓withCmd_kept]) | split | intro _ _
                    | refine (withCmd_kept _ _ _ ?_).trans ?_ | with_reducible rfl | (simp only [↓kept_mk, ↓kept_fold]))

theorem linkEvent_kept (s : State) (l : Fin 2) (reason : Nat) (p5 : Dword) : kept (linkEvent s l reason p5) = kept s := by
  unfold linkEvent
  repeat' (first | (simp only [↓sendRated_kept]) | split | with_reducible rfl)

theorem sysrefOn_kept (t : Time) (s : State) (l : Fin 2) : kept (sysrefOn t s l) = kept s := by
  unfold sysrefOn
  repeat' (first | (simp only [↓kept_tb, ↓kept_ite, ite_self, ↓linkEvent_kept, ↓modLink_kept]) | split
                    | with_reducible rfl | (simp only [↓kept_mk, ↓kept_fold]))

theorem execSysrefEdge_kept (t : Time) (s : State) : keptBy s (execSysrefEdge t s) := by
  unfold execSysrefEdge
  repeat' (first | (simp only [keptBy_next, ↓kept_ite, ite_self, ↓sysrefOn_kept]) | split
                    | refine (kept_foldl _ ?_ _ _).trans ?_ | intro _ _ | with_reducible rfl)

theorem execSyncEdge_kept (t : Time) (s : State) : keptBy s (execSyncEdge t s) := by
  unfold execSyncEdge
  repeat' (first | (simp only [keptBy_next, ↓kept_chains, ↓kept_tb, ↓kept_ite, ite_self]) | split
                    | with_reducible rfl | (simp only [↓kept_mk, ↓kept_fold]))

theorem syncChain_kept (y : Time) (s : State) (n : Fin 8) : kept (syncChain y s n) = kept s := by
  unfold syncChain
  repeat' (first | (simp only [↓modChain_kept]) | split | with_reducible rfl | (simp only [↓kept_mk, ↓kept_fold]))

theorem syncMarker_kept (y : Time) (m : BitVec 8) (s : State) (n : Stall) : kept (syncMarker y m s n) = kept s := by
  unfold syncMarker
  repeat' (first | (simp only [↓kept_ite, ite_self, ↓marker_kept]) | split | with_reducible rfl)

theorem execSyncInstant_kept (s : State) : keptBy s (execSyncInstant s) := by
  unfold execSyncInstant
  repeat' (first | (simp only [keptBy_next, ↓kept_tb, ↓kept_ite, ite_self, ↓syncChain_kept, ↓syncMarker_kept])
                    | split | refine (kept_foldl _ ?_ _ _).trans ?_ | intro _ _ | with_reducible rfl | (simp only [↓kept_mk,
                    ↓kept_fold]))

theorem execLinkUp_kept (l : Fin 2) (seen : Alignment) (s : State) : keptBy s (execLinkUp l seen s) := by
  unfold execLinkUp
  repeat' (first | (simp only [keptBy_next, ↓kept_lanes, ↓kept_ite, ite_self, ↓linkEvent_kept, ↓modLink_kept])
                    | split | with_reducible rfl | (simp only [↓kept_mk, ↓kept_fold]))

theorem execLinkLost_kept (l : Fin 2) (aligned : BitVec 8) (s : State) : keptBy s (execLinkLost l aligned s) := by
  unfold execLinkLost
  repeat' (first | (simp only [keptBy_next, ↓kept_ite, ite_self, ↓linkEvent_kept, ↓modLink_kept,
                    ↓stopChains_kept]) | split | with_reducible rfl | (simp only [↓kept_mk, ↓kept_fold]))

theorem execJesdFrame_kept (l : Fin 2) (err : Bool) (samples : List (BitVec 16)) (s : State) : keptBy s (execJesdFrame l err
    samples s) := by
  unfold execJesdFrame
  repeat' (first | (simp only [keptBy_next, ↓kept_chains, ↓kept_ite, ite_self, ↓modLink_kept]) | split
                    | with_reducible rfl | (simp only [↓kept_mk, ↓kept_fold]))

theorem packOutput_kept (s : State) (n : Stall) (k : Fin 8) (v : BitVec 20) (t : Time) (period : Nat) (det : Bool) : kept
    (packOutput s n k v t period det) = kept s := by
  unfold packOutput
  repeat' (first | (simp only [↓kept_ite, ite_self, ↓addSide_kept, ↓modChain_kept]) | split | with_reducible rfl
                    | (simp only [↓kept_mk, ↓kept_fold]))

theorem updateTerms_kept (s : State) (n : Stall) (src : Nat) (v : BitVec 20) (t : Time) : kept (updateTerms s n src v t) =
    kept s := by
  unfold updateTerms
  repeat' (first | (simp only [↓kept_ite, ite_self, ↓modEng_kept]) | split | with_reducible rfl
                    | (simp only [↓kept_mk, ↓kept_fold]))

theorem emergeSample_kept (s : State) (k : Fin 8) (v : BitVec 20) (t : Time) (det : Bool) : kept (emergeSample s k v t det) =
    kept s := by
  unfold emergeSample
  repeat' (first | (simp only [↓kept_ite, ite_self, ↓addSide_kept, ↓checkFull_kept, ↓packOutput_kept,
                    ↓updateTerms_kept]) | split | with_reducible rfl | (simp only [↓kept_mk, ↓kept_fold]))

theorem execChainOutput_kept (n : Fin 8) (s : State) : keptBy s (execChainOutput n s) := by
  unfold execChainOutput
  repeat' (first | (simp only [keptBy_next, ↓kept_ite, ite_self, ↓emergeSample_kept, ↓modChain_kept]) | split
                    | with_reducible rfl | (simp only [↓kept_mk, ↓kept_fold]))

theorem execDetectorOutput_kept (n : Fin 8) (s : State) : keptBy s (execDetectorOutput n s) := by
  unfold execDetectorOutput
  repeat' (first | (simp only [keptBy_next, ↓kept_ite, ite_self, ↓emergeSample_kept, ↓modChain_kept]) | split
                    | with_reducible rfl | (simp only [↓kept_mk, ↓kept_fold]))

theorem execCycleEnd_kept (n : Fin 8) (t : Time) (s : State) : keptBy s (execCycleEnd n t s) := by
  unfold execCycleEnd
  repeat' (first | (simp only [keptBy_next, ↓kept_ite, ite_self, ↓modChain_kept]) | split | with_reducible rfl
                    | (simp only [↓kept_mk, ↓kept_fold]))

theorem execDcFreezeHoldExpiry_kept (n : Fin 8) (s : State) : keptBy s (execDcFreezeHoldExpiry n s) := by
  unfold execDcFreezeHoldExpiry
  repeat' (first | (simp only [keptBy_next, ↓kept_ite, ite_self, ↓modChain_kept]) | split | with_reducible rfl)

theorem setWatch_kept (s : State) (e : SqEntry) : kept (setWatch s e) = kept s := by
  unfold setWatch
  repeat' (first | (simp only [↓kept_dike, ↓kept_ite, ite_self]) | split | with_reducible rfl
                    | (simp only [↓kept_mk, ↓kept_fold]))

theorem leaveDikewatch_kept (s : State) (dest : PowerSt) : kept (leaveDikewatch s dest) = kept s := by
  unfold leaveDikewatch
  repeat' (first | (simp only [↓kept_ite, ite_self, ↓startRelock_kept]) | split | with_reducible rfl)

theorem beginTransition_kept (s : State) (t : Taken) : kept (beginTransition s t) = kept s := by
  unfold beginTransition
  repeat' (first | (simp only [↓kept_power, ↓handOff_kept, ↓leaveDikewatch_kept, ↓setWatch_kept]) | split
                    | with_reducible rfl | (simp only [↓kept_mk, ↓kept_fold]))

theorem joinTransition_kept (s : State) (t : Taken) (p : PowerTarget) : kept (joinTransition s t p) = kept s := by
  unfold joinTransition
  repeat' (first | (simp only [↓kept_power, ↓kept_ite, ite_self, ↓complete_kept, ↓handOff_kept]) | split
                    | with_reducible rfl | (simp only [↓kept_mk, ↓kept_fold]))

theorem powerCommand_kept (s : State) (t : Taken) : kept (powerCommand s t) = kept s := by
  unfold powerCommand
  repeat' (first | (simp only [↓kept_ite, ite_self, ↓beginTransition_kept, ↓complete_kept, ↓completeAt_kept,
                    ↓invalid_kept, ↓joinTransition_kept]) | split | with_reducible rfl | (simp only [↓kept_mk, ↓kept_fold]))

theorem execPowerStateDormant_kept (s : State) : keptBy s (execPowerStateDormant s) := by
  unfold execPowerStateDormant
  repeat' (first | (simp only [keptBy_next, ↓powerCommand_kept, ↓withCmd_kept]) | split | intro _ _
                    | refine (withCmd_kept _ _ _ ?_).trans ?_ | with_reducible rfl)

theorem execPowerStateDikewatch_kept (s : State) : keptBy s (execPowerStateDikewatch s) := by
  unfold execPowerStateDikewatch
  repeat' (first | (simp only [keptBy_next, ↓powerCommand_kept, ↓withCmd_kept]) | split | intro _ _
                    | refine (withCmd_kept _ _ _ ?_).trans ?_ | with_reducible rfl)

theorem execPowerStateReady_kept (s : State) : keptBy s (execPowerStateReady s) := by
  unfold execPowerStateReady
  repeat' (first | (simp only [keptBy_next, ↓powerCommand_kept, ↓withCmd_kept]) | split | intro _ _
                    | refine (withCmd_kept _ _ _ ?_).trans ?_ | with_reducible rfl)

theorem execPowerStateRun_kept (s : State) : keptBy s (execPowerStateRun s) := by
  unfold execPowerStateRun
  repeat' (first | (simp only [keptBy_next, ↓powerCommand_kept, ↓withCmd_kept]) | split | intro _ _
                    | refine (withCmd_kept _ _ _ ?_).trans ?_ | with_reducible rfl)

theorem execPowerStateTimeout_kept (s : State) : keptBy s (execPowerStateTimeout s) := by
  unfold execPowerStateTimeout
  repeat' (first | (simp only [keptBy_next, ↓kept_power, ↓kept_ite, ite_self, ↓completeTag_kept]) | split
                    | with_reducible rfl | (simp only [↓kept_mk, ↓kept_fold]))

theorem cancelWake_kept (s : State) (reason : Nat) : kept (cancelWake s reason) = kept s := by
  unfold cancelWake
  repeat' (first | (simp only [↓kept_dike, ↓kept_ite, ite_self, ↓markEnd_kept, ↓tryFinish_kept]) | split
                    | with_reducible rfl | (simp only [↓kept_mk, ↓kept_fold]))

theorem silence_kept (s : State) (teams : BitVec 8) : kept (silence s teams) = kept s := by
  unfold silence
  repeat' (first | (simp only [↓kept_chans, ↓kept_ite, ite_self]) | split | with_reducible rfl
                    | (simp only [↓kept_mk, ↓kept_fold]))

theorem dropLinks_kept (s : State) : kept (dropLinks s) = kept s := by
  unfold dropLinks
  repeat' (first | (simp only [↓kept_links, ↓kept_ite, ite_self]) | split | with_reducible rfl
                    | (simp only [↓kept_mk, ↓kept_fold]))

theorem syncHigh_kept (s : State) : kept (syncHigh s) = kept s := by
  unfold syncHigh
  repeat' (first | (simp only [↓kept_links]) | split | with_reducible rfl | (simp only [↓kept_mk, ↓kept_fold]))

theorem syncResume_kept (s : State) : kept (syncResume s) = kept s := by
  unfold syncResume
  repeat' (first | (simp only [↓kept_links]) | split | with_reducible rfl | (simp only [↓kept_mk, ↓kept_fold]))

theorem queraDown_kept (s : State) : kept (queraDown s) = kept s := by
  unfold queraDown
  repeat' (first | (simp only [↓kept_ports, ↓kept_quera, ↓kept_ite, ite_self, ↓reconverge_kept]) | split
                    | with_reducible rfl | (simp only [↓kept_mk, ↓kept_fold]))

theorem tilesOn_kept (s : State) (ports : BitVec 6) : kept (tilesOn s ports) = kept s := by
  unfold tilesOn
  repeat' (first | (simp only [↓kept_ports, ↓kept_pins, ↓kept_ite, ite_self]) | split | with_reducible rfl
                    | (simp only [↓kept_mk, ↓kept_fold]))

theorem startRefresh_kept (s : State) (l : Fin 4) : kept (startRefresh s l) = kept s := by
  unfold startRefresh
  repeat' (first | (simp only [↓modLane_kept]) | split | with_reducible rfl | (simp only [↓kept_mk, ↓kept_fold]))

theorem restDevice_kept (s : State) : kept (restDevice s) = kept s := by
  unfold restDevice
  repeat' (first | (simp only [↓stopChains_kept]) | split | with_reducible rfl | (simp only [↓kept_mk, ↓kept_fold]))

theorem enterReady_kept (s : State) : kept (enterReady s) = kept s := by
  unfold enterReady
  repeat' (first | (simp only [↓kept_power, ↓kept_ite, ite_self, ↓cancelWake_kept, ↓leaveBypass_kept,
                    ↓restDevice_kept, ↓tilesOn_kept]) | split | with_reducible rfl | (simp only [↓kept_mk, ↓kept_fold]))

theorem enterDikewatch_kept (s : State) : kept (enterDikewatch s) = kept s := by
  unfold enterDikewatch
  repeat' (first | (simp only [↓kept_power, ↓kept_dike, ↓kept_tb, ↓kept_ite, ite_self, ↓dropLinks_kept,
                    ↓queraDown_kept, ↓restDevice_kept, ↓silence_kept, ↓tilesOn_kept]) | split | with_reducible rfl
                    | (simp only [↓kept_mk, ↓kept_fold]))

theorem shedUploads_kept (x0 : Nat) (s : State) : kept (shedUploads x0 s) = kept s := by
  induction x0 generalizing s with
  | zero => rfl
  | succ k ih =>
    unfold shedUploads
    repeat' (first | (simp only [↓endUpload_kept, ↓ih]) | split | with_reducible rfl | (simp only [↓kept_mk, ↓kept_fold]))

theorem loseCapture_kept (s : State) (n : Stall) : kept (loseCapture s n) = kept s := by
  unfold loseCapture
  repeat' (first | (simp only [↓kept_ite, ite_self, ↓modStall_kept, ↓stopEngine_kept]) | split
                    | with_reducible rfl | (simp only [↓kept_mk, ↓kept_fold]))

theorem sleepDevice_kept (s : State) : kept (sleepDevice s) = kept s := by
  unfold sleepDevice
  have h (x : State) : kept { x with
      fbd := {}, lanes := x.lanes.map emptyLane, stalls := x.stalls.map dropSlice
      pcie := { x.pcie with linkUp := false }
      pins := { x.pins with trigOut := false, refOut := false } } = kept x := rfl
  exact (h _).trans ((tilesOn_kept _ _).trans ((silence_kept _ _).trans ((syncHigh_kept _).trans ((dropLinks_kept _).trans
    ((queraDown_kept _).trans ((restDevice_kept _).trans ((kept_foldl _ loseCapture_kept _ _).trans (shedUploads_kept _ _))))))))

theorem enterDormant_kept (s : State) : kept (enterDormant s) = kept s := by
  unfold enterDormant
  have h (x : State) : kept { x with
      tb := { x.tb with timeValid := false, gatesRun := false, bypass := false }
      power := { x.power with st := .dormant, target := none, dormantAt := x.tb.now } } = kept x := rfl
  exact (h _).trans ((sleepDevice_kept _).trans (cancelWake_kept _ _))

theorem completeLower_kept (s : State) (p : PowerTarget) : kept (completeLower s p) = kept s := by
  unfold completeLower
  repeat' (first | (simp only [↓kept_ite, ite_self, ↓completeTag_kept]) | split | with_reducible rfl)

theorem completeRun_kept (s : State) (p : PowerTarget) : kept (completeRun s p) = kept s := by
  unfold completeRun
  repeat' (first | (simp only [↓kept_ite, ite_self, ↓completeTag_kept]) | split | with_reducible rfl)

end Sys2Proof.Machine
end

