-- ==== Sys2Proof/Laws/KeptRun.lean ====
section
/-! SUPPORT. What each function keeps (Laws/Kept.lean): the Groom, host reads, PCI, the running course, the running ring, shedding and Dikewatch. -/

set_option linter.unusedSimpArgs false

namespace Sys2Proof.Machine

set_option Elab.async false

theorem dupTag_kept (s : State) (f : Fn) (e : SqEntry) : kept (dupTag s f e) = kept s := by
  unfold dupTag
  repeat' (first | (simp only [↓kept_ite, ite_self, ↓invalid_kept, ↓pushEntry_kept]) | split | with_reducible rfl)

theorem fetchSlot_kept (s : State) (f : Fn) : kept (fetchSlot s f) = kept s := by
  unfold fetchSlot
  repeat' (first | (simp only [↓emit_kept, ↓modGroom_kept]) | split | with_reducible rfl | (simp only [↓kept_mk, ↓kept_fold]))

theorem takeSlot_kept (s : State) (f : Fn) : kept (takeSlot s f) = kept s := by
  unfold takeSlot
  repeat' (first | (simp only [↓fetchSlot_kept, ↓modFn_kept, ↓modGroom_kept]) | split | with_reducible rfl
                    | (simp only [↓kept_mk, ↓kept_fold]))

theorem addOutst_kept (s : State) (f : Fn) (e : SqEntry) : kept (addOutst s f e) = kept s := by
  unfold addOutst
  repeat' (first | (simp only [↓modStall_kept]) | split | with_reducible rfl | (simp only [↓kept_mk, ↓kept_fold]))

theorem settle_kept (s : State) (t : Taken) (x0 : Verdict) : kept (settle s t x0) = kept s := by
  unfold settle
  repeat' (first | (simp only [↓completeAt_kept, ↓deny_kept, ↓modGroom_kept]) | split | with_reducible rfl
                    | (simp only [↓kept_mk, ↓kept_fold]))

theorem execGroomTakeCommand_kept (f : Fn) (entry : SqEntry) (ecc : TakeEcc) (s : State) : keptBy s (execGroomTakeCommand f
    entry ecc s) := by
  unfold execGroomTakeCommand
  repeat' (first | (simp only [keptBy_next, ↓kept_ite, ite_self, ↓addOutst_kept, ↓dupTag_kept, ↓noteEcc_kept,
                    ↓safeHalt_kept, ↓settle_kept, ↓takeSlot_kept]) | split | with_reducible rfl)

theorem execUnknownOpcode_kept (s : State) : keptBy s (execUnknownOpcode s) := by
  unfold execUnknownOpcode
  repeat' (first | (simp only [keptBy_next, ↓complete_kept, ↓withCmd_kept]) | split | intro _ _
                    | refine (withCmd_kept _ _ _ ?_).trans ?_ | with_reducible rfl)

theorem ringFailed_kept (s : State) (f : Fn) : kept (ringFailed s f) = kept s := by
  unfold ringFailed
  repeat' (first | (simp only [↓kept_ite, ite_self, ↓fetchSlot_kept, ↓modFn_kept]) | split | with_reducible rfl
                    | (simp only [↓kept_mk, ↓kept_fold]))

theorem serveRead_kept (s : State) (r : HostRead) (data : HostData) : kept (serveRead s r data) = kept s := by
  unfold serveRead
  repeat' (first | (simp only [↓kept_ite, ite_self, ↓imageRead_kept, ↓lifeRead_kept, ↓loadRead_kept,
                    ↓settleAll_kept, ↓updateRead_kept, ↓uploadRead_kept]) | split | with_reducible rfl | (simp only [↓kept_mk,
                    ↓kept_fold]))

theorem readBackJob_kept (s : State) (id : Nat) (data : HostData) : kept (readBackJob s id data) = kept s := by
  unfold readBackJob
  repeat' (first | (simp only [↓kept_ite, ite_self, ↓modGroom_kept, ↓serveRead_kept]) | split
                    | with_reducible rfl | (simp only [↓kept_mk, ↓kept_fold]))

theorem execHostReadComplete_kept (r : ReadRef) (data : HostData) (s : State) : keptBy s (execHostReadComplete r data s) := by
  unfold execHostReadComplete
  repeat' (first | (simp only [keptBy_next, ↓kept_ite, ite_self, ↓readBackJob_kept, ↓ringFailed_kept]) | split
                    | with_reducible rfl | (simp only [↓kept_mk, ↓kept_fold]))

theorem execHostReadTimeout_kept (r : ReadRef) (s : State) : keptBy s (execHostReadTimeout r s) := by
  unfold execHostReadTimeout
  repeat' (first | (simp only [keptBy_next, ↓readBackJob_kept, ↓ringFailed_kept]) | split | with_reducible rfl
                    | (simp only [↓kept_mk, ↓kept_fold]))

theorem resetWindow_kept (s : State) (f : Fn) : kept (resetWindow s f) = kept s := by
  unfold resetWindow
  repeat' (first | (simp only [↓kept_ite, ite_self, ↓modFn_kept]) | split | with_reducible rfl)

theorem execFunctionLevelReset_kept (f : Fn) (s : State) : keptBy s (execFunctionLevelReset f s) := by
  unfold execFunctionLevelReset
  repeat' (first | (simp only [keptBy_next, ↓kept_pcie, ↓kept_ite, ite_self, ↓lowerVFs_kept, ↓resetLinks_kept,
                    ↓resetWindow_kept, ↓startReset_kept]) | split | with_reducible rfl | (simp only [↓kept_mk, ↓kept_fold]))

theorem execVfDisable_kept (n : Fin 64) (s : State) : keptBy s (execVfDisable n s) := by
  unfold execVfDisable
  repeat' (first | (simp only [keptBy_next, ↓kept_ite, ite_self, ↓lowerVFs_kept]) | split | with_reducible rfl)

theorem execVfEnable_kept (n : Fin 64) (c : VfControl) (s : State) : keptBy s (execVfEnable n c s) := by
  unfold execVfEnable
  repeat' (first | (simp only [keptBy_next, ↓kept_pcie, ↓kept_ite, ite_self]) | split | with_reducible rfl
                    | (simp only [↓kept_mk, ↓kept_fold]))

theorem setMaxRead_kept (s : State) (f : Fn) (m : Fin 6) : kept (setMaxRead s f m) = kept s := by
  unfold setMaxRead
  repeat' (first | (simp only [↓kept_pcie, ↓kept_ite, ite_self]) | split | with_reducible rfl
                    | (simp only [↓kept_mk, ↓kept_fold]))

theorem execDStateChange_kept (f : Fn) (w : PmWrite) (s : State) : keptBy s (execDStateChange f w s) := by
  unfold execDStateChange
  repeat' (first | (simp only [keptBy_next, ↓kept_ite, ite_self, ↓drain_kept, ↓modFn_kept, ↓queueEcc_kept,
                    ↓setMaxRead_kept]) | split | with_reducible rfl | (simp only [↓kept_mk, ↓kept_fold]))

theorem execPerst_kept (s : State) : keptBy s (execPerst s) := by
  unfold execPerst
  repeat' (first | (simp only [keptBy_next, ↓kept_fns, ↓kept_pcie, ↓kept_ite, ite_self, ↓lowerVFs_kept,
                    ↓resetLinks_kept, ↓startReset_kept]) | split | with_reducible rfl | (simp only [↓kept_mk, ↓kept_fold]))

theorem actTrigger_kept (s : State) (n : Stall) (f : FiredExit) : kept (actTrigger s n f) = kept s := by
  unfold actTrigger
  repeat' (first | (simp only [↓kept_ite, ite_self, ↓requestTrigger_kept]) | split | with_reducible rfl)

theorem actStoreOn_kept (s : State) (n : Stall) (f : FiredExit) : kept (actStoreOn s n f) = kept s := by
  unfold actStoreOn
  repeat' (first | (simp only [↓kept_ite, ite_self, ↓modEng_kept]) | split | with_reducible rfl
                    | (simp only [↓kept_mk, ↓kept_fold]))

theorem actStoreOff_kept (s : State) (n : Stall) (f : FiredExit) : kept (actStoreOff s n f) = kept s := by
  unfold actStoreOff
  repeat' (first | (simp only [↓kept_ite, ite_self, ↓marker_kept, ↓modCap_kept, ↓modEng_kept]) | split
                    | with_reducible rfl | (simp only [↓kept_mk, ↓kept_fold]))

theorem actXtrig_kept (s : State) (n : Stall) (f : FiredExit) : kept (actXtrig s n f) = kept s := by
  unfold actXtrig
  repeat' (first | (simp only [↓kept_ite, ite_self, ↓emitXtrig_kept]) | split
                    | refine (kept_foldl _ ?_ _ _).trans ?_ | intro _ _ | with_reducible rfl)

theorem actTrigOut_kept (s : State) (n : Stall) (f : FiredExit) : kept (actTrigOut s n f) = kept s := by
  unfold actTrigOut
  repeat' (first | (simp only [↓kept_ite, ite_self, ↓modEng_kept, ↓refreshTrigOut_kept]) | split
                    | with_reducible rfl | (simp only [↓kept_mk, ↓kept_fold]))

theorem actRefStart_kept (s : State) (n : Stall) (f : FiredExit) : kept (actRefStart s n f) = kept s := by
  unfold actRefStart
  repeat' (first | (simp only [↓kept_ite, ite_self, ↓modRef_kept]) | split | with_reducible rfl
                    | (simp only [↓kept_mk, ↓kept_fold]))

theorem actMarker_kept (s : State) (n : Stall) (f : FiredExit) : kept (actMarker s n f) = kept s := by
  unfold actMarker
  repeat' (first | (simp only [↓kept_ite, ite_self, ↓marker_kept]) | split | with_reducible rfl)

theorem runActions_kept (s : State) (n : Stall) (final : Bool) (f : FiredExit) : kept (runActions s n final f) = kept s := by
  unfold runActions
  repeat' (first | (simp only [↓kept_ite, ite_self, ↓actMarker_kept, ↓actRefStart_kept, ↓actStoreOff_kept,
                    ↓actStoreOn_kept, ↓actTrigOut_kept, ↓actTrigger_kept, ↓actXtrig_kept]) | split | with_reducible rfl)

theorem evaluate_kept (s : State) (n : Stall) (p : Course) (views : List SampleView) (final : Bool) : kept (evaluate s n p
    views final) = kept s := by
  unfold evaluate
  repeat' (first | (simp only [↓modEng_kept, ↓runActions_kept]) | split | with_reducible rfl | (simp only [↓kept_mk, ↓kept_fold]))

theorem takeDense_kept (s : State) (n : Stall) : kept (takeDense s n) = kept s := by
  unfold takeDense
  repeat' (first | (simp only [↓kept_ite, ite_self, ↓checkFull_kept, ↓modCap_kept, ↓placeDense_kept]) | split
                    | with_reducible rfl | (simp only [↓kept_mk, ↓kept_fold]))

theorem beginStride_kept (s : State) (n : Stall) (seed : SeedIn) : kept (beginStride s n seed) = kept s := by
  unfold beginStride
  repeat' (first | (simp only [↓kept_ite, ite_self, ↓applyStoreOn_kept, ↓finishPlay_kept, ↓flushOverrun_kept,
                    ↓runQueued_kept, ↓runTimed_kept, ↓settleIdle_kept]) | split | with_reducible rfl | (simp only [↓kept_mk,
                    ↓kept_fold]))

theorem courseStep_kept (s : State) (n : Stall) (trigIn : BitVec 8) : kept (courseStep s n trigIn) = kept s := by
  unfold courseStep
  repeat' (first | (simp only [↓evaluate_kept, ↓modEng_kept]) | split | with_reducible rfl | (simp only [↓kept_mk, ↓kept_fold]))

theorem sampleStride_kept (s : State) (n : Stall) (inp : StrideIn) : kept (sampleStride s n inp) = kept s := by
  unfold sampleStride
  repeat' (first | (simp only [↓kept_fe, ↓courseStep_kept, ↓playStride_kept, ↓sampleChan_kept, ↓takeDense_kept])
                    | split | refine (kept_foldl _ ?_ _ _).trans ?_ | intro _ _ | with_reducible rfl | (simp only [↓kept_mk,
                    ↓kept_fold]))

theorem execCourseStride_kept (st : Stall) (inp : StrideIn) (s : State) : keptBy s (execCourseStride st inp s) := by
  unfold execCourseStride
  repeat' (first | (simp only [keptBy_next, ↓kept_ite, ite_self, ↓beginStride_kept, ↓modEng_kept,
                    ↓sampleStride_kept, ↓takeDense_kept]) | split | with_reducible rfl | (simp only [↓kept_mk, ↓kept_fold]))

theorem execCourseTimerLimit_kept (st : Stall) (n : Fin 32) (s : State) : keptBy s (execCourseTimerLimit st n s) := by
  unfold execCourseTimerLimit
  repeat' (first | (simp only [keptBy_next, ↓kept_ite, ite_self, ↓modEng_kept]) | split | with_reducible rfl
                    | (simp only [↓kept_mk, ↓kept_fold]))

theorem execCourseCounterCompare_kept (st : Stall) (n : Fin 32) (s : State) : keptBy s (execCourseCounterCompare st n s) := by
  unfold execCourseCounterCompare
  repeat' (first | (simp only [keptBy_next, ↓kept_ite, ite_self, ↓modEng_kept]) | split | with_reducible rfl
                    | (simp only [↓kept_mk, ↓kept_fold]))

theorem execTrigOutPulseEnd_kept (st : Stall) (s : State) : keptBy s (execTrigOutPulseEnd st s) := by
  unfold execTrigOutPulseEnd
  repeat' (first | (simp only [keptBy_next, ↓kept_ite, ite_self, ↓modEng_kept, ↓refreshTrigOut_kept]) | split
                    | with_reducible rfl | (simp only [↓kept_mk, ↓kept_fold]))

theorem seeBlocks_kept (s : State) (p : Fin 4) (r : Received) : kept (seeBlocks s p r) = kept s := by
  unfold seeBlocks
  repeat' (first | (simp only [↓modQport_kept]) | split | refine (kept_foldl _ ?_ _ _).trans ?_ | intro _ _
                    | with_reducible rfl | (simp only [↓kept_mk, ↓kept_fold]))

theorem loseLock_kept (s : State) (p : Fin 4) : kept (loseLock s p) = kept s := by
  unfold loseLock
  repeat' (first | (simp only [↓modQport_kept, ↓takeDown_kept]) | split | with_reducible rfl)

theorem onMsg_kept (s : State) (p : Fin 4) (r : Received) (kind : Nat) (g : BitVec 112 → State → State)
    (h : ∀ m s, kept (g m s) = kept s) : kept (onMsg s p r kind g) = kept s := by
  unfold onMsg
  dsimp only
  split
  · rfl
  · split
    · exact loseLock_kept _ _
    · split
      · exact (discardMsg_kept _ _).trans (seeBlocks_kept _ _ _)
      · split
        · exact (discardMsg_kept _ _).trans (seeBlocks_kept _ _ _)
        · split
          · rfl
          · exact (announce_kept _ _).trans ((h _ _).trans (seeBlocks_kept _ _ _))

theorem execQueraTimingSend_kept (p : Fin 4) (due : Time) (s : State) : keptBy s (execQueraTimingSend p due s) := by
  unfold execQueraTimingSend
  repeat' (first | (simp only [keptBy_next, ↓kept_ite, ite_self, ↓modQport_kept, ↓sendMsg_kept]) | split
                    | with_reducible rfl | (simp only [↓kept_mk, ↓kept_fold]))

theorem execQueraTimingRequest_kept (p : Fin 4) (rx : Received) (t2 ready : Time) (s : State) :
    keptBy s (execQueraTimingRequest p rx t2 ready s) := by
  unfold execQueraTimingRequest
  repeat' (first | (simp only [keptBy_next, ↓kept_ite, ite_self, ↓modQport_kept, ↓onMsg_kept]) | split
                    | intro _ _ | refine (onMsg_kept _ _ _ _ _ ?_).trans ?_ | intro _ | with_reducible rfl | (simp only [↓kept_mk,
                    ↓kept_fold]))

theorem useOffset_kept (s : State) (e : Int) : kept (useOffset s e) = kept s := by
  unfold useOffset
  repeat' (first | (simp only [↓kept_quera, ↓kept_tb, ↓kept_ite, ite_self, ↓adopt_kept]) | split
                    | with_reducible rfl | (simp only [↓kept_mk, ↓kept_fold]))

theorem execQueraTimingResponse_kept (p : Fin 4) (rx : Received) (t4 : Time) (s : State) : keptBy s (execQueraTimingResponse p
    rx t4 s) := by
  unfold execQueraTimingResponse
  repeat' (first | (simp only [keptBy_next, ↓kept_ite, ite_self, ↓modQport_kept, ↓onMsg_kept, ↓useOffset_kept])
                    | split | intro _ _ | refine (onMsg_kept _ _ _ _ _ ?_).trans ?_ | intro _ | with_reducible rfl
                    | (simp only [↓kept_mk, ↓kept_fold]))

theorem moveDram_kept (d : Int) (s : State) : kept (moveDram d s) = kept s := by
  unfold moveDram
  repeat' (first | (simp only [↓kept_lanes]) | split | with_reducible rfl | (simp only [↓kept_mk, ↓kept_fold]))

theorem moveQuera_kept (d : Int) (s : State) : kept (moveQuera d s) = kept s := by
  unfold moveQuera
  repeat' (first | (simp only [↓kept_ports, ↓kept_quera]) | split | with_reducible rfl | (simp only [↓kept_mk, ↓kept_fold]))

theorem execQueraTopologySend_kept (p : Fin 4) (s : State) : keptBy s (execQueraTopologySend p s) := by
  unfold execQueraTopologySend
  repeat' (first | (simp only [keptBy_next, ↓kept_ite, ite_self, ↓sendMsg_kept]) | split | with_reducible rfl)

theorem clashCheck_kept (s : State) (sender : Nat) : kept (clashCheck s sender) = kept s := by
  unfold clashCheck
  repeat' (first | (simp only [↓kept_quera, ↓kept_ite, ite_self, ↓reconverge_kept, ↓topoEvent_kept]) | split
                    | with_reducible rfl | (simp only [↓kept_mk, ↓kept_fold]))

theorem noteTopology_kept (s : State) (p : Fin 4) (m : BitVec 112) : kept (noteTopology s p m) = kept s := by
  unfold noteTopology
  repeat' (first | (simp only [↓modQport_kept]) | split | with_reducible rfl | (simp only [↓kept_mk, ↓kept_fold]))

theorem hearPartition_kept (s : State) (p : Fin 4) (old : QPort) : kept (hearPartition s p old) = kept s := by
  unfold hearPartition
  repeat' (first | (simp only [↓kept_quera, ↓kept_ite, ite_self]) | split | with_reducible rfl
                    | (simp only [↓kept_mk, ↓kept_fold]))

theorem setSize_kept (s : State) (root : Bool) (n : Nat) : kept (setSize s root n) = kept s := by
  unfold setSize
  repeat' (first | (simp only [↓kept_quera, ↓kept_ite, ite_self, ↓newEpoch_kept]) | split | with_reducible rfl
                    | (simp only [↓kept_mk, ↓kept_fold]))

theorem noteSize_kept (s : State) (p : Fin 4) : kept (noteSize s p) = kept s := by
  unfold noteSize
  repeat' (first | (simp only [↓kept_ite, ite_self, ↓setSize_kept]) | split | with_reducible rfl)

theorem noteSelf_kept (s : State) (p : Fin 4) : kept (noteSelf s p) = kept s := by
  unfold noteSelf
  repeat' (first | (simp only [↓modQport_kept]) | split | with_reducible rfl | (simp only [↓kept_mk, ↓kept_fold]))

theorem noteMembers_kept (s : State) (p : Fin 4) (old : QPort) : kept (noteMembers s p old) = kept s := by
  unfold noteMembers
  repeat' (first | (simp only [↓kept_ite, ite_self, ↓newEpoch_kept]) | split | with_reducible rfl)

theorem execQueraTopologyMsg_kept (p : Fin 4) (rx : Received) (s : State) : keptBy s (execQueraTopologyMsg p rx s) := by
  unfold execQueraTopologyMsg
  repeat' (first | (simp only [keptBy_next, ↓kept_ite, ite_self, ↓clashCheck_kept, ↓hearPartition_kept,
                    ↓noteMembers_kept, ↓noteSelf_kept, ↓noteSize_kept, ↓noteTopology_kept, ↓onMsg_kept, ↓reconverge_kept]) | split
                    | intro _ _ | refine (onMsg_kept _ _ _ _ _ ?_).trans ?_ | intro _ | with_reducible rfl)

theorem execQueraPortUp_kept (p : Fin 4) (s : State) : keptBy s (execQueraPortUp p s) := by
  unfold execQueraPortUp
  repeat' (first | (simp only [keptBy_next, ↓kept_quera, ↓kept_ite, ite_self, ↓announce_kept, ↓modQport_kept,
                    ↓newEpoch_kept, ↓noteSelf_kept, ↓reconverge_kept]) | split | with_reducible rfl | (simp only [↓kept_mk,
                    ↓kept_fold]))

theorem execQueraPortDown_kept (p : Fin 4) (s : State) : keptBy s (execQueraPortDown p s) := by
  unfold execQueraPortDown
  repeat' (first | (simp only [keptBy_next, ↓loseLock_kept]) | split | with_reducible rfl)

theorem execQueraIdentifySend_kept (p : Fin 4) (s : State) : keptBy s (execQueraIdentifySend p s) := by
  unfold execQueraIdentifySend
  repeat' (first | (simp only [keptBy_next, ↓kept_ite, ite_self, ↓sendMsg_kept]) | split | with_reducible rfl)

theorem execQueraIdentifyMsg_kept (p : Fin 4) (rx : Received) (s : State) : keptBy s (execQueraIdentifyMsg p rx s) := by
  unfold execQueraIdentifyMsg
  repeat' (first | (simp only [keptBy_next, ↓kept_ite, ite_self, ↓clashCheck_kept, ↓modQport_kept, ↓onMsg_kept,
                    ↓takeDown_kept]) | split | intro _ _ | refine (onMsg_kept _ _ _ _ _ ?_).trans ?_ | intro _
                    | with_reducible rfl | (simp only [↓kept_mk, ↓kept_fold]))

theorem noteAnchor_kept (s : State) (root : Bool) (id : Nat) : kept (noteAnchor s root id) = kept s := by
  unfold noteAnchor
  repeat' (first | (simp only [↓kept_quera, ↓kept_ite, ite_self]) | split | with_reducible rfl
                    | (simp only [↓kept_mk, ↓kept_fold]))

theorem takePlace_kept (s : State) (ring position : Nat) : kept (takePlace s ring position) = kept s := by
  unfold takePlace
  repeat' (first | (simp only [↓kept_quera, ↓kept_ite, ite_self, ↓becomeMaster_kept, ↓reconverge_kept,
                    ↓topoEvent_kept]) | split | with_reducible rfl | (simp only [↓kept_mk, ↓kept_fold]))

theorem execQueraCensusMsg_kept (p : Fin 4) (rx : Received) (s : State) : keptBy s (execQueraCensusMsg p rx s) := by
  unfold execQueraCensusMsg
  repeat' (first | (simp only [keptBy_next, ↓kept_ite, ite_self, ↓noteAnchor_kept, ↓onMsg_kept, ↓sendMsg_kept,
                    ↓setSize_kept, ↓takePlace_kept]) | split | intro _ _ | refine (onMsg_kept _ _ _ _ _ ?_).trans ?_ | intro _
                    | with_reducible rfl)

theorem passOn_kept (s : State) (p : Fin 4) (m : BitVec 112) : kept (passOn s p m) = kept s := by
  unfold passOn
  repeat' (first | (simp only [↓kept_ite, ite_self, ↓sendMsg_kept, ↓spread_kept]) | split | with_reducible rfl)

theorem acceptXtrig_kept (s : State) (m : BitVec 112) : kept (acceptXtrig s m) = kept s := by
  unfold acceptXtrig
  repeat' (first | (simp only [↓kept_quera, ↓kept_ite, ite_self, ↓deliverXtrig_kept]) | split
                    | refine (kept_foldl _ ?_ _ _).trans ?_ | intro _ _ | with_reducible rfl | (simp only [↓kept_mk, ↓kept_fold]))

theorem execQueraCrossTriggerMsg_kept (p : Fin 4) (rx : Received) (s : State) : keptBy s (execQueraCrossTriggerMsg p rx s) := by
  unfold execQueraCrossTriggerMsg
  repeat' (first | (simp only [keptBy_next, ↓kept_quera, ↓kept_ite, ite_self, ↓acceptXtrig_kept, ↓onMsg_kept,
                    ↓passOn_kept]) | split | intro _ _ | refine (onMsg_kept _ _ _ _ _ ?_).trans ?_ | intro _ | with_reducible rfl
                    | (simp only [↓kept_mk, ↓kept_fold]))

theorem startBlock_kept (s : State) (p : Fin 4) (at_ : Nat) : kept (startBlock s p at_) = kept s := by
  unfold startBlock
  repeat' (first | (simp only [↓emit_kept, ↓modQport_kept]) | split | with_reducible rfl | (simp only [↓kept_mk, ↓kept_fold]))

theorem runPort_kept (s : State) (p : Fin 4) : kept (runPort s p) = kept s := by
  unfold runPort
  repeat' (first | (simp only [↓kept_ite, ite_self, ↓modQport_kept, ↓startBlock_kept]) | split
                    | with_reducible rfl | (simp only [↓kept_mk, ↓kept_fold]))

theorem watchPort_kept (s : State) (p : Fin 4) : kept (watchPort s p) = kept s := by
  unfold watchPort
  repeat' (first | (simp only [↓kept_ite, ite_self, ↓takeDown_kept]) | split | with_reducible rfl)

theorem watchCensus_kept (s : State) : kept (watchCensus s) = kept s := by
  unfold watchCensus
  repeat' (first | (simp only [↓kept_quera, ↓kept_ite, ite_self, ↓announce_kept, ↓reconverge_kept]) | split
                    | with_reducible rfl | (simp only [↓kept_mk, ↓kept_fold]))

theorem runQuera_kept (s : State) : kept (runQuera s) = kept s := by
  unfold runQuera
  repeat' (first | (simp only [↓runPort_kept, ↓watchCensus_kept, ↓watchPort_kept]) | split
                    | refine (kept_foldl _ ?_ _ _).trans ?_ | intro _ _ | with_reducible rfl)

theorem dropBuffers_kept (s : State) : kept (dropBuffers s) = kept s := by
  unfold dropBuffers
  repeat' (first | (simp only [↓kept_ite, ite_self, ↓modGroom_kept]) | split | with_reducible rfl
                    | (simp only [↓kept_mk, ↓kept_fold]))

theorem shedMarkers_kept (s : State) (stage : Nat) : kept (shedMarkers s stage) = kept s := by
  unfold shedMarkers
  repeat' (first | (simp only [↓marker_kept]) | split | refine (kept_foldl _ ?_ _ _).trans ?_ | intro _ _ | with_reducible rfl)

theorem stageOne_kept (s : State) : kept (stageOne s) = kept s := by
  unfold stageOne
  repeat' (first | (simp only [↓dropBuffers_kept, ↓endLoad_kept, ↓shedMarkers_kept, ↓stopUploads_kept]) | split
                    | refine (kept_foldl _ ?_ _ _).trans ?_ | intro _ _ | with_reducible rfl)

theorem cancelStarts_kept (s : State) (n : Stall) : kept (cancelStarts s n) = kept s := by
  unfold cancelStarts
  repeat' (first | (simp only [↓modRef_kept, ↓refFault_kept]) | split | with_reducible rfl | (simp only [↓kept_mk, ↓kept_fold]))

theorem stageTwo_kept (s : State) : kept (stageTwo s) = kept s := by
  unfold stageTwo
  repeat' (first | (simp only [↓abortPlayback_kept, ↓cancelStarts_kept, ↓shedMarkers_kept, ↓stopChains_kept])
                    | split | refine (kept_foldl _ ?_ _ _).trans ?_ | intro _ _ | with_reducible rfl)

theorem stageThree_kept (s : State) (heat : Bool) : kept (stageThree s heat) = kept s := by
  unfold stageThree
  repeat' (first | (simp only [↓kept_power, ↓kept_ite, ite_self, ↓shedClose_kept]) | split | with_reducible rfl
                    | (simp only [↓kept_mk, ↓kept_fold]))

theorem stageAction_kept (heat : Bool) (s : State) (k : Nat) : kept (stageAction heat s k) = kept s := by
  unfold stageAction
  repeat' (first | (simp only [↓kept_power, ↓kept_ite, ite_self, ↓stageOne_kept, ↓stageThree_kept,
                    ↓stageTwo_kept]) | split | with_reducible rfl | (simp only [↓kept_mk, ↓kept_fold]))

theorem runStages_kept (s : State) (heat : Bool) : kept (runStages s heat) = kept s := by
  unfold runStages
  repeat' (first | (simp only [↓stageAction_kept]) | split | refine (kept_foldl _ ?_ _ _).trans ?_ | intro _ _
                    | with_reducible rfl)

theorem shedEvent_kept (s : State) (src : Nat) : kept (shedEvent s src) = kept s := by
  unfold shedEvent
  repeat' (first | (simp only [↓kept_power, ↓kept_ite, ite_self, ↓sendEvents_kept]) | split | with_reducible rfl
                    | (simp only [↓kept_mk, ↓kept_fold]))

theorem thermalEvent_kept (s : State) (cause : Nat) : kept (thermalEvent s cause) = kept s := by
  unfold thermalEvent
  repeat' (first | (simp only [↓sendRated_kept]) | split | with_reducible rfl)

theorem undone_kept (s : State) : kept (undone s) = kept s := by
  unfold undone
  repeat' (first | (simp only [↓kept_power]) | split | with_reducible rfl | (simp only [↓kept_mk, ↓kept_fold]))

theorem execShedStageEnter_kept (n : Fin 5) (src : BitVec 4) (mv : BitVec 16) (s : State) : keptBy s (execShedStageEnter n src
    mv s) := by
  unfold execShedStageEnter
  repeat' (first | (simp only [keptBy_next, ↓kept_power, ↓kept_ite, ite_self, ↓runStages_kept, ↓shedEvent_kept])
                    | split | with_reducible rfl | (simp only [↓kept_mk, ↓kept_fold]))

theorem execShedStageLeave_kept (s : State) (n : Fin 4) (mv : BitVec 16) : keptBy s (execShedStageLeave s n mv) := by
  unfold execShedStageLeave
  repeat' (first | (simp only [keptBy_next, ↓kept_power, ↓kept_ite, ite_self, ↓shedEvent_kept, ↓undone_kept])
                    | split | with_reducible rfl | (simp only [↓kept_mk, ↓kept_fold]))

theorem overtake_kept (s : State) : kept (overtake s) = kept s := by
  unfold overtake
  repeat' (first | (simp only [↓kept_ite, ite_self, ↓completeTag_kept]) | split | with_reducible rfl
                    | (simp only [↓kept_mk, ↓kept_fold]))

theorem shedFlash_kept (s : State) : kept (shedFlash s) = kept s := by
  unfold shedFlash
  repeat' (first | (simp only [↓kept_flash, ↓kept_ite, ite_self, ↓abortUpdate_kept, ↓queueJournal_kept]) | split
                    | with_reducible rfl | (simp only [↓kept_mk, ↓kept_fold]))

theorem execStage4Begin_kept (s : State) : keptBy s (execStage4Begin s) := by
  unfold execStage4Begin
  repeat' (first | (simp only [keptBy_next, ↓kept_power, ↓kept_ite, ite_self, ↓completeTag_kept, ↓overtake_kept,
                    ↓queraDown_kept, ↓shedFlash_kept]) | split | with_reducible rfl | (simp only [↓kept_mk, ↓kept_fold]))

theorem enterHeat_kept (s : State) (k : Nat) : kept (enterHeat s k) = kept s := by
  unfold enterHeat
  repeat' (first | (simp only [↓kept_power, ↓kept_ite, ite_self, ↓runStages_kept, ↓shedEvent_kept,
                    ↓thermalEvent_kept]) | split | with_reducible rfl | (simp only [↓kept_mk, ↓kept_fold]))

theorem sampleTj_kept (s : State) (q : Vector (BitVec 16) 8) : kept (sampleTj s q) = kept s := by
  unfold sampleTj
  repeat' (first | (simp only [↓kept_power, ↓kept_ite, ite_self]) | split | with_reducible rfl
                    | (simp only [↓kept_mk, ↓kept_fold]))

theorem sampleDie_kept (s : State) (q : DieIn) : kept (sampleDie s q) = kept s := (kept_power _ _).trans (sampleTj_kept _ _)

theorem execTjSample_kept (q : DieIn) (s : State) : keptBy s (execTjSample q s) := by
  unfold execTjSample
  repeat' (first | (simp only [keptBy_next, ↓kept_power, ↓kept_ite, ite_self, ↓enterHeat_kept, ↓sampleTj_kept, ↓sampleDie_kept])
                    | split | with_reducible rfl | (simp only [↓kept_mk, ↓kept_fold]))

theorem fallEvents_kept (s : State) (old peak : Nat) : kept (fallEvents s old peak) = kept s := by
  unfold fallEvents
  repeat' (first | (simp only [↓kept_ite, ite_self, ↓thermalEvent_kept]) | split | with_reducible rfl)

theorem execThermalStageLeave_kept (s : State) : keptBy s (execThermalStageLeave s) := by
  unfold execThermalStageLeave
  repeat' (first | (simp only [keptBy_next, ↓kept_power, ↓kept_ite, ite_self, ↓fallEvents_kept, ↓shedEvent_kept,
                    ↓undone_kept]) | split | with_reducible rfl | (simp only [↓kept_mk, ↓kept_fold]))

theorem tripFlash_kept (s : State) (fl : FlashAt) : kept (tripFlash s fl) = kept s := by
  unfold tripFlash
  repeat' (first | (simp only [↓kept_flash, ↓kept_ite, ite_self, ↓abortUpdate_kept, ↓programmed_kept,
                    ↓setUpd_kept]) | split | with_reducible rfl | (simp only [↓kept_mk, ↓kept_fold]))

theorem execThermalTrip_kept (s : State) (fl : FlashAt) (mv : BitVec 16) : keptBy s (execThermalTrip s fl mv) := by
  unfold execThermalTrip
  repeat' (first | (simp only [keptBy_next, ↓kept_sec, ↓kept_power, ↓kept_pins, ↓kept_ite, ite_self,
                    ↓queraDown_kept, ↓runStages_kept, ↓shedEvent_kept, ↓tripFlash_kept]) | split | with_reducible rfl
                    | (simp only [↓kept_mk, ↓kept_fold]))

theorem startWake_kept (s : State) : kept (startWake s) = kept s := by
  unfold startWake
  repeat' (first | (simp only [↓kept_power, ↓kept_dike, ↓kept_ite, ite_self, ↓leaveDikewatch_kept]) | split
                    | with_reducible rfl | (simp only [↓kept_mk, ↓kept_fold]))

theorem execDikewatchSample_kept (inp : StrideIn) (s : State) : keptBy s (execDikewatchSample inp s) := by
  unfold execDikewatchSample
  repeat' (first | (simp only [keptBy_next, ↓kept_dike, ↓kept_ite, ite_self, ↓startWake_kept]) | split
                    | with_reducible rfl | (simp only [↓kept_mk, ↓kept_fold]))

theorem placeCopy_kept (n : Stall) (s : State) (x : List Rec × Nat) : kept (placeCopy n s x) = kept s := by
  unfold placeCopy
  repeat' (first | (simp only [↓modCap_kept, ↓putSlice_kept]) | split | with_reducible rfl | (simp only [↓kept_mk, ↓kept_fold]))

theorem headSegment_kept (n : Stall) (d : DikeRing) (l : List Rec) (extra : Nat) (s : State) : kept (headSegment n d l extra
    s) = kept s := by
  unfold headSegment
  repeat' (first | (simp only [↓kept_ite, ite_self, ↓modCap_kept, ↓placeCopy_kept]) | split
                    | refine (kept_foldl _ ?_ _ _).trans ?_ | intro _ _ | with_reducible rfl | (simp only [↓kept_mk, ↓kept_fold]))

theorem hitTrigger_kept (s : State) (n : Stall) (d : DikeRing) : kept (hitTrigger s n d) = kept s := by
  unfold hitTrigger
  repeat' (first | (simp only [↓takeTrigger_kept]) | split | with_reducible rfl | (simp only [↓kept_mk, ↓kept_fold]))

theorem openWake_kept (s : State) (d : DikeRing) (lost : List Nat) (seed : SeedIn) : kept (openWake s d lost seed) = kept s := by
  unfold openWake
  split
  · rfl
  · rename_i n _
    split
    · rfl
    · rename_i c _
      split
      · rfl
      · split
        · exact (tryFinish_kept _ _).trans (markEnd_kept _ _ _)
        · split
          · exact (tryFinish_kept _ _).trans (markEnd_kept _ _ _)
          · dsimp only
            have h := makeRoom_kept (applyRetire s n) n c (ceilDiv (2 + (copied d lost).length) 16)
            split
            · rename_i e
              rw [e] at h
              exact (tryFinish_kept _ _).trans ((markEnd_kept _ _ _).trans (h.trans (applyRetire_kept _ _)))
            · rename_i e
              rw [e] at h
              exact (hitTrigger_kept _ _ _).trans ((openWith_kept _ _ _ _ _ fun s => headSegment_kept _ _ _ _ s).trans
                (h.trans (applyRetire_kept _ _)))

theorem resumeChans_kept (s : State) (watched : ChanMask) (teams : BitVec 8) (seed : SeedIn) : kept (resumeChans s watched
    teams seed) = kept s := by
  unfold resumeChans
  repeat' (first | (simp only [↓kept_chans, ↓kept_ite, ite_self]) | split | with_reducible rfl
                    | (simp only [↓kept_mk, ↓kept_fold]))

theorem replug_kept (old : Vector PodPort 6) (s : State) (p : Fin 6) : kept (replug old s p) = kept s := by
  unfold replug
  repeat' (first | (simp only [↓kept_ite, ite_self, ↓recognisePlug_kept]) | split | with_reducible rfl)

end Sys2Proof.Machine
end

