-- ==== Sys2Proof/Laws/Memory.lean ====
section
/-! SUPPORT. The addressed memories (scratchpads and DRAM): every operation keeps the canonical form, a read after a write
to the same byte gives the value written, and a write leaves every other byte alone. -/

namespace Sys2Proof.Machine

theorem memWfFrom_mono {m : Memory} {lo hi : Nat} (h : lo ≤ hi) (w : memWfFrom hi m = true) : memWfFrom lo m = true := by
  cases m with
  | nil => rfl
  | cons c m =>
    simp only [memWfFrom, Bool.and_eq_true, decide_eq_true_eq] at w ⊢
    exact ⟨⟨by omega, w.1.2⟩, w.2⟩

theorem memWfFrom_cons {a : Nat} {b : Byte} {m : Memory} {lo : Nat} :
    memWfFrom lo ((a, b) :: m) = true ↔ lo ≤ a ∧ b ≠ 0 ∧ memWfFrom (a + 1) m = true := by
  simp [memWfFrom, and_assoc]

/-- Below the lower bound nothing is listed. -/
theorem memRead_below {m : Memory} {lo x : Nat} (w : memWfFrom lo m = true) (h : x < lo) : memRead m x = 0 := by
  cases m with
  | nil => rfl
  | cons c m =>
    obtain ⟨a, b⟩ := c
    have := (memWfFrom_cons.1 w).1
    rw [memRead, if_neg (by omega), if_pos (by omega)]

theorem memWrite_wfFrom {m : Memory} {lo x : Nat} (v : Byte) (w : memWfFrom lo m = true) (h : lo ≤ x) :
    memWfFrom lo (memWrite m x v) = true := by
  induction m generalizing lo with
  | nil =>
    unfold memWrite
    split
    · rfl
    · rename_i hv; exact memWfFrom_cons.2 ⟨h, hv, rfl⟩
  | cons c m ih =>
    obtain ⟨a, b⟩ := c
    have ⟨h1, h2, h3⟩ := memWfFrom_cons.1 w
    unfold memWrite
    split
    · split
      · exact w
      · rename_i hx hv; exact memWfFrom_cons.2 ⟨h, hv, memWfFrom_cons.2 ⟨hx, h2, h3⟩⟩
    · split
      · rename_i e; subst e
        split
        · exact memWfFrom_mono (by omega) h3
        · rename_i hv; exact memWfFrom_cons.2 ⟨h1, hv, h3⟩
      · exact memWfFrom_cons.2 ⟨h1, h2, ih h3 (by omega)⟩

/-- Storing a byte keeps the canonical form. -/
theorem memWrite_wf {m : Memory} (x : Nat) (v : Byte) (w : memWf m = true) : memWf (memWrite m x v) = true :=
  memWrite_wfFrom v w (Nat.zero_le _)

/-- Storing bytes keeps the canonical form. -/
theorem memWriteList_wf {m : Memory} (x : Nat) (l : List Byte) (w : memWf m = true) : memWf (memWriteList m x l) = true := by
  induction l generalizing m x with
  | nil => exact w
  | cons v l ih => exact ih _ (memWrite_wf x v w)

theorem memClear_wfFrom {m : Memory} {lo : Nat} (x n : Nat) (w : memWfFrom lo m = true) : memWfFrom lo (memClear m x n) = true := by
  induction m generalizing lo with
  | nil => rfl
  | cons c m ih =>
    obtain ⟨a, b⟩ := c
    have ⟨h1, h2, h3⟩ := memWfFrom_cons.1 w
    unfold memClear at ih ⊢
    rw [List.filter_cons]
    split
    · exact memWfFrom_cons.2 ⟨h1, h2, ih h3⟩
    · exact memWfFrom_mono (by omega) (ih h3)

/-- Clearing a range keeps the canonical form. -/
theorem memClear_wf {m : Memory} (x n : Nat) (w : memWf m = true) : memWf (memClear m x n) = true := memClear_wfFrom x n w

/-- Storing a block keeps the canonical form. -/
theorem blockWrite_wf {m : Memory} (b : Nat) (l : List Rec) (w : memWf m = true) : memWf (blockWrite m b l) = true :=
  memWriteList_wf _ _ w

theorem memRead_memWrite_from {m : Memory} {lo : Nat} (x y : Nat) (v : Byte) (w : memWfFrom lo m = true) :
    memRead (memWrite m x v) y = if y = x then v else memRead m y := by
  induction m generalizing lo with
  | nil =>
    unfold memWrite
    by_cases hv : v = 0
    · simp [memRead, hv]
    · rw [if_neg hv]
      by_cases e : y = x
      · simp [memRead, e]
      · simp [memRead, e, Ne.symm e]
  | cons c m ih =>
    obtain ⟨a, b⟩ := c
    have ⟨h1, h2, h3⟩ := memWfFrom_cons.1 w
    unfold memWrite
    by_cases hx : x < a
    · have hax : a ≠ x := by omega
      rw [if_pos hx]
      by_cases hv : v = 0
      · rw [if_pos hv]
        by_cases e : y = x
        · subst e hv; simp [memRead, hx, hax]
        · rw [if_neg e]
      · rw [if_neg hv]
        by_cases e : y = x
        · simp [memRead, e]
        · by_cases hy : y < x
          · simp [memRead, e, Ne.symm e, hy, show ¬ a = y by omega, show y < a by omega]
          · simp [memRead, e, Ne.symm e, hy]
    · by_cases hxa : x = a
      · subst hxa
        by_cases hv : v = 0
        · subst hv
          by_cases e : y = x
          · subst e; simp [memRead_below h3 (Nat.lt_succ_self _)]
          · by_cases hy : y < x
            · simp [memRead, e, Ne.symm e, hy, memRead_below h3 (show y < x + 1 by omega)]
            · simp [memRead, e, Ne.symm e, hy]
        · rw [if_neg hx, if_pos rfl, if_neg hv]
          by_cases e : y = x
          · simp [memRead, e]
          · simp [memRead, e, Ne.symm e]
      · simp only [hx, hxa, if_false, memRead]
        by_cases ha : a = y
        · simp [ha, show ¬ y = x by omega]
        · by_cases hy : y < a
          · simp [ha, hy, show ¬ y = x by omega]
          · simp only [ha, hy, if_false]; exact ih h3

/-- A read after a write: the byte written reads back, every other byte reads as before. -/
theorem memRead_memWrite {m : Memory} (x y : Nat) (v : Byte) (w : memWf m = true) :
    memRead (memWrite m x v) y = if y = x then v else memRead m y := memRead_memWrite_from x y v w

/-- A read after a store of bytes: the bytes stored read back, every other byte reads as before. -/
theorem memRead_memWriteList {m : Memory} (x y : Nat) (l : List Byte) (w : memWf m = true) :
    memRead (memWriteList m x l) y = if x ≤ y ∧ y < x + l.length then l.getD (y - x) 0 else memRead m y := by
  induction l generalizing m x with
  | nil => rw [memWriteList, if_neg (by simp)]
  | cons v l ih =>
    rw [memWriteList, ih _ (memWrite_wf x v w), memRead_memWrite x y v w]
    by_cases h : y = x
    · subst h
      rw [if_neg (by omega), if_pos rfl, if_pos (by simp)]
      simp
    · rw [if_neg h]
      by_cases h2 : x + 1 ≤ y ∧ y < x + 1 + l.length
      · have e : y - x = (y - (x + 1)) + 1 := by omega
        rw [if_pos h2, if_pos (by simp; omega), e, List.getD_cons_succ]
      · rw [if_neg h2, if_neg (by simp; omega)]

theorem memRead_memClear_from {m : Memory} {lo : Nat} (x n y : Nat) (w : memWfFrom lo m = true) :
    memRead (memClear m x n) y = if x ≤ y ∧ y < x + n then 0 else memRead m y := by
  induction m generalizing lo with
  | nil => simp [memClear, memRead]
  | cons c m ih =>
    obtain ⟨a, b⟩ := c
    have ⟨h1, h2, h3⟩ := memWfFrom_cons.1 w
    have ih := ih h3
    have w' := memClear_wfFrom x n h3
    unfold memClear at ih w' ⊢
    rw [List.filter_cons]
    split
    · rename_i hc
      simp only [Bool.or_eq_true, decide_eq_true_eq] at hc
      simp only [memRead]
      split
      · rename_i e; rw [if_neg (by omega)]
      · split
        · rw [ite_self]
        · exact ih
    · rename_i hc
      simp only [Bool.or_eq_true, decide_eq_true_eq, not_or, not_lt, not_le] at hc
      rw [ih]
      split
      · rfl
      · simp only [memRead]
        rw [if_neg (by omega)]
        split
        · exact memRead_below h3 (by omega)
        · rfl

/-- A read after a range was cleared: the range reads 0, every other byte reads as before. -/
theorem memRead_memClear {m : Memory} (x n y : Nat) (w : memWf m = true) :
    memRead (memClear m x n) y = if x ≤ y ∧ y < x + n then 0 else memRead m y := memRead_memClear_from x n y w

theorem mem_ext_from {m k : Memory} {lo : Nat} (w : memWfFrom lo m = true) (v : memWfFrom lo k = true)
    (h : ∀ x, memRead m x = memRead k x) : m = k := by
  induction m generalizing lo k with
  | nil =>
    cases k with
    | nil => rfl
    | cons c k =>
      obtain ⟨a, b⟩ := c
      exact absurd (by simpa [memRead] using (h a).symm) (memWfFrom_cons.1 v).2.1
  | cons c m ih =>
    obtain ⟨a, b⟩ := c
    have ⟨_, hb, hm⟩ := memWfFrom_cons.1 w
    cases k with
    | nil => exact absurd (by simpa [memRead] using h a) hb
    | cons d k =>
      obtain ⟨e, f⟩ := d
      have ⟨_, hf, hk⟩ := memWfFrom_cons.1 v
      have ae : a = e := by
        rcases Nat.lt_trichotomy a e with l | l | l
        · exact absurd (by simpa [memRead, l, show ¬ e = a by omega] using h a) hb
        · exact l
        · exact absurd (by simpa [memRead, l, show ¬ a = e by omega] using (h e).symm) hf
      subst ae
      have bf : b = f := by simpa [memRead] using h a
      subst bf
      congr 1
      refine ih hm hk fun x => ?_
      rcases Nat.lt_or_ge a x with l | l
      · simpa [memRead, show ¬ a = x by omega, show ¬ x < a by omega] using h x
      · rw [memRead_below hm (by omega), memRead_below hk (by omega)]

/-- Equal memories are equal data: in the canonical form the bytes decide the list. -/
theorem mem_ext {m k : Memory} (w : memWf m = true) (v : memWf k = true) (h : ∀ x, memRead m x = memRead k x) : m = k :=
  mem_ext_from w v h

end Sys2Proof.Machine
end

