-- ==== Sys2Proof/Laws/Sound.lean ====
section
/-! SUPPORT. The functions that do write system time, a scratchpad or DRAM: what they leave of the rest, and that each
leaves the queue alone and keeps State.Sound. Every other function keeps all four (Laws/Kept*.lean). -/

namespace Sys2Proof.Machine

set_option Elab.async false

/-- A change that leaves the queue alone and keeps soundness. -/
def stays (s t : State) : Prop := t.pending = s.pending ∧ (s.Sound → t.Sound)

/-- A change that may write the scratchpads only: time, DRAM and the queue stand, the scratchpads keep their form. -/
def scratchOnly (s t : State) : Prop :=
  t.tb.now = s.tb.now ∧ t.dram.mem = s.dram.mem ∧ t.pending = s.pending ∧ (memWf s.scratch = true → memWf t.scratch = true)

/-- A change that may write DRAM only. -/
def dramOnly (s t : State) : Prop :=
  t.tb.now = s.tb.now ∧ t.scratch = s.scratch ∧ t.pending = s.pending ∧ (memWf s.dram.mem = true → memWf t.dram.mem = true)

/-- A change that may move system time only, from the start of a stride to the start of a stride. -/
def timeOnly (s t : State) : Prop :=
  t.scratch = s.scratch ∧ t.dram.mem = s.dram.mem ∧ t.pending = s.pending ∧ (s.tb.now.toNat % 256 = 0 → t.tb.now.toNat % 256 = 0)

/-- A relation of the states before and after, of an outcome that goes on. -/
def relBy (r : State → State → Prop) (s : State) : Host.Outcome State Fault Refusal → Prop
  | .next t => r s t
  | .fault _ => True
  | .refused _ => True

theorem kept_now {s t : State} (h : kept t = kept s) : t.tb.now = s.tb.now := congrArg (fun x => x.1) h

theorem kept_scratch {s t : State} (h : kept t = kept s) : t.scratch = s.scratch := congrArg (fun x => x.2.1) h

theorem kept_mem {s t : State} (h : kept t = kept s) : t.dram.mem = s.dram.mem := congrArg (fun x => x.2.2.1) h

theorem kept_pending {s t : State} (h : kept t = kept s) : t.pending = s.pending := congrArg (fun x => x.2.2.2) h

/-- What goes on from an outcome that keeps the four. -/
theorem keptBy_elim {s t : State} {o : Host.Outcome State Fault Refusal} (h : keptBy s o) (e : o = .next t) : kept t = kept s := by
  subst e; exact h

/-- What goes on from an outcome that is related to the state before. -/
theorem relBy_elim {r : State → State → Prop} {s t : State} {o : Host.Outcome State Fault Refusal} (h : relBy r s o)
    (e : o = .next t) : r s t := by subst e; exact h

theorem stays_refl (s : State) : stays s s := ⟨rfl, id⟩

theorem stays_trans {s t u : State} (h : stays s t) (k : stays t u) : stays s u := ⟨k.1.trans h.1, fun x => k.2 (h.2 x)⟩

theorem scratchOnly_trans {s t u : State} (h : scratchOnly s t) (k : scratchOnly t u) : scratchOnly s u :=
  ⟨k.1.trans h.1, k.2.1.trans h.2.1, k.2.2.1.trans h.2.2.1, fun x => k.2.2.2 (h.2.2.2 x)⟩

theorem timeOnly_trans {s t u : State} (h : timeOnly s t) (k : timeOnly t u) : timeOnly s u :=
  ⟨k.1.trans h.1, k.2.1.trans h.2.1, k.2.2.1.trans h.2.2.1, fun x => k.2.2.2 (h.2.2.2 x)⟩

theorem scratchOnly_of_kept {s t : State} (h : kept t = kept s) : scratchOnly s t :=
  ⟨kept_now h, kept_mem h, kept_pending h, fun w => by rw [kept_scratch h]; exact w⟩

theorem dramOnly_of_kept {s t : State} (h : kept t = kept s) : dramOnly s t :=
  ⟨kept_now h, kept_scratch h, kept_pending h, fun w => by rw [kept_mem h]; exact w⟩

theorem timeOnly_of_kept {s t : State} (h : kept t = kept s) : timeOnly s t :=
  ⟨kept_scratch h, kept_mem h, kept_pending h, fun w => by rw [kept_now h]; exact w⟩

theorem stays_of_scratch {s t : State} (h : scratchOnly s t) : stays s t :=
  ⟨h.2.2.1, fun x => ⟨h.2.2.2 x.1, by rw [h.2.1]; exact x.2.1, by rw [h.1]; exact x.2.2⟩⟩

theorem stays_of_dram {s t : State} (h : dramOnly s t) : stays s t :=
  ⟨h.2.2.1, fun x => ⟨by rw [h.2.1]; exact x.1, h.2.2.2 x.2.1, by rw [h.1]; exact x.2.2⟩⟩

theorem stays_of_time {s t : State} (h : timeOnly s t) : stays s t :=
  ⟨h.2.2.1, fun x => ⟨by rw [h.1]; exact x.1, by rw [h.2.1]; exact x.2.1, h.2.2.2 x.2.2⟩⟩

theorem stays_of_kept {s t : State} (h : kept t = kept s) : stays s t := stays_of_scratch (scratchOnly_of_kept h)

theorem kept_either {c : Prop} [Decidable c] {u v s : State} (h : kept u = kept s) (k : kept v = kept s) :
    kept (if c then u else v) = kept s := by
  split <;> assumption

/-! ## Scratchpads -/

theorem writeResult_scratch (s : State) (t : Taken) (l : List Byte) : scratchOnly s (writeResult s t l) := by
  unfold writeResult
  split
  · exact ⟨rfl, rfl, rfl, fun w => memWriteList_wf _ _ w⟩
  · exact scratchOnly_of_kept (emit_kept _ _)

theorem giveResult_scratch (s : State) (t : Taken) (l : List Byte) (p : Pay) : scratchOnly s (giveResult s t l p) := by
  unfold giveResult
  split
  · exact scratchOnly_of_kept (complete_kept _ _ _)
  · exact scratchOnly_trans (writeResult_scratch s t l) (scratchOnly_of_kept (completeAt_kept _ _ _ _))

theorem resultCommand_scratch (s : State) (t : Taken) (l : List Byte) (p : Pay) : scratchOnly s (resultCommand s t l p) := by
  unfold resultCommand
  split
  · exact scratchOnly_of_kept (invalidAt_kept _ _ _ _)
  · split
    · exact scratchOnly_of_kept (completeAt_kept _ _ _ _)
    · exact giveResult_scratch _ _ _ _

/-- What a checked command does through its body. -/
theorem withCmd_scratch (s : State) (p : Taken → Bool) (g : State → Taken → State) (h : ∀ s t, scratchOnly s (g s t)) :
    scratchOnly s (withCmd s p g) := by
  unfold withCmd
  split
  · exact scratchOnly_of_kept rfl
  · split
    · exact scratchOnly_trans (scratchOnly_of_kept (modGroom_kept _ _)) (h _ _)
    · exact scratchOnly_of_kept rfl

theorem execIdentify_scratch (s : State) : relBy scratchOnly s (execIdentify s) := by
  unfold execIdentify
  refine withCmd_scratch _ _ _ fun s t => ?_
  dsimp only
  split
  · exact scratchOnly_of_kept (invalidAt_kept _ _ _ _)
  · split
    · exact scratchOnly_of_kept (completeAt_kept _ _ _ _)
    · split
      · exact scratchOnly_of_kept (completeAt_kept _ _ _ _)
      · exact giveResult_scratch _ _ _ _

theorem execGetHealth_scratch (s : State) : relBy scratchOnly s (execGetHealth s) :=
  withCmd_scratch _ _ _ fun _ _ => resultCommand_scratch _ _ _ _

theorem execCourseQuery_scratch (s : State) : relBy scratchOnly s (execCourseQuery s) :=
  withCmd_scratch _ _ _ fun _ _ => resultCommand_scratch _ _ _ _

theorem execProbeQuery_scratch (s : State) : relBy scratchOnly s (execProbeQuery s) :=
  withCmd_scratch _ _ _ fun _ _ => resultCommand_scratch _ _ _ _

theorem execQueraStatus_scratch (s : State) : relBy scratchOnly s (execQueraStatus s) :=
  withCmd_scratch _ _ _ fun _ _ => resultCommand_scratch _ _ _ _

theorem execAttest_scratch (s : State) : relBy scratchOnly s (execAttest s) := by
  unfold execAttest
  refine withCmd_scratch _ _ _ fun s t => ?_
  dsimp only
  split
  · exact scratchOnly_of_kept (invalidAt_kept _ _ _ _)
  · split
    · exact scratchOnly_of_kept (completeAt_kept _ _ _ _)
    · generalize (if h : bits (dw t.e 13) 1 0 < 4 then s.flash.certs[bits (dw t.e 13) 1 0] else []) = chain
      split
      · exact scratchOnly_of_kept (complete_kept _ _ _)
      · split
        · exact scratchOnly_of_kept (complete_kept _ _ _)
        · split
          · exact scratchOnly_of_kept (completeAt_kept _ _ _ _)
          · split
            · exact scratchOnly_of_kept ((complete_kept _ _ _).trans (readSecure_kept _ _))
            · exact scratchOnly_trans (scratchOnly_of_kept (noteEcc_kept _ _ _)) (giveResult_scratch _ _ _ _)

theorem execJournalRead_scratch (readOk : Bool) (s : State) : relBy scratchOnly s (execJournalRead readOk s) := by
  unfold execJournalRead
  refine withCmd_scratch _ _ _ fun s t => ?_
  dsimp only
  split
  · exact scratchOnly_of_kept (invalidAt_kept _ _ _ _)
  · split
    · exact scratchOnly_of_kept (completeAt_kept _ _ _ _)
    · split
      · exact scratchOnly_of_kept (invalidAt_kept _ _ _ _)
      · split
        · exact scratchOnly_of_kept (complete_kept _ _ _)
        · exact giveResult_scratch _ _ _ _

theorem scratchWord_scratch (s : State) (f : Fn) (off : BitVec 16) (data : BitVec 64) (be : BitVec 8) (g : Byte → Byte → Byte) :
    scratchOnly s (scratchWord s f off data be g) := by
  refine ⟨rfl, rfl, rfl, fun w => ?_⟩
  unfold scratchWord
  dsimp only
  generalize List.range 8 = l
  generalize s.scratch = m at w
  induction l generalizing m with
  | nil => exact w
  | cons i l ih =>
    rw [List.foldl_cons]
    refine ih _ ?_
    split
    · exact memWrite_wf _ _ w
    · exact w

theorem scratchWrite_scratch (s : State) (f : Fn) (off : BitVec 16) (data : BitVec 64) (be : BitVec 8) (collide : Bool)
    (g : Byte → Byte → Byte) : scratchOnly s (scratchWrite s f off data be collide g) := by
  unfold scratchWrite
  split
  · exact scratchOnly_of_kept rfl
  · split
    · exact scratchOnly_of_kept (scratchCollision_kept _ _ _)
    · exact scratchWord_scratch _ _ _ _ _ _

theorem execScratchWrite_scratch (f : Fn) (off : BitVec 16) (data : BitVec 64) (be : BitVec 8) (collide : Bool) (s : State) :
    relBy scratchOnly s (execScratchWrite f off data be collide s) := by
  unfold execScratchWrite relBy
  dsimp only
  split
  · exact scratchWrite_scratch _ _ _ _ _ _ _
  · exact scratchOnly_of_kept rfl

theorem execScratchBitSet_scratch (f : Fn) (off : BitVec 16) (data : BitVec 64) (be : BitVec 8) (port : PortB) (s : State) :
    relBy scratchOnly s (execScratchBitSet f off data be port s) := by
  unfold execScratchBitSet relBy
  dsimp only
  split
  · exact scratchOnly_trans (scratchOnly_of_kept (kept_either (portBError_kept _ _ _) rfl)) (scratchWrite_scratch _ _ _ _ _ _ _)
  · exact scratchOnly_of_kept rfl

theorem execScratchBitClear_scratch (f : Fn) (off : BitVec 16) (data : BitVec 64) (be : BitVec 8) (port : PortB) (s : State) :
    relBy scratchOnly s (execScratchBitClear f off data be port s) := by
  unfold execScratchBitClear relBy
  dsimp only
  split
  · exact scratchOnly_trans (scratchOnly_of_kept (kept_either (portBError_kept _ _ _) rfl)) (scratchWrite_scratch _ _ _ _ _ _ _)
  · exact scratchOnly_of_kept rfl

theorem zeroScratch_scratch (s : State) (n : Stall) : scratchOnly s (zeroScratch s n) :=
  ⟨rfl, rfl, rfl, fun w => memClear_wf _ _ w⟩

theorem execStallCreate_scratch (s : State) : relBy scratchOnly s (execStallCreate s) := by
  unfold execStallCreate
  refine withCmd_scratch _ _ _ fun s t => ?_
  split
  · exact scratchOnly_of_kept (invalidAt_kept _ _ _ _)
  · exact scratchOnly_of_kept (invalidAt_kept _ _ _ _)
  · split
    · exact scratchOnly_of_kept (invalidAt_kept _ _ _ _)
    · exact scratchOnly_trans (zeroScratch_scratch _ _)
        (scratchOnly_of_kept ((completeAt_kept _ _ _ _).trans (modStall_kept _ _ _)))

theorem releaseStall_scratch (s : State) (n : Stall) (r : ResetSeq) : scratchOnly s (releaseStall s n r) := by
  unfold releaseStall
  refine scratchOnly_trans (t := zeroScratch (queueWipe (dropChains (dropTeams s s.stalls[n].grant.teams) s.stalls[n].grant.chains)
    s.stalls[n].grant.parcels) n) ?_ (scratchOnly_of_kept (modStall_kept _ _ _))
  exact scratchOnly_trans (scratchOnly_of_kept ((queueWipe_kept _ _).trans ((dropChains_kept _ _).trans (dropTeams_kept _ _))))
    (zeroScratch_scratch _ _)

theorem execStallResetRelease_scratch (st : Stall) (s : State) : relBy scratchOnly s (execStallResetRelease st s) := by
  unfold execStallResetRelease relBy
  dsimp only
  split
  · exact scratchOnly_of_kept rfl
  · split
    · exact scratchOnly_of_kept rfl
    · exact scratchOnly_trans (releaseStall_scratch _ _ _) (scratchOnly_of_kept (sendEvents_kept _ _))

/-! ## DRAM -/

theorem storeBlock_dram (s : State) (w : WrReq) : dramOnly s (storeBlock s w) :=
  ⟨rfl, rfl, rfl, fun h => blockWrite_wf _ _ h⟩

theorem dramOnly_trans {s t u : State} (h : dramOnly s t) (k : dramOnly t u) : dramOnly s u :=
  ⟨k.1.trans h.1, k.2.1.trans h.2.1, k.2.2.1.trans h.2.2.1, fun x => k.2.2.2 (h.2.2.2 x)⟩

theorem execWriteAck_dram (l : Fin 4) (id : Nat) (s : State) : relBy dramOnly s (execWriteAck l id s) := by
  unfold execWriteAck relBy
  dsimp only
  split
  · exact dramOnly_of_kept rfl
  · split
    · exact dramOnly_of_kept rfl
    · split
      · exact dramOnly_of_kept rfl
      · rename_i w _ _
        have h := (modLane_kept (noteWritten s l w) l fun x => { x with retry := x.retry.filter fun c => c.id != id }).trans
          (noteWritten_kept s l w)
        refine dramOnly_trans (dramOnly_of_kept h) ?_
        split
        · exact dramOnly_of_kept (ackOwner_kept _ _)
        · exact dramOnly_trans (storeBlock_dram _ _) (dramOnly_of_kept (ackOwner_kept _ _))

theorem setMem_dram (s : State) (m : Memory) (h : memWf s.dram.mem = true → memWf m = true) :
    dramOnly s { s with dram := { s.dram with mem := m } } := ⟨rfl, rfl, rfl, h⟩

theorem dramOnly_foldl {α : Type} (f : State → α → State) (h : ∀ s a, dramOnly s (f s a)) (l : List α) (s : State) :
    dramOnly s (l.foldl f s) := by
  induction l generalizing s with
  | nil => exact dramOnly_of_kept rfl
  | cons a l ih => exact dramOnly_trans (h s a) (ih _)

theorem putBack_dram (l : Fin 4) (row : BitVec 21) (s : State) (x : BufBlock × Nat) : dramOnly s (putBack l row s x) := by
  unfold putBack
  dsimp only
  split
  · split
    · exact dramOnly_of_kept rfl
    · exact ⟨rfl, rfl, rfl, id⟩
  · exact setMem_dram _ _ (blockWrite_wf _ _)

theorem bufferToRow_dram (s : State) (l : Fin 4) (row : BitVec 21) : dramOnly s (bufferToRow s l row) :=
  dramOnly_trans (dramOnly_foldl _ (putBack_dram l row) _ _) (dramOnly_of_kept (modLane_kept _ _ _))

theorem trainPattern_dram (s : State) (l : Fin 4) : dramOnly s (trainPattern s l) :=
  dramOnly_trans (dramOnly_of_kept ((rowToBuffer_kept _ _ _).trans (drawFree_kept _))) (bufferToRow_dram _ _ _)

theorem wakeLanes_dram (s : State) (bad : BitVec 4) : dramOnly s (wakeLanes s bad) := by
  refine dramOnly_trans ?_ (dramOnly_of_kept (kept_foldl _ (fun s l => markUnstable_kept s l) _ _))
  exact dramOnly_trans ⟨rfl, rfl, rfl, id⟩ (dramOnly_foldl _
    (fun s l => dramOnly_trans (trainPattern_dram s l) (dramOnly_of_kept (startRefresh_kept _ _))) _ _)

theorem enterRun_dram (s : State) (bad : BitVec 4) : dramOnly s (enterRun s bad) := by
  unfold enterRun
  dsimp only
  refine dramOnly_trans (t := wakeLanes { s with power := { s.power with st := .run, target := none } } bad)
    (dramOnly_trans (t := { s with power := { s.power with st := .run, target := none } }) ⟨rfl, rfl, rfl, id⟩ (wakeLanes_dram _ _))
    (dramOnly_of_kept ?_)
  refine kept_foldl _ (fun s n => ?_) _ _
  split
  · exact fillSlice_kept _ _
  · rfl

theorem enterState_dram (s : State) (p : PowerTarget) (bad : BitVec 4) : dramOnly s (enterState s p bad) := by
  unfold enterState
  split
  · exact dramOnly_of_kept (enterDormant_kept _)
  · exact dramOnly_of_kept (enterDikewatch_kept _)
  · exact dramOnly_of_kept (enterReady_kept _)
  · exact dramOnly_trans (enterRun_dram _ _) (dramOnly_of_kept (completeRun_kept _ _))
  · exact dramOnly_of_kept rfl

theorem execSoftRepairEnd_dram (flips : List (List (BitVec 80))) (s : State) : relBy dramOnly s (execSoftRepairEnd flips s) := by
  unfold execSoftRepairEnd relBy
  dsimp only
  split
  · exact dramOnly_of_kept rfl
  · rename_i r _
    have h : dramOnly s (bufferToRow (modLane { s with dram := { s.dram with repairing := none } } r.lane (bufferRead flips)) r.lane r.row) :=
      dramOnly_trans (t := { s with dram := { s.dram with repairing := none } }) ⟨rfl, rfl, rfl, id⟩
        (dramOnly_trans (dramOnly_of_kept (modLane_kept _ _ _)) (bufferToRow_dram _ _ _))
    refine dramOnly_trans h ?_
    generalize bufferToRow (modLane { s with dram := { s.dram with repairing := none } } r.lane (bufferRead flips)) r.lane r.row = u
    exact dramOnly_of_kept ((kept_foldl _ (fun s n => keyArm_kept s n) _ _).trans ((kept_foldl _ (fun s n => decideArm_kept s n) _ _).trans
      ((kept_jobs _ _).trans (putBreach_kept _ _))))

theorem execDikewatchWakeDone_dram (ecc : Ecc) (lost : List Nat) (bad : BitVec 4) (seed : SeedIn) (s : State) :
    relBy dramOnly s (execDikewatchWakeDone ecc lost bad seed s) := by
  unfold execDikewatchWakeDone relBy
  dsimp only
  split
  · exact dramOnly_of_kept rfl
  · split
    · exact dramOnly_of_kept rfl
    · refine dramOnly_trans (dramOnly_trans (dramOnly_of_kept ?_) (enterRun_dram _ _))
        (dramOnly_of_kept ((openWake_kept _ _ _ _).trans (completeRun_kept _ _)))
      refine (leaveBypass_kept _).trans ((tilesOn_kept _ _).trans ((resumeChans_kept _ _ _ _).trans ((kept_dike _ _).trans ?_)))
      exact kept_either (countSram_kept _ _) rfl

/-! ## Time -/

theorem tick_time (s : State) : timeOnly s (tick s) := by
  unfold tick
  split
  · refine ⟨rfl, rfl, rfl, fun h => ?_⟩
    have : (s.tb.now + 256 : BitVec 64).toNat % 256 = 0 := by
      rw [BitVec.toNat_add]
      have : (256 : BitVec 64).toNat = 256 := rfl
      omega
    exact this
  · exact timeOnly_of_kept rfl

theorem idle_time (s : State) : timeOnly s (idle s) := by
  unfold idle
  exact timeOnly_trans (timeOnly_of_kept (kept_foldl _ (fun s n => giveTriggers_kept s n) _ _)) (timeOnly_trans (tick_time _)
    (timeOnly_of_kept ((runQuera_kept _).trans ((offerBlocks_kept _).trans (startReturned_kept _)))))

theorem stepPll_stays (s : State) (a b : Nat) (lock : Bool) (f : ∀ s, stays s (failStep s 6)) : stays s (stepPll s a b lock) := by
  unfold stepPll
  split
  · exact f s
  · rename_i r _
    split
    · exact f s
    · refine stays_trans (stays_of_kept (modMon_kept s r fun m => { m with qualified := true, gateOk := true })) ?_
      generalize modMon s r (fun m => { m with qualified := true, gateOk := true }) = u
      refine stays_trans (t := { u with
        tb := { u.tb with selected := refOf r, timeValid := true, now := 0, holdover := false }
        pins := { u.pins with refOut := true, terminated := 0x3F } })
        (stays_of_time ⟨rfl, rfl, rfl, fun _ => rfl⟩) ?_
      exact stays_of_kept ((passStep_kept _ _ _).trans (setFreeRunning_kept _))

theorem wakeReady_time (s : State) (cycles : Nat) (seed : SeedIn) (ecc : List (Fn × List Ecc)) :
    timeOnly s (wakeReady s cycles seed ecc) := by
  unfold wakeReady
  dsimp only
  refine timeOnly_trans (t := { s with
    tb := { s.tb with
      now := (s.power.dormantAt + BitVec.ofNat 64 (cycles * 7812500)) &&& ~~~ (255 : Time), timeValid := true, timeEstimated := true
      gatesRun := !s.tb.aonFault } }) ?_ ?_
  · refine ⟨rfl, rfl, rfl, fun _ => ?_⟩
    generalize s.power.dormantAt + BitVec.ofNat 64 (cycles * 7812500) = t
    show (t &&& ~~~ (255 : Time)).toNat % 256 = 0
    have h : (t &&& ~~~ (255 : Time)) &&& 255 = 0 := by
      rw [BitVec.and_assoc]
      have : ~~~ (255 : Time) &&& 255 = 0 := by decide
      rw [this]; exact BitVec.and_zero
    have h2 := congrArg BitVec.toNat h
    rw [BitVec.toNat_and] at h2
    have h3 : (255 : Time).toNat = 2 ^ 8 - 1 := rfl
    rw [h3, Nat.and_two_pow_sub_one_eq_mod] at h2
    exact h2
  · refine timeOnly_of_kept ?_
    refine kept_either ((safeHalt_kept _ _ _).trans ((kept_sec _ _).trans ?_)) ?_ <;>
    · refine (runStages_kept _ _).trans ((shedEvent_kept _ _).trans ?_)
      refine (kept_foldl _ (fun s n => (drain_kept _ n).trans (queueEcc_kept s n _)) _ _).trans ?_
      have relock (u : State) : kept (leaveBypass (startRelock { u with tb := { u.tb with bypass := true } })) = kept u :=
        (leaveBypass_kept _).trans ((startRelock_kept _).trans (kept_tb u _ rfl))
      refine (relock _).trans ?_
      refine (kept_foldl _ (fun s p => replug_kept _ s p) _ _).trans ?_
      exact (giveHeld_kept _).trans ((resumeChans_kept _ _ _ _).trans ((tilesOn_kept _ _).trans ((syncResume_kept _).trans
        ((undone_kept _).trans ((leaveStage4_kept _).trans (kept_upd _ _ rfl rfl rfl rfl))))))

theorem execQueraTimeStep_time (s : State) : relBy timeOnly s (execQueraTimeStep s) := by
  unfold execQueraTimeStep relBy
  dsimp only
  split
  · exact timeOnly_of_kept rfl
  · rename_i e _
    split
    · exact timeOnly_of_kept rfl
    · refine timeOnly_trans (t := { s with tb := { s.tb with
        now := moveTime s.tb.now (256 * ((e + 128) / 256)), steer := e - 256 * ((e + 128) / 256), steerFine := 0
        timeEstimated := false } }) ?_ ?_
      · refine ⟨rfl, rfl, rfl, fun h => ?_⟩
        show (s.tb.now + BitVec.ofInt 64 (256 * ((e + 128) / 256))).toNat % 256 = 0
        generalize (e + 128) / 256 = k
        rw [BitVec.toNat_add, BitVec.toNat_ofInt]
        have : ((256 * k) % ((2 ^ 64 : Nat) : Int)).toNat % 256 = 0 := by omega
        omega
      · exact timeOnly_of_kept ((stopChains_kept _ _).trans ((moveQuera_kept _ _).trans ((moveDram_kept _ _).trans
          (kept_upd _ _ rfl rfl rfl rfl))))

/-! ## The core reset and what goes through it -/

/-- The core reset empties the memories, sets time to 0 and leaves the queue. -/
theorem coreReset_stays (s : State) : stays s (coreReset s) := ⟨rfl, fun _ => ⟨rfl, rfl, rfl⟩⟩

theorem failStep_stays (s : State) (k : Nat) : stays s (failStep s k) :=
  stays_trans (stays_of_kept (markProgress_kept _ _ _)) (coreReset_stays _)

theorem stepGroom_stays (s : State) (ok : Bool) : stays s (stepGroom s ok) := by
  unfold stepGroom
  dsimp only
  split
  · exact failStep_stays _ _
  · split
    · exact stays_of_kept ((queueJournal_kept _ _ _ _).trans ((passStep_kept _ _ _).trans (kept_boot _ _)))
    · exact stays_of_kept ((passStep_kept _ _ _).trans (kept_boot _ _))

theorem stepLoader_kept (s : State) (readable : Bool) : kept (stepLoader s readable) = kept s := by
  unfold stepLoader
  dsimp only
  split
  · exact safeHalt_kept _ _ _
  · exact (passStep_kept _ _ _).trans ((commitEntry_kept _ _ _).trans ((kept_boot _ _).trans ((commitRecords_kept _ _).trans
      (loadJournal_kept _))))

theorem stepVerify_kept (s : State) (a b : Bool) : kept (stepVerify s a b) = kept s := by
  unfold stepVerify
  dsimp only
  refine kept_either ((passStep_kept _ _ _).trans (markSlot_kept _ _ _)) (kept_either ?_ ?_)
  · exact (passStep_kept _ _ _).trans ((addFallback_kept _ _ _ _ _).trans ((kept_boot _ _).trans ((setFails_kept _ _ _).trans
      ((markSlot_kept _ _ _).trans (markSlot_kept _ _ _)))))
  · exact (safeHalt_kept _ _ _).trans ((markProgress_kept _ _ _).trans ((markSlot_kept _ _ _).trans (markSlot_kept _ _ _)))

theorem stepQuera_stays (s : State) (ok : Bool) : stays s (stepQuera s ok) := by
  unfold stepQuera
  split
  · exact failStep_stays _ _
  · refine stays_of_kept ((passStep_kept _ _ _).trans ?_)
    split
    · exact applyNode_kept _ _
    · rfl

theorem stepPcie_stays (s : State) (ok : Bool) (speed width : Nat) : stays s (stepPcie s ok speed width) := by
  unfold stepPcie
  split
  · exact failStep_stays _ _
  · split
    · exact stays_refl _
    · exact stays_of_kept ((passStep_kept _ _ _).trans (kept_pcie _ _))

theorem stepReady_stays (s : State) (ok : Bool) : stays s (stepReady s ok) := by
  unfold stepReady
  split
  · exact failStep_stays _ _
  · refine stays_of_kept ((queueWipe_kept _ _).trans ((raiseFloor_kept _).trans ((kept_boot _ _).trans ?_)))
    have h (c : Bool) (t : Time) (u v : State) (h : kept u = kept v) : kept (if c then dramEventAt u t [] 8 0 0 else u) = kept v := by
      split
      · exact (dramEventAt_kept _ _ _ _ _ _).trans h
      · exact h
    refine (kept_foldl _ (fun (s : State) (l : Fin 4) => dramEventAt_kept s s.boot.lanesAt [] 6 l 0) _ _).trans (h _ _ _ _ ?_)
    refine (kept_foldl _ (fun s x => sendEvent_kept _ _ _) _ _).trans ?_
    refine (giveHeld_kept _).trans ?_
    refine Eq.trans (b := kept (modStall (setFails (markProgress s 12 0x3F) 12 0) 0 fun x => freshStall x .idle 256 65535))
      (kept_upd _ _ rfl rfl rfl rfl) ?_
    exact (modStall_kept _ _ _).trans ((setFails_kept _ _ _).trans (markProgress_kept _ _ _))

theorem execBootStepDone_stays (out : BootOut) (s : State) : relBy stays s (execBootStepDone out s) := by
  unfold execBootStepDone relBy
  dsimp only
  split
  · exact stays_refl _
  · split
    · exact stays_of_kept (stepAon_kept _ _)
    · exact stays_of_kept (stepFuses_kept _ _)
    · exact stays_of_kept (stepLoader_kept _ _)
    · exact stays_of_kept (stepVerify_kept _ _ _)
    · exact stepGroom_stays _ _
    · exact stepPll_stays _ _ _ _ fun s => failStep_stays s 6
    · exact stays_of_kept (stepCalibrate_kept _ _ _)
    · exact stays_of_kept (stepDram_kept _ _ _ _)
    · exact stays_of_kept (stepRom_kept _ _)
    · exact stepQuera_stays _ _
    · exact stepPcie_stays _ _ _ _
    · exact stepReady_stays _ _
    · exact stays_refl _

theorem execBootStepTimeout_stays (s : State) : relBy stays s (execBootStepTimeout s) := by
  unfold execBootStepTimeout relBy
  dsimp only
  split
  · exact stays_refl _
  · exact coreReset_stays _

theorem execResetAssert_stays (s : State) : relBy stays s (execResetAssert s) := coreReset_stays s

theorem execPowerLoss_stays (s : State) : relBy stays s (execPowerLoss s) :=
  stays_trans (coreReset_stays s) (stays_of_kept (dropAlwaysOn_kept _))

theorem execPowerTransitionDone_stays (bad : BitVec 4) (s : State) : relBy stays s (execPowerTransitionDone bad s) := by
  unfold execPowerTransitionDone relBy
  dsimp only
  split
  · exact stays_refl _
  · split
    · split
      · exact stays_trans (coreReset_stays s) (stays_of_kept (kept_upd _ _ rfl rfl rfl rfl))
      · exact stays_refl _
    · split
      · exact stays_refl _
      · exact stays_trans (stays_of_kept (completeLower_kept _ _)) (stays_of_dram (enterState_dram _ _ _))

theorem execDormantWake_stays (src : WakeSrc) (cycles : Nat) (w : WakeIn) (s : State) :
    relBy stays s (execDormantWake src cycles w s) := by
  have boot : stays s (startBoot (coreReset s)) := stays_trans (coreReset_stays s) (stays_of_kept (startBoot_kept _))
  unfold execDormantWake relBy
  dsimp only
  split
  · exact stays_refl _
  · split
    · split
      · exact boot
      · exact stays_refl _
    · split
      · exact boot
      · exact stays_of_time (wakeReady_time _ _ _ _)

end Sys2Proof.Machine
end

