-- ==== Sys2Proof/Machine/Response.lean ====
section
/-!
DEFINITION. What the FIR ROM's table and the resampler's bounds say of the coefficients (R297, R305): the table as data, and as propositions what
the unvalued coefficients of Config meet on a device that keeps the spec. A claim that rests on a frequency response takes `FirRomMeets` or
`ResamplerMeets` as its hypothesis; that the gains are about 1, and what ± a figure allows, is the model's reading (log entry 8).
-/

namespace Sys2Proof.Machine

/-- The shape of a FIR response with the figures its row gives: edges as fractions of fi, ripple and stop band in dB (R297). -/
inductive FirShape where
  | identity
  | lowPass (pass stop ripple att : Rat)
  | gaussian (edge : Rat)
  | boxcar (null : Nat)
  deriving DecidableEq, Repr

/-- The shapes of the 24 responses, by ID; half-band is a low-pass by its edges (R297). -/
def firShapes : List FirShape := [
  .identity, .lowPass (20 / 100) (30 / 100) (5 / 100) 60, .lowPass (20 / 100) (25 / 100) (5 / 100) 70, .lowPass (9 / 100) (125 / 1000) (2 / 100) 80,
  .lowPass (4 / 100) (625 / 10000) (2 / 100) 90, .lowPass (40 / 100) (45 / 100) (5 / 100) 60, .lowPass (10 / 100) (25 / 100) (5 / 100) 60,
  .lowPass (17 / 100) (25 / 100) (2 / 100) 80, .lowPass (20 / 100) (25 / 100) (1 / 100) 90, .lowPass (225 / 1000) (25 / 100) (1 / 100) 100,
  .lowPass (5 / 100) (125 / 1000) (5 / 100) 70, .lowPass (85 / 1000) (125 / 1000) (2 / 100) 80, .lowPass (10 / 100) (125 / 1000) (1 / 100) 100,
  .lowPass (105 / 1000) (125 / 1000) (1 / 100) 100, .lowPass (25 / 1000) (625 / 10000) (5 / 100) 70, .lowPass (4 / 100) (625 / 10000) (2 / 100) 90,
  .lowPass (45 / 1000) (625 / 10000) (1 / 100) 95, .gaussian (10 / 100), .gaussian (5 / 100), .gaussian (25 / 1000),
  .boxcar 17, .boxcar 33, .boxcar 65, .boxcar 129]

/-- `g` is the magnitude of a sum of coefficients over their taps, at `f` cycles in the unit in which the taps' instants stand. -/
def IsGain (taps : List (ℝ × ℝ)) (f g : ℝ) : Prop :=
  0 ≤ g ∧ g ^ 2 = (taps.map fun x => x.2 * Real.cos (2 * Real.pi * f * x.1)).sum ^ 2 +
    (taps.map fun x => x.2 * Real.sin (2 * Real.pi * f * x.1)).sum ^ 2

/-- The taps of a FIR response in FIR input samples, as `firOut` weighs them (R297). -/
def IsFirTaps (id : Nat) (taps : List (ℝ × ℝ)) : Prop :=
  let t := firTaps.getD id 1
  taps = (List.range t).map fun k : Nat => ((k : ℝ), (firCoef id t k : ℝ) / ((2 ^ Config.firPoint id : Nat) : ℝ))

/-- A gain lies within ± `r` dB of 1. -/
def WithinDb (r : Rat) (g : ℝ) : Prop := (10 : ℝ) ^ (-(r : ℝ) / 20) ≤ g ∧ g ≤ (10 : ℝ) ^ ((r : ℝ) / 20)

/-- A gain is at least `a` dB down. -/
def DownDb (a : Rat) (g : ℝ) : Prop := g ≤ (10 : ℝ) ^ (-(a : ℝ) / 20)

/-- No partial sum of the taps passes their whole sum by 0.1 % of it: a step's overshoot (R297). -/
def OvershootsLittle (id : Nat) : Prop :=
  let t := firTaps.getD id 1
  let whole := ((List.range t).map (firCoef id t)).sum
  ∀ n ≤ t, 1000 * ((List.range n).map (firCoef id t)).sum < 1001 * whole

/-- What a response's row asks of its coefficients; identity and boxcars carry none in `firOut` (R297). That the −3 dB of a Gaussian hold to half a
dB, the last place the table gives, is the model's choice (DESIGN CHOICE, log entry 8). -/
def FirMeets (id : Nat) : Prop :=
  match firShapes.getD id .identity with
  | .identity => True
  | .boxcar n => firTaps.getD id 1 = n
  | .lowPass p st r a => ∀ taps, IsFirTaps id taps → ∀ f g : ℝ, IsGain taps f g →
      (0 ≤ f → f ≤ (p : ℝ) → WithinDb r g) ∧ ((st : ℝ) ≤ f → f ≤ 1 / 2 → DownDb a g)
  | .gaussian e => OvershootsLittle id ∧ ∀ taps, IsFirTaps id taps → ∀ g : ℝ, IsGain taps (e : ℝ) g →
      DownDb (25 / 10) g ∧ (10 : ℝ) ^ (-(35 / 10 : ℝ) / 20) ≤ g

/-- The FIR ROM holds the responses of its table (R297). -/
def FirRomMeets : Prop := ∀ id < 24, FirMeets id

/-- The resampler's prototype: each phase's 16 coefficients at their distances, in conditioned samples, from the position (R304, R305). -/
def IsPrototype (taps : List (ℝ × ℝ)) : Prop :=
  taps = (List.range 1024).flatMap fun p : Nat => (List.range 16).map fun i : Nat =>
    ((p : ℝ) / 1024 + 7 - (i : ℝ), (Config.rsCoef p i : ℝ) / 1024)

/-- The prototype is flat to ±0.01 dB up to 0.40 fr and 80 dB down from 0.60 fr, as far as its 1,024 phases show an image (R305). -/
def ResamplerMeets : Prop := ∀ taps, IsPrototype taps → ∀ f g : ℝ, IsGain taps f g →
  (0 ≤ f → f ≤ 4 / 10 → WithinDb (1 / 100) g) ∧ (6 / 10 ≤ f → f ≤ 512 → DownDb 80 g)

end Sys2Proof.Machine
end

