-- ==== Sys2Proof/Machine/Spdm.lean ====
section
/-!
DEFINITION. SPDM over the physical function's DOE mailbox: what the device answers to each request it supports. No command of the block
carries a request, so no state is changed here (R547, R553; log entry 280).
-/

namespace Sys2Proof.Machine

/-- An asymmetric algorithm that a requester may offer. -/
inductive SpdmAsym where
  | ecdsaP384
  | other
  deriving DecidableEq, Repr

/-- A hash algorithm that a requester may offer. -/
inductive SpdmHash where
  | sha384
  | other
  deriving DecidableEq, Repr

/-- The requests of SPDM 1.2; every other one, those of sessions among them, is `unsupported` (R547). -/
inductive SpdmRequest where
  | getVersion
  | getCapabilities
  | negotiateAlgorithms (asym : List SpdmAsym) (hash : List SpdmHash)
  | getDigests
  | getCertificate (slot : Fin 4) (offset length : Nat)
  /-- With the bytes that the signature covers, the nonce of the requester among them. -/
  | challenge (slot : Fin 4) (transcript : List Byte)
  | getMeasurements (index : Nat)
  | unsupported
  deriving DecidableEq, Repr

/-- The capabilities told; sessions are not among them (R547). -/
inductive SpdmCap where
  | certificates
  | challenge
  | measurements
  deriving DecidableEq, Repr

/-- The answers. -/
inductive SpdmAnswer where
  /-- Major and minor version. -/
  | version (major minor : Nat)
  | capabilities (l : List SpdmCap)
  /-- The algorithms chosen; none of a kind that was not offered. -/
  | algorithms (asym : Option SpdmAsym) (hash : Option SpdmHash)
  /-- The digests of the chains of slots 0 to 3, none of an erased slot. -/
  | digests (l : List (Option (List Byte)))
  /-- A portion of a chain, and the bytes left after it. -/
  | certificate (portion : List Byte) (remainder : Nat)
  /-- The digest of the slot's chain, and the signature. -/
  | challengeAuth (digest signature : List Byte)
  | measurement (value : List Byte)
  /-- The request is not served. -/
  | error
  deriving DecidableEq, Repr

/-- A measurement: indices 1 to 4 are the digests of the report, 5 its `state`; no other index exists (R547). -/
def spdmMeasurement (s : State) (index : Nat) : Option (List Byte) :=
  if index = 5 then some (dwBytes [attestState s]) else if index = 0 then none else (attestDigests s)[index - 1]?

/-- The digest of a slot's chain; none for an erased slot (R547). -/
def spdmDigest (s : State) (slot : Fin 4) : Option (List Byte) :=
  if s.flash.certs[slot] = [] then none else some (sha384 s.flash.certs[slot])

/-- The attestation keys are there to sign with: not in Blank, and not after a wipe until the next boot (R548, R553). -/
def canSign (s : State) : Bool := s.sec.keys && lifecycleOf s != 0

/-- The answer to a request (R547, R553). -/
def spdmAnswer (s : State) : SpdmRequest → SpdmAnswer
  | .getVersion => .version 1 2
  | .getCapabilities => .capabilities [.certificates, .challenge, .measurements]
  | .negotiateAlgorithms asym hash =>
    .algorithms (if asym.contains .ecdsaP384 then some .ecdsaP384 else none) (if hash.contains .sha384 then some .sha384 else none)
  | .getDigests => .digests ((List.finRange 4).map (spdmDigest s))
  | .getCertificate slot offset length =>
    let chain := s.flash.certs[slot]
    if chain = [] ∨ chain.length ≤ offset then .error
    else .certificate ((chain.drop offset).take length) (chain.length - offset - length)
  | .challenge slot transcript =>
    match spdmDigest s slot with
    | none => .error
    | some d => if canSign s then .challengeAuth d (fitBytes 96 (Config.sign slot.val (sha384 transcript))) else .error
  | .getMeasurements index =>
    match spdmMeasurement s index with
    | none => .error
    | some v => .measurement v
  | .unsupported => .error

end Sys2Proof.Machine
end

