-- ==== Sys2Proof/Tests/Slice0.lean ====
section
/-!
SUPPORT. Small tests, each of one step or one operand check, and for every statement with hypotheses a witness: a state and operands that
meet the hypotheses of each of its clauses.
-/

open Sys2Proof Sys2Proof.Machine Sys2Proof.Claims

namespace Sys2Proof.Tests

set_option Elab.async false

/-! ## Small states -/

/-- A submission entry of some dwords, the rest 0. -/
def entry (l : List Dword) : SqEntry := Vector.ofFn fun k => l.getD k.val 0

/-- A taken submission of function f. -/
def taken (f : Fn) (l : List Dword) : Taken := { fn := f, e := entry l, when := 0x100000 }

/-- The device in Run: stalls 0 and 1 created, stall 1 with team 0, chain 0, engine 0, two parcels and the second as share. -/
def live : State := { State.reset with
  boot := { State.reset.boot with phase := .ready, step := 12 }
  power := { State.reset.power with st := .run }
  pcie := { State.reset.pcie with cfgReady := true, linkUp := true, vfEnable := true, ari := true, numVFs := 63 }
  tb := { State.reset.tb with timeValid := true, now := 0x100000, gatesRun := true }
  dram := { State.reset.dram with total := 2048, selfRefresh := false }
  lanes := State.reset.lanes.map fun x => { x with usable := true }
  stalls := vmap State.reset.stalls fun i x =>
    if i = 0 then { x with st := .idle, gen := 1, grant := { outstanding := 256, rate := 65535 } }
    else if i = 1 then { x with st := .idle, gen := 1, grant := { teams := 1, chains := 1, engine := some 0, parcels := [0, 1], share := 8 } }
    else x }

/-- The Groom holds a submission. -/
def holding (s : State) (t : Taken) : State := { s with groom := { s.groom with taken := some t } }

/-- A stall in some state. -/
def withStall (s : State) (n : Stall) (f : StallState → StallState) : State := modStall s n f

/-- Stall 1 captures with a capture. -/
def capt (c : Capture) : State := withStall live 1 fun x => { x with st := .capturing, cap := some c }

theorem hand (s : State) (t : Taken) (op : Nat) (P : Prop) (h : opcode t.e = op) (p : P) : InHand (holding s t) t op ∧ P := ⟨⟨rfl, h⟩, p⟩

theorem in_hand (s : State) (t : Taken) (op : Nat) (h : opcode t.e = op) : InHand (holding s t) t op := ⟨rfl, h⟩

/-! ## Operands out of range -/

theorem test_tail_doorbell_elsewhere : wellFormed (.sqTailDoorbell 0 0x20 0 0xF) = false := by decide
theorem test_head_doorbell_elsewhere : wellFormed (.cqHeadDoorbell 0 0x1C 0 0xF []) = false := by decide
theorem test_sq_enable_clear : wellFormed (.sqEnable 0 0x08 0 0xF) = false := by decide
theorem test_sq_disable_set : wellFormed (.sqDisable 0 0x08 1 0xF) = false := by decide
theorem test_cq_enable_clear : wellFormed (.cqEnable 0 0x08 0 { be := 0xF }) = false := by decide
theorem test_cq_disable_set : wellFormed (.cqDisable 0 0x08 2 0xF) = false := by decide
theorem test_lock_clear : wellFormed (.winControlLock 0 0x08 0 0xF) = false := by decide
theorem test_fault_leave_enabled : wellFormed (.faultLeave 0 0x08 1 0xF) = false := by decide
theorem test_err_status_elsewhere : wellFormed (.errStatusClear 0 0x44 0 0xF) = false := by decide
theorem test_scratch_write_view : wellFormed (.scratchWrite 0 0x4000 0 0xFF false) = false := by decide
theorem test_scratch_set_view : wellFormed (.scratchBitSet 0 0x8000 0 0xFF {}) = false := by decide
theorem test_scratch_clear_view : wellFormed (.scratchBitClear 0 0x4000 0 0xFF {}) = false := by decide
theorem test_descriptor_short : wellFormed (.podDescriptorRead 0 (some [0]) ⟨0, 0⟩) = false := by decide
theorem test_tile_measures : wellFormed (.calibrateTileDone 0 true { delay := [1], offset := List.replicate 8 0, gain := List.replicate 8 0 }) = false := by
  decide
theorem test_shadow_corrections : wellFormed (.shadowCycle 0 []) = false := by decide
theorem test_beats_of_a_block : wellFormed (.dramReadData 0 (List.replicate 17 0)) = false := by decide
theorem test_shed_source : wellFormed (.shedStageEnter 3 1 0) = false := by decide
theorem test_ring_record : wellFormed (.dikewatchWakeDone .clean [116496] 0 ⟨0, 0⟩) = false := by decide
theorem test_boot_corrections : wellFormed (.bootStepDone (.calibrate 0 (Vector.replicate 6 { delay := [], offset := [], gain := [] }))) = false := by decide
theorem test_boot_width : wellFormed (.bootStepDone (.pcie true 5 3)) = false := by decide
theorem test_no_bits : decodeTableWord 32 0 = none := by decide

/-! ## One step -/

/-- The fields of an outcome's state. -/
def after (o : Host.Outcome State Fault Refusal) (f : State → Bool) : Bool := match o with
  | .next s => f s
  | .fault _ => false
  | .refused _ => false

/-- The first command of the queue runs on the rest (R6 gives the stride that passes when none waits). -/
theorem test_step_takes_front :
    after (step { live with pending := [.ledBlinkToggle, .perst] }) (fun s => s.pending == [.perst] && !s.panel.phase) = true := by
  decide +kernel

theorem test_idle_stride : after (step live) (fun s => s.tb.now == 0x100100) = true := by decide +kernel

/-- From reset a boot begins (R530, R531). -/
theorem test_boot_start : after (exec (.bootStart .powerOn) State.reset) (fun s => s.boot.phase == .booting && s.boot.step == 1) = true := by
  decide +kernel

/-- An odd number of 1 bits puts the function in Fault (R387, R388). -/
theorem test_odd_parity : after (exec (.registerWrite 1 0x14 1 0xF) live) (fun s => s.fns[(1 : Fin 64)].fault && s.fns[(1 : Fin 64)].sqBaseHi == 0) = true := by
  decide +kernel

/-- The bit-set view ORs a byte (R401). -/
theorem test_scratch_or :
    after (exec (.scratchBitSet 1 0x4008 0xF0 0x01 {}) { live with scratch := [(16392, 0x0F)] })
      (fun s => memRead s.scratch 16392 == 0xFF && memRead s.scratch 16393 == 0) = true := by decide +kernel

/-- The bit-clear view takes away, and a byte that becomes 0 is listed no longer (R401). -/
theorem test_scratch_clear :
    after (exec (.scratchBitClear 1 0x8008 0x0F 0xFF {}) { live with scratch := [(16392, 0x0F)] }) (fun s => s.scratch == []) = true := by
  decide +kernel

/-- `stall_create` of VF 2 gives it generation 1 and the limits of R349. -/
theorem test_stall_create :
    after (exec .stallCreate (holding live (taken 0 [0x10, 2])))
      (fun s => s.stalls[(2 : Fin 64)].st == .idle && s.stalls[(2 : Fin 64)].gen == 1 && s.stalls[(2 : Fin 64)].grant.outstanding == 8) = true := by
  decide +kernel

/-- `stall_destroy` of stall 0 is refused (R348). -/
theorem test_stall_zero_stays :
    after (exec .stallDestroy (holding live (taken 0 [0x11, 0]))) (fun s => s.stalls[(0 : Fin 64)].st == .idle) = true := by decide +kernel

/-- A window of one code is refused and the setting stands; one of two codes is written (R37). -/
theorem test_narrow_window :
    after (exec (.probeConfig ⟨0, 0⟩) (holding live (taken 1 [0x20, 1, 0, 0x3E, 0x0A001000, 0])))
      (fun s => s.chans[(0 : Fin 48)].setting == settingReset) = true ∧
    after (exec (.probeConfig ⟨0, 0⟩) (holding live (taken 1 [0x20, 1, 0, 0x3E, 0x0A002000, 0])))
      (fun s => s.chans[(0 : Fin 48)].setting == 0x0A002000 && s.chans[(1 : Fin 48)].setting == settingReset) = true := by decide +kernel

/-- At 100 °C the first thermal stage is entered, below it none (R525). -/
theorem test_heat_stage : (heatStage 400, heatStage 399, heatStage 416, heatStage 432) = (1, 0, 2, 3) := by decide

/-- The Reset column of the channel setting (R36). -/
theorem test_setting_reset : (chUpper settingReset, chLower settingReset, chDwell settingReset) = (0x829, 0x7D7, 10) := by decide

/-- The teams and ports of R32. -/
theorem test_teams_and_ports :
    (List.range 48).all (fun c => (teamOf (Fin.ofNat 48 c)).val == c / 6 && (portOf (Fin.ofNat 48 c)).val == c / 8) = true := by decide +kernel

/-- Time wraps (R7). -/
theorem test_past_wraps :
    (past (0 : Time) 1, past (0x8000000000000000 : Time) 1, past (0x8000000000000001 : Time) 1) = (true, false, true) := by decide +kernel

/-- The balls in reset, and in Run (R570). -/
theorem test_balls :
    ballState State.reset (.jesdSync 0) = .highZ ∧ ballState State.reset .ddrBus = .highZ ∧ ballState State.reset .trigOut = .low ∧
      ballState live .ddrBus = .active ∧ ballState live .pcieTx = .active ∧ (boundaryScan live).length = 33 := by decide +kernel

/-- SPDM 1.2 without sessions; a measurement 6 that does not exist; no signature without the keys (R547, R553). -/
theorem test_spdm :
    spdmAnswer live .getVersion = .version 1 2 ∧ spdmAnswer live .unsupported = .error ∧ spdmAnswer live (.getMeasurements 6) = .error ∧
      spdmAnswer { live with sec := { live.sec with keys := false } } (.challenge 0 []) = .error := by decide +kernel

/-- A message comes in as it was sent, through the scrambler and the descrambler (R474, R475). -/
theorem test_line_code :
    let m : BitVec 112 := 0x10123456789ABCDEF0F1E2D3C4B5
    let b := startBlock (modQport live 1 fun x => { x with queue := [{ msg := m }] }) 1 0
    (b.out.map fun o => match o with
      | .quera _ _ x y => received { before := 0, first := some x, second := y }
      | _ => none) = [some m] := by decide +kernel

/-! ## Witnesses: the queue, time, the memories, results, stalls -/

theorem wit_idle_and_stopped : live.pending = [] ∧ live.tb.timeValid = true ∧ State.reset.pending = [] ∧ State.reset.tb.timeValid = false := by
  decide +kernel

/-- Nothing waits in the device but time. -/
theorem wit_nothing_waits :
    live.flash.returned = none ∧ (∀ l : Fin 4, live.fbd.outbox[l] = []) ∧ (∀ n : Stall, live.stalls[n].cap = none) ∧
      (∀ p : Fin 4, portLive live p = false ∧ live.quera.ports[p].up = false ∧ live.quera.ports[p].queue = [] ∧
        live.quera.ports[p].lockSince = none) ∧ live.quera.censusWait = none ∧ live.tb.steer = 0 ∧ live.tb.steerFine = 0 ∧
      live.tb.steerRate = 0 := by decide +kernel

/-- A command that answers a next state, for the statements about every command. -/
theorem wit_some_command : exec .ledBlinkToggle live = .next { live with panel := { live.panel with phase := false } } := rfl

theorem wit_frames_of_a_command :
    writesDram .ledBlinkToggle = false ∧ writesScratch .ledBlinkToggle = false ∧ movesTime .ledBlinkToggle = false := by decide

theorem wit_sound_step : live.Sound ∧ ∃ t, step { live with pending := [.ledBlinkToggle] } = .next t :=
  ⟨by unfold State.Sound; decide +kernel, _, rfl⟩

/-- The submissions of the result commands: 4,096 bytes of space in host memory. -/
def resultEntry (op : Dword) (d5 : Dword) : List Dword := [op, 0, 0x1000, 0, 4096, d5]

theorem wit_queries (op : Dword) (h : op = 1 ∨ op = 2 ∨ op = 0x21 ∨ op = 0x31 ∨ op = 0x61) :
    let t := taken 1 (resultEntry op 0)
    InHand (holding live t) t op.toNat ∧ reservedBit t.e resultBits = none ∧ badResult t.e = none := by
  rcases h with rfl | rfl | rfl | rfl | rfl <;> exact ⟨in_hand _ _ _ (by decide +kernel), by decide +kernel, by decide +kernel⟩

theorem wit_query_lengths :
    let s (op : Dword) := freed (holding live (taken 1 (resultEntry op 0)))
    (healthResult (s 2) 1).length ≤ 4096 ∧ (courseResult (s 0x31) 1).length ≤ 4096 ∧ (probeResult (s 0x21) 1).length ≤ 4096 ∧
      (queraResult (s 0x61)).length ≤ 4096 ∧ (identifyResult (s 1) 1).length ≤ 4096 := by decide +kernel

theorem wit_result_len (op : Dword) (h : op = 1 ∨ op = 2 ∨ op = 0x21 ∨ op = 0x31 ∨ op = 0x61) :
    resultLen (taken 1 (resultEntry op 0)).e = 4096 := by
  rcases h with rfl | rfl | rfl | rfl | rfl <;> decide +kernel

/-- A device with its keys, and a certificate chain in slot 0. -/
def attesting : State := { live with
  sec := { live.sec with keys := true, slots := [1] }, flash := { live.flash with certs := live.flash.certs.set 0 [1] } }

theorem wit_attest (e : Ecc) (h : e = .clean ∨ e = .corrected) :
    let t := { taken 1 (resultEntry 3 0) with secure := e }
    InHand (holding attesting t) t 3 ∧ t.secure ≠ .uncorrectable ∧ reservedBit t.e attestBits = none ∧ badResult t.e = none ∧
      (holding attesting t).sec.wiping = none ∧ lifecycleOf (holding attesting t) ≠ 0 ∧ (holding attesting t).sec.keys = true ∧
      ∀ h : bits (dw t.e 13) 1 0 < 4, (holding attesting t).flash.certs[bits (dw t.e 13) 1 0] ≠ [] := by
  rcases h with rfl | rfl <;> exact ⟨in_hand _ _ _ (by decide +kernel), by decide +kernel⟩

theorem wit_journal_reads (d : Dword) (h : d = 0 ∨ d = 1 ∨ d = 2) :
    let t := taken 0 (resultEntry 0x72 d)
    InHand (holding live t) t 0x72 ∧ reservedBit t.e (resultBits ++ [3]) = none ∧ badResult t.e = none ∧ bits (dw t.e 5) 1 0 = d.toNat ∧
      (journalResult (holding live t)).length ≤ resultLen t.e ∧ (breachResult (holding live t)).length ≤ resultLen t.e ∧
      (holding live t).flash.boardRec.length ≤ resultLen t.e := by
  rcases h with rfl | rfl | rfl <;>
    exact ⟨in_hand _ _ _ (by decide +kernel), by decide +kernel, by decide +kernel, by decide +kernel, by decide +kernel, by decide +kernel,
      by decide +kernel⟩

theorem wit_result_in_scratch :
    let t := taken 1 [2, 0, 0x3FF8, 0, 0x80000008]
    live.Sound ∧ toScratch t.e = true ∧ badResult t.e = none ∧ [(1 : Byte), 2].length ≤ resultLen t.e ∧ (2 : Fn) ≠ t.fn ∧
      toScratch (taken 1 (resultEntry 2 0)).e = false := by unfold State.Sound; decide +kernel

theorem wit_stall_create :
    let t := taken 0 [0x10, 2]
    InHand (holding live t) t 0x10 ∧ targetOf t.e = some 2 ∧ reservedBit t.e [] = none ∧ (holding live t).stalls[(2 : Fin 64)].st = .absent ∧
      fnExists (holding live t) 2 = true := ⟨in_hand _ _ _ (by decide +kernel), by decide +kernel⟩

theorem wit_stall_reset :
    let t := taken 0 [0x12, 1]
    InHand (holding live t) t 0x12 ∧ targetOf t.e = some 1 ∧ reservedBit t.e [] = none ∧ (holding live t).stalls[(1 : Fin 64)].st = .idle :=
  ⟨in_hand _ _ _ (by decide +kernel), by decide +kernel⟩

theorem wit_stall_destroy :
    let t := taken 0 [0x11, 1]
    InHand (holding live t) t 0x11 ∧ targetOf t.e = some 1 ∧ reservedBit t.e [] = none ∧ (holding live t).stalls[(1 : Fin 64)].st = .idle :=
  ⟨in_hand _ _ _ (by decide +kernel), by decide +kernel⟩

theorem wit_stall_zero :
    let t := taken 0 [0x10, 0]
    let u := taken 0 [0x11, 0]
    InHand (holding live t) t 0x10 ∧ targetOf t.e = some 0 ∧ reservedBit t.e [] = none ∧
      InHand (holding live u) u 0x11 ∧ targetOf u.e = some 0 ∧ reservedBit u.e [] = none :=
  ⟨in_hand _ _ _ (by decide +kernel), by decide +kernel, by decide +kernel, in_hand _ _ _ (by decide +kernel), by decide +kernel,
    by decide +kernel⟩

/-- Team 1, chain 1 and two parcels for stall 1. -/
theorem wit_grant :
    let t := taken 0 [0x13, 1, 0x02020000, 2]
    let s := holding { live with dram := { live.dram with total := 4 } } t
    InHand s t 0x13 ∧ targetOf t.e = some 1 ∧ reservedBit t.e grantBits = none ∧ grantFault s.stalls[(1 : Fin 64)].grant t.e = none ∧
      grantRefused (freed s) 1 t.e = none := hand _ _ _ _ (by decide +kernel) (by decide +kernel)

/-- Team 0 of stall 1 is taken back. -/
theorem wit_revoke :
    let t := taken 0 [0x14, 1, 0x01000000]
    let s := holding live t
    InHand s t 0x14 ∧ targetOf t.e = some 1 ∧ reservedBit t.e [0xFFFF0100, 0x1FFF] = none ∧
      revokeFault s.stalls[(1 : Fin 64)].grant t.e = none ∧ armedOrCapturing s 1 = false :=
  ⟨in_hand _ _ _ (by decide +kernel), by decide +kernel⟩

/-- A stall that is resetting, with everything its sequence waits for done. -/
def resetting : State := withStall live 1 fun x => { x with st := .resetting, reset := some { cause := 2, oldGen := 1 } }

theorem wit_release : resetting.stalls[(1 : Fin 64)].reset = some { cause := 2, oldGen := 1 } ∧ resetDone resetting 1 = true ∧ resetting.Sound := by
  unfold State.Sound; decide +kernel

theorem fit_length (n : Nat) (l : List Byte) : (fitBytes n l).length = n := by simp [fitBytes]

theorem le_length {w : Nat} (v : BitVec w) (n : Nat) : (leBytes v n).length = n := by simp [leBytes]

theorem sha_length (l : List Byte) : (sha384 l).length = 48 := by simp [sha384, le_length]

/-- SHA-384 of "abc", the example of FIPS 180-4 (R547). -/
theorem test_sha_abc : sha384 [0x61, 0x62, 0x63] = (leBytes (0xCB00753F45A35E8BB5A03D699AC65007272C32AB0EDED1631A8B605A43FF5BED8086072BA1E7CC2358BAECA134C825A7 : BitVec 384) 48).reverse := by
  decide +kernel

theorem wit_attest_fits : (attestReport (freed (holding attesting (taken 1 (resultEntry 3 0)))) (taken 1 (resultEntry 3 0))).length ≤
    resultLen (taken 1 (resultEntry 3 0)).e := by
  have h : resultLen (taken 1 (resultEntry 3 0)).e = 4096 := by decide +kernel
  rw [h]
  simp [attestReport, attestBody, attestDigests, fit_length, sha_length, le_length, dwBytes]
  all_goals decide

/-! ## Witnesses: probe, sluices, Quera -/

/-- A `probe_config` of stall 1 for team 0, slot 0 with a setting. -/
def configEntry (w : BitVec 64) : Taken := taken 1 [0x20, 1, 0, 0x3E, w.setWidth 32, (w >>> 32).setWidth 32]

/-- Each limit of R37 by one: `upper` one above `lower`, a deskew of -2049 and of 2049, a dwell of 0 and of 100,001. -/
theorem wit_bad_windows (w : BitVec 64) (h : w = 0x0A001000 ∨ w = 0x017FF0000A8297D7 ∨ w = 0x008010000A8297D7 ∨ w = 0x008297D7 ∨
    w = 0x186A18297D7) :
    let t := configEntry w
    let s := holding live t
    InHand s t 0x20 ∧ bit s.stalls[t.fn].grant.teams (configTeam t.e).val = true ∧
      testedChans s &&& teamChans (BitVec.ofNat 8 (2 ^ (configTeam t.e).val)) = 0 ∧ bit (dw t.e 3) 0 = false ∧ w = configSetting t.e 0 ∧
      (chUpper w < chLower w + 2 ∨ chDeskew w < -2048 ∨ 2048 < chDeskew w ∨ chDwell w = 0 ∨ 100000 < chDwell w) := by
  rcases h with rfl | rfl | rfl | rfl | rfl <;> exact hand _ _ _ _ (by decide +kernel) (by decide +kernel)

theorem wit_bad_window_each :
    chUpper (0x0A001000 : BitVec 64) = chLower (0x0A001000 : BitVec 64) + 1 ∧ chDeskew (0x017FF0000A8297D7 : BitVec 64) = -2049 ∧
      chDeskew (0x008010000A8297D7 : BitVec 64) = 2049 ∧ chDwell (0x008297D7 : BitVec 64) = 0 ∧ chDwell (0x186A18297D7 : BitVec 64) = 100001 := by
  decide +kernel

theorem wit_probe_config :
    let t := configEntry settingReset
    let s := holding live t
    InHand s t 0x20 ∧ bit s.stalls[t.fn].grant.teams (configTeam t.e).val = true ∧
      testedChans s &&& teamChans (BitVec.ofNat 8 (2 ^ (configTeam t.e).val)) = 0 ∧ configFault t.e = none :=
  hand _ _ _ _ (by decide +kernel) (by decide +kernel)

theorem wit_latch_clear :
    let t := taken 1 [0x22, 1, 0x3F, 0, 0]
    let s := holding live t
    InHand s t 0x22 ∧ reservedBit t.e [0xFFFFFFFF, 0xFFFF, 0xF] = none ∧
      ∀ c : Fin 48, bit (chanField t.e 2) c.val = true → ownsChan s t.fn c = true :=
  hand _ _ _ _ (by decide +kernel) (by decide +kernel)

/-- A `sluice_config` of chain n with an operation in dword 2 and the Reset column of R289. -/
def chainEntry (d2 : Dword) : Taken := taken 1 [0x28, 1, d2, 0, 0, 0x20, 0, 0x10000010]

theorem wit_chain_not_granted :
    let t := chainEntry 0x10
    let s := holding live t
    InHand s t 0x28 ∧ sluiceOp t = 0 ∧ bit s.stalls[t.fn].grant.chains (namedChain t.e).val = false :=
  hand _ _ _ _ (by decide +kernel) (by decide +kernel)

theorem wit_chain_busy :
    let t := chainEntry 0
    let s := holding (capt {}) t
    InHand s t 0x28 ∧ sluiceOp t = 0 ∧ bit s.stalls[t.fn].grant.chains (namedChain t.e).val = true ∧ capturing s t.fn = true :=
  hand _ _ _ _ (by decide +kernel) (by decide +kernel)

theorem wit_chain_set (bad : Bool) :
    let t := chainEntry 0
    let s := holding { live with boot := { live.boot with romFail := if bad then 0xFFFFFF else 0 } } t
    InHand s t 0x28 ∧ sluiceOp t = 0 ∧ bit s.stalls[t.fn].grant.chains (namedChain t.e).val = true ∧ capturing s t.fn = false ∧
      bad = romBad s (chainSetting t.e) ∧
      chainFault (freed s) t.fn t.e (chainSetting t.e) (linkOfChain s (namedChain t.e)) bad = none ∧
      multsTaken (freed s) (namedChain t.e) +
        ((linkOfChain s (namedChain t.e)).map fun l => multsOf l (chainSetting t.e) bad).getD 0 ≤ 1024 := by
  cases bad <;> exact hand _ _ _ _ (by decide +kernel) (by decide +kernel)

theorem wit_link_denied :
    let t := taken 1 [0x28, 1, 1, 0, 0x200000]
    InHand (holding live t) t 0x28 ∧ sluiceOp t = 1 ∧ t.fn ≠ 0 := hand _ _ _ _ (by decide +kernel) (by decide +kernel)

/-- Link 0 as JESD204B with one converter of 16 bits on one lane. -/
theorem wit_link_set :
    let t := taken 0 [0x28, 0, 1, 0, 0x81218000]
    let s := holding live t
    InHand s t 0x28 ∧ sluiceOp t = 1 ∧ t.fn = 0 ∧ anyCapturing (freed s) (linkAffects (freed s) (namedLink t.e) (linkSetting t.e)) = false ∧
      linkFault t.e (linkSetting t.e) (s.links[1 - namedLink t.e].setting) = none :=
  hand _ _ _ _ (by decide +kernel) (by decide +kernel)

theorem wit_dc (d : Dword) (h : d = 0 ∨ d = 1 ∨ d = 2) :
    let t := chainEntry (2 + 0x100 * d)
    let s := holding (capt {}) t
    InHand s t 0x28 ∧ sluiceOp t = 2 ∧ dcOp t = d.toNat ∧ bit s.stalls[t.fn].grant.chains (namedChain t.e).val = true := by
  rcases h with rfl | rfl | rfl <;> exact hand _ _ _ _ (by decide +kernel) (by decide +kernel)

theorem wit_dc_fields (d : Dword) (h : d = 0 ∨ d = 1 ∨ d = 2) : reservedBit (taken 1 [0x28, 1, 2 + 0x100 * d]).e [0x00000373] = none := by
  rcases h with rfl | rfl | rfl <;> decide +kernel

/-- A `sluice_sync` of stall 1 for chain 0 at a Y, with a late policy. -/
def syncEntry (y : Dword) (policy : Dword) : Taken := taken 1 [0x29, 1 + 0x1000000 * policy, y, 0, 1]

/-- Chain 0 is enabled. -/
def chainOn : State := { live with chains := live.chains.set 0 { live.chains[(0 : Fin 8)] with setting := chainReset ||| 0x80000000 } }

theorem wit_sync (y policy : Dword) (h : y = 0x102001 ∨ y = 0x102000 ∨ y = 0x101F00) (h2 : policy = 0 ∨ policy = 1) :
    let t := syncEntry y policy
    let s := holding chainOn t
    InHand s t 0x29 ∧ (y.toNat = (wide t.e 2).toNat) ∧
      (∀ n : Fin 8, bit (BitVec.ofNat 8 (bits (dw t.e 4) 7 0)) n.val = true → bit s.stalls[t.fn].grant.chains n.val = true) ∧ s.tb.bypass = false ∧
      reservedBit t.e [0xFFFFFFFF, 0xFFFFFFFF, 0xFF] = none ∧ BitVec.ofNat 8 (bits (dw t.e 4) 7 0) ≠ 0 ∧
      (∀ n : Fin 8, bit (BitVec.ofNat 8 (bits (dw t.e 4) 7 0)) n.val = true → chainEnable s.chains[n].setting = true) := by
  rcases h with rfl | rfl | rfl <;> rcases h2 with rfl | rfl <;> exact hand _ _ _ _ (by decide +kernel) (by decide +kernel)

/-- The last instant in time, the first that is late, and one that is no stride's. -/
theorem wit_sync_leads :
    leads 0x102000 (syncEntry 0x102000 0).when 32 = true ∧ leads 0x101F00 (syncEntry 0x101F00 0).when 32 = false ∧
      bits (wide (syncEntry 0x102001 0).e 2) 7 0 ≠ 0 ∧ bits (wide (syncEntry 0x102000 0).e 2) 7 0 = 0 ∧
      latePolicy (syncEntry 0x101F00 1).e = 1 ∧ latePolicy (syncEntry 0x101F00 0).e = 0 := by decide +kernel

theorem wit_quera_config :
    let t := taken 0 [0x60, 0, 1, 2]
    InHand (holding live t) t 0x60 ∧ reservedBit t.e queraBits = none ∧ queraFault t.e = none :=
  hand _ _ _ _ (by decide +kernel) (by decide +kernel)

/-- Entries that R441 refuses: a reserved bit, `ref_mode` 3, role 3, an empty request, and a bridge without Q2 and Q3. -/
theorem wit_quera_config_refused :
    let t (l : List Dword) := taken 0 ([0x60, 0] ++ l)
    (∀ l ∈ [[0x80000000], [1, 3], [4, 0, 0xCF], [0], [4, 0, 0x43]], InHand (holding live (t l)) (t l) 0x60) ∧
      reservedBit (t [0x80000000]).e queraBits = some (2, 3) ∧
      (∀ l ∈ [[1, 3], [4, 0, 0xCF], [0], [4, 0, 0x43]], reservedBit (t l).e queraBits = none) ∧
      (bit (dw (t [1, 3]).e 2) 0 = true ∧ bits (dw (t [1, 3]).e 3) 1 0 = 3) ∧
      (bit (dw (t [4, 0, 0xCF]).e 2) 2 = true ∧ bits (dw (t [4, 0, 0xCF]).e 4) 7 6 = 3) ∧ bits (dw (t [0]).e 2) 2 0 = 0 ∧
      bit (dw (t [4, 0, 0x43]).e 2) 2 = true ∧ bits (dw (t [4, 0, 0x43]).e 4) 7 6 = 1 ∧ bits (dw (t [4, 0, 0x43]).e 4) 3 2 ≠ 3 := by
  refine ⟨?_, by decide +kernel⟩
  intro l h
  refine ⟨rfl, ?_⟩
  simp only [List.mem_cons, List.not_mem_nil, or_false] at h
  rcases h with rfl | rfl | rfl | rfl | rfl <;> decide +kernel

theorem wit_route :
    let t := taken 0 [0x62, 0, 0x301, 0x00010001]
    let s := holding live t
    InHand s t 0x62 ∧ reservedBit t.e [0x30F, 0xFFFF003F] = none ∧ (1 : Stall).val = bits (dw t.e 3) 5 0 ∧ s.stalls[(1 : Stall)].st ≠ .absent ∧
      s.stalls[(1 : Stall)].gen = BitVec.ofNat 16 (bits (dw t.e 3) 31 16) := hand _ _ _ _ (by decide +kernel) (by decide +kernel)

/-! ## Witnesses: courses, captures, uploads, references -/

theorem wit_course_load_refused :
    let t := taken 0 [0x30]
    let u := taken 1 [0x30, 1, 0x1000, 0, 64]
    let s := withStall live 1 fun x => { x with st := .armed }
    (InHand (holding live t) t 0x30 ∧ (holding live t).stalls[t.fn].grant.engine = none) ∧
      InHand (holding s u) u 0x30 ∧ (holding s u).stalls[u.fn].grant.engine.isSome = true ∧ armedOrCapturing (holding s u) u.fn = true :=
  ⟨hand _ _ _ _ (by decide +kernel) (by decide +kernel), hand _ _ _ _ (by decide +kernel) (by decide +kernel)⟩

/-- The shortest and the longest image. -/
theorem wit_course_load (len : Dword) (h : len = 1 ∨ len = 5664) :
    let t := taken 1 [0x30, 1, 0x1000, 0, len]
    let s := holding live t
    InHand s t 0x30 ∧ s.stalls[t.fn].grant.engine.isSome = true ∧ armedOrCapturing s t.fn = false ∧
      reservedBit t.e [0xFFFFFFFF, 0xFFFFFFFF, 0x1FFF] = none ∧ bits (dw t.e 2) 2 0 = 0 ∧ bits (dw t.e 4) 12 0 ≠ 0 ∧ bits (dw t.e 4) 12 0 ≤ 5664 := by
  rcases h with rfl | rfl <;> exact hand _ _ _ _ (by decide +kernel) (by decide +kernel)

/-- A device with a memory guarantee. -/
def armable : State := { live with dram := { live.dram with g := 40 } }

/-- `capture_arm` of stall 1: Canter, one segment that ends with the trigger's stride. -/
def armEntry : Taken := taken 1 [0x38, 1, 1, 0, 0, 0, 0, 0, 0, 1]

theorem wit_arm :
    let s := holding armable armEntry
    InHand s armEntry 0x38 ∧ s.dram.repairing = none ∧ armBusy (freed s) armEntry.fn = false ∧
      armRefused (freed s) armEntry.fn (armParams armEntry.e) (latePolicy armEntry.e = 1) armEntry.when
        ((reservedBit armEntry.e armBits).map fun x => fieldPay x.1 x.2) = none :=
  hand _ _ _ _ (by decide +kernel) (by decide +kernel)

theorem wit_arm_waits_or_busy :
    let s := holding { armable with dram := { armable.dram with repairing := some {} } } armEntry
    let u := holding (withStall armable 1 fun x => { x with st := .armed }) armEntry
    (InHand s armEntry 0x38 ∧ s.dram.repairing.isSome = true) ∧
      InHand u armEntry 0x38 ∧ u.dram.repairing = none ∧ armBusy (freed u) armEntry.fn = true :=
  ⟨hand _ _ _ _ (by decide +kernel) (by decide +kernel), hand _ _ _ _ (by decide +kernel) (by decide +kernel)⟩

theorem wit_stop :
    let t := taken 1 [0x39, 1]
    let c : Capture := {}
    let u := holding (withStall live 1 fun x => { x with st := .armed, cap := some c, held := [{ closed := true }] }) t
    (InHand (holding live t) t 0x39 ∧ reservedBit t.e [] = none ∧ (holding live t).stalls[t.fn].cap = none) ∧
      (InHand (holding (capt {}) t) t 0x39 ∧ (holding (capt {}) t).stalls[t.fn].cap.isSome = true) ∧
      InHand u t 0x39 ∧ u.stalls[t.fn].cap = some c ∧ c.phase = .armed ∧ c.ended = none ∧ u.stalls[t.fn].st = .armed ∧
      ∀ x ∈ u.stalls[t.fn].held, x.closed = true :=
  ⟨hand _ _ _ _ (by decide +kernel) (by decide +kernel), hand _ _ _ _ (by decide +kernel) (by decide +kernel),
    hand _ _ _ _ (by decide +kernel) (by decide +kernel)⟩

theorem wit_force :
    let t := taken 1 [0x3A, 1]
    let s := holding (withStall live 1 fun x => { x with st := .armed }) t
    let c : Capture := { phase := .running }
    (InHand s t 0x3A ∧ s.stalls[t.fn].st = .armed) ∧
      InHand (holding (capt c) t) t 0x3A ∧ reservedBit t.e [] = none ∧ (holding (capt c) t).stalls[t.fn].st = .capturing ∧
      (holding (capt c) t).stalls[t.fn].cap = some c ∧ c.phase = .running ∧ c.seg.trig = none :=
  ⟨hand _ _ _ _ (by decide +kernel) (by decide +kernel), hand _ _ _ _ (by decide +kernel) (by decide +kernel)⟩

theorem wit_mark :
    let t := taken 1 [0x3B, 1, 5, 0, 0x100000]
    let s := holding (capt { phase := .running }) t
    InHand s t 0x3B ∧ reservedBit t.e [0xFFFFFFFF, 0xFFFFFFFF, 0xFFFFFFFF, 0xFFFFFFFF] = none ∧ capturing s t.fn = true ∧ recording s t.fn = true ∧
      bit (dw t.e 0) 10 = false ∧ bit (dw t.e 0) 9 = false ∧ s.stalls[t.fn].evLostCount = 0 ∧ evCount s ≤ 1022 ∧ wide t.e 4 ≠ 0 :=
  hand _ _ _ _ (by decide +kernel) (by decide +kernel)

/-- Stall 1 holds one closed segment of one data block. -/
def withSeg : State := withStall live 1 fun x => { x with
  held := [{ num := 0, ring := 64, written := 1, occupied := 2, closed := true, hdrAcked := true, header := List.replicate 16 0 }] }

/-- `upload` of one segment with one entry of the list at 2000h; the mode stands in bits [21:20] of dword 2. -/
def uploadEntry (d2 : Dword) : Taken := taken 1 [0x40, 1, d2, 1, 0, 1, 0x2000]

/-- Stored, and compressed in the stall's share; a list of some bales. -/
theorem wit_upload (d2 : Dword) (h : d2 = 0 ∨ d2 = 0x100000) :
    let t := uploadEntry d2
    let s := holding withSeg t
    InHand s t 0x40 ∧ newestWith (nameable (freed s) t.fn) (bits (dw t.e 2) 19 0) = some 0 ∧
      (∀ x ∈ ((nameable (freed s) t.fn).drop 0).take (max 1 (bits (dw t.e 3) 20 0)), x.closed = true) ∧
      uploadFault (freed s) t.fn t.e (nameable (freed s) t.fn) (some 0) = none ∧
      (bits (dw t.e 2) 21 20 = 0 ∨ s.stalls[t.fn].grant.share ≠ 0) ∧
      (jobBales (freed s) t.fn (nameable (freed s) t.fn) 0 (bits (dw t.e 3) 20 0) (bits (dw t.e 4) 15 0)).length = 1 := by
  rcases h with rfl | rfl <;> exact hand _ _ _ _ (by decide +kernel) (by decide +kernel)

/-- An upload outstanding under tag 7, running or over. -/
def uploading (l : List UploadJob) : State :=
  { withStall live 1 (fun x => { x with outst := [{ tag := 7, op := 0x40, fn := 1, gen := 1, work := .upload }] }) with
    jobs := { live.jobs with uploads := l } }

theorem wit_cancel :
    let t := taken 1 [0x41, 1, 7]
    let u : UploadJob := { fn := 1, stall := 1, tag := 7 }
    (InHand (holding (uploading []) t) t 0x41 ∧ reservedBit t.e [0xFFFF] = none ∧ (7 : BitVec 16) = BitVec.ofNat 16 (bits (dw t.e 2) 15 0) ∧
      ((findOutst (holding (uploading []) t) t.fn 7).any fun o => o.op == 0x40) = true ∧ findUpload (holding (uploading []) t) t.fn 7 = none) ∧
      InHand (holding (uploading [u]) t) t 0x41 ∧ ((findOutst (holding (uploading [u]) t) t.fn 7).any fun o => o.op == 0x40) = true ∧
      findUpload (holding (uploading [u]) t) t.fn 7 = some u :=
  ⟨hand _ _ _ _ (by decide +kernel) (by decide +kernel), hand _ _ _ _ (by decide +kernel) (by decide +kernel)⟩

/-- A load with a sound entry, and one whose length is 0. -/
theorem wit_load (len : Dword) (h : len = 0x100 ∨ len = 0) :
    let t := taken 1 [0x48, 1, 0x1000, 0, len, 0, 144]
    let u := taken 1 [0x48, 1, 0x1000, 0, 0x100, 0, 144, 0x80000000]
    let s := holding live t
    InHand s t 0x48 ∧ ceilDiv (field40 t.e 6) (144 * parcelBlocks) = 1 ∧ loadBusy (freed s) t.fn 1 = false ∧
      1 ≤ (areaGrant (freed s) t.fn 1).parcels.length ∧ loadFault t.e = (if len = 0 then some (4, 0) else none) ∧
      reservedBit t.e loadBits = none ∧ (loadFault u.e).isSome = true ∧ (reservedBit u.e loadBits).isSome = true := by
  rcases h with rfl | rfl <;> exact hand _ _ _ _ (by decide +kernel) (by decide +kernel)

/-- A load whose area is greater than the grant's parcels. -/
theorem wit_load_of_too_much :
    let t := taken 1 [0x48, 1, 0x1000, 0, 0x100, 0, 144 * 131072 * 3]
    let s := holding live t
    InHand s t 0x48 ∧ ceilDiv (field40 t.e 6) (144 * parcelBlocks) = 3 ∧ loadBusy (freed s) t.fn 3 = false ∧ loadFault t.e = none ∧
      (areaGrant (freed s) t.fn 3).parcels.length < 3 := hand _ _ _ _ (by decide +kernel) (by decide +kernel)

theorem wit_load_busy :
    let t := taken 1 [0x48, 1, 0x1000, 0, 0x100, 0, 144]
    let s := holding (capt {}) t
    InHand s t 0x48 ∧ loadBusy (freed s) t.fn 1 = true := hand _ _ _ _ (by decide +kernel) (by decide +kernel)

/-- A selection with no time, with one that lies in time, and with one that is late under `run_now`. -/
theorem wit_select (at_ : Dword) (h : at_ = 0 ∨ at_ = 0x200000 ∨ at_ = 0x1FFF00) :
    let t := taken 1 [0x49, 0x01000001, 0, 0, 0, 0, 0, 0, 0, 0, at_]
    let s := holding (withStall live 1 fun x => { x with ref := { x.ref with valid := true } }) t
    InHand s t 0x49 ∧ s.stalls[t.fn].ref.play = none ∧ s.stalls[t.fn].ref.valid = true ∧ selectFault s.stalls[t.fn].ref t.e = none ∧
      (selectLate t = false ∨ latePolicy t.e ≠ 0) ∧ startRefused (freed s) t = false ∧ selectLate t = (at_ == 0x1FFF00) := by
  rcases h with rfl | rfl | rfl <;> exact hand _ _ _ _ (by decide +kernel) (by decide +kernel)

/-! ## Witnesses: calibration, tests, tiles, power, the panel -/

/-- Channel 0 belongs to stall 1, which captures. -/
theorem wit_captured_channel :
    let t := taken 1 [0x50, 1, 1]
    let u := taken 1 [0x51, 1, 0, 1]
    let s := holding (capt {}) t
    let v := holding (capt {}) u
    (InHand s t 0x50 ∧ ownerOf s 0 = some 1 ∧ capturing s 1 = true ∧ reservedBit t.e [0x13F] = none ∧ (bits (dw t.e 2) 5 0).testBit 0 = true) ∧
      InHand v u 0x51 ∧ ownerOf v 0 = some 1 ∧ capturing v 1 = true ∧ bits (dw u.e 2) 3 0 = 0 ∧ bit (chanField u.e 3) 0 = true ∧
      ∀ d : Fin 48, bit (chanField u.e 3) d.val = true → ownsChan v u.fn d = true :=
  ⟨hand _ _ _ _ (by decide +kernel) (by decide +kernel), hand _ _ _ _ (by decide +kernel) (by decide +kernel)⟩

/-- Channel 5, the last of team 0, is tested, waits for its tile's calibration, or has had it while the job runs on. -/
theorem wit_arm_meets_test (j : List TestJob) (k : List CalJob)
    (h : j = [{ chans := 0x20 }] ∧ k = [] ∨ j = [] ∧ k = [{ todo := [0] }] ∨ j = [] ∧ k = [{ passed := 1 }] ∨ j = [] ∧ k = [{ failedT := 1 }]) :
    let s := holding { live with jobs := { live.jobs with tests := j, cal := k } } armEntry
    InHand s armEntry 0x38 ∧ s.dram.repairing = none ∧ ownsChan s armEntry.fn 5 = true ∧
      ((∃ j ∈ s.jobs.tests, bit j.chans 5 = true) ∨
        ∃ j ∈ s.jobs.cal, ∃ p : Fin 6, p.val = 5 / 8 ∧ (p ∈ j.todo ∨ bit j.passed p.val = true ∨ bit j.failedT p.val = true)) := by
  rcases h with ⟨rfl, rfl⟩ | ⟨rfl, rfl⟩ | ⟨rfl, rfl⟩ | ⟨rfl, rfl⟩ <;> exact hand _ _ _ _ (by decide +kernel) (by decide +kernel)

theorem wit_calibrate :
    let t := taken 0 [0x50, 0, 0x13F]
    let s := holding live t
    InHand s t 0x50 ∧ reservedBit t.e [0x13F] = none ∧ bits (dw t.e 2) 5 0 ≠ 0 ∧ capturedIn s (tileChans (bits (dw t.e 2) 5 0)) = false ∧
      s.tb.bypass = false := hand _ _ _ _ (by decide +kernel) (by decide +kernel)

theorem wit_selftest :
    let t := taken 1 [0x51, 1, 0, 0x3F]
    let s := holding live t
    InHand s t 0x51 ∧ bits (dw t.e 2) 3 0 = 0 ∧ reservedBit t.e [0xF, 0xFFFFFFFF, 0xFFFF] = none ∧
      (∀ c : Fin 48, bit (chanField t.e 3) c.val = true → ownsChan s t.fn c = true) ∧ capturedIn s (chanField t.e 3) = false ∧ s.tb.bypass = false :=
  hand _ _ _ _ (by decide +kernel) (by decide +kernel)

theorem wit_retry_lanes :
    let t := taken 1 [0x51, 1, 1]
    let u := taken 0 [0x51, 0, 1]
    (InHand (holding live t) t 0x51 ∧ bits (dw t.e 2) 3 0 = 1 ∧ t.fn ≠ 0) ∧
      InHand (holding live u) u 0x51 ∧ bits (dw u.e 2) 3 0 = 1 ∧ u.fn = 0 ∧ (holding live u).tb.bypass = false ∧ reservedBit u.e [0xF] = none ∧
      (holding live u).flash.noMore = false :=
  ⟨hand _ _ _ _ (by decide +kernel) (by decide +kernel), hand _ _ _ _ (by decide +kernel) (by decide +kernel)⟩

theorem wit_jobs_end :
    let s := { live with jobs := { live.jobs with cal := [{ tag := 3, todo := [5] }], tests := [{ fn := 1, stall := 1, tag := 4, chans := 1 }] } }
    (s.jobs.cal.find? fun j => j.todo.head? == some 5) = some { tag := 3, todo := [5] } ∧
      (s.jobs.tests.find? fun j => j.fn == 1 && j.tag == 4) = some { fn := 1, stall := 1, tag := 4, chans := 1 } := by decide +kernel

/-- Channel 0 has had a correction of 3 ticks pending for 1 s exactly; channel 47 has no owner. -/
def drifting : State := modChan (capt {}) 0 fun x => { x with pendCorr := 3, pendAt := 0x100000 - 256000000000 }

theorem wit_drift :
    ownerOf drifting 0 = some 1 ∧ capturing drifting 1 = true ∧ drifting.chans[(0 : Fin 48)].driftSent = false ∧
      2 < drifting.chans[(0 : Fin 48)].pendCorr.natAbs ∧ passed drifting.tb.now drifting.chans[(0 : Fin 48)].pendAt (1000 * ms) = true ∧
      ∀ n, ownerOf drifting 47 = some n → capturing drifting n = false := by decide +kernel

/-- The tiles with one temperature and one supply apart from the others. -/
def tilesAt (temp : BitVec 16) (supply : Int) : State := { live with tiles := vmap live.tiles fun i x =>
  { x with temp := if i = 5 then temp else 0, supply := if i = 0 then supply else 1000000 } }

/-- The limit of 15 °C is not crossed at it, and is a quarter of a degree above; the limit of the supplies likewise. -/
theorem wit_tile_limits :
    (tempSpread (tilesAt 60 1000000) ≤ 60 ∧ ∀ p : Fin 6, supplyBad (tilesAt 60 1000000) p = false) ∧
      (60 < tempSpread (tilesAt 61 1000000) ∧ live.fe.crossedT = false) ∧
      (∃ p : Fin 6, supplyBad (tilesAt 0 900000) p = true) ∧ live.fe.crossedV = false := by decide +kernel

theorem wit_spread_ends :
    let s := { live with fe := { live.fe with spread := true, goodSince := some (0x100000 - 25600000000) } }
    s.fe.goodSince = some (0x100000 - 25600000000) ∧ s.fe.spread = true ∧ passed s.tb.now (0x100000 - 25600000000) (100 * ms) = true := by
  decide +kernel

/-- `power_state` for a target, which for Dikewatch watches channel 0 of team 0. -/
def powerEntry (d : Dword) : Taken := taken 0 (if d = 1 then [0x68, 0, 1, 1, 1, 0, 1, 0] else [0x68, 0, d])

/-- Stall 1 is armed with `on_wake`. -/
def waiting : State := withStall live 1 fun x => { x with st := .armed, cap := some { arm := { gait := .walk, onWake := true } } }

theorem wit_power_targets :
    powerTarget (powerEntry 0).e = .dormant ∧ powerTarget (powerEntry 1).e = .dikewatch ∧ powerTarget (powerEntry 2).e = .ready ∧
      powerTarget (powerEntry 3).e = .run := by decide +kernel

theorem wit_power_moves (d : Dword) (h : d = 0 ∨ d = 1 ∨ d = 2 ∨ d = 3) :
    let t := powerEntry d
    let s := holding waiting t
    InHand s t 0x68 ∧ powerFault s t.e = none ∧ captureBars s = false ∧ s.power.target = none ∧ (s.power.st = powerTarget t.e ↔ d = 3) := by
  rcases h with rfl | rfl | rfl | rfl <;> exact hand _ _ _ _ (by decide +kernel) (by decide +kernel)

theorem wit_power_busy :
    let t := powerEntry 0
    let s := holding (capt {}) t
    InHand s t 0x68 ∧ powerFault s t.e = none ∧ captureBars s = true ∧ powerTarget t.e ≠ .run :=
  hand _ _ _ _ (by decide +kernel) (by decide +kernel)

theorem wit_power_timeout :
    let t := powerEntry 3
    let p : PowerTarget := { dest := .run, when := 0x100000 - 102400000, cmd := true }
    let s := holding { live with power := { live.power with st := .ready, target := some p } } t
    InHand s t 0x68 ∧ powerFault s t.e = none ∧ s.power.target = some p ∧ p.dest = .run ∧ p.cmd = true ∧
      passed s.tb.now p.when 400000 = true := hand _ _ _ _ (by decide +kernel) (by decide +kernel)

/-- `panel_config` with each of its bits. -/
theorem wit_panel (d : Dword) (h : d = 0 ∨ d = 1 ∨ d = 2 ∨ d = 3) :
    let t := taken 0 [0x69, 0, 0x43210123, 0x01000100, 0x00010001, 0xFFFFFF, d]
    let s := holding live t
    InHand s t 0x69 ∧ reservedBit t.e panelBits = none ∧
      (bit (dw t.e 6) 0 = true → ∀ k < 8, panelAction t.e k ≤ 4 ∧ s.stalls[panelStall t.e k].st ≠ .absent) := by
  rcases h with rfl | rfl | rfl | rfl <;> exact hand _ _ _ _ (by decide +kernel) (by decide +kernel)

theorem wit_keys :
    let s := { live with power := { live.power with st := .dormant } }
    recognises live = true ∧ bit live.panel.down 7 = false ∧ live.power.st ≠ .dormant ∧ recognises s = true ∧ bit s.panel.down 7 = false ∧
      s.power.st = .dormant := by decide +kernel

/-! ## Witnesses: flash, fuses, the Groom, reads of host memory -/

/-- `firmware_update` of the shortest image. -/
def updateEntry : Taken := taken 0 [0x70, 0, 0x1000, 0, 512, 1]

theorem wit_update_starts :
    let s := holding { live with flash := { live.flash with upd := some {} } } updateEntry
    let u := holding { live with flash := { live.flash with life := some {} } } updateEntry
    let v := holding live updateEntry
    (InHand s updateEntry 0x70 ∧ s.flash.upd.isSome = true) ∧ (InHand u updateEntry 0x70 ∧ u.flash.life.isSome = true) ∧
      InHand v updateEntry 0x70 ∧ v.flash.upd = none ∧ v.flash.life = none ∧ updateFault updateEntry.e = none :=
  ⟨hand _ _ _ _ (by decide +kernel) (by decide +kernel), hand _ _ _ _ (by decide +kernel) (by decide +kernel),
    hand _ _ _ _ (by decide +kernel) (by decide +kernel)⟩

theorem wit_lifecycle_starts :
    let t := taken 0 [0x71, 0, 1, 0x1000, 0, 4096]
    let s := holding live t
    InHand s t 0x71 ∧ lifeFault s t.e = none ∧ (∀ n, capturing s n = false) ∧ s.flash.upd = none ∧ s.flash.life = none :=
  hand _ _ _ _ (by decide +kernel) (by decide +kernel)

/-- An update whose image has a security version; the floor is 1. -/
def updating (ver : Nat) : State := { live with
  sec := { live.sec with floor := 1 }, flash := { live.flash with upd := some { tag := 9, image := { secVer := ver }, readOk := true } } }

theorem wit_update_ends :
    (updating 1).flash.upd = some { tag := 9, image := { secVer := 1 }, readOk := true } ∧ updateCommits (updating 1) = false ∧
      imageAllowed (updating 1) { secVer := 1 } = true ∧
      (updating 0).flash.upd = some { tag := 9, image := { secVer := 0 }, readOk := true } ∧ updateCommits (updating 0) = false ∧
      imageAllowed (updating 0) { secVer := 0 } = false := by decide +kernel

theorem wit_life_ends :
    let s (j : LifeJob) := { live with flash := { live.flash with life := some j } }
    (∀ j ∈ [({} : LifeJob), { wiped := true }, { wiped := true, programmed := true }], (s j).flash.life = some j) ∧
      blobReading (s {}) = false ∧ (s {}).sec.wiping = none ∧ lifeCommits (s { wiped := true, programmed := true }) = false ∧
      (s { wiped := true, programmed := true }).sec.wiping = none ∧ (s { wiped := true, programmed := true }).flash.noMore = false := by
  decide +kernel

theorem wit_flash_write :
    let s := { live with flash := { live.flash with ops := [{ entry := some { kind := 7 } }, {}] } }
    s.flash.ops = [{ entry := some { kind := 7 } }, {}] ∧ flashReachable s = true := by decide +kernel

theorem wit_tamper :
    let s := { live with sec := { live.sec with wiping := some 1, retried := true } }
    let d := { s with power := { s.power with st := .dormant } }
    armedTamper live = true ∧ coreRuns live = true ∧ live.sec.wiping = none ∧ live.flash.life = none ∧ live.sec.retried = false ∧
      s.sec.wiping = some 1 ∧ (1 : BitVec 2) ≠ 0 ∧ s.sec.retried = true ∧ coreRuns s = true ∧ d.sec.wiping = some 1 ∧ d.sec.retried = true ∧
      coreRuns d = false := by decide +kernel

/-- Stall 1's ring holds one entry, in the last slot of 16. -/
def ringed : State := { live with fns := live.fns.set 1 { live.fns[(1 : Fin 64)] with
  sqEnable := true, cqEnable := true, sqSize := 4, cqSize := 4, sqHead := 15, sqTail := 0 } }

/-- A `get_health` of stall 1 under generation 1. -/
def healthEntry : SqEntry := entry [0x00050002, 0x101, 0x1000, 0, 4096]

theorem wit_groom_takes :
    groomRuns ringed = true ∧ turnOf ringed = some 1 ∧ turnOf ringed ≠ some 2 ∧ tagBusy ringed 1 (tagOf healthEntry) = false ∧
      commonChecks (takeSlot ringed 1) 1 healthEntry = .pass := by decide +kernel

/-- The last command of a rate, and the last of the outstanding ones. -/
theorem wit_groom_full :
    let s := { ringed with stalls := ringed.stalls.set 1 { ringed.stalls[(1 : Fin 64)] with grant := { outstanding := 1, rate := 2 }, outst := [{}] } }
    let u := { ringed with
      stalls := ringed.stalls.set 1 { ringed.stalls[(1 : Fin 64)] with grant := { outstanding := 8, rate := 2 } }
      fns := ringed.fns.set 1 { ringed.fns[(1 : Fin 64)] with rateTaken := 2 } }
    s.stalls[(1 : Fin 64)].grant.outstanding ≤ outstanding s 1 ∧ u.stalls[(1 : Fin 64)].grant.rate ≤ takenNow u 1 := by decide +kernel

theorem wit_unknown_opcode :
    let t := taken 1 [0xFF, 1]
    (holding live t).groom.taken = some t ∧ opcode t.e ∉ opcodes := ⟨rfl, by decide +kernel⟩

/-- Entries of VF 1 that fail: a busy tag, a stall that is another's, an old generation, a flag of another opcode, an `upload` in shed stage 1; and
one of the physical function in the safe halt. -/
theorem wit_failed_checks :
    let busy := withStall ringed 1 fun x => { x with outst := [{ tag := 5 }] }
    let shed := { ringed with power := { ringed.power with supply := 1 } }
    let halt := { live with
      boot := { live.boot with phase := .halted }
      fns := live.fns.set 0 { live.fns[(0 : Fin 64)] with sqEnable := true, cqEnable := true, sqSize := 4, cqSize := 4, sqTail := 1 } }
    (groomRuns busy = true ∧ turnOf busy = some 1 ∧ tagBusy busy 1 (tagOf healthEntry) = true) ∧
      (groomRuns halt = true ∧ turnOf halt = some 0 ∧ tagBusy halt 0 0 = false ∧ opcode (entry [0x38]) ∈ opcodes ∧ halt.boot.phase = .halted ∧
        opcode (entry [0x38]) ∉ haltOpcodes) ∧
      ringed.boot.phase ≠ .halted ∧ opcode (entry [0x38, 0x201]) ∈ opcodes ∧ tagBusy ringed 1 0 = false ∧
      stallChecks (takeSlot ringed 1) 1 (entry [0x38, 2]) = .violate .otherStall 6 2 ∧
      stallChecks (takeSlot ringed 1) 1 (entry [0x38, 0x201]) = .fail .staleGeneration {} ∧
      stallChecks (takeSlot ringed 1) 1 (entry [0x638, 0x101]) = .pass ∧ (badHead (entry [0x638, 0x101])).isSome = true ∧
      groomRuns shed = true ∧ turnOf shed = some 1 ∧ stallChecks (takeSlot shed 1) 1 (entry [0x40, 0x101]) = .pass ∧
      badHead (entry [0x40, 0x101]) = none ∧ refusedByState (takeSlot shed 1) (entry [0x40, 0x101]) = some .shed := by decide +kernel

theorem wit_ring_fetch : ringPending ringed 1 = true := by decide +kernel

theorem wit_host_read :
    let r : HostRead := { id := 5, fn := 1, stall := 1, tag := 7, purpose := .image, len := 2 }
    let s := { live with groom := { live.groom with reads := [r] } }
    (s.groom.reads.find? fun r => r.id == 5) = some r ∧ [(0 : Byte), 0].length = r.len ∧ r.dead = false ∧ r.purpose = .image := by decide +kernel

/-! ## Witnesses: windows, scratchpads, messages, functions -/

/-- A word of an odd number of 1 bits to a register, and a word with a byte enable clear. -/
theorem wit_window_faults :
    let s := { live with fns := live.fns.set 1 { live.fns[(1 : Fin 64)] with lock := true } }
    reachable live 1 = true ∧ writable (alias_ 0x10) = true ∧ writable (alias_ 0x1C) = true ∧ evenParity 1 = false ∧ (0xE : BitVec 4) ≠ 0xF ∧
      reachable s 1 = true ∧ evenParity 3 = true ∧ s.fns[(1 : Fin 64)].lock = true ∧ hasLocked (alias_ 0x208) = true := by decide +kernel

/-- The last index of a ring of 16, and the first that is none; for a ring that is enabled and one that is not. -/
theorem wit_doorbells :
    reachable ringed 1 = true ∧ evenParity 15 = true ∧ evenParity 0x80000010 = true ∧ ringed.fns[(1 : Fin 64)].fault = false ∧
      alias_ 0x1C = 0x1C ∧ alias_ 0x2C = 0x2C ∧ ringed.fns[(1 : Fin 64)].sqEnable = true ∧
      bits (15 : Dword) 11 0 < 2 ^ bits ringed.fns[(1 : Fin 64)].sqSize 3 0 ∧ 2 ^ bits ringed.fns[(1 : Fin 64)].sqSize 3 0 ≤ bits (0x80000010 : Dword) 11 0 ∧
      bits (15 : Dword) 11 0 < 2 ^ bits ringed.fns[(1 : Fin 64)].cqSize 3 0 ∧ 2 ^ bits ringed.fns[(1 : Fin 64)].cqSize 3 0 ≤ bits (0x80000010 : Dword) 11 0 ∧
      reachable live 1 = true ∧ live.fns[(1 : Fin 64)].fault = false ∧ live.fns[(1 : Fin 64)].sqEnable = false := by decide +kernel

/-- Sizes of 4 and 12 are the least and the greatest. -/
theorem wit_control (size : Dword) (h : size = 4 ∨ size = 12) :
    let s := { live with fns := live.fns.set 1 { live.fns[(1 : Fin 64)] with sqSize := size, cqSize := size, fault := true } }
    reachable s 1 = true ∧ alias_ 0x08 = 0x08 ∧ s.fns[(1 : Fin 64)].lock = false ∧ s.fns[(1 : Fin 64)].sqEnable = false ∧
      s.fns[(1 : Fin 64)].cqEnable = false ∧ sizeOk s.fns[(1 : Fin 64)].sqSize = true ∧ sizeOk s.fns[(1 : Fin 64)].cqSize = true ∧
      s.fns[(1 : Fin 64)].fault = true ∧ alias_ 0x40 = 0x40 ∧ alias_ 0x10 = 0x10 := by rcases h with rfl | rfl <;> decide +kernel

/-- Enables of both rings, a lock, and both enables 0. -/
theorem wit_control_words :
    evenParity 3 = true ∧ bit (3 : Dword) 0 = true ∧ bit (3 : Dword) 1 = true ∧ evenParity 0x80000001 = true ∧ bit (0x80000001 : Dword) 31 = true ∧
      evenParity 0 = true ∧ bits (0 : Dword) 1 0 = 0 ∧ bit (0 : Dword) 0 = false ∧ bit (0 : Dword) 1 = false ∧
      ringed.fns[(1 : Fin 64)].lock = false ∧ ringed.fns[(1 : Fin 64)].sqEnable = true ∧ ringed.fns[(1 : Fin 64)].cqEnable = true := by decide +kernel

/-- The last word of the plain view, of the bit-set view, of the bit-clear view and of the other plain view. -/
theorem wit_scratch_views :
    reachable live 1 = true ∧ memWf live.scratch = true ∧ viewOf 0x3FF8 = 0 ∧ viewOf 0xFFF8 = 3 ∧ viewOf 0x7FF8 = 1 ∧ viewOf 0xBFF8 = 2 := by
  decide +kernel

theorem wit_messages :
    let s := { live with fns := live.fns.set 1 { live.fns[(1 : Fin 64)] with
      msixPending := 0x80, cntC := 1, cntE := 1, oldC := 0x100000 - 256000, oldE := 0x100000 - 256000, cqIrq := 0x20010010 } }
    reachable s 1 = true ∧ bit s.fns[(1 : Fin 64)].msixPending 7 = true ∧ s.fns[(1 : Fin 64)].cntC ≠ 0 ∧ s.fns[(1 : Fin 64)].cntE ≠ 0 ∧
      bits s.fns[(1 : Fin 64)].cqIrq 23 16 ≠ 0 ∧
      passed s.tb.now s.fns[(1 : Fin 64)].oldC (1000 * bits s.fns[(1 : Fin 64)].cqIrq 23 16) = true ∧
      passed s.tb.now s.fns[(1 : Fin 64)].oldE (1000 * bits s.fns[(1 : Fin 64)].cqIrq 23 16) = true := by decide +kernel

/-- An interval that has just run out, with nothing merged and with one happening. -/
theorem wit_rates (k : Nat) (h : k = 0 ∨ k = 1) :
    let key : RateKey := { code := 0x11, sub := 0, fn := 1 }
    let r : RateEntry := { key := key, since := 0x100000 - 256000, interval := 256000, count := k, newest := [] }
    let s := modGroom live fun g => { g with rates := [r] }
    (s.groom.rates.find? fun r => r.key == key) = some r ∧ later r.since s.tb.now = false ∧ r.interval.toNat ≤ (s.tb.now - r.since).toNat := by
  rcases h with rfl | rfl <;> decide +kernel

theorem wit_progress :
    let o : Outst := { tag := 7, op := 0x40, fn := 1, gen := 1, work := .upload, progress := true, lastProg := 0x100000 - 256000000 }
    let s := withStall live 1 fun x => { x with outst := [o] }
    findOutst s 1 7 = some o ∧ o.progress = true ∧ jobRuns s 1 o = true ∧ passed s.tb.now o.lastProg ms = true := by decide +kernel

/-- The last of the 63 functions that exist, and the device before VF Enable. -/
theorem wit_functions :
    let s := { live with pcie := { live.pcie with vfEnable := false } }
    live.pcie.cfgReady = true ∧ fnExists live 63 = true ∧ fnExists live 0 = true ∧ live.pcie.vfEnable = true ∧ (62 : Fin 64).val < live.pcie.numVFs ∧
      s.pcie.vfEnable = false ∧ s.pcie.cfgReady = true ∧ s.boot.phase ≠ .halted ∧ lifecycleOf s ≠ 4 ∧ (63 : Fin 64) ≠ 0 := by decide +kernel

theorem wit_reset_start :
    live.stalls[(2 : Fin 64)].st = .absent ∧ resetting.stalls[(1 : Fin 64)].st = .resetting ∧ live.stalls[(1 : Fin 64)].st ≠ .absent ∧
      live.stalls[(1 : Fin 64)].st ≠ .resetting ∧ fnExists live 1 = true := by decide +kernel

/-! ## Witnesses: channels, courses, gaits, segments, pods, references -/

/-- Channel 0 of stall 1 is enabled with its latches and at the middle of its window; the dwell of 10 has just been met. -/
def watched (openEn : Bool) : State := modChan live 0 fun x => { x with
  setting := if openEn then 0xF80000000A8297D7 else 0xF00000000A8297D7, sampledAt := 0x100000, overs := 0x80, unders := 0x01
  dwellFrom := 0x100100 - 256000, checking := false }

theorem wit_latches (openEn : Bool) :
    chLive (watched openEn).chans[(0 : Fin 48)] = true ∧ chLive live.chans[(0 : Fin 48)] = false ∧ samplesRun (watched openEn) = true ∧
      dwellDue (watched openEn) 0 (0x100100 - 256000) = true ∧ (watched openEn).chans[(0 : Fin 48)].sampledAt = (watched openEn).tb.now ∧
      bit (watched openEn).chans[(0 : Fin 48)].overs 7 = true ∧ bit (watched openEn).chans[(0 : Fin 48)].overs 6 = false ∧
      bit (watched openEn).chans[(0 : Fin 48)].unders 0 = true ∧ latchOf { (watched openEn).chans[(0 : Fin 48)] with above := true } .above = true ∧ chOpenEn (watched openEn).chans[(0 : Fin 48)].setting = openEn ∧
      chSideEn (watched openEn).chans[(0 : Fin 48)].setting true = true ∧
      chSideEn ({ (watched openEn).chans[(0 : Fin 48)] with setting := 0x80000000_0A8297D7 } : Channel).setting false = false ∧ (1 : Fin 48) ≠ 0 := by
  cases openEn <;> decide +kernel

theorem wit_open_check :
    let s := modChan (watched true) 0 fun x => { x with checking := true }
    chLive s.chans[(0 : Fin 48)] = true ∧ samplesRun s = true ∧ s.chans[(0 : Fin 48)].checking = true ∧ chOpenEn s.chans[(0 : Fin 48)].setting = true := by
  decide +kernel

/-- A commanded step about which the frame of the latches speaks. -/
theorem wit_latch_frame : ∃ u, exec (.latchExcursion 0 true 7) (watched true) = .next u := ⟨_, rfl⟩

/-- Stall 1 runs a course of one timer and one counter; its pulse on TRIG_OUT ends in this stride. -/
def coursed : State := withStall live 1 fun x => { x with
  course := some { timers := [{}], counters := [{}] }, eng := { x.eng with pulseEnd := some 0x1000FF } }

theorem wit_strides :
    let s := modEng live 1 fun e => { e with evalAt := 0x100000 }
    frontEndRuns coursed = true ∧ coursed.tb.timeValid = true ∧ coursed.stalls[(1 : Fin 64)].eng.evalAt ≠ coursed.tb.now ∧
      (s.stalls[(1 : Fin 64)].eng.evalAt = s.tb.now ∧ s.tb.now ≠ 0) ∧ (beginStride coursed 1 ⟨0, 0⟩).tb.bypass = false ∧
      (beginStride { coursed with tb := { coursed.tb with bypass := true } } 1 ⟨0, 0⟩).tb.bypass = true ∧
      (∃ p, coursed.stalls[(1 : Fin 64)].course = some p ∧ (0 : Fin 32).val < p.timers.length ∧ (0 : Fin 32).val < p.counters.length) ∧
      coursed.stalls[(1 : Fin 64)].eng.pulseEnd = some 0x1000FF ∧ past coursed.tb.now ((0x1000FF : Time) &&& ~~~ (255 : Time)) = false :=
  ⟨by decide +kernel, by decide +kernel, by decide +kernel, by decide +kernel, by decide +kernel, by decide +kernel,
    ⟨_, rfl, by decide +kernel, by decide +kernel⟩, by decide +kernel, by decide +kernel⟩

/-- Stall 1 captures in a gait with team 0, and stores since time 0. -/
def inGait (g : Gait) : Capture := { arm := { gait := g, gaitParam := 1000 }, phase := .running, teams := 1, segStrides := [{}] }

/-- In this stride channel 5 has a transition, or none has. -/
theorem wit_hoofbeat :
    let s := modChan (capt (inGait .canter)) 5 fun x => { x with setting := 0x80000000_0A8297D7, sampledAt := 0x100000, trans := 1 }
    ((allStalls.find? fun n => bit s.stalls[n].grant.teams (0 : Fin 8).val) = some 1 ∧ openIn s 1 .canter = some (inGait .canter) ∧
      bit (inGait .canter).teams 0 = true ∧ storedAt (inGait .canter) s.tb.now = true ∧ (teamList 0).any (fun k => hadTransition s k) = true ∧
      bit (hoofsDone s (inGait .canter)) 0 = false) ∧
      openIn (capt (inGait .canter)) 1 .canter = some (inGait .canter) ∧
      (teamList 0).any (fun k => hadTransition (capt (inGait .canter)) k) = false := by decide +kernel

/-- The clock channel 0 rises in sample 1 of the stride. -/
def clocked (c : Capture) : State := modChan (capt c) 0 fun x => { x with setting := 0x80000000_0A8297D7, sampledAt := 0x100000, samples := 0xFE, trans := 1, edge := 0x20 }

/-- An edge just too soon after the last, and one just far enough: at 1,000 kHz an edge in 256,000 ticks; one that the channel does not
show, and one of the other polarity. -/
theorem wit_trot (l : Time) (h : l = 0x100020 - 255999 ∨ l = 0x100020 - 256000) :
    let c := { inGait .trot with lastClock := some l, hasKey := true, chainTime := 0x100000 }
    let e : TrotEdge := { sample := 1, fine := 0, rising := true }
    let t := (clocked c).tb.now + BitVec.ofNat 64 (32 * e.sample.val + e.fine.toNat)
    openIn (clocked c) 1 .trot = some c ∧ clockHas (clocked c) (Fin.ofNat 48 c.arm.clockChan.toNat) e = true ∧
      clockHas (clocked c) (Fin.ofNat 48 c.arm.clockChan.toNat) { e with sample := 2 } = false ∧ edgeMatches c.arm.clockEdge e.rising = true ∧
      edgeMatches 0 false = false ∧ c.overruns = 0 ∧ storedAt c (clocked c).tb.now = true ∧
      storedAt { c with segStrides := [] } (clocked c).tb.now = false ∧
      keyDue (clocked c) c = false ∧ oneShot { c with arm := { c.arm with region := 1 } } = false ∧
      c.part.length < 15 ∧ (t - c.chainTime).toNat ≤ 1048575 ∧
      ((t - l).toNat < minEdge (1000 * c.arm.gaitParam.toNat) ↔ l = 0x100020 - 255999) := by rcases h with rfl | rfl <;> decide +kernel

/-- The end of Walk's period 3 of 1,001 strides, with the states of the last record and with others. -/
theorem wit_walk (m : ChanMask) (h : m = 0 ∨ m = 1) :
    let c := { inGait .walk with
      openAt := 0x100000 - 3003 * 256, walkIdx := 2, hasKey := true, walkStates := m, arm := { gait := .walk, gaitParam := 1000, region := 1 } }
    let s := capt c
    openIn s 1 .walk = some c ∧ s.stalls[(1 : Fin 64)].eng.storePend = none ∧ oneShot c = false ∧
      (relStride c s.tb.now / (walkPeriod c : Int)).toNat = 3 ∧ stateBefore s c.teams = 0 ∧ walkBoundary c s.tb.now = true ∧ c.walkIdx < 3 ∧
      keyDue s c = false ∧ storedAt c (s.tb.now - 256) = true ∧ c.part.length < 15 ∧
      walkBoundary { c with openAt := c.openAt + 256 } s.tb.now = false ∧ (3 : Nat) ≤ ({ c with walkIdx := 3 } : Capture).walkIdx := by
  rcases h with rfl | rfl <;> decide +kernel

theorem wit_formats :
    let s := modGroom (capt (inGait .walk)) fun g => { g with evQueue := [{ stall := 1, recs := [0] }], evLast := 0x100000 - 8192 }
    let u := modGroom live fun g => { g with evQueue := [{ stall := 1, recs := [0] }], evLast := 0x100000 - 8192 }
    openIn s 1 .walk = some (inGait .walk) ∧ fillOver s (inGait .walk) = false ∧ s.groom.evQueue = [{ stall := 1, recs := [0] }] ∧
      past s.tb.now (s.groom.evLast + strides 32) = false ∧ recording s 1 = true ∧ u.groom.evQueue = [{ stall := 1, recs := [0] }] ∧
      past u.tb.now (u.groom.evLast + strides 32) = false ∧ recording u 1 = false := by decide +kernel

/-- A fill that ended in the stride before, one that ends in this one, and a furlong of 24 strides that is whole. -/
theorem wit_closes :
    let c (t : Time) : Capture := { inGait .canter with seg := { trig := some { fillEnd := t } } }
    let f : Capture := { inGait .gallop with phase := .closing, openAt := 0x10000, lastStride := 0x10000 + 23 * 256, denseIdx := 1 }
    (capt (c 0xFFF00)).stalls[(1 : Fin 64)].cap = some (c 0xFFF00) ∧ fillOver (capt (c 0xFFF00)) (c 0xFFF00) = true ∧
      fillOver (capt (c 0x100000)) (c 0x100000) = false ∧ (capt f).stalls[(1 : Fin 64)].cap = some f ∧ furlongDone f = true := by decide +kernel

/-- A segment that is due in this stride and has room, and one whose region is greater than the polder. -/
theorem wit_opens :
    let c (n : Nat) : Capture := { arm := { region := n }, phase := .rearm, openAt := 0x100000 }
    (capt (c 0)).stalls[(1 : Fin 64)].cap = some (c 0) ∧ openDue (capt (c 0)) (c 0) = true ∧
      (makeRoom (applyRetire (capt (c 0)) 1) 1 (c 0) 0).2.isSome = true ∧
      (capt (c 262144)).stalls[(1 : Fin 64)].cap = some (c 262144) ∧ openDue (capt (c 262144)) (c 262144) = true ∧
      (makeRoom (applyRetire (capt (c 262144)) 1) 1 (c 262144) 0).2 = none := by decide +kernel

theorem wit_held (x : Seg) (h : x = { unacked := 1, hdrAcked := true } ∨ x = { unacked := 0 } ∨ x = { hdrAcked := true }) :
    let s := withStall live 1 fun y => { y with held := [{ closed := true }, x] }
    (s.stalls[(1 : Fin 64)].held.find? fun x => !x.closed) = some x ∧ (x.unacked ≠ 0 ∨ x.hdrAcked = false ∨ x = { hdrAcked := true }) := by
  rcases h with rfl | rfl | rfl <;> decide +kernel

theorem wit_pods :
    let s := modPort live 0 fun x => { x with phase := .settling, pwr := true }
    let r := modPort live 0 fun x => { x with phase := .reading }
    let p := modPort live 5 fun x => { x with present := true, pwr := true }
    recognises live = true ∧ live.ports[(0 : Fin 6)].present = false ∧ live.ports[(0 : Fin 6)].seenHigh = true ∧ live.power.st ≠ .dormant ∧
      s.ports[(0 : Fin 6)].phase = .settling ∧ s.ports[(0 : Fin 6)].pwr = true ∧ r.ports[(0 : Fin 6)].phase = .reading ∧ recognises p = true ∧ p.ports[(5 : Fin 6)].present = true ∧
      p.power.st ≠ .dormant ∧ p.ports[(5 : Fin 6)].pwr = true ∧ p.ports[(5 : Fin 6)].phase = .idle ∧ p.ports[(5 : Fin 6)].spur = false := by
  decide +kernel

/-- A stall's team has channels on a port exactly when the port is among its channels' ports. -/
theorem wit_port_owners : portOf (0 : Fin 48) = 0 ∧ ownsChan live 1 0 = true ∧ portOf (47 : Fin 48) = 5 := by decide +kernel

/-- The limits of the gates, each at the limit and one beyond. -/
theorem wit_gates :
    live.tb.gatesRun = true ∧ live.tb.timeValid = true ∧ ((100005000 : Int) - 100000000).natAbs ≤ 5000 ∧
      5000 < ((99994999 : Int) - 100000000).natAbs ∧ (4 * (97753 : Int) - 390625).natAbs * 1000 ≤ 390625 ∧
      390625 < (4 * (97754 : Int) - 390625).natAbs * 1000 ∧ live.power.st ≠ .dormant := by decide +kernel

theorem wit_clocks :
    let s := { live with tb := { live.tb with bypass := true, holdover := true, aonFault := true } }
    live.tb.bypass = false ∧ live.tb.timeValid = true ∧ (live.power.st = .run ∨ live.power.st = .ready) ∧ s.tb.holdover = true ∧ s.tb.bypass = true ∧
      (s.power.st = .run ∨ s.power.st = .ready) ∧ s.tb.aonFault = true := by decide +kernel

/-- One capture is armed, whose segment is open, in Gallop and in a typed gait; lost lock while the clocks are bypassed, or no time runs. -/
theorem wit_lock_lost :
    let s := { live with tb := { live.tb with bypass := true } }
    (∀ g ∈ [Gait.gallop, .canter], armedStalls (capt (inGait g)) = [1] ∧ (capt (inGait g)).stalls[(1 : Fin 64)].cap = some (inGait g) ∧
      (inGait g).phase = .running ∧ (inGait g).ended = none ∧ fillOver (capt (inGait g)) (inGait g) = false) ∧
      s.tb.bypass = true ∧ State.reset.tb.timeValid = false := by decide +kernel

/-! ## Witnesses: links, chains, lanes, uploads, playback -/

/-- Link 0 is JESD204B with one converter, down after SYSREF or up; it feeds chain 0. -/
def linked (up : Bool) : State := modLink live 0 fun x => { x with setting := 0x81218000, sysrefSeen := true, boundary := 0x100000, up := up }

theorem wit_syncs :
    let s := { live with tb := { live.tb with syncPending := [{ y := 0x100000, chains := 0x80 }, { y := 0x100100, chains := 1 }] } }
    live.tb.timeValid = true ∧ live.tb.bypass = false ∧ nextSync s = some 0x100000 ∧ past s.tb.now 0x100000 = false ∧ s.tb.bypass = false ∧
      (∀ r ∈ s.tb.syncPending, r.y = 0x100000 → bit r.chains (0 : Fin 8).val = false) := by decide +kernel

theorem wit_links :
    linkEnable (linked false).links[(0 : Fin 2)].setting = true ∧ (linked false).links[(0 : Fin 2)].up = false ∧
      (linked false).links[(0 : Fin 2)].sysrefSeen = true ∧ linkC (linked false).links[(0 : Fin 2)].setting = false ∧
      (linked true).links[(0 : Fin 2)].up = true ∧ lanesOf (linked true) 0 &&& ~~~ (0xFE : BitVec 8) ≠ 0 ∧
      bit (linkChains (linked true) 0) (1 : Fin 8).val = false ∧
      1 = linkM (linked true).links[(0 : Fin 2)].setting * linkS (linked true).links[(0 : Fin 2)].setting ∧ [(0x7FFF : BitVec 16)].length % 1 = 0 ∧
      [(0x7FFF : BitVec 16)].length / 1 = 1 ∧
      releaseTicks (linked true).links[(0 : Fin 2)].setting (linked true).links[(0 : Fin 2)].frame <
        (((linked true).tb.now - (linked true).links[(0 : Fin 2)].boundary).toInt : Rat) + 256 ∧
      (∀ j : Fin 8, chainSource (linked true) 1 ≠ some (0, j.val)) := by decide +kernel

/-- Chain 0 on link 0, anchored, in a detector mode, with what stands in it. -/
def chained (mode : BitVec 256) (f : Chain → Chain) : State := modChain (linked true) 0 fun c => f { c with
  setting := c.setting ||| 0x80000000 ||| (mode <<< 189), anchored := true }

theorem wit_no_output :
    linkOfChain (chained 0 id) 0 = some 0x81218000 ∧ chainRuns (chained 0 id).chains[(0 : Fin 8)] = true ∧
      emerged 0x100000 (outputTime (chained 0 id).chains[(0 : Fin 8)]) (chained 0 id).chains[(0 : Fin 8)].delayO = true ∧
      aroundPos (chained 0 id).chains[(0 : Fin 8)] (outputPos 0x81218000 (chained 0 id).chains[(0 : Fin 8)] / 1024) = none := by decide +kernel

/-- Output 20 lies at conditioned sample 8, and 17 of them are there. -/
theorem wit_output :
    let s := chained 0 fun c => { c with m := 20, condIdx := 17, cond := List.replicate 17 1 }
    linkOfChain s 0 = some 0x81218000 ∧ chainRuns s.chains[(0 : Fin 8)] = true ∧
      emerged s.tb.now (outputTime s.chains[(0 : Fin 8)]) s.chains[(0 : Fin 8)].delayO = true ∧
      (aroundPos s.chains[(0 : Fin 8)] (outputPos 0x81218000 s.chains[(0 : Fin 8)] / 1024)).isSome = true := by decide +kernel

theorem wit_detectors :
    let a : DetAcc := { stop := 1, done := true }
    let s := chained 1 fun c => { c with detWin := [a], delayD := 4096 }
    let u := chained 3 id
    let v := chained 3 fun c => { c with cycleFrom := some 0x100000 }
    let f := chained 0 fun c => { c with frozenAuto := true, lastBig := 0x100000 - 1024 * 256, setting := c.setting ||| (1 <<< 192) }
    (s.chains[(0 : Fin 8)].detWin = [a] ∧ chainRuns s.chains[(0 : Fin 8)] = true ∧ a.stop ≠ 0 ∧
      emerged s.tb.now a.stamp s.chains[(0 : Fin 8)].delayD = true ∧ a.done = true) ∧
      (chainRuns u.chains[(0 : Fin 8)] = true ∧ detMode u.chains[(0 : Fin 8)].setting = 3 ∧ u.chains[(0 : Fin 8)].cycleFrom = none) ∧
      (chainRuns v.chains[(0 : Fin 8)] = true ∧ detMode v.chains[(0 : Fin 8)].setting = 3 ∧ v.chains[(0 : Fin 8)].cycleFrom = some 0x100000 ∧
        past ((0x40000FFFE0 : Time) &&& ~~~ (31 : Time)) ((0x100000 : Time) + longCycle) = true) ∧
      f.chains[(0 : Fin 8)].frozenAuto = true ∧
      passed f.tb.now f.chains[(0 : Fin 8)].lastBig (1024 * bits f.chains[(0 : Fin 8)].setting 203 192) = true := by decide +kernel

/-- The slice of lane 0 holds a block; the last that the lane has, and the first that it has not. -/
def sliced (b : FbBlock) : State := { live with fbd := { slices := live.fbd.slices.set 0 [b] } }

theorem wit_issue :
    let b : FbBlock := { stall := 1, blk := 0xFFFFFFC }
    let d : FbBlock := { stall := 1, blk := 0x10000000 }
    (sliced b).fbd.slices[(0 : Fin 4)] = [b] ∧ laneRuns (sliced b) 0 = true ∧ (sliced b).lanes[(0 : Fin 4)].banks[bankOf (sliced b) 0 b.blk].length < 8 ∧
      laneAddr (sliced b) b.blk < laneSize (sliced b).lanes[(0 : Fin 4)] ∧
      (sliced d).lanes[(0 : Fin 4)].banks[bankOf (sliced d) 0 d.blk].length < 8 ∧
      laneSize (sliced d).lanes[(0 : Fin 4)] ≤ laneAddr (sliced d) d.blk ∧ b.part ≠ .header ∧ d.part ≠ .header := by decide +kernel

/-- A header behind a data block of its segment on another lane, and one behind none. -/
theorem wit_header :
    let h : FbBlock := { stall := 1, part := .header }
    let s := { live with fbd := { slices := (live.fbd.slices.set 0 [h]).set 1 [{ stall := 1 }] } }
    s.fbd.slices[(0 : Fin 4)] = [h] ∧ h.part = .header ∧ dataWaits s h.stall h.uid = true ∧ dataWaits (sliced h) h.stall h.uid = false := by
  decide +kernel

theorem wit_slots : laneOpen live 0 = true ∧ laneOpen (modLane live 0 fun x => { x with alert := true }) 0 = false := by decide +kernel

theorem wit_refresh :
    laneOpen live 0 = true ∧ live.lanes[(0 : Fin 4)].alert = false ∧ live.lanes[(0 : Fin 4)].replaying = [] ∧
      past live.tb.now live.lanes[(0 : Fin 4)].nextRefresh = false ∧ (∀ i : Fin 5, (Vector.replicate 5 CompTemp.above85)[i] ≠ .beyond) ∧
      (∃ i : Fin 5, (Vector.replicate 5 CompTemp.above85)[i] ≠ .normal) ∧ ∀ i : Fin 5, (Vector.replicate 5 CompTemp.normal)[i] = .normal := by
  decide +kernel

/-- Four neighbours are due after 18 activates of the window of 25 slots; a drift of a sixteenth of a unit interval, a correction that is due and one
that is not; 20 µs without a write. -/
theorem wit_upkeep :
    let s := modLane live 0 fun x => { x with nrDue := [2], acts := List.replicate 18 0 }
    let u := modLane live 0 fun x => { x with nextRefresh := 0x100000 + 600 * 256 }
    let w (t : Time) := modLane u 0 fun x => { x with fixAt := some t }
    let v := modLane (sliced {}) 0 fun x => { x with lastIssue := 0x100000 - 20000 * 256 }
    s.lanes[(0 : Fin 4)].nrDue = [2] ∧ laneOpen s 0 = true ∧ s.lanes[(0 : Fin 4)].replaying = [] ∧
      (s.lanes[(0 : Fin 4)].acts.filter fun k => s.lanes[(0 : Fin 4)].slot < k + 25).length +
        (neighbours (rowsOf s.lanes[(0 : Fin 4)]) (bits (2 : BitVec 21) 16 0)).length ≤ 22 ∧
      mayMaintain u 0 400 = true ∧ mayMaintain u 0 120 = true ∧ past u.tb.now u.lanes[(0 : Fin 4)].nextDqs = false ∧
      u.lanes[(0 : Fin 4)].fixAt = none ∧ (w 0x100000).lanes[(0 : Fin 4)].fixAt = some 0x100000 ∧ past (w 0x100000).tb.now 0x100000 = false ∧
      mayMaintain (w 0x100000) 0 400 = true ∧ (w 0x100100).lanes[(0 : Fin 4)].fixAt = some 0x100100 ∧ past (w 0x100100).tb.now 0x100100 = true ∧
      mayMaintain live 0 120 = false ∧ u.lanes[(0 : Fin 4)].drift + 1 / 16 ≤ 1 / 16 ∧ -1 / 16 ≤ u.lanes[(0 : Fin 4)].drift + 1 / 16 ∧
      u.lanes[(0 : Fin 4)].driftTrain + 1 / 16 ≤ 1 / 4 ∧ -1 / 4 ≤ u.lanes[(0 : Fin 4)].driftTrain + 1 / 16 ∧
      v.lanes[(0 : Fin 4)].usable = true ∧ v.dram.selfRefresh = false ∧ v.fbd.slices[(0 : Fin 4)] ≠ [] ∧
      passed v.tb.now v.lanes[(0 : Fin 4)].lastIssue 20000 = true := by decide +kernel

theorem wit_alert :
    let s := modLane live 0 fun x => { x with retry := [{ again := 2 }] }
    let u := modLane live 0 fun x => { x with alert := true, replayTimes := List.replicate 31 0x100000 }
    let v := modLane live 0 fun x => { x with unstable := true, speed := 2 }
    (laneRuns s 0 = true ∧ s.lanes[(0 : Fin 4)].alert = false ∧ ∀ c ∈ s.lanes[(0 : Fin 4)].retry, c.again < 3) ∧
      (u.lanes[(0 : Fin 4)].alert = true ∧ (u.lanes[(0 : Fin 4)].replayTimes.filter fun t => !passed u.tb.now t ms).length < 32) ∧
      laneRuns v 0 = true ∧ v.lanes[(0 : Fin 4)].unstable = true ∧ v.lanes[(0 : Fin 4)].failed = false ∧ drained v = true ∧
      (1 : BitVec 2) < v.lanes[(0 : Fin 4)].speed := by decide +kernel

theorem wit_repair :
    let s := { live with dram := { live.dram with repairQ := [{ lane := 3, row := 9 }] } }
    let u := { live with dram := { live.dram with repairing := some { lane := 3, row := 9 } } }
    s.dram.repairQ = [{ lane := 3, row := 9 }] ∧ s.dram.repairing = none ∧ (∀ n : Stall, capturing s n = false ∧ s.stalls[n].ref.play = none) ∧
      laneRuns s 3 = true ∧ s.lanes[(3 : Fin 4)].alert = false ∧ u.dram.repairing = some { lane := 3, row := 9 } ∧ u.jobs.waitArms = [] ∧
      u.jobs.waitKeys = [] := by decide +kernel

/-- Each of the four lanes has written its share of parcel 1. -/
theorem wit_wipe :
    let s := { live with dram := { live.dram with wipeQ := [{ parcel := 1 }] }, lanes := live.lanes.map fun x => { x with wiped := [1] } }
    s.dram.wipeQ = [{ parcel := 1 }] ∧ (usableLanes s).all (fun l => wipedOn s l 1) = true := by decide +kernel

theorem wit_scrub :
    let v := modLane live 0 fun x => { x with scrubbing := some 0 }
    laneRuns live 0 = true ∧ live.lanes[(0 : Fin 4)].failed = false ∧ live.lanes[(0 : Fin 4)].scrubbing = none ∧
      0 = live.lanes[(0 : Fin 4)].scrubAddr * (usableLanes live).length + laneIndex live 0 ∧ laneRuns v 0 = true ∧
      v.lanes[(0 : Fin 4)].failed = false ∧ v.lanes[(0 : Fin 4)].scrubbing.isSome = true := by decide +kernel

/-- The bits of some bytes, each byte's least significant first. -/
def bitsOf (l : List Byte) : List Bool := l.flatMap fun b => (List.range 8).map fun k => b.getLsbD k

/-- An upload of one block whose chunk has come, uncompressed or in mode 1; one whose chunk a compressor holds, which answers with a stored
block, or with none. -/
theorem wit_chunks (mode : BitVec 2) (h : mode = 0 ∨ mode = 1) :
    let u : UploadJob := { fn := 1, stall := 1, tag := 7, mode := mode, reqd := 1, got := [(0, List.replicate 16 0)] }
    let v : UploadJob := { u with reqd := 0, got := [], recs := List.replicate 144 0, comp := some 3 }
    chunkCome (uploading [u]) 1 = some u ∧ u.ended = false ∧ (uploading [u]).jobs.uploads = [u] ∧ u.cancel = [] ∧
      sglTotal u < u.off + 32 + u.clen + (storedBlock false (chunkBytes u)).length ∧
      ((uploading [v]).jobs.uploads.find? fun u => u.comp == some 3 && u.recs != []) = some v ∧ (uploading [v]).jobs.uploads = [v] ∧ v.ended = false ∧
      false = (v.pos + v.recs.length / 144 == ((v.bales.head?.map fun b => b.blocks.length).getD 0)) ∧
      chunkFits v (bitsOf (storedBlock false v.recs)) false = true ∧ chunkFits v [] false = false := by rcases h with rfl | rfl <;> decide +kernel

/-- The byte 61h as zlib's raw stream of it, under the fixed codes, and as a stored block (R318). -/
theorem test_inflate_one_byte :
    inflate 1 [0x4B, 0x04, 0x00] matches .ok [0x61] ∧ inflate 1 [0x01, 0x01, 0x00, 0xFE, 0xFF, 0x61] matches .ok [0x61] := by decide +kernel

/-- A bale that gives its one byte, one that gives a byte too many, one that ends short and one that is no stream; a bale more follows. -/
theorem wit_bale :
    let j : LoadJob := { fn := 1, stall := 1, tag := 7, bales := [(0, 1, crc32c [0x61]), (3, 1, 0)], clens := [3], data := [0x4B, 0x04, 0x00], dec := some 1 }
    let s := { live with jobs := { live.jobs with loads := [j] } }
    (s.jobs.loads.find? fun j => j.dec == some 1) = some j ∧ j.bales = (0, 1, crc32c [0x61]) :: [(3, 1, 0)] ∧
      (baleOut ((j.data.drop 0).take (j.clens.headD 0)) 1 (crc32c [0x61]) matches .ok [0x61]) ∧
      (baleOut [0x4B, 0x04, 0x00] 0 0 matches .error .limitExceeded) ∧ (baleOut [0x4B, 0x04, 0x00] 2 0 matches .error .dataError) ∧
      (baleOut [0x4B, 0x04, 0x00] 1 0 matches .error .checkFailed) ∧ (baleOut [0x07] 1 0 matches .error .dataError) := by decide +kernel

/-- Stall 1's reference of 192 samples, played since a stride. -/
def playing (first : Time) : State := withStall live 1 fun x => { x with
  ref := { x.ref with valid := true, stored := 1, length := 192, play := some { first := first } } }

/-- A start in this stride and in the next; a playback whose last stride was the one before, and one whose last stride this is; a block that the
slice does not hold. -/
theorem wit_playback :
    let s (t : Time) := withStall live 1 fun x => { x with ref := { x.ref with timed := some { when := t } } }
    let c := withStall live 1 fun x => { x with ref := { x.ref with came := [{ k := 0 }] } }
    ((s 0x100000).stalls[(1 : Fin 64)].ref.timed = some { when := 0x100000 } ∧ past (0x100000 : Time) 0x100000 = false ∧
      past (0x100000 : Time) 0x100100 = true) ∧ c.stalls[(1 : Fin 64)].ref.came ≠ [] ∧
      (playing 0x10000).stalls[(1 : Fin 64)].ref.play = some { first := 0x10000 } ∧
      past 0x100000 (playStop (playing (0x100000 - 24 * 256)).stalls[(1 : Fin 64)].ref { first := 0x100000 - 24 * 256 }) = false ∧
      past 0x100000 (playStop (playing (0x100000 - 23 * 256)).stalls[(1 : Fin 64)].ref { first := 0x100000 - 23 * 256 }) = true ∧
      past (0x100000 : Time) (0x100000 - 23 * 256) = false ∧ playSample live { first := 0x100000 - 23 * 256 } = 184 ∧
      ({ first := 0x100000 - 23 * 256 } : Playback).next ≠ 184 + 8 ∧
      missingBlock (playing (0x100000 - 23 * 256)).stalls[(1 : Fin 64)].ref 184 = some 0 := by decide +kernel

/-! ## Witnesses: Quera, power, Dikewatch, boot -/

/-- A message with its CRC, and one without. -/
def sealed_ (m : Nat) : BitVec 112 := BitVec.ofNat 112 m ||| (crc8 (BitVec.ofNat 112 m)).setWidth 112

/-- A message as its blocks come in behind 58 zeros. -/
def framed (m : BitVec 112) : Received :=
  let a := codeBlock 0 (controlBlock 0xD2 (m.extractLsb' 56 56))
  { before := 0, first := some a.1, second := (codeBlock a.2 (controlBlock 0xE1 (m.extractLsb' 0 56))).1 }

/-- The ports are enabled, and port 1, locked for 1 ms, is up or not. -/
def meshed (up : Bool) : State := { live with quera := { live.quera with
  portEnable := 0xF
  ports := live.quera.ports.set 1 { live.quera.ports[(1 : Fin 4)] with
    up := up, topoOk := 3, measured := true, t1 := some 0xFFF00, lockSince := some (0x100000 - 256000000) } } }

/-- Discards on port 1, all in this stride. -/
def discarding (k : Nat) : State := modQport (meshed true) 1 fun x => { x with discards := List.replicate k 0x100000 }

/-- A second block alone, a message with a bad CRC and one of kind 6; after 14 discards and after 15. -/
theorem wit_bad_messages :
    let l : List Received := [{ framed 0 with first := none }, framed 1, framed (sealed_ (6 * 2 ^ 108))]
    portLive (discarding 14) 1 = true ∧ (l.all fun rx => !breaksLock (discarding 14).quera.ports[(1 : Fin 4)] (lineBlocks rx)) = true ∧
      (l.map fun rx => (received rx).map fun m => (crcOk m, kindListed m)) = [none, some (false, false), some (true, false)] ∧
      ((discarding 14).quera.ports[(1 : Fin 4)].discards.filter fun t => !passed (discarding 14).tb.now t ms).length < 15 ∧
      portLive (discarding 15) 1 = true ∧ 15 ≤ ((discarding 15).quera.ports[(1 : Fin 4)].discards.filter fun t => !passed (discarding 15).tb.now t ms).length ∧
      (discarding 15).quera.ports[(1 : Fin 4)].up = true := by decide +kernel

/-- A request, and an answer to request 0. -/
theorem wit_timing :
    let q := sealed_ (0x2 * 2 ^ 108 + 100 * 2 ^ 100)
    let r := sealed_ (0x2 * 2 ^ 108 + 2 ^ 107 + 100 * 2 ^ 20)
    let s := meshed false
    portLive s 1 = true ∧ breaksLock s.quera.ports[(1 : Fin 4)] (lineBlocks (framed q)) = false ∧ received (framed q) = some q ∧ crcOk q = true ∧
      msgKind q = 2 ∧ bit q 107 = false ∧ breaksLock s.quera.ports[(1 : Fin 4)] (lineBlocks (framed r)) = false ∧ received (framed r) = some r ∧
      crcOk r = true ∧ msgKind r = 2 ∧ s.quera.ports[(1 : Fin 4)].t1 = some 0xFFF00 ∧ bit r 107 = true ∧
      bits r 106 100 = s.quera.ports[(1 : Fin 4)].reqSeq.toNat ∧ s.quera.upstream ≠ some 1 := by decide +kernel

theorem wit_time_step :
    let s := { live with quera := { live.quera with step := some 129 } }
    let u := { capt {} with quera := { live.quera with step := some 129 } }
    s.quera.step = some 129 ∧ stepAllowed s = true ∧ s.tb.timeValid = true ∧ stepAllowed u = false := by decide +kernel

theorem wit_ports :
    portLive (meshed false) 1 = true ∧ (meshed false).quera.ports[(1 : Fin 4)].up = false ∧ (meshed false).quera.ports[(1 : Fin 4)].topoOk = 3 ∧
      (meshed false).quera.ports[(1 : Fin 4)].measured = true ∧ lockHeld (meshed false) 1 = true ∧
      wiredRight (meshed false).quera.ports[(1 : Fin 4)] 1 = true ∧
      wiredRight { (meshed false).quera.ports[(1 : Fin 4)] with farPort := some 1 } 1 = false ∧ portUp (meshed true) 1 = true ∧
      shedStage (meshed true) < 2 := by decide +kernel

/-- A topology message and an identify message before the port is up, a census that comes home to the anchor with N = 1, and cross-triggers of this
epoch and of another. -/
theorem wit_messages_in :
    let s := meshed true
    let topo := sealed_ (0x3 * 2 ^ 108)
    let ident := sealed_ (0x4 * 2 ^ 108)
    let census := sealed_ (0x5 * 2 ^ 108 + 2 ^ 96 + 2 ^ 89)
    let trig (e : Nat) := sealed_ (0x1 * 2 ^ 108 + e * 2 ^ 84)
    ([topo, ident, census, trig 0, trig 1].all fun m => received (framed m) == some m && !breaksLock s.quera.ports[(1 : Fin 4)] (lineBlocks (framed m)) &&
        !breaksLock (meshed false).quera.ports[(1 : Fin 4)] (lineBlocks (framed m))) = true ∧
      (crcOk topo = true ∧ msgKind topo = 3 ∧ portLive (meshed false) 1 = true ∧ portUp (meshed false) 1 = false ∧ crcOk ident = true ∧ msgKind ident = 4) ∧
      (portLive s 1 = true ∧ portUp s 1 = true ∧ crcOk census = true ∧ msgKind census = 5 ∧ (1 : Fin 4) = opposite (firstPort (bit census 88)) ∧
        censusHome s (bits census 107 102) (bits census 101 96) (bits census 95 89) (bit census 88) = true) ∧
      crcOk (trig 0) = true ∧ msgKind (trig 0) = 1 ∧ isAlone s = false ∧ bits (trig 0) 91 84 = bits s.quera.epoch 7 0 ∧
      crcOk (trig 1) = true ∧ msgKind (trig 1) = 1 ∧ bits (trig 1) 91 84 ≠ bits s.quera.epoch 7 0 := by decide +kernel

/-- The device in a power state at a supply and a thermal stage. -/
def atStage (st : PowerSt) (supply thermal : Nat) : State := { live with power := { live.power with st := st, supply := supply, thermal := thermal } }

theorem wit_supply :
    (live.power.supply < (1 : Fin 5).val ∧ awake live = true) ∧ (atStage .dormant 3 0).power.supply < (4 : Fin 5).val ∧
      awake (atStage .dormant 3 0) = false ∧ (0 : Fin 4).val < (atStage .run 3 0).power.supply ∧ (atStage .run 3 0).power.supply < 4 ∧
      (atStage .run 3 0).power.supply ≤ (3 : Fin 4).val ∧ (atStage .run 4 0).power.supply = 4 ∧ awake (atStage .run 4 0) = true ∧
      (atStage .run 4 0).power.tripped = false ∧ closuresOver (atStage .run 4 0) = true ∧ (atStage .run 4 0).power.target = none ∧
      live.power.supply = 0 ∧ live.power.thermal = 0 ∧ live.power.done = 0 ∧ live.boot.phase = .ready ∧ live.power.st = .run := by decide +kernel

/-- A load and an upload that stage 1 stops. -/
theorem wit_stage_one :
    let s := { live with jobs := { live.jobs with loads := [{ fn := 1, stall := 1, tag := 7 }], uploads := [{ fn := 1, stall := 1, tag := 8 }] } }
    s.power.supply = 0 ∧ s.power.thermal = 0 ∧ s.power.done = 0 ∧ s.boot.phase = .ready ∧ s.power.st = .run ∧
      ({ fn := 1, stall := 1, tag := 7 } : LoadJob) ∈ s.jobs.loads :=
  ⟨rfl, rfl, rfl, rfl, rfl, List.mem_singleton_self _⟩

/-- The readings of eight sensors of which the sixth is the hottest. -/
def readings (q : BitVec 16) : Vector (BitVec 16) 8 := (Vector.replicate 8 0xFFF0).set 5 q

/-- 100 °C at one sensor enters stage 1, a quarter of a degree less does not; a second below 96 °C leaves it. -/
theorem wit_heat :
    let s := { atStage .run 0 1 with power := { (atStage .run 0 1).power with cool := Vector.replicate 3 (some (0x100000 - 256000000000)) } }
    awake live = true ∧ hottest (readings 400) = 400 ∧ live.power.thermal < heatStage (hottest (readings 400)).toInt ∧
      heatStage (hottest (readings 399)).toInt ≤ live.power.thermal ∧ heatLeft s < s.power.thermal ∧ s.power.thermal ≠ 4 ∧ awake s = true ∧
      live.power.thermal ≤ heatLeft live ∧ (atStage .run 0 4).power.thermal = 4 ∧ awake (atStage .dormant 0 1) = false ∧
      live.power.tripped = false := by decide +kernel

/-- A transition that a trip ends in Dormant, and one to each state that it may end in. -/
theorem wit_transitions (d : PowerSt) (h : d = .dormant ∨ d = .dikewatch ∨ d = .ready ∨ d = .run) :
    let s (t : Bool) := { live with power := { live.power with tripped := t, target := some { dest := d } } }
    (s false).power.target = some { dest := d } ∧ (s false).power.tripped = false ∧ d ≠ .off ∧
      ((s false).power.st ≠ .dikewatch ∨ d ≠ .run) ∧ mayEnter (s false) d = true ∧ (s true).power.target = some { dest := d } ∧ (s true).power.tripped = true := by
  rcases h with rfl | rfl | rfl | rfl <;> decide +kernel

/-- In Dikewatch, with no hit yet. -/
def watching : State := { live with power := { live.power with st := .dikewatch }, dike := { live.dike with
  stall := some 1, teams := 1, watch := { mask := 1, value := 1 } } }

/-- A stride in which channel 0 is above its threshold, or in which nothing is. -/
def seen (up : Bool) : StrideIn := {
  up := Vector.ofFn fun i => if i.val = 0 && up then 0xFF else 0, down := Vector.replicate 48 0, fine := Vector.replicate 48 0
  overs := Vector.ofFn fun i => if i.val = 0 && up then 0xFF else 0, unders := Vector.replicate 48 0
  out := Vector.ofFn fun i => if i.val = 0 && up then 0xFF else 0, trigIn := 0, seed := ⟨0, 0⟩ }

theorem wit_dikewatch :
    let s := modChan watching 0 fun x => { x with setting := 0x80000000_0A8297D7 }
    let r := { watching with power := { watching.power with target := some {} } }
    s.power.st = .dikewatch ∧ s.dike.stall.isSome = true ∧ s.dike.seen ≠ some s.tb.now ∧ watchTrue s.dike.watch s.dike.prev (dikeStates s (seen true)) = true ∧
      s.dike.hit = none ∧ s.power.target = none ∧ watchTrue s.dike.watch s.dike.prev (dikeStates s (seen false)) = false ∧
      r.power.st = .dikewatch ∧ r.power.target = some {} ∧ ({} : PowerTarget).dest = .run := by decide +kernel

/-- In Dormant: as commanded, from the safe halt, and after a trip at 95 °C and below it. -/
theorem wit_dormant_wakes (src : WakeSrc) (h : src = .pcie ∨ src = .quera 3) :
    let s (t : Bool) (q : BitVec 16) := { live with
      power := { live.power with st := .dormant, tripped := t, tj := q }, quera := { live.quera with portEnable := 0x8 } }
    let h := { s false 0 with boot := { (s false 0).boot with phase := .halted } }
    (∀ t q, (s t q).power.st = .dormant) ∧ (wakeCounts (s false 0) src = true ∧ (s false 0).power.tripped = false ∧ (s false 0).boot.phase = .ready ∧
        (s false 0).sec.wipeBad = false) ∧ (h.power.st = .dormant ∧ wakeCounts h src = true ∧ h.power.tripped = false ∧ h.boot.phase ≠ .ready) ∧
      (wakeCounts (s true 380) src = true ∧ (s true 380).power.tripped = true ∧ 380 ≤ (s true 380).power.tj.toInt) ∧
      wakeCounts (s true 379) src = true ∧ (s true 379).power.tj.toInt < 380 := by
  rcases h with rfl | rfl <;> exact ⟨fun _ _ => rfl, by decide +kernel⟩

/-- The boot at a step, and the state out of reset. -/
theorem wit_boot :
    let s (n : Nat) := { live with boot := { live.boot with phase := .booting, step := n } }
    (∀ n, (s n).boot.phase = .booting ∧ (s n).boot.step = n ∧ (s n).power.target = none ∧ (s n).power.st ≠ .dormant) ∧ (2 : Nat) ≠ 1 ∧ State.reset.boot.phase = .inReset ∧ State.reset.power.st ≠ .dormant ∧
      2047 < live.dram.total ∧ 2047 ∉ live.dram.retired :=
  ⟨fun _ => ⟨rfl, rfl, rfl, fun h => by cases h⟩, by decide +kernel⟩

/-! ## Witnesses: the clauses that give a next state field by field -/

/-- `probe_config` of a stall that captures. -/
theorem wit_probe_config_captures :
    let t := configEntry settingReset
    let s := holding (capt {}) t
    InHand s t 0x20 ∧ bit s.stalls[t.fn].grant.teams (configTeam t.e).val = true ∧ configFault t.e = none ∧
      (capturing s t.fn || segmentOpen s t.fn) = true ∧ bit (dw t.e 3) 0 = false ∧ bit (dw t.e 3) 1 = true :=
  hand _ _ _ _ (by decide +kernel) (by decide +kernel)

theorem wit_update_after_a_trip :
    let s := holding { live with flash := { live.flash with noMore := true } } updateEntry
    InHand s updateEntry 0x70 ∧ s.flash.upd = none ∧ s.flash.life = none ∧ updateFault updateEntry.e = none ∧ s.flash.noMore = true :=
  hand _ _ _ _ (by decide +kernel) (by decide +kernel)

/-- The shortest image: the header of slot format 1 and no body. -/
def shortImage : List Byte := [0x57, 0x44, 0x49, 0x4D, 1] ++ List.replicate 507 0

theorem wit_job_reads :
    let r (p : ReadFor) (k : Nat) : HostRead := { id := 5, purpose := p, len := k }
    let s (p : ReadFor) (k : Nat) := { live with
      groom := { live.groom with reads := [r p k] }, flash := { live.flash with life := some {}, upd := some {} } }
    ((s .blob 64).groom.reads.find? fun r => r.id == 5) = some (r .blob 64) ∧ (r .blob 64).dead = false ∧ (s .blob 64).flash.life = some {} ∧
      ((s .firmware 512).groom.reads.find? fun r => r.id == 5) = some (r .firmware 512) ∧ (s .firmware 512).flash.upd = some {} ∧
      shortImage.length = 512 ∧ imageFormOk shortImage = true ∧ leAt shortImage 0x10 4 + 512 = 512 := by decide +kernel

/-- Vector 0 with a message that waits, vector 1 masked; nothing pending at all. -/
theorem wit_vectors :
    let s := { live with fns := live.fns.set 1 { live.fns[(1 : Fin 64)] with msixEnable := true, msixPending := 3, msixMask := 3 } }
    reachable s 1 = true ∧ (0x00C : BitVec 13).toNat / 4 * 4 = 16 * (0 : Fin 8).val + 12 ∧ s.fns[(1 : Fin 64)].msixEnable = true ∧
      s.fns[(1 : Fin 64)].msixFnMask = false ∧
      (∀ w : Fin 8, w ≠ 0 → bit s.fns[(1 : Fin 64)].msixPending w.val = true → bit s.fns[(1 : Fin 64)].msixMask w.val = true) ∧
      bit s.fns[(1 : Fin 64)].msixPending 0 = true ∧ bit (0 : Dword) 0 = false ∧ bit (1 : Dword) 0 = true ∧ live.pcie.linkUp = true ∧
      live.pcie.cfgReady = true ∧ fnExists live 1 = true ∧ live.fns[(1 : Fin 64)].msixPending = 0 := by decide +kernel

theorem wit_lowered : live.pcie.vfEnable = true ∧ (1 : Fin 64).val < live.pcie.numVFs ∧
    ∀ k : Stall, (1 : Fin 64).val < k.val → live.stalls[k].st = .absent := by decide +kernel

/-- Stall 1 with a team and nothing else going on; channel 5 is live, channel 0 is not. -/
theorem wit_quiet_stride :
    let s := modChan live 5 fun x => { x with setting := 0x80000000_0A8297D7 }
    frontEndRuns s = true ∧ s.tb.timeValid = true ∧ s.stalls[(1 : Fin 64)].eng.evalAt ≠ s.tb.now ∧ s.stalls[(1 : Fin 64)].cap = none ∧
      s.stalls[(1 : Fin 64)].course = none ∧ s.stalls[(1 : Fin 64)].ref.play = none ∧ s.stalls[(1 : Fin 64)].ref.timed = none ∧
      s.stalls[(1 : Fin 64)].ref.queued = none ∧ s.stalls[(1 : Fin 64)].st ≠ .capturing ∧
      (∀ c : Fin 48, s.chans[c].pend = none ∧ s.chans[c].pendCorr = 0 ∧ s.chans[c].pendOffs = 0 ∧ s.chans[c].pendAt = 0 ∧
        s.chans[c].driftSent = false ∧ s.chans[c].forced = false ∧ -256 ≤ s.chans[c].corr ∧ s.chans[c].corr ≤ 256) ∧
      ownsChan s 1 0 = true ∧ ownsChan s 1 5 = true ∧ ownsChan s 1 6 = false ∧ chLive s.chans[(0 : Fin 48)] = false ∧
      chLive s.chans[(5 : Fin 48)] = true := by decide +kernel

theorem wit_course_levels :
    coursed.stalls[(1 : Fin 64)].eng.level = false ∧ ∀ m : Stall, m ≠ 1 → capturing coursed m = false := by decide +kernel

/-- A store on whose stride is this one, and one that waits yet. -/
theorem wit_store_on (t : Time) (h : t = 0x100000 ∨ t = 0x100100) :
    let c : Capture := { arm := { gait := .gallop, region := 1 }, phase := .running }
    let s := modEng (capt c) 1 fun e => { e with storePend := some { when := t } }
    s.stalls[(1 : Fin 64)].cap = some c ∧ s.stalls[(1 : Fin 64)].eng.storePend = some { when := t } ∧ oneShot c = false ∧ c.teams = 0 ∧
      (past s.tb.now t = true ↔ t = 0x100100) := by rcases h with rfl | rfl <;> decide +kernel

/-- Gap 31 and 32 strides after the last record of Canter, no keyframe being due. -/
theorem wit_hoof_room (d : Nat) (h : d = 31 ∨ d = 32) :
    let c := { inGait .canter with arm := { gait := .canter, region := 1 }, hasKey := true, chainTime := 0x100000 - BitVec.ofNat 64 (256 * d) }
    let s := modChan (capt c) 5 fun x => { x with setting := 0x80000000_0A8297D7, sampledAt := 0x100000, trans := 1 }
    openIn s 1 .canter = some c ∧ keyDue s c = false ∧ oneShot c = false ∧ c.part.length < 15 ∧ strideOf (s.tb.now - c.chainTime) = d ∧
      (hoofsDone s c).toNat / 2 ^ (0 : Fin 8).val = 0 := by rcases h with rfl | rfl <;> decide +kernel

/-- A whole dense block of Gallop and one without its last sample; a keyframe due at the first stride of a Trot segment. -/
theorem wit_blocks_of_the_gaits :
    let g (k : Nat) : Capture := { inGait .gallop with arm := { gait := .gallop, region := 1 }, dense := List.replicate k 0 }
    let c := { inGait .trot with arm := { gait := .trot, region := 1 } }
    denseFull (g (8 * denseStrides 1)) = true ∧ denseFull (g (8 * denseStrides 1 - 1)) = false ∧
      ((g 0).denseIdx + 1) % (64 - (g 0).sideBlocks) ≠ 0 ∧ oneShot (g 0) = false ∧ fillOver (capt c) c = false ∧ keyDue (capt c) c = true ∧
      oneShot c = false ∧ c.part.length < 14 ∧ keyDue (capt { c with hasKey := true }) { c with hasKey := true } = false ∧
      recording (capt (g 0)) 1 = true ∧ (capt (g 0)).stalls[(1 : Fin 64)].cap = some (g 0) := by decide +kernel

/-- A Gallop fill that ended in the stride before; a closing furlong of an arm without end that is whole; an open with room for its region. -/
theorem wit_segments :
    let x : Trig := { fillEnd := 0xFFF00 }
    let c : Capture := { inGait .gallop with seg := { trig := some x } }
    let f : Capture := { inGait .gallop with phase := .closing, openAt := 0x10000, lastStride := 0x10000 + 23 * 256, denseIdx := 1 }
    let o : Capture := { arm := { region := 1 }, phase := .rearm, openAt := 0x100000 }
    let r : Capture := { phase := .running }
    fillOver (capt c) c = true ∧ c.seg.trig = some x ∧ c.arm.gait = .gallop ∧ furlongDone f = true ∧ f.ended = none ∧ f.arm.segments = 0 ∧
      openDue (capt o) o = true ∧ (capt o).dram.retirePend = [] ∧ o.arm.region ≠ 0 ∧ o.arm.wrap = false ∧
      1 + o.arm.region ≤ freeBlocks (capt o) 1 ∧ (liveSegs (capt o) 1).length < 2 ^ 20 ∧ r.phase = .running ∧ r.ended = none ∧ r.flush = [] ∧
      r.heldTrigger = [] := by decide +kernel

theorem wit_stopped_clocks :
    let s := { live with power := { live.power with st := .dikewatch } }
    live.tb.timeValid = true ∧ live.tb.bypass = false ∧ s.power.st = .dikewatch := by decide +kernel

/-- A first SYSREF edge, one 33 ticks off the period of the last, and a link that is off. -/
theorem wit_sysref :
    let s := modLink (linked false) 0 fun x => { x with sysrefSeen := false }
    let e : Time := 0x100000 + 64
    s.tb.timeValid = true ∧ linkEnable s.links[(0 : Fin 2)].setting = true ∧ s.links[(0 : Fin 2)].sysrefSeen = false ∧
      (linked false).links[(0 : Fin 2)].sysrefSeen = true ∧ e = e &&& ~~~ (31 : Time) ∧
      (edgeOff (linked false).links[(0 : Fin 2)] e < -32 ∨ 32 < edgeOff (linked false).links[(0 : Fin 2)] e) ∧
      linkEnable s.links[(1 : Fin 2)].setting = false ∧ s.tb.bypass = false := by decide +kernel

/-- No lane has alignment, or each has. -/
theorem wit_alignment :
    (0 : BitVec 8) &&& lanesOf (linked false) 0 ≠ lanesOf (linked false) 0 ∧ (0xFF : BitVec 8) &&& lanesOf (linked false) 0 = lanesOf (linked false) 0 ∧
      linkC (linked false).links[(0 : Fin 2)].setting = false ∧ linkC (0xC1218000 : BitVec 128) = true := by decide +kernel

/-- No stall owns the chains. -/
def unowned (s : State) : State := withStall s 1 fun x => { x with grant := { x.grant with chains := 0 } }

/-- Channel 0 rises at the start of the stride. -/
def withEdge (s : State) : State := modChan s 0 fun x => { x with sampledAt := 0x100000, samples := 0xFF, before := false }

/-- An edge of channel 0 at the start of the stride, on the sample grid; one too soon after the last, and a cycle that is at its longest. -/
theorem wit_cycles :
    let s (c : Option Time) := withEdge (chained 3 fun x => { x with setting := x.setting ||| (1 <<< 169), cycleFrom := c })
    ([none, some (0x100000 - 255 : Time), some (0x100000 - longCycle)].all fun c => decide (linkOfChain (s c) 0 = some 0x81218000 ∧
      chainRuns (s c).chains[(0 : Fin 8)] = true ∧ detMode (s c).chains[(0 : Fin 8)].setting = 3 ∧ past (0x100000 : Time) ((s c).tb.now + 256) = true ∧
      cycleEdgeAt (s c) (s c).chains[(0 : Fin 8)].setting 0x100000 = true ∧ cycleEdgeAt (s c) (s c).chains[(0 : Fin 8)].setting 0x100020 = false)) ∧
      later (0x100000 : Time) (s none).chains[(0 : Fin 8)].t1 = true ∧ leads (0x100000 : Time) (0x100000 - 255) 256 = false ∧
      past (0x100000 : Time) (0x100000 - 255 + longCycle) = true ∧ past (0x100000 : Time) (0x100000 - longCycle + longCycle) = false := by
  decide +kernel

/-- A detector window that is at its end but not filled; and chains that no stall owns. -/
theorem wit_empty_window :
    let a : DetAcc := { stop := 1 }
    let s := chained 1 fun c => { c with detWin := [a], delayD := 4096 }
    linkOfChain s 0 = some 0x81218000 ∧ s.chains[(0 : Fin 8)].detWin = [a] ∧ chainRuns s.chains[(0 : Fin 8)] = true ∧ a.stop ≠ 0 ∧
      emerged s.tb.now a.stamp s.chains[(0 : Fin 8)].delayD = true ∧ a.done = false ∧ chainOwner (unowned s) 0 = none := by decide +kernel

/-- A slot of lane 0 with a write in bank queue 3; one that may not activate, and one with a neighbour refresh due. -/
theorem wit_slot_of_a_lane :
    let w : WrReq := { when := 0x100000 }
    let s := modLane live 0 fun x => { x with banks := x.banks.set 3 [w] }
    let x := settled s.tb.now { s.lanes[(0 : Fin 4)] with slot := s.lanes[(0 : Fin 4)].slot + 1 }
    laneOpen s 0 = true ∧ mayActivate x = true ∧ x.replaying = [] ∧ x.nrDue = [] ∧ x.retry.length < 64 ∧
      leavesRead (modLane s 0 fun _ => x) 0 = false ∧ pick (modLane s 0 fun _ => x) 0 = .bank 3 ∧ x.banks[(3 : Fin 16)] = [w] ∧
      mayActivate { x with acts := List.replicate 22 1 } = false ∧ ({ x with nrDue := [2] } : Lane).nrDue ≠ [] := by decide +kernel

/-- A write whose last beat is 40 ns past; reads of the patrol and of playback. -/
theorem wit_answers (b : Bool) :
    let w : WrReq := { blk := 3, recs := List.replicate 16 0 }
    let c : LaneCmd := { id := 7, wr := some w, when := 0x100000 - 60 * 256 }
    let s := modLane live 0 fun x => { x with retry := [c], failed := b, speed := 2 }
    let q : RdReq := { blk := 3, owner := if b then .scrub else .play 1 0 }
    let d : LaneCmd := { id := 8, rd := some q }
    let u := modRef (modLane live 0 fun x => { x with retry := [d] }) 1 fun r => { r with asked := 1 }
    (s.lanes[(0 : Fin 4)].retry.find? fun c => c.id == 7) = some c ∧ beatsPast s.tb.now s.lanes[(0 : Fin 4)] c = true ∧
      (∀ d ∈ s.lanes[(0 : Fin 4)].retry, d.id < 7 → ∀ v, d.wr = some v → v.blk ≠ w.blk) ∧ s.lanes[(0 : Fin 4)].failed = b ∧
      laneRuns u 0 = true ∧ u.lanes[(0 : Fin 4)].answered = [] ∧ (u.lanes[(0 : Fin 4)].retry.find? fun c => c.rd.isSome && !c.done) = some d ∧
      u.lanes[(0 : Fin 4)].alert = false ∧ u.lanes[(0 : Fin 4)].replaying.contains d.id = false ∧ u.lanes[(0 : Fin 4)].failed = false ∧
      u.dram.bad.contains q.blk = false ∧ (if b then q.owner = .scrub else q.owner = .play 1 0) ∧ 0 < u.stalls[(1 : Fin 64)].ref.asked ∧
      u.stalls[(1 : Fin 64)].ref.came.any (fun b => b.k == 0) = false ∧ u.stalls[(1 : Fin 64)].ref.slice.any (fun b => b.k == 0) = false := by
  cases b <;> refine ⟨?_, ?_, ?_, ?_⟩ <;> first | decide +kernel | simp [modLane]

theorem wit_cool : live.lanes[(0 : Fin 4)].hot = false ∧ live.lanes[(0 : Fin 4)].coolSince = none ∧ live.lanes[(0 : Fin 4)].usable = true ∧
    live.dram.selfRefresh = false ∧ past live.tb.now (0x100100 : Time) = true := by decide +kernel

theorem wit_repair_free :
    let s := { live with dram := { live.dram with repairQ := [{ lane := 3, row := 9 }] } }
    (∀ n : Stall, capturing s n = false ∧ opensSoon s n = false ∧ s.stalls[n].ref.play = none) ∧ laneRuns s 3 = true ∧
      s.lanes[(3 : Fin 4)].alert = false ∧ repairWaits s { lane := 3, row := 9 } = false ∧ s.flash.breach.length < 1024 := by decide +kernel

/-- A start that runs, for its segment is open, and one that does not: the stall has no selection. -/
theorem wit_starts :
    let s := withStall (capt { phase := .running, refAtArm := true }) 1 fun x => { x with
      ref := { x.ref with valid := true, params := some {}, timed := some { when := 0x100000 } } }
    let u := withStall live 1 fun x => { x with ref := { x.ref with timed := some { when := 0x100000 } } }
    s.stalls[(1 : Fin 64)].ref.timed = some { when := 0x100000 } ∧ s.stalls[(1 : Fin 64)].ref.play = none ∧ startFault s 1 = none ∧
      u.stalls[(1 : Fin 64)].ref.timed = some { when := 0x100000 } ∧ u.stalls[(1 : Fin 64)].ref.play = none ∧ startFault u 1 = some 4 ∧
      ({ k := 0 } : StagedBlock).k = nextStaged live.stalls[(1 : Fin 64)].ref := by decide +kernel

theorem wit_step_stops : stepAllowed (capt {}) = false ∧ portLive (meshed false) 1 = true := by decide +kernel

/-- A topology message and a response of 65,535 ticks wait on port 1, and one of 65,536 no longer; on port 0 nothing does; and a message of each
kind. -/
theorem wit_queues :
    let r (t : Time) : QOut := { msg := sealed_ (0x2 * 2 ^ 108 + 2 ^ 107), since := some t }
    let s := modQport (meshed true) 1 fun x => { x with queue := [{ msg := sealed_ (0x3 * 2 ^ 108) }, r (0x100000 - 65535), r (0x100000 - 65536)] }
    Machine.waiting s.quera.ports[(1 : Fin 4)] (25 * 0x100000) = [{ msg := sealed_ (0x3 * 2 ^ 108) }, r (0x100000 - 65535)] ∧
      Machine.ready s.quera.ports[(1 : Fin 4)] (25 * 0x100000) = [{ msg := sealed_ (0x3 * 2 ^ 108) }, r (0x100000 - 65535)] ∧
      Machine.ready (modQport s 1 fun x => { x with queue := [{ r (0x100000 - 65535) with after := some 0x100001 }] }).quera.ports[(1 : Fin 4)]
        (25 * 0x100000) = [] ∧
      past (atTick (25 * 0x100000)) (0x100000 - 65535) = false ∧ Machine.waiting s.quera.ports[(0 : Fin 4)] (25 * 0x100000) = [] ∧
      (∀ k < 6, 1 ≤ k → msgKind (BitVec.ofNat 112 (k * 2 ^ 108)) = k) ∧ bit (BitVec.ofNat 112 (2 * 2 ^ 108 + 2 ^ 107)) 107 = true ∧
      ∀ r ∈ s.quera.routes, bit r.recv 0 = false := by decide +kernel

/-- After a trip: with every closure over, with a capture still closing, and in Dormant. -/
theorem wit_trips :
    let s := { live with power := { live.power with tripped := true, target := some {} } }
    let u := { capt { phase := .closing } with power := s.power }
    let v := { s with power := { s.power with st := .dormant } }
    s.power.target = some {} ∧ s.power.tripped = true ∧ closuresOver s = true ∧ u.power.target = some {} ∧ u.power.tripped = true ∧
      closuresOver u = false ∧ v.power.tripped = true ∧ v.power.st = .dormant := by decide +kernel

end Sys2Proof.Tests
end

section
/-! SUPPORT. What one command can do to system time, the two addressed memories and the queue: all but the rows that the claims name
(`writesScratch`, `writesDram`, `movesTime`) keep the four, and the rest leave the queue alone and keep soundness. -/

open Sys2Proof.Claims

namespace Sys2Proof.Machine

/-- The rows that may write a memory or system time. -/
def writesKept (c : Instr) : Bool := writesScratch c || writesDram c || movesTime c

/-- A row that writes neither memory nor system time keeps both, and the queue. -/
theorem exec_kept (c : Instr) (s : State) (h : writesKept c = false) : keptBy s (exec c s) :=
  match c, h with
  | .stallDestroy, _ => execStallDestroy_kept s
  | .stallReset, _ => execStallReset_kept s
  | .stallGrant, _ => execStallGrant_kept s
  | .stallRevoke, _ => execStallRevoke_kept s
  | .probeConfig seed, _ => execProbeConfig_kept seed s
  | .latchClear, _ => execLatchClear_kept s
  | .sluiceConfigChain, _ => execSluiceConfigChain_kept s
  | .sluiceConfigLink, _ => execSluiceConfigLink_kept s
  | .dcFreeze, _ => execDcFreeze_kept s
  | .dcThaw, _ => execDcThaw_kept s
  | .dcReset, _ => execDcReset_kept s
  | .sluiceSync, _ => execSluiceSync_kept s
  | .courseLoad, _ => execCourseLoad_kept s
  | .captureArm, _ => execCaptureArm_kept s
  | .captureStop, _ => execCaptureStop_kept s
  | .captureForce, _ => execCaptureForce_kept s
  | .captureMark, _ => execCaptureMark_kept s
  | .upload, _ => execUpload_kept s
  | .uploadCancel, _ => execUploadCancel_kept s
  | .referenceLoad, _ => execReferenceLoad_kept s
  | .referenceSelect, _ => execReferenceSelect_kept s
  | .calibrate, _ => execCalibrate_kept s
  | .selftest, _ => execSelftest_kept s
  | .retryLanes, _ => execRetryLanes_kept s
  | .queraConfig, _ => execQueraConfig_kept s
  | .crossTriggerRoute, _ => execCrossTriggerRoute_kept s
  | .powerStateDormant, _ => execPowerStateDormant_kept s
  | .powerStateDikewatch, _ => execPowerStateDikewatch_kept s
  | .powerStateReady, _ => execPowerStateReady_kept s
  | .powerStateRun, _ => execPowerStateRun_kept s
  | .panelConfigKeys, _ => execPanelConfigKeys_kept s
  | .panelConfigLeds, _ => execPanelConfigLeds_kept s
  | .firmwareUpdate, _ => execFirmwareUpdate_kept s
  | .lifecycle, _ => execLifecycle_kept s
  | .unknownOpcode, _ => execUnknownOpcode_kept s
  | .groomTakeCommand f entry ecc, _ => execGroomTakeCommand_kept f entry ecc s
  | .hostReadComplete r data, _ => execHostReadComplete_kept r data s
  | .hostReadTimeout r, _ => execHostReadTimeout_kept r s
  | .sqTailDoorbell f off val be, _ => execSqTailDoorbell_kept f off val be s
  | .cqHeadDoorbell f off val be ecc, _ => execCqHeadDoorbell_kept f off val be ecc s
  | .sqEnable f off val be, _ => execSqEnable_kept f off val be s
  | .sqDisable f off val be, _ => execSqDisable_kept f off val be s
  | .cqEnable f off val be, _ => execCqEnable_kept f off val be s
  | .cqDisable f off val be, _ => execCqDisable_kept f off val be s
  | .winControlLock f off val be, _ => execWinControlLock_kept f off val be s
  | .faultLeave f off val be, _ => execFaultLeave_kept f off val be s
  | .errStatusClear f off val be, _ => execErrStatusClear_kept f off val be s
  | .registerWrite f off val be, _ => execRegisterWrite_kept f off val be s
  | .msixVectorUnmask f off val be enable fnMask, _ => execMsixVectorUnmask_kept f off val be enable fnMask s
  | .msixHoldoffExpiry f event, _ => execMsixHoldoffExpiry_kept f event s
  | .functionLevelReset f, _ => execFunctionLevelReset_kept f s
  | .vfDisable n, _ => execVfDisable_kept n s
  | .dStateChange f w, _ => execDStateChange_kept f w s
  | .perst, _ => execPerst_kept s
  | .courseStride st inp, _ => execCourseStride_kept st inp s
  | .courseTimerLimit st n, _ => execCourseTimerLimit_kept st n s
  | .courseCounterCompare st n, _ => execCourseCounterCompare_kept st n s
  | .storeOnDeferred st, _ => execStoreOnDeferred_kept st s
  | .trigOutPulseEnd st, _ => execTrigOutPulseEnd_kept st s
  | .hoofbeat t, _ => execHoofbeat_kept t s
  | .trotClockEdge st edge, _ => execTrotClockEdge_kept st edge s
  | .walkPeriodEnd st, _ => execWalkPeriodEnd_kept st s
  | .gallopDenseBlock st, _ => execGallopDenseBlock_kept st s
  | .keyframe st, _ => execKeyframe_kept st s
  | .postTriggerFillEnd st, _ => execPostTriggerFillEnd_kept st s
  | .gallopFurlongClose st, _ => execGallopFurlongClose_kept st s
  | .segmentClosed st seed, _ => execSegmentClosed_kept st seed s
  | .segmentOpen st seed, _ => execSegmentOpen_kept st seed s
  | .latchExcursion c above sample, _ => execLatchExcursion_kept c above sample s
  | .dwellMet c first, _ => execDwellMet_kept c first s
  | .openCheckEnd c undriven, _ => execOpenCheckEnd_kept c undriven s
  | .podPlug p t, _ => execPodPlug_kept p t s
  | .podPwrSettled p, _ => execPodPwrSettled_kept p s
  | .podDescriptorRead p bytes seed, _ => execPodDescriptorRead_kept p bytes seed s
  | .podUnplug p t, _ => execPodUnplug_kept p t s
  | .podOvercurrent p t, _ => execPodOvercurrent_kept p t s
  | .spurPress p t, _ => execSpurPress_kept p t s
  | .keyPress k t, _ => execKeyPress_kept k t s
  | .ledBlinkToggle, _ => execLedBlinkToggle_kept s
  | .calibrateTileDone p pass meas, _ => execCalibrateTileDone_kept p pass meas s
  | .selftestDone f tag failed checks, _ => execSelftestDone_kept f tag failed checks s
  | .shadowCycle p corr, _ => execShadowCycle_kept p corr s
  | .calibrationDriftPending c, _ => execCalibrationDriftPending_kept c s
  | .tileSensorSample temps supplies, _ => execTileSensorSample_kept temps supplies s
  | .tileSpreadRestored, _ => execTileSpreadRestored_kept s
  | .longGateEnd b count, _ => execLongGateEnd_kept b count s
  | .fastGateEnd b count, _ => execFastGateEnd_kept b count s
  | .referenceLoss b, _ => execReferenceLoss_kept b s
  | .holdover60s, _ => execHoldover60s_kept s
  | .pllLockLoss, _ => execPllLockLoss_kept s
  | .relockDone, _ => execRelockDone_kept s
  | .aonClockLoss, _ => execAonClockLoss_kept s
  | .aonClockRestored, _ => execAonClockRestored_kept s
  | .sysrefEdge t, _ => execSysrefEdge_kept t s
  | .syncEdge t, _ => execSyncEdge_kept t s
  | .syncInstant, _ => execSyncInstant_kept s
  | .jesdFrame l err samples, _ => execJesdFrame_kept l err samples s
  | .linkUp l seen, _ => execLinkUp_kept l seen s
  | .linkLost l aligned, _ => execLinkLost_kept l aligned s
  | .chainOutput n, _ => execChainOutput_kept n s
  | .detectorOutput n, _ => execDetectorOutput_kept n s
  | .cycleEnd n t, _ => execCycleEnd_kept n t s
  | .dcFreezeHoldExpiry n, _ => execDcFreezeHoldExpiry_kept n s
  | .laneWriteIssue l ecc, _ => execLaneWriteIssue_kept l ecc s
  | .dramSchedule l, _ => execDramSchedule_kept l s
  | .dramReadData l flips, _ => execDramReadData_kept l flips s
  | .laneFault l, _ => execLaneFault_kept l s
  | .dramRefresh l, _ => execDramRefresh_kept l s
  | .mr4Read l temps, _ => execMr4Read_kept l temps s
  | .nrTableClear l, _ => execNrTableClear_kept l s
  | .neighbourRefresh l, _ => execNeighbourRefresh_kept l s
  | .dqsOscCheck l drift, _ => execDqsOscCheck_kept l drift s
  | .alertNFall l, _ => execAlertNFall_kept l s
  | .alertNRise l, _ => execAlertNRise_kept l s
  | .laneDemote l passed, _ => execLaneDemote_kept l passed s
  | .softRepair, _ => execSoftRepair_kept s
  | .scrubStep l ago, _ => execScrubStep_kept l ago s
  | .wipeParcelDone p, _ => execWipeParcelDone_kept p s
  | .compressorChunkDone k block ecc, _ => execCompressorChunkDone_kept k block ecc s
  | .uploadChunkRead st, _ => execUploadChunkRead_kept st s
  | .decompressorBaleDone d ecc, _ => execDecompressorBaleDone_kept d ecc s
  | .playbackTimedStart st, _ => execPlaybackTimedStart_kept st s
  | .playbackStagingRefill st ecc, _ => execPlaybackStagingRefill_kept st ecc s
  | .playbackEnd st, _ => execPlaybackEnd_kept st s
  | .playbackUnderrun st, _ => execPlaybackUnderrun_kept st s
  | .eventRateIntervalEnd key, _ => execEventRateIntervalEnd_kept key s
  | .queraTimingSend p due, _ => execQueraTimingSend_kept p due s
  | .queraTimingRequest p rx t2 ready, _ => execQueraTimingRequest_kept p rx t2 ready s
  | .queraTimingResponse p rx t4, _ => execQueraTimingResponse_kept p rx t4 s
  | .queraTopologySend p, _ => execQueraTopologySend_kept p s
  | .queraTopologyMsg p rx, _ => execQueraTopologyMsg_kept p rx s
  | .queraIdentifySend p, _ => execQueraIdentifySend_kept p s
  | .queraIdentifyMsg p rx, _ => execQueraIdentifyMsg_kept p rx s
  | .queraCensusMsg p rx, _ => execQueraCensusMsg_kept p rx s
  | .queraCrossTriggerMsg p rx, _ => execQueraCrossTriggerMsg_kept p rx s
  | .queraPortUp p, _ => execQueraPortUp_kept p s
  | .queraPortDown p, _ => execQueraPortDown_kept p s
  | .shedStageEnter n src mv, _ => execShedStageEnter_kept n src mv s
  | .shedStageLeave n mv, _ => execShedStageLeave_kept s n mv
  | .stage4Begin, _ => execStage4Begin_kept s
  | .tjSample q, _ => execTjSample_kept q s
  | .thermalStageLeave, _ => execThermalStageLeave_kept s
  | .thermalTrip fl mv, _ => execThermalTrip_kept s fl mv
  | .dikewatchSample inp, _ => execDikewatchSample_kept inp s
  | .bootStart why, _ => execBootStart_kept why s
  | .firmwareUpdateDone verdict, _ => execFirmwareUpdateDone_kept verdict s
  | .lifecycleDone verdict, _ => execLifecycleDone_kept verdict s
  | .tamperAssert which, _ => execTamperAssert_kept which s
  | .glitchDetect, _ => execGlitchDetect_kept s
  | .secureWipeDone ok, _ => execSecureWipeDone_kept ok s
  | .vfEnable n c, _ => execVfEnable_kept n c s
  | .progressEntryDue f job, _ => execProgressEntryDue_kept f job s
  | .flashWriteDone ok, _ => execFlashWriteDone_kept ok s
  | .powerStateTimeout, _ => execPowerStateTimeout_kept s
  | .eventRecordLeavesQueue, _ => execEventRecordLeavesQueue_kept s
  | .keyRelease k, _ => execKeyRelease_kept k s
  | .spurRelease p, _ => execSpurRelease_kept p s

theorem relBy_mono {r q : State → State → Prop} {s : State} {o : Host.Outcome State Fault Refusal} (h : relBy r s o)
    (k : ∀ {t}, r s t → q s t) : relBy q s o :=
  match o, h with
  | .next _, h => k h
  | .fault _, _ => trivial
  | .refused _, _ => trivial

theorem relBy_of_keptBy {r : State → State → Prop} {s : State} {o : Host.Outcome State Fault Refusal} (h : keptBy s o)
    (k : ∀ {t}, kept t = kept s → r s t) : relBy r s o :=
  match o, h with
  | .next _, h => k h
  | .fault _, _ => trivial
  | .refused _, _ => trivial

/-- The rows that write a memory or system time leave the queue alone and keep soundness. -/
theorem exec_stays_of_writesKept (c : Instr) (s : State) (h : writesKept c = true) : relBy stays s (exec c s) :=
  match c, h with
  | .identify, _ => relBy_mono (execIdentify_scratch s) stays_of_scratch
  | .getHealth, _ => relBy_mono (execGetHealth_scratch s) stays_of_scratch
  | .attest, _ => relBy_mono (execAttest_scratch s) stays_of_scratch
  | .stallCreate, _ => relBy_mono (execStallCreate_scratch s) stays_of_scratch
  | .probeQuery, _ => relBy_mono (execProbeQuery_scratch s) stays_of_scratch
  | .courseQuery, _ => relBy_mono (execCourseQuery_scratch s) stays_of_scratch
  | .queraStatus, _ => relBy_mono (execQueraStatus_scratch s) stays_of_scratch
  | .journalRead readOk, _ => relBy_mono (execJournalRead_scratch readOk s) stays_of_scratch
  | .scratchWrite f off data be collide, _ => relBy_mono (execScratchWrite_scratch f off data be collide s) stays_of_scratch
  | .scratchBitSet f off data be port, _ => relBy_mono (execScratchBitSet_scratch f off data be port s) stays_of_scratch
  | .scratchBitClear f off data be port, _ => relBy_mono (execScratchBitClear_scratch f off data be port s) stays_of_scratch
  | .stallResetRelease st, _ => relBy_mono (execStallResetRelease_scratch st s) stays_of_scratch
  | .writeAck l id, _ => relBy_mono (execWriteAck_dram l id s) stays_of_dram
  | .softRepairEnd flips, _ => relBy_mono (execSoftRepairEnd_dram flips s) stays_of_dram
  | .queraTimeStep, _ => relBy_mono (execQueraTimeStep_time s) stays_of_time
  | .powerTransitionDone bad, _ => execPowerTransitionDone_stays bad s
  | .dikewatchWakeDone ecc lost bad seed, _ => relBy_mono (execDikewatchWakeDone_dram ecc lost bad seed s) stays_of_dram
  | .dormantWake src cycles w, _ => execDormantWake_stays src cycles w s
  | .bootStepDone out, _ => execBootStepDone_stays out s
  | .bootStepTimeout, _ => execBootStepTimeout_stays s
  | .resetAssert, _ => execResetAssert_stays s
  | .powerLoss, _ => execPowerLoss_stays s

/-- Every command leaves the queue alone and keeps soundness. -/
theorem exec_stays (c : Instr) (s : State) : relBy stays s (exec c s) := by
  cases h : writesKept c with
  | false => exact relBy_of_keptBy (exec_kept c s h) stays_of_kept
  | true => exact exec_stays_of_writesKept c s h

theorem step_of_empty {s : State} (h : s.pending = []) : step s = .next (idle s) := by
  unfold step
  rw [h]

theorem step_of_cons {s : State} {c : Instr} {rest : List Instr} (h : s.pending = c :: rest) :
    step s = exec c { s with pending := rest } := by
  unfold step
  rw [h]

/-- A step that goes on keeps soundness: a stride passes, or the front command acts on a state that differs in the queue alone. -/
theorem step_sound {s t : State} (hs : s.Sound) (h : step s = .next t) : t.Sound := by
  cases hq : s.pending with
  | nil =>
    rw [step_of_empty hq] at h
    obtain rfl : idle s = t := Host.Outcome.next.inj h
    exact (stays_of_time (idle_time s)).2 hs
  | cons c rest =>
    rw [step_of_cons hq] at h
    exact (relBy_elim (exec_stays c { s with pending := rest }) h).2 hs

/-- Settles O4: every command leaves soundness as it is (`exec_stays`), and so does a stride that passes. -/
theorem everyStepKeepsSoundness : Obligations.EveryStepKeepsSoundness := fun _ _ => step_sound

/-! ## The state after reset -/

/-- Settles O5: the memories are empty and system time is 0. -/
theorem resetStateIsSound : Obligations.ResetStateIsSound := ⟨⟨rfl, rfl, rfl⟩, rfl⟩

/-- Settles O60: no boot step has run, so each function, stall and channel holds its field's default (for a field without a Reset
column, the MSI-X table among them, the model's choice). -/
theorem resetStateHasTheResetColumn : Obligations.ResetStateHasTheResetColumn := by
  refine ⟨fun f => ?_, fun n => ?_, fun c => ?_, rfl, rfl, rfl, rfl⟩
  · exact Vector.getElem_replicate ..
  · exact congrArg StallState.st (Vector.getElem_replicate ..)
  · have h : State.reset.chans[c] = {} := Vector.getElem_replicate ..
    rw [h]
    decide

end Sys2Proof.Machine
end

section
/-! SUPPORT. SLUICE_SYNC on the command in hand (R7, R96, R414, R425). -/

open Sys2Proof.Claims

namespace Sys2Proof.Machine

/-- The row of an opcode acts on the command in hand, from the state in which the Groom holds none. -/
theorem withCmd_inHand {s : State} {t : Taken} {n : Nat} {g : State → Taken → State} (h : InHand s t n) :
    withCmd s (isOp n) g = g (freed s) t := withCmd_at h.1 (isOp_of h.2)

theorem mem_ones {n : Nat} {m : BitVec n} {i : Nat} : i ∈ ones m ↔ i < n ∧ bit m i = true := by
  simp [ones]

/-- The chains that `sluice_sync` names (R425). -/
def syncNamed (t : Taken) : BitVec 8 := BitVec.ofNat 8 (bits (dw t.e 4) 7 0)

/-- The sync is pending at Y, and the command reports Y and whether it was late (R414, R425). -/
def syncAt (s : State) (t : Taken) (y : Time) (late : Bool) : State :=
  completeAt { s with tb := { s.tb with syncPending := s.tb.syncPending ++ [{ y := y, chains := syncNamed t }] } } t .ok
    { p4 := (timePay y).1, p5 := (timePay y).2, p6 := flag late 0 }

/-- The search for a chain outside the grant finds none when the grant has every chain named. -/
theorem find_ungranted_eq_none {m g : BitVec 8} (h : ∀ n : Fin 8, bit m n.val = true → bit g n.val = true) :
    ((ones m).find? fun n => !bit g n) = none := by
  rw [List.find?_eq_none]
  intro n hn
  obtain ⟨hlt, hb⟩ := mem_ones.1 hn
  simp [h ⟨n, hlt⟩ hb]

/-- The search for a disabled chain finds none when every chain named is enabled. -/
theorem any_disabled_eq_false {s : State} {m : BitVec 8}
    (h : ∀ n : Fin 8, bit m n.val = true → chainEnable s.chains[n].setting = true) :
    ((List.finRange 8).any fun n => bit m n.val && !chainEnable s.chains[n].setting) = false := by
  rw [List.any_eq_false]
  intro n _ hn
  obtain ⟨hb, hd⟩ := Bool.and_eq_true_iff.1 hn
  rw [h n hb] at hd
  exact Bool.false_ne_true hd

section
variable {s : State} {t : Taken} (h : InHand s t 0x29)
  (hg : ∀ n : Fin 8, bit (syncNamed t) n.val = true → bit s.stalls[t.fn].grant.chains n.val = true)
  (hb : s.tb.bypass = false) (hr : reservedBit t.e [0xFFFFFFFF, 0xFFFFFFFF, 0xFF] = none)
include h hg hb hr

/-- With every check before it passed, what remains is the form of Y, the chains, and the lead. -/
theorem execSluiceSync_checked : execSluiceSync s = .next (
    if bits (wide t.e 2) 7 0 ≠ 0 then invalidAt (freed s) t 2 0
    else if syncNamed t = 0 ∨ (List.finRange 8).any fun n => bit (syncNamed t) n.val && !chainEnable s.chains[n].setting then
      invalidAt (freed s) t 4 0
    else if (!leads (wide t.e 2) t.when 32) ∧ latePolicy t.e ≠ 1 then complete (freed s) t .late
    else syncAt (freed s) t (if !leads (wide t.e 2) t.when 32 then t.when + strides 32 else wide t.e 2)
      (!leads (wide t.e 2) t.when 32)) := by
  have hf : ((ones (syncNamed t)).find? fun n => !bit (freed s).stalls[t.fn].grant.chains n) = none :=
    find_ungranted_eq_none hg
  have hb : (freed s).tb.bypass = false := hb
  have hc : s.chains = (freed s).chains := rfl
  unfold execSluiceSync
  rw [withCmd_inHand h, hc]
  generalize freed s = u at hf hb ⊢
  unfold syncNamed at hf
  dsimp only
  rw [hf]
  dsimp only
  rw [if_neg (hb ▸ Bool.false_ne_true), hr]
  rfl

theorem execSluiceSync_offStride (hy : bits (wide t.e 2) 7 0 ≠ 0) : execSluiceSync s = .next (invalidAt (freed s) t 2 0) := by
  rw [execSluiceSync_checked h hg hb hr, if_pos hy]

/-- A Y at the start of a stride, for chains that are enabled, comes to the check of its lead. -/
theorem execSluiceSync_onStride (hy : bits (wide t.e 2) 7 0 = 0) (hm : syncNamed t ≠ 0)
    (he : ∀ n : Fin 8, bit (syncNamed t) n.val = true → chainEnable s.chains[n].setting = true) :
    execSluiceSync s = .next (
      if (!leads (wide t.e 2) t.when 32) ∧ latePolicy t.e ≠ 1 then complete (freed s) t .late
      else syncAt (freed s) t (if !leads (wide t.e 2) t.when 32 then t.when + strides 32 else wide t.e 2)
        (!leads (wide t.e 2) t.when 32)) := by
  have hd : ¬ (syncNamed t = 0 ∨ ((List.finRange 8).any fun n => bit (syncNamed t) n.val && !chainEnable s.chains[n].setting) = true) := by
    rw [any_disabled_eq_false he]
    exact fun h => h.elim hm Bool.false_ne_true
  rw [execSluiceSync_checked h hg hb hr, if_neg (not_not_intro hy), if_neg hd]

end

/-- Settles O17: the checks of R425 in their order, then the lead of R7. -/
theorem sluiceSyncGivesItsInstant : Obligations.SluiceSyncGivesItsInstant := by
  unfold Obligations.SluiceSyncGivesItsInstant
  rintro s t _ _ h rfl rfl hg hb hr
  refine ⟨execSluiceSync_offStride h hg hb hr, fun hy hm he => ?_⟩
  have hx := execSluiceSync_onStride h hg hb hr hy hm he
  refine ⟨fun hl => hx.trans ?_, fun hl hp => hx.trans ?_, fun hl hp => hx.trans ?_⟩
  · rw [hl, if_neg (by simp)]
    rfl
  · rw [hl, if_neg (by simp [hp])]
    rfl
  · rw [hl, if_pos ⟨rfl, hp⟩]

end Sys2Proof.Machine
end

section
/-! SUPPORT. The functions in which the timebase stands and no stall in its reset sequence takes part: the close of a capture, the end of
uploads, markers and events. -/

namespace Sys2Proof.Machine

/-- A stall in its reset sequence, with no command outstanding (R365, R369). -/
def inReset (s : State) (n : Stall) : Prop := s.stalls[n].st = .resetting ∧ s.stalls[n].outst = []

/-- A change that leaves the timebase alone, and every stall in its reset sequence in that sequence. -/
def quiet (s t : State) : Prop :=
  t.tb = s.tb ∧ ∀ n : Stall, inReset s n → inReset t n ∧ t.stalls[n].reset = s.stalls[n].reset

/-! ## Composition -/

theorem quiet_of_eq {s t : State} (h : t.tb = s.tb) (k : t.stalls = s.stalls) : quiet s t := by
  refine ⟨h, fun n hn => ?_⟩
  unfold inReset at hn ⊢
  rw [k]
  exact ⟨hn, rfl⟩

theorem quiet_refl (s : State) : quiet s s := quiet_of_eq rfl rfl

/-- A quiet change after another, the later one first. -/
theorem quiet_after {s t u : State} (k : quiet t u) (h : quiet s t) : quiet s u := by
  refine ⟨k.1.trans h.1, fun n hn => ?_⟩
  obtain ⟨ht, hr⟩ := h.2 n hn
  obtain ⟨hu, hq⟩ := k.2 n ht
  exact ⟨hu, hq.trans hr⟩

theorem quiet_ite {c : Prop} [Decidable c] {s t u : State} (h : quiet s t) (k : quiet s u) : quiet s (if c then t else u) := by
  split <;> assumption

/-- A further change, or none, after a quiet one. -/
theorem quiet_then {c : Prop} [Decidable c] {s t u : State} (h : quiet s t) (k : quiet t u) : quiet s (if c then u else t) :=
  quiet_ite (quiet_after k h) h

theorem quiet_foldl {α : Type} {f : State → α → State} (h : ∀ s a, quiet s (f s a)) (l : List α) (s : State) :
    quiet s (l.foldl f s) := by
  induction l generalizing s with
  | nil => exact quiet_refl s
  | cons a l ih => exact quiet_after (ih _) (h s a)

theorem quiet_modStall {s : State} {n : Stall} {f : StallState → StallState}
    (h : ∀ x, x.st = .resetting → x.outst = [] → (f x).st = .resetting ∧ (f x).outst = [] ∧ (f x).reset = x.reset) :
    quiet s (modStall s n f) := by
  refine ⟨rfl, fun m hm => ?_⟩
  obtain ⟨hst, hout⟩ := hm
  unfold inReset
  rw [modStall_stalls]
  by_cases e : n = m
  · subst e
    obtain ⟨h1, h2, h3⟩ := h _ hst hout
    rw [vmod_same]
    exact ⟨⟨h1, h2⟩, h3⟩
  · rw [vmod_ne _ e]
    exact ⟨⟨hst, hout⟩, rfl⟩

theorem modCap_quiet (s : State) (n : Stall) (f : Capture → Capture) : quiet s (modCap s n f) :=
  quiet_modStall fun _ h k => ⟨h, k, rfl⟩

theorem modEng_quiet (s : State) (n : Stall) (f : Engine → Engine) : quiet s (modEng s n f) :=
  quiet_modStall fun _ h k => ⟨h, k, rfl⟩

theorem modRef_quiet (s : State) (n : Stall) (f : Reference → Reference) : quiet s (modRef s n f) :=
  quiet_modStall fun _ h k => ⟨h, k, rfl⟩

theorem modGroom_quiet (s : State) (f : Groom → Groom) : quiet s (modGroom s f) := quiet_of_eq rfl rfl

theorem modFn_quiet (s : State) (f : Fn) (g : FnState → FnState) : quiet s (modFn s f g) := quiet_of_eq rfl rfl

theorem modLane_quiet (s : State) (l : Fin 4) (f : Lane → Lane) : quiet s (modLane s l f) := quiet_of_eq rfl rfl

theorem modChain_quiet (s : State) (k : Fin 8) (f : Chain → Chain) : quiet s (modChain s k f) := quiet_of_eq rfl rfl

/-! ## Entries to a ring -/

/-- An entry to a function whose stall is not in its reset sequence reaches no stall that is. -/
theorem quiet_of_answersOnly {f : Fn} {s t : State} (h : answersOnly f s t) (hf : ¬ inReset s f) : quiet s t := by
  obtain ⟨hrest, hother, -, -, -⟩ := h
  refine ⟨by rw [hrest], fun n hn => ?_⟩
  have hne : n ≠ f := fun e => hf (e ▸ hn)
  unfold inReset at hn ⊢
  rw [(hother n hne).2]
  exact ⟨hn, rfl⟩

theorem sendEvent_quiet (s : State) (f : Fn) (e : CqEntry) : quiet s (sendEvent s f e) := by
  by_cases hst : s.stalls[f].st = .resetting
  · unfold sendEvent
    rw [if_pos (Or.inl hst)]
    exact quiet_refl s
  · exact quiet_of_answersOnly (sendEvent_answers s f e) fun h => hst h.1

theorem sendEvents_quiet (s : State) (l : List (Fn × CqEntry)) : quiet s (sendEvents s l) := by
  unfold sendEvents
  exact quiet_foldl (fun s x => sendEvent_quiet s x.1 x.2) l s

theorem sendRated_quiet (s : State) (key : RateKey) (interval : Nat) (l : List (Fn × CqEntry)) :
    quiet s (sendRated s key interval l) :=
  quiet_ite (modGroom_quiet _ _) (quiet_after (sendEvents_quiet _ _) (modGroom_quiet _ _))

theorem completeTag_quiet (s : State) (f : Fn) (tag : BitVec 16) (st : Status) (p : Pay) : quiet s (completeTag s f tag st p) := by
  by_cases h : s.stalls[f].outst = []
  · have hf : findOutst s f tag = none := by
      unfold findOutst
      rw [h]
      rfl
    unfold completeTag
    rw [hf]
    exact quiet_refl s
  · exact quiet_of_answersOnly (completeTag_answers s f tag st p) fun k => h k.2

/-! ## Records and blocks -/

theorem queueRecs_quiet (s : State) (n : Stall) (l : List Rec) : quiet s (queueRecs s n l) :=
  quiet_ite (quiet_after (quiet_modStall fun _ h k => ⟨h, k, rfl⟩) (modGroom_quiet _ _)) (quiet_modStall fun _ h k => ⟨h, k, rfl⟩)

theorem marker_quiet (s : State) (n : Stall) (kind : Nat) (t : Time) (d : BitVec 64) : quiet s (marker s n kind t d) :=
  quiet_ite (queueRecs_quiet _ _ _) (quiet_refl _)

theorem notePeak_quiet (s : State) (n : Stall) : quiet s (notePeak s n) :=
  quiet_after (modFn_quiet _ _ _) (quiet_modStall fun _ h k => ⟨h, k, rfl⟩)

theorem putSlice_quiet (s : State) (l : Fin 4) (b : FbBlock) : quiet s (putSlice s l b) := by
  refine quiet_after (t := if s.fbd.slices[l].isEmpty then modLane s l fun x => { x with lastIssue := s.tb.now } else s)
    (quiet_of_eq rfl rfl) ?_
  exact quiet_ite (modLane_quiet _ _ _) (quiet_refl _)

theorem placeIn_quiet (s : State) (c : Capture) (l : Fin 4) (b : FbBlock) (part : FbPart) : quiet s (placeIn s c l b part) :=
  quiet_after (quiet_after (notePeak_quiet _ _) (modCap_quiet _ _ _)) (putSlice_quiet _ _ _)

theorem putBlock_quiet (l : Fin 4) (s : State) (b : FbBlock) : quiet s (putBlock l s b) := by
  have wait : quiet s { s with fbd := { s.fbd with outbox := vmod s.fbd.outbox l fun q => q ++ [b] } } := quiet_of_eq rfl rfl
  unfold putBlock
  dsimp only
  split
  · exact quiet_ite (putSlice_quiet _ _ _) wait
  · split
    · exact wait
    · refine quiet_ite wait ?_
      split
      · exact wait
      · exact placeIn_quiet _ _ _ _ _

theorem placeAt_quiet (s : State) (n : Stall) (c : Capture) (blk : Nat) (recs : List Rec) (typed : Bool) :
    quiet s (placeAt s n c blk recs typed) := by
  unfold placeAt
  split
  · exact quiet_refl _
  · exact quiet_after (putBlock_quiet _ _ _) (modCap_quiet _ _ _)

theorem placeBlock_quiet (s : State) (n : Stall) (typed : Bool) (recs : List Rec) : quiet s (placeBlock s n typed recs) := by
  unfold placeBlock
  split
  · exact quiet_refl _
  · exact quiet_after (modCap_quiet _ _ _) (placeAt_quiet _ _ _ _ _ _)

theorem addRec_quiet (s : State) (n : Stall) (r : Rec) : quiet s (addRec s n r) := by
  unfold addRec
  split
  · exact quiet_refl _
  · exact quiet_ite (modCap_quiet _ _ _) (quiet_after (placeBlock_quiet _ _ _ _) (modCap_quiet _ _ _))

theorem addRecs_quiet (s : State) (n : Stall) (l : List Rec) : quiet s (addRecs s n l) :=
  quiet_foldl (fun s r => addRec_quiet s n r) l s

theorem fillPart_quiet (s : State) (n : Stall) : quiet s (fillPart s n) := by
  unfold fillPart
  split
  · exact quiet_refl _
  · exact quiet_ite (quiet_refl _) (addRecs_quiet _ _ _)

theorem writeKey_quiet (s : State) (n : Stall) (cause : Nat) : quiet s (writeKey s n cause) := by
  unfold writeKey
  split
  · exact quiet_refl _
  · refine quiet_ite (quiet_refl _) ?_
    have key (f : Capture → Capture) (r : Rec) : quiet s (addRec (modCap s n f) n r) :=
      quiet_after (addRec_quiet _ _ _) (modCap_quiet _ _ _)
    dsimp only
    split
    · exact quiet_after (addRec_quiet _ _ _) (key _ _)
    · exact quiet_after (addRec_quiet _ _ _) (key _ _)
    · exact key _ _

theorem dueKey_quiet (s : State) (n : Stall) : quiet s (dueKey s n) := by
  unfold dueKey
  split
  · exact quiet_refl _
  · exact quiet_ite (writeKey_quiet _ _ _) (quiet_refl _)

theorem walkEnd_quiet (s : State) (n : Stall) : quiet s (walkEnd s n) := by
  unfold walkEnd
  split
  · exact quiet_refl _
  · refine quiet_ite (quiet_refl _) ?_
    have key (f : Capture → Capture) : quiet s (dueKey (modCap s n f) n) := quiet_after (dueKey_quiet _ _) (modCap_quiet _ _ _)
    dsimp only
    split
    · exact key _
    · exact quiet_ite (key _) (quiet_after (quiet_after (addRec_quiet _ _ _) (modCap_quiet _ _ _)) (key _))

theorem placeHeader_quiet (s : State) (n : Stall) (uid start : Nat) (recs : List Rec) :
    quiet s (placeHeader s n uid start recs) := by
  unfold placeHeader
  dsimp only
  split
  · exact quiet_refl _
  · exact putBlock_quiet _ _ _

theorem syncHeaders_quiet (s : State) : quiet s (syncHeaders s) := quiet_of_eq rfl rfl

/-! ## A playback's slice -/

theorem askDense_quiet (s : State) (n : Stall) (k : Nat) : quiet s (askDense s n k) := by
  unfold askDense
  dsimp only
  split
  · exact quiet_refl _
  · exact modLane_quiet _ _ _

theorem askUpto_quiet (s : State) (n : Stall) (stop : Nat) : quiet s (askUpto s n stop) :=
  quiet_after (modRef_quiet _ _ _) (quiet_foldl (fun s k => askDense_quiet s n k) _ _)

theorem fillSlice_quiet (s : State) (n : Stall) : quiet s (fillSlice s n) :=
  quiet_after (askUpto_quiet _ _ _) (quiet_after (modRef_quiet _ _ _) (quiet_of_eq rfl rfl))

theorem endPlayback_quiet (s : State) (n : Stall) : quiet s (endPlayback s n) :=
  quiet_ite (quiet_refl _) (quiet_ite (quiet_after (fillSlice_quiet _ _) (quiet_after (modEng_quiet _ _ _) (modRef_quiet _ _ _)))
    (quiet_after (modEng_quiet _ _ _) (modRef_quiet _ _ _)))

/-! ## Uploads -/

theorem readChunk_quiet (s : State) (u : UploadJob) : quiet s (readChunk s u) := by
  refine quiet_after (quiet_of_eq rfl rfl) (quiet_foldl (fun s x => ?_) _ s)
  dsimp only
  split
  · exact quiet_refl _
  · exact modLane_quiet _ _ _

theorem issueChunks_quiet (k : Nat) (s : State) : quiet s (issueChunks k s) := by
  induction k generalizing s with
  | zero => exact quiet_refl _
  | succ k ih =>
    unfold issueChunks
    split
    · exact quiet_refl _
    · exact quiet_after (ih _) (quiet_after (readChunk_quiet _ _) (quiet_of_eq rfl rfl))

theorem takeComp_quiet (s : State) (k : Fin 4) : quiet s (takeComp s k) := by
  unfold takeComp
  refine quiet_ite (quiet_refl _) ?_
  split
  · exact quiet_refl _
  · split
    · exact quiet_refl _
    · exact quiet_of_eq rfl rfl

theorem startUploads_quiet (s : State) : quiet s (startUploads s) :=
  quiet_after (quiet_foldl takeComp_quiet _ _) (quiet_after (issueChunks_quiet _ _) (quiet_of_eq rfl rfl))

theorem endUpload_quiet (s : State) (u : UploadJob) (st : Status) : quiet s (endUpload s u st) := by
  unfold endUpload
  dsimp only
  split
  · exact quiet_after (startUploads_quiet _) (quiet_of_eq rfl rfl)
  · refine quiet_after (startUploads_quiet _) (quiet_after (quiet_foldl (fun s c => completeTag_quiet s _ _ _ _) _ _) ?_)
    exact quiet_after (completeTag_quiet _ _ _ _ _) (quiet_of_eq rfl rfl)

theorem reapUploads_quiet (k : Nat) (s : State) : quiet s (reapUploads k s) := by
  induction k generalizing s with
  | zero => exact quiet_refl _
  | succ k ih =>
    unfold reapUploads
    split
    · exact quiet_refl _
    · exact quiet_after (ih _) (endUpload_quiet _ _ _)

theorem killUploads_quiet (p : UploadJob → Bool) (k : Nat) (s : State) : quiet s (killUploads p k s) := by
  induction k generalizing s with
  | zero => exact quiet_refl _
  | succ k ih =>
    unfold killUploads
    split
    · exact quiet_refl _
    · exact quiet_after (ih _) (endUpload_quiet _ _ _)

theorem stopUploads_quiet (s : State) (p : UploadJob → Bool) (st : Status) : quiet s (stopUploads s p st) :=
  quiet_after (reapUploads_quiet _ _) (quiet_of_eq rfl rfl)

theorem endUploads_quiet (s : State) (n : Stall) : quiet s (endUploads s n) :=
  quiet_after (stopUploads_quiet _ _ _) (quiet_of_eq rfl rfl)

theorem giveDecs_quiet (s : State) : quiet s (giveDecs s) := by
  refine quiet_foldl (fun s d => quiet_ite (quiet_refl _) ?_) _ s
  split
  · exact quiet_refl _
  · exact quiet_of_eq rfl rfl

/-! ## Held segments and the polder -/

theorem deleteHeld_quiet (s : State) (n : Stall) (keep : Seg → Bool) : quiet s (deleteHeld s n keep) :=
  quiet_after (killUploads_quiet _ _ _) (quiet_modStall fun _ h k => ⟨h, k, rfl⟩)

theorem changePolder_quiet (s : State) (n : Stall) (parcels refArea : List Nat) : quiet s (changePolder s n parcels refArea).1 :=
  quiet_after (quiet_modStall fun _ h k => ⟨h, k, rfl⟩) (deleteHeld_quiet _ _ _)

theorem applyRetire_quiet (s : State) (n : Stall) : quiet s (applyRetire s n) :=
  quiet_ite (quiet_after (quiet_of_eq rfl rfl) (changePolder_quiet _ _ _ _)) (quiet_refl _)

/-! ## The close of a capture -/

theorem refreshTrigOut_quiet (s : State) : quiet s (refreshTrigOut s) := quiet_of_eq rfl rfl

theorem stopEngine_quiet (s : State) (n : Stall) : quiet s (stopEngine s n) :=
  quiet_after (refreshTrigOut_quiet _) (modEng_quiet _ _ _)

theorem flushOverrun_quiet (s : State) (n : Stall) : quiet s (flushOverrun s n) := by
  unfold flushOverrun
  split
  · exact quiet_refl _
  · exact quiet_ite (quiet_refl _) (quiet_after (marker_quiet _ _ _ _ _) (modCap_quiet _ _ _))

theorem sideRest_quiet (s : State) (n : Stall) : quiet s (sideRest s n).1 :=
  quiet_after (quiet_foldl (fun _ _ => modChain_quiet _ _ _) _ _) (modGroom_quiet _ _)

theorem markEnd_quiet (s : State) (n : Stall) (reason : Nat) : quiet s (markEnd s n reason) := modCap_quiet _ _ _

theorem holdSegment_quiet (s : State) (n : Stall) (c : Capture) (cause tail : Nat) (endT last : Time) :
    quiet s (holdSegment s n c cause tail endT last) := by
  refine quiet_then ?_ (markEnd_quiet _ _ _)
  refine quiet_after (modCap_quiet _ _ _) ?_
  refine quiet_after (quiet_modStall fun _ h k => ⟨h, k, rfl⟩) ?_
  refine quiet_after (modEng_quiet _ _ _) ?_
  exact quiet_after (endPlayback_quiet _ _) (quiet_after (stopEngine_quiet _ _) (placeHeader_quiet _ _ _ _ _))

theorem closeTyped_quiet (s : State) (n : Stall) (cause : Nat) (stop : Time) : quiet s (closeTyped s n cause stop) := by
  have start : quiet s (if stop = s.tb.now then walkEnd s n else s) := quiet_ite (walkEnd_quiet _ _) (quiet_refl _)
  unfold closeTyped
  refine quiet_after ?_ start
  generalize (if stop = s.tb.now then walkEnd s n else s) = u
  have tail (l : List Rec) (f : Capture → Capture) (r : Rec) :
      quiet u (fillPart (addRec (modCap (addRecs (sideRest (flushOverrun u n) n).1 n l) n f) n r) n) := by
    refine quiet_after (fillPart_quiet _ _) (quiet_after (addRec_quiet _ _ _) (quiet_after (modCap_quiet _ _ _) ?_))
    exact quiet_after (addRecs_quiet _ _ _) (quiet_after (sideRest_quiet _ _) (flushOverrun_quiet _ _))
  dsimp only
  split
  · exact quiet_refl _
  · split
    · exact tail _ _ _
    · exact quiet_after (holdSegment_quiet _ _ _ _ _ _ _) (tail _ _ _)

theorem closeDense_quiet (s : State) (n : Stall) (c : Capture) (cause : Nat) (moment : Time) :
    quiet s (closeDense s n c cause moment) :=
  quiet_after (modCap_quiet _ _ _) (quiet_after (modEng_quiet _ _ _) (stopEngine_quiet _ _))

theorem closeNow_quiet (s : State) (n : Stall) (c : Capture) (cause : Nat) : quiet s (closeNow s n c cause) :=
  quiet_ite (closeDense_quiet _ _ _ _ _) (closeTyped_quiet _ _ _ _)

theorem closeFill_quiet (s : State) (n : Stall) (c : Capture) : quiet s (closeFill s n c) := by
  unfold closeFill
  split
  · exact quiet_refl _
  · exact quiet_ite (closeDense_quiet _ _ _ _ _) (closeTyped_quiet _ _ _ _)

/-- The end of an arm leaves a stall that is resetting so. -/
theorem finishArm_quiet (s : State) (n : Stall) (c : Capture) (reason : BitVec 8) : quiet s (finishArm s n c reason) := by
  unfold finishArm
  refine quiet_after (applyRetire_quiet _ _) (quiet_after (quiet_modStall fun _ h k => ⟨if_pos h, k, rfl⟩) ?_)
  refine quiet_after (stopEngine_quiet _ _) (quiet_after (quiet_foldl (fun s q => completeTag_quiet s _ _ _ _) _ _) ?_)
  exact quiet_ite (quiet_refl _) (sendEvent_quiet _ _ _)

theorem tryFinish_quiet (s : State) (n : Stall) : quiet s (tryFinish s n) := by
  unfold tryFinish
  split
  · exact quiet_refl _
  · split
    · exact quiet_refl _
    · exact quiet_ite (quiet_refl _) (finishArm_quiet _ _ _ _)

theorem raiseCause_quiet (s : State) (n : Stall) (c : Capture) (cause reason : Nat) : quiet s (raiseCause s n c cause reason) := by
  have key (f : Capture → Capture) : quiet s (modCap s n f) := modCap_quiet _ _ _
  unfold raiseCause
  refine quiet_ite (quiet_refl _) ?_
  dsimp only
  split
  · exact key _
  · exact quiet_ite (key _) (quiet_after (syncHeaders_quiet _) (quiet_after (quiet_modStall fun _ h k => ⟨h, k, rfl⟩) (key _)))

theorem closeCapture_quiet (s : State) (n : Stall) (cause : Nat) (reason : Option Nat) : quiet s (closeCapture s n cause reason) := by
  have key (c : Capture) (f : Capture → Capture) : quiet s (modCap (raiseCause s n c cause (reason.getD 0)) n f) :=
    quiet_after (modCap_quiet _ _ _) (raiseCause_quiet _ _ _ _ _)
  unfold closeCapture
  dsimp only
  split
  · exact quiet_refl _
  · refine quiet_after (tryFinish_quiet _ _) (quiet_after (markEnd_quiet _ _ _) ?_)
    exact quiet_ite (key _ _)
      (quiet_ite (quiet_after (closeFill_quiet _ _ _) (key _ _)) (quiet_after (closeNow_quiet _ _ _ _) (key _ _)))

/-! ## What a reset sequence stops -/

theorem stopChains_quiet (s : State) (chains : BitVec 8) : quiet s (stopChains s chains) := quiet_of_eq rfl rfl

theorem dropGroom_quiet (s : State) (n : Stall) : quiet s (dropGroom s n) := modGroom_quiet _ _

theorem jobs_quiet (s : State) (x : Jobs) : quiet s { s with jobs := x } := quiet_of_eq rfl rfl

theorem endDeviceWork_quiet (s : State) : quiet s (endDeviceWork s) := quiet_of_eq rfl rfl

/-! ## The requests of a stride -/

theorem giveMissed_quiet (s : State) (n : Stall) (m : MissedEntry) : quiet s (giveMissed s n m) :=
  quiet_after (sendRated_quiet _ _ _ _) (quiet_after (modCap_quiet _ _ _) (quiet_modStall fun _ h k => ⟨h, k, rfl⟩))

theorem giveTaken_quiet (s : State) (n : Stall) (o : OwedTrig) (e : CqEntry) : quiet s (giveTaken s n o e) :=
  quiet_after (quiet_ite (modCap_quiet _ _ _) (sendEvent_quiet _ _ _)) (marker_quiet _ _ _ _ _)

theorem giveTrigger_quiet (n : Stall) (s : State) (o : OwedTrig) : quiet s (giveTrigger n s o) := by
  unfold giveTrigger
  split
  · exact giveMissed_quiet _ _ _
  · exact giveTaken_quiet _ _ _ _
  · exact quiet_modStall fun _ h k => ⟨h, k, rfl⟩

theorem giveTriggers_quiet (s : State) (n : Stall) : quiet s (giveTriggers s n) := by
  unfold giveTriggers
  split
  · exact quiet_refl _
  · exact quiet_ite (quiet_refl _) (quiet_after (quiet_foldl (giveTrigger_quiet n) _ _) (modCap_quiet _ _ _))

end Sys2Proof.Machine
end

section
/-! SUPPORT. The stride that passes with an empty queue: which part of `idle` moves time, and when it does nothing else (log entry 9). -/

namespace Sys2Proof.Machine

theorem foldl_eq_self {α β : Type} {f : α → β → α} {a : α} {l : List β} (h : ∀ b ∈ l, f a b = a) : l.foldl f a = a := by
  induction l with
  | nil => rfl
  | cons b l ih =>
    rw [List.foldl_cons, h b List.mem_cons_self]
    exact ih fun c hc => h c (List.mem_cons_of_mem b hc)

theorem vmod_eq_self {α : Type} {n : Nat} {v : Vector α n} {i : Fin n} {f : α → α} (h : f v[i] = v[i]) : vmod v i f = v := by
  unfold vmod
  rw [h]
  exact Vector.set_getElem_self ..

/-! ## Time -/

theorem tick_now (s : State) : (tick s).tb.now = if s.tb.timeValid then s.tb.now + 256 else s.tb.now := by
  unfold tick
  split <;> rfl

theorem tick_eq_tb (s : State) : ∃ x, tick s = { s with tb := x } := by
  unfold tick
  split
  · exact ⟨_, rfl⟩
  · exact ⟨s.tb, rfl⟩

/-- A stride moves time by its 256 ticks, whatever else happens in it (R6, R87). -/
theorem idle_now (s : State) : (idle s).tb.now = if s.tb.timeValid then s.tb.now + 256 else s.tb.now := by
  have hg : (allStalls.foldl giveTriggers s).tb = s.tb := (quiet_foldl giveTriggers_quiet _ _).1
  have hk := (runQuera_kept _).trans ((offerBlocks_kept _).trans (startReturned_kept (tick (allStalls.foldl giveTriggers s))))
  calc (idle s).tb.now
    _ = (tick (allStalls.foldl giveTriggers s)).tb.now := kept_now hk
    _ = _ := by rw [tick_now, hg]

/-! ## Nothing waits -/

/-- With no correction under way the frequency stands (R486). -/
theorem steerStride_still {t : Timebase} (h : t.steer = 0) (hf : t.steerFine = 0) (hr : t.steerRate = 0) : steerStride t = t := by
  have hstill : (t.steer * steerUnits - t.steerFine).natAbs ≤ 1 ∧ t.steerRate.natAbs ≤ 1 := by
    rw [h, hf, hr]
    decide
  refine (if_pos hstill).trans ?_
  cases t
  dsimp only at h hf hr
  subst h hf hr
  rfl

theorem tick_still {s : State} (h : s.tb.steer = 0) (hf : s.tb.steerFine = 0) (hr : s.tb.steerRate = 0) :
    tick s = if s.tb.timeValid then { s with tb := { s.tb with now := s.tb.now + 256 } } else s := by
  unfold tick
  rw [steerStride_still h hf hr]

theorem giveTriggers_still {s : State} {n : Stall} (h : ∀ c, s.stalls[n].cap = some c → c.owed = []) : giveTriggers s n = s := by
  unfold giveTriggers
  split
  · rfl
  · rename_i c hc
    exact if_pos (h c hc)

theorem startReturned_still {s : State} (h : s.flash.returned = none) : startReturned s = s := by
  unfold startReturned
  rw [h]

theorem offerBlocks_still {s : State} (h : ∀ l : Fin 4, s.fbd.outbox[l] = []) : offerBlocks s = s := by
  refine foldl_eq_self fun l _ => ?_
  unfold offerLane
  rw [h l]

/-- A port without a message, a lock or a link. -/
def portStill (s : State) (p : Fin 4) : Prop :=
  portLive s p = false ∧ s.quera.ports[p].up = false ∧ s.quera.ports[p].queue = [] ∧ s.quera.ports[p].lockSince = none

theorem watchPort_still {s : State} {p : Fin 4} (h : portStill s p) : watchPort s p = s := by
  obtain ⟨-, hup, -, -⟩ := h
  unfold watchPort portUp
  rw [hup]
  rfl

theorem runPort_still {s : State} {p : Fin 4} (h : portStill s p) : runPort s p = s := by
  obtain ⟨hl, -, hq, hs⟩ := h
  have hv : vmod s.quera.ports p (fun x => { x with queue := [], lockSince := none }) = s.quera.ports :=
    vmod_eq_self (by rw [← hq, ← hs])
  unfold runPort
  rw [hl]
  unfold modQport
  rw [hv]
  rfl

theorem runQuera_still {s : State} (hp : ∀ p : Fin 4, portStill s p) (hc : s.quera.censusWait = none) : runQuera s = s := by
  have hw : watchCensus s = s := by
    unfold watchCensus
    rw [hc]
  unfold runQuera
  rw [foldl_eq_self fun p _ => watchPort_still (hp p), hw, foldl_eq_self fun p _ => runPort_still (hp p)]

/-- Where nothing waits for a stride, only time passes. -/
theorem idle_still {s : State} (hr : s.flash.returned = none) (ho : ∀ l : Fin 4, s.fbd.outbox[l] = [])
    (ht : ∀ (n : Stall) (c : Capture), s.stalls[n].cap = some c → c.owed = []) (hp : ∀ p : Fin 4, portStill s p)
    (hc : s.quera.censusWait = none) : idle s = tick s := by
  unfold idle
  rw [foldl_eq_self fun n _ => giveTriggers_still (ht n)]
  obtain ⟨x, hx⟩ := tick_eq_tb s
  rw [hx, startReturned_still (s := { s with tb := x }) hr, offerBlocks_still (s := { s with tb := x }) ho,
    runQuera_still (s := { s with tb := x }) hp hc]

/-- Settles O2: a step on the empty queue is `idle`, which keeps all but time (`idle_time`) and, where nothing waits, is `tick`. -/
theorem emptyQueueLetsAStridePass : Obligations.EmptyQueueLetsAStridePass := by
  unfold Obligations.EmptyQueueLetsAStridePass
  intro s hq
  rw [step_of_empty hq]
  obtain ⟨hscratch, hmem, hpending, -⟩ := idle_time s
  refine ⟨⟨_, rfl, hpending.trans hq, hscratch, hmem, idle_now s⟩, fun hr ho ht hp hc hs hf hra => ?_⟩
  rw [idle_still hr ho ht hp hc, tick_still hs hf hra]
  refine ⟨fun hv => ⟨_, rfl, if_pos hv⟩, fun hv => ?_⟩
  rw [hv]
  rfl

end Sys2Proof.Machine
end

section
/-! SUPPORT. What the PCIe functions undergo: the link settings at reset, VFs taken away, the start of a reset sequence, and D-states. -/

namespace Sys2Proof.Machine

/-! ## The link settings -/

theorem putLink_setting (s : State) (l k : Fin 2) (w : BitVec 128) :
    (putLink s l w).links[k].setting = if l = k then w else s.links[k].setting := by
  unfold putLink modLink stopChains
  dsimp only
  by_cases h : l = k
  · subst h
    rw [vmod_same, if_pos rfl]
  · rw [vmod_ne _ h, if_neg h]

theorem resetLinks_setting (s : State) (l : Fin 2) : (resetLinks s).links[l].setting = linkReset := by
  unfold resetLinks
  rw [putLink_setting, putLink_setting]
  by_cases h : 1 = l
  · rw [if_pos h]
  · rw [if_neg h, if_pos (by omega)]

/-! ## The start of a reset sequence -/

theorem startReset_of_absent_or_resetting {s : State} {n : Stall} (cause : Nat)
    (h : s.stalls[n].st = .absent ∨ s.stalls[n].st = .resetting) : startReset s n cause = s := if_pos h

/-- What the sequence notes as it starts (R368). -/
def resetSeq (s : State) (n : Stall) (cause : Nat) : ResetSeq where
  cause := BitVec.ofNat 8 cause
  when := s.tb.now
  oldGen := s.stalls[n].gen
  jobs := (s.jobs.uploads.filter fun u => u.stall == n).length + (s.jobs.loads.filter fun l => l.stall == n).length
  segs := (closesInReset s n).toNat

/-- What a stall drops as its reset sequence starts (R365, R367, R369). -/
def enterReset (r : ResetSeq) (x : StallState) : StallState := { x with
  st := .resetting, store := [], outst := [], reset := some r
  cap := x.cap.map fun c => { c with stops := [], flush := [] }
  ref := { x.ref with timed := none, queued := none, play := none, loading := false } }

/-- A created stall enters the sequence, and what follows leaves it there. -/
theorem startReset_quiet {s : State} {n : Stall} (cause : Nat) (ha : s.stalls[n].st ≠ .absent) (hr : s.stalls[n].st ≠ .resetting) :
    quiet (modStall (dropLoadWrites s n) n (enterReset (resetSeq s n cause))) (startReset s n cause) := by
  unfold startReset
  rw [if_neg (not_or.2 ⟨ha, hr⟩)]
  refine quiet_then ?_ (endDeviceWork_quiet _)
  refine quiet_after (giveDecs_quiet _) (quiet_after (endUploads_quiet _ _) (quiet_after (jobs_quiet _ _) ?_))
  refine quiet_after (stopEngine_quiet _ _) (quiet_after (stopChains_quiet _ _) (quiet_after (closeCapture_quiet _ _ _ _) ?_))
  exact dropGroom_quiet _ _

/-- A created stall's sequence has begun, with its cause and time (R365). -/
theorem startReset_inReset {s : State} {n : Stall} (cause : Nat) (ha : s.stalls[n].st ≠ .absent) (hr : s.stalls[n].st ≠ .resetting) :
    inReset (startReset s n cause) n ∧ (startReset s n cause).stalls[n].reset = some (resetSeq s n cause) := by
  have hx : (modStall (dropLoadWrites s n) n (enterReset (resetSeq s n cause))).stalls[n] =
      enterReset (resetSeq s n cause) (dropLoadWrites s n).stalls[n] := vmod_same _ _ _
  have hin : inReset (modStall (dropLoadWrites s n) n (enterReset (resetSeq s n cause))) n := by
    unfold inReset
    rw [hx]
    exact ⟨rfl, rfl⟩
  obtain ⟨hu, hreset⟩ := (startReset_quiet cause ha hr).2 n hin
  rw [hx] at hreset
  exact ⟨hu, hreset⟩

/-! ## VFs taken away -/

/-- With no stall above NumVFs the windows and the two fields of the capability are all that changes. -/
theorem lowerVFs_of_absent {s : State} {n : Nat} (h : ∀ k : Stall, n < k.val → s.stalls[k].st = .absent) :
    lowerVFs s n = { s with
      fns := vmap s.fns fun i r => if n < i.val then {} else r
      pcie := { s.pcie with numVFs := min n s.pcie.numVFs, vfEnable := n ≠ 0 && s.pcie.vfEnable } } := by
  refine foldl_eq_self fun k hk => startReset_of_absent_or_resetting 4 (.inl ?_)
  exact h k (of_decide_eq_true (List.mem_filter.1 hk).2)

theorem execVfDisable_of_above {s : State} {n : Fin 64} (he : s.pcie.vfEnable = true) (hn : n.val < s.pcie.numVFs) :
    execVfDisable n s = .next (lowerVFs s n.val) := congrArg _ (if_pos ⟨he, hn⟩)

theorem execVfEnable_of_allowed {s : State} {n : Fin 64} (c : VfControl) (hn : n ≠ 0) (he : s.pcie.vfEnable = false)
    (hc : s.pcie.cfgReady = true) (hb : s.boot.phase ≠ .halted) (hl : lifecycleOf s ≠ 4) :
    execVfEnable n c s = .next { s with pcie := { s.pcie with
      vfEnable := true, ari := c.ari, page := c.page, numVFs := if c.ari then n.val else min 7 n.val } } := by
  refine congrArg _ (if_neg ?_)
  rintro (h | h | h | h | h)
  · exact hn h
  · exact Bool.false_ne_true (he.symm.trans h)
  · exact h hc
  · exact hb h
  · exact hl h

/-! ## Function-level reset -/

theorem execFunctionLevelReset_of_exists {s : State} {f : Fn} (hc : s.pcie.cfgReady = true) (he : fnExists s f = true) :
    execFunctionLevelReset f s = .next (
      if f = 0 then resetLinks (lowerVFs { startReset (resetWindow s f) f 3 with
        pcie := { (startReset (resetWindow s f) f 3).pcie with maxRead := 2, page := 0 } } 0)
      else startReset (resetWindow s f) f 3) := by
  refine congrArg _ (if_neg ?_)
  simp [hc, he]

/-! ## D-states -/

/-- In D3hot a function's ring takes nothing (R377). -/
theorem drain_of_d3 {s : State} {f : Fn} (h : s.fns[f].d3 = true) : drain s f = s := by
  have hc : cqCanTake s f = false := by
    simp only [cqCanTake, h, Bool.not_true, Bool.and_false, Bool.false_and]
  unfold drain
  cases s.stalls[f].store.length with
  | zero => rfl
  | succ k =>
    unfold drainLoop
    split
    · rfl
    · rw [hc]
      rfl

theorem execDStateChange_of_exists {s : State} {f : Fn} {w : PmWrite} (hc : s.pcie.cfgReady = true) (he : fnExists s f = true)
    (hw : w.d3 = true ∨ w.ecc = []) : execDStateChange f w s =
      .next (drain (modFn (setMaxRead s f w.maxRead) f fun r => { r with d3 := w.d3, relaxedEnable := w.relaxed }) f) := by
  have hecc : (if w.d3 then [] else w.ecc) = [] := by
    rcases hw with h | h <;> simp [h]
  unfold execDStateChange
  rw [if_neg (by simp [hc, he]), hecc]
  rfl

/-- Draining its store leaves a function's D-state and Relaxed Ordering Enable, and the endpoint. -/
theorem drain_power (s : State) (f : Fn) : (drain s f).fns[f].d3 = s.fns[f].d3 ∧
    (drain s f).fns[f].relaxedEnable = s.fns[f].relaxedEnable ∧ (drain s f).pcie = s.pcie := by
  obtain ⟨hrest, -, hfn, -, -⟩ := drain_answers s f
  exact ⟨by rw [hfn], by rw [hfn], by rw [hrest]⟩

theorem setMaxRead_maxRead (s : State) (f : Fn) (m : Fin 6) : (setMaxRead s f m).pcie.maxRead = if f = 0 then m else s.pcie.maxRead := by
  unfold setMaxRead
  split <;> rfl

/-! ## The obligation's parts -/

theorem functionLevelReset_next {s : State} {f : Fn} (hc : s.pcie.cfgReady = true) (he : fnExists s f = true) :
    (f ≠ 0 → exec (.functionLevelReset f) s = .next (startReset (resetWindow s f) f 3)) ∧
    (f = 0 → exec (.functionLevelReset f) s = .next (resetLinks (lowerVFs { startReset (resetWindow s f) f 3 with
        pcie := { (startReset (resetWindow s f) f 3).pcie with maxRead := 2, page := 0 } } 0)) ∧
      ∃ u, exec (.functionLevelReset f) s = .next u ∧ ∀ l : Fin 2, u.links[l].setting = 0x200000) := by
  have h := execFunctionLevelReset_of_exists hc he
  refine ⟨fun hf => h.trans (congrArg _ (if_neg hf)), fun hf => ?_⟩
  have h0 := h.trans (congrArg _ (if_pos hf))
  exact ⟨h0, _, h0, resetLinks_setting _⟩

theorem vfDisable_next {s : State} {n : Fin 64} (he : s.pcie.vfEnable = true) (hn : n.val < s.pcie.numVFs) :
    exec (.vfDisable n) s = .next (lowerVFs s n.val) ∧
    ((∀ k : Stall, n.val < k.val → s.stalls[k].st = .absent) → ∃ u, exec (.vfDisable n) s = .next u ∧
      u = { s with fns := u.fns, pcie := { s.pcie with numVFs := n.val, vfEnable := decide (n.val ≠ 0) } } ∧
      (∀ g : Fn, g.val ≤ n.val → u.fns[g] = s.fns[g]) ∧ ∀ g : Fn, n.val < g.val → u.fns[g] = {}) := by
  have h := execVfDisable_of_above he hn
  refine ⟨h, fun ha => ⟨_, h, ?_⟩⟩
  rw [lowerVFs_of_absent ha]
  refine ⟨?_, fun g hg => ?_, fun g hg => ?_⟩
  · rw [he, Nat.min_eq_left (Nat.le_of_lt hn), Bool.and_true]
  · exact (vmap_get _ _ _).trans (if_neg (Nat.not_lt.2 hg))
  · exact (vmap_get _ _ _).trans (if_pos hg)

theorem dStateChange_next {s : State} {f : Fn} (hc : s.pcie.cfgReady = true) (he : fnExists s f = true) (relaxed : Bool) (m : Fin 6) :
    exec (.dStateChange f { d3 := false, relaxed := relaxed, maxRead := m }) s =
      .next (drain (modFn (setMaxRead s f m) f fun r => { r with d3 := false, relaxedEnable := relaxed }) f) ∧
    (∃ u, exec (.dStateChange f { d3 := false, relaxed := relaxed, maxRead := m }) s = .next u ∧ u.fns[f].d3 = false ∧
      u.fns[f].relaxedEnable = relaxed ∧ u.pcie.maxRead = (if f = 0 then m else s.pcie.maxRead)) ∧
    ∀ ecc : List Ecc, exec (.dStateChange f { d3 := true, relaxed := relaxed, maxRead := m, ecc := ecc }) s =
      .next (modFn (setMaxRead s f m) f fun r => { r with d3 := true, relaxedEnable := relaxed }) := by
  have hx (d3 : Bool) : (modFn (setMaxRead s f m) f fun r => { r with d3 := d3, relaxedEnable := relaxed }).fns[f] =
      { (setMaxRead s f m).fns[f] with d3 := d3, relaxedEnable := relaxed } := vmod_same _ _ _
  have h0 := execDStateChange_of_exists (w := { d3 := false, relaxed := relaxed, maxRead := m }) hc he (.inr rfl)
  obtain ⟨hd3, hrel, hpcie⟩ := drain_power (modFn (setMaxRead s f m) f fun r => { r with d3 := false, relaxedEnable := relaxed }) f
  refine ⟨h0, ⟨_, h0, hd3.trans ?_, hrel.trans ?_, ?_⟩, fun ecc => ?_⟩
  · rw [hx]
  · rw [hx]
  · rw [hpcie]
    exact setMaxRead_maxRead s f m
  · refine (execDStateChange_of_exists hc he (.inl rfl)).trans (congrArg _ (drain_of_d3 ?_))
    rw [hx]

/-- Settles O38: each row of the PCIe functions is its named operation, and a created stall enters its reset sequence
(`startReset_inReset`). -/
theorem functionsAreResetEnabledAndStopped : Obligations.FunctionsAreResetEnabledAndStopped := by
  unfold Obligations.FunctionsAreResetEnabledAndStopped
  refine ⟨fun s => ⟨fun f hc he => functionLevelReset_next hc he, fun n he hn => vfDisable_next he hn,
    fun n page hn he hc hb hl => ⟨execVfEnable_of_allowed _ hn he hc hb hl, execVfEnable_of_allowed _ hn he hc hb hl⟩,
    fun f hc he => dStateChange_next hc he, rfl, _, rfl, resetLinks_setting _⟩,
    fun s n cause => ⟨startReset_of_absent_or_resetting cause, fun ha hr hc he hn _ => ?_⟩⟩
  obtain ⟨⟨hst, hout⟩, hreset⟩ := startReset_inReset (s := resetWindow s n) 3 ha hr
  exact ⟨_, (functionLevelReset_next hc he).1 hn, hst, hout, congrArg _ hreset⟩

end Sys2Proof.Machine
end

section
/-! SUPPORT. A turn of the Groom: whose entry is taken, and what the common checks make of it (R26, R362, R394, R408). -/

open Sys2Proof.Claims

namespace Sys2Proof.Machine

/-! ## Whose turn it is -/

theorem turnOf_eligible {s : State} {f : Fn} (h : turnOf s = some f) : eligible s f = true := List.find?_some h

theorem eligible_limits {s : State} {f : Fn} (h : eligible s f = true) :
    outstanding s f < s.stalls[f].grant.outstanding ∧ takenNow s f < s.stalls[f].grant.rate := by
  simp only [eligible, Bool.and_eq_true, decide_eq_true_eq] at h
  obtain ⟨⟨⟨-, hout⟩, hrate⟩, -⟩ := h
  exact ⟨hout, hrate⟩

/-- A function at one of the limits of its stall has no turn (R362). -/
theorem turnOf_ne_of_limit {s : State} {f : Fn}
    (h : s.stalls[f].grant.outstanding ≤ outstanding s f ∨ s.stalls[f].grant.rate ≤ takenNow s f) : turnOf s ≠ some f := by
  intro ht
  obtain ⟨hout, hrate⟩ := eligible_limits (turnOf_eligible ht)
  exact h.elim (Nat.not_le.2 hout) (Nat.not_le.2 hrate)

theorem take_of_other_turn {s : State} {f : Fn} (e : SqEntry) (ecc : TakeEcc) (h : turnOf s ≠ some f) :
    exec (.groomTakeCommand f e ecc) s = .next s := by
  refine congrArg _ (if_pos ?_)
  rw [bne_iff_ne.2 h, Bool.or_true]

/-! ## The taking of an entry -/

section
variable {s : State} {f : Fn} (e : SqEntry) (hr : groomRuns s = true) (ht : turnOf s = some f)
include hr ht

/-- In its turn, and with clean reads, the entry leaves its slot, and its tag and the common checks decide what follows. -/
theorem take_of_turn : exec (.groomTakeCommand f e {}) s = .next (
    if tagBusy s f (tagOf e) then dupTag (takeSlot s f) f e
    else settle (addOutst (takeSlot s f) f e) { fn := f, e := e, when := s.tb.now } (commonChecks (takeSlot s f) f e)) := by
  refine congrArg _ ((if_neg ?_).trans (if_neg ?_))
  · simp [hr, ht]
  · simp

theorem take_of_busyTag (hb : tagBusy s f (tagOf e) = true) :
    exec (.groomTakeCommand f e {}) s = .next (dupTag (takeSlot s f) f e) :=
  (take_of_turn e hr ht).trans (congrArg _ (if_pos hb))

/-- With a free tag the verdict of the common checks settles the command, its slot left and itself outstanding. -/
theorem take_of_verdict {w : Verdict} (hb : tagBusy s f (tagOf e) = false) (hc : commonChecks (takeSlot s f) f e = w) :
    exec (.groomTakeCommand f e {}) s =
      .next (settle (addOutst (takeSlot s f) f e) { fn := f, e := e, when := s.tb.now } w) := by
  rw [take_of_turn e hr ht, if_neg (Bool.eq_false_iff.1 hb), hc]

end

/-- The taking of an entry leaves every other function and stall. -/
theorem addOutst_takeSlot_ne (s : State) (e : SqEntry) {f g : Fn} (h : g ≠ f) :
    (addOutst (takeSlot s f) f e).fns[g] = s.fns[g] ∧ (addOutst (takeSlot s f) f e).stalls[g] = s.stalls[g] :=
  ⟨vmod_ne _ h.symm _, vmod_ne _ h.symm _⟩

theorem takeSlot_fns_same (s : State) (f : Fn) : (takeSlot s f).fns[f] = { s.fns[f] with
    sqHead := BitVec.ofNat 12 ((s.fns[f].sqHead.toNat + 1) % 2 ^ bits s.fns[f].sqSize 3 0)
    ratePeriod := BitVec.ofNat 64 (msPeriod s.tb.now), rateTaken := takenNow s f + 1 } := vmod_same _ _ _

theorem addOutst_outst_same (s : State) (f : Fn) (e : SqEntry) : (addOutst s f e).stalls[f].outst = s.stalls[f].outst ++ [{
    tag := tagOf e, op := BitVec.ofNat 8 (opcode e), fn := f, gen := genField e, progress := bit (dw e 0) 8, when := s.tb.now
    taken := s.tb.now }] := by
  unfold addOutst
  rw [modStall_stalls, vmod_same]

/-! ## The common checks, in their order -/

section
variable {s : State} {f : Fn} {e : SqEntry} (ho : opcode e ∈ opcodes)
include ho

theorem commonChecks_of_haltRefused (hh : s.boot.phase = .halted) (hn : opcode e ∉ haltOpcodes) :
    commonChecks s f e = .fail .unsupported {} :=
  (if_neg (not_not_intro ho)).trans (if_pos ⟨hh, hn⟩)

variable (hs : ¬ (s.boot.phase = .halted ∧ opcode e ∉ haltOpcodes))
include hs

theorem commonChecks_of_stallChecks {v : Verdict} (hv : stallChecks s f e = v) (hp : v ≠ .pass) : commonChecks s f e = v := by
  cases v with
  | pass => exact absurd rfl hp
  | fail st p => rw [commonChecks, if_neg (not_not_intro ho), if_neg hs, hv]
  | violate r k i => rw [commonChecks, if_neg (not_not_intro ho), if_neg hs, hv]

theorem commonChecks_of_badHead {d b : Nat} (hv : stallChecks s f e = .pass) (hb : badHead e = some (d, b)) :
    commonChecks s f e = .fail .invalid { fieldPay d b with p5 := noOffset (opcode e) } := by
  rw [commonChecks, if_neg (not_not_intro ho), if_neg hs, hv, hb]

theorem commonChecks_of_refusedByState {st : Status} (hv : stallChecks s f e = .pass) (hb : badHead e = none)
    (hr : refusedByState s e = some st) : commonChecks s f e = .fail st {} := by
  rw [commonChecks, if_neg (not_not_intro ho), if_neg hs, hv, hb, hr]

end

/-! ## The obligation's parts -/

theorem unknownOpcode_completes {s : State} {t : Taken} (h : s.groom.taken = some t) (ho : opcode t.e ∉ opcodes) :
    exec .unknownOpcode s = .next (completeAt (freed s) t .unsupported {}) :=
  congrArg _ (withCmd_at h (decide_eq_true ho))

/-- Settles O32: a turn is an eligible function's (`turnOf_ne_of_limit`), and its entry is settled by the first check that fails
(`take_of_verdict`). -/
theorem theGroomTakesChecksAndHolds : Obligations.TheGroomTakesChecksAndHolds := by
  unfold Obligations.TheGroomTakesChecksAndHolds
  refine ⟨fun s f e hr => ⟨take_of_other_turn e {}, fun ht hb hc => ?passes⟩,
    fun s f e ecc hl => take_of_other_turn e ecc (turnOf_ne_of_limit hl),
    fun s => ⟨fun t h ho => ⟨_, unknownOpcode_completes h ho, rfl, completeAt_answers _ _ _ _⟩, ?fails⟩⟩
  case passes =>
    have hf := takeSlot_fns_same s f
    refine ⟨_, take_of_verdict e hr ht hb hc, rfl, rfl, congrArg FnState.sqHead hf, congrArg FnState.rateTaken hf,
      addOutst_outst_same _ _ _, rfl, fun g hg => addOutst_takeSlot_ne s e hg⟩
  case fails =>
    rintro f e t u v hr ht rfl rfl rfl
    refine ⟨fun hb => ⟨_, take_of_busyTag e hr ht hb, pushEntry_answers _ _ _, rfl, rfl, rfl, rfl⟩, fun hb ho => ?_⟩
    refine ⟨completeAt_answers _ _, fun hh hn => take_of_verdict e hr ht hb (commonChecks_of_haltRefused ho hh hn), fun hserved => ?_⟩
    have hs : ¬ (s.boot.phase = .halted ∧ opcode e ∉ haltOpcodes) := fun h => hserved.elim (absurd h.1) h.2
    refine ⟨fun st p hv => ?_, fun r k i hv => ?_, fun d b hv hd => ?_, fun st hv hd hst => ?_⟩
    · exact take_of_verdict e hr ht hb (commonChecks_of_stallChecks ho hs hv nofun)
    · exact take_of_verdict e hr ht hb (commonChecks_of_stallChecks ho hs hv nofun)
    · exact take_of_verdict e hr ht hb (commonChecks_of_badHead ho hs hv hd)
    · exact take_of_verdict e hr ht hb (commonChecks_of_refusedByState ho hs hv hd hst)

end Sys2Proof.Machine
end

section
/-! SUPPORT. Reset, loss of power, and the boot's first and last steps: what a reset leaves, how a step begins the next, and what the reports of
step 12 leave alone (R28, R530, R531, R541, R560). -/

namespace Sys2Proof.Machine

/-! ## Reset -/

/-- The core is in reset: the flash's contents, the fuses and the calibration store are those of `s`, and nothing of the captures, the stalls, the
memories and the windows is left (R28, R530). -/
def inResetFrom (s u : State) : Prop :=
  u.boot.phase = .inReset ∧ u.power.st = .off ∧ u.stalls = State.reset.stalls ∧
  u.fns = State.reset.fns ∧ u.chans = State.reset.chans ∧ u.scratch = [] ∧ u.dram.mem = [] ∧
  u.flash.journal = s.flash.journal ∧ u.flash.slotA = s.flash.slotA ∧ u.flash.slotB = s.flash.slotB ∧
  u.flash.breach = s.flash.breachCommitted ∧ u.sec.slots = s.sec.slots ∧ u.sec.floor = s.sec.floor ∧ u.sec.keys = false ∧
  ∀ p : Fin 6, u.tiles[p].stored = s.tiles[p].stored ∧ u.tiles[p].storedCorr = s.tiles[p].storedCorr

theorem coreReset_inResetFrom (s : State) : inResetFrom s (coreReset s) :=
  ⟨rfl, rfl, rfl, rfl, rfl, rfl, rfl, rfl, rfl, rfl, rfl, rfl, rfl, rfl, fun p => by simp [coreReset]⟩

/-- Nothing that the loss of the always-on supply takes is among what a reset leaves or clears. -/
theorem dropAlwaysOn_inResetFrom {s u : State} (h : inResetFrom s u) : inResetFrom s (dropAlwaysOn u) := h

theorem exec_bootStepTimeout_of_running {s : State} (hp : s.boot.phase = .booting) (h1 : s.boot.step ≠ 1) (ht : s.power.target = none)
    (hd : s.power.st ≠ .dormant) : exec .bootStepTimeout s = .next (coreReset s) :=
  congrArg _ (if_neg (by simp [hp, h1, ht, hd]))

/-! ## The first steps -/

/-- A boot begins with step 1; of the always-on records it changes nothing (R530). -/
theorem startBoot_begins (s : State) : (startBoot s).boot.phase = .booting ∧ (startBoot s).boot.step = 1 ∧
    (startBoot s).sec = s.sec ∧ (startBoot s).pins.thermTrip = s.pins.thermTrip := by
  unfold startBoot leaveStage4
  split <;> exact ⟨rfl, rfl, rfl, rfl⟩

theorem exec_bootStart_of_inReset {s : State} (why : BootWhy) (hp : s.boot.phase = .inReset) (hd : s.power.st ≠ .dormant) :
    exec (.bootStart why) s = .next (startBoot (if why = .powerOn then dropAlwaysOn s else s)) :=
  congrArg _ (if_neg (by simp [hp, hd]))

/-- A boot at VDD_AON finds no always-on record (R89, R530). -/
theorem startBoot_powerOn (s : State) : (startBoot (dropAlwaysOn s)).sec.recTrip = none ∧
    (startBoot (dropAlwaysOn s)).sec.recTamper = [] ∧ (startBoot (dropAlwaysOn s)).pins.thermTrip = false := by
  obtain ⟨-, -, hsec, hpin⟩ := startBoot_begins (dropAlwaysOn s)
  rw [hsec, hpin]
  exact ⟨rfl, rfl, rfl⟩

section
variable {s : State} (hp : s.boot.phase = .booting) (ht : s.power.target = none) (hd : s.power.st ≠ .dormant)
include hp ht hd

theorem boot_takes_outcome : ¬ (s.boot.phase ≠ .booting ∨ s.power.target.isSome ∨ s.power.st = .dormant) := by
  simp [hp, ht, hd]

theorem exec_bootStepDone_aon (crystal : Bool) (hk : s.boot.step = 1) :
    exec (.bootStepDone (.aon crystal)) s = .next (stepAon s crystal) := by
  change execBootStepDone _ s = _
  unfold execBootStepDone
  simp only [if_neg (boot_takes_outcome hp ht hd), hk]

theorem exec_bootStepDone_ready (ok : Bool) (hk : s.boot.step = 12) :
    exec (.bootStepDone (.ready ok)) s = .next (stepReady s ok) := by
  change execBootStepDone _ s = _
  unfold execBootStepDone
  simp only [if_neg (boot_takes_outcome hp ht hd), hk]

end

theorem passStep_one (s : State) : passStep s 1 false = enterStep (setFails (markProgress s 1 0x3F) 1 0) 2 := rfl

/-- Step 1 passes whether the crystal runs or not (R92, R532). -/
theorem stepAon_begins (s : State) (crystal : Bool) : (stepAon s crystal).boot.step = 2 ∧
    (stepAon s crystal).tb.aonFault = !crystal ∧ (stepAon s crystal).boot.phase = s.boot.phase := by
  unfold stepAon
  rw [passStep_one]
  exact ⟨rfl, rfl, rfl⟩

/-! ## What reports leave alone -/

/-- The boot's phase, the power state, DRAM, and each stall's state and grant stand. -/
def reports (s t : State) : Prop :=
  t.boot.phase = s.boot.phase ∧ t.power.st = s.power.st ∧ t.dram = s.dram ∧
  ∀ n : Stall, t.stalls[n].st = s.stalls[n].st ∧ t.stalls[n].grant = s.stalls[n].grant

theorem reports_of_eq {s t : State} (hb : t.boot.phase = s.boot.phase) (hp : t.power.st = s.power.st) (hd : t.dram = s.dram)
    (hs : t.stalls = s.stalls) : reports s t := ⟨hb, hp, hd, fun n => by rw [hs]; exact ⟨rfl, rfl⟩⟩

theorem reports_boot (s : State) {x : Boot} (h : x.phase = s.boot.phase) : reports s { s with boot := x } :=
  reports_of_eq h rfl rfl rfl

theorem reports_power (s : State) {x : Power} (h : x.st = s.power.st) : reports s { s with power := x } :=
  reports_of_eq rfl h rfl rfl

theorem reports_refl (s : State) : reports s s := reports_of_eq rfl rfl rfl rfl

theorem reports_trans {s t u : State} (h : reports s t) (k : reports t u) : reports s u := by
  obtain ⟨hb, hp, hd, hs⟩ := h
  obtain ⟨kb, kp, kd, ks⟩ := k
  exact ⟨kb.trans hb, kp.trans hp, kd.trans hd, fun n => ⟨(ks n).1.trans (hs n).1, (ks n).2.trans (hs n).2⟩⟩

theorem reports_ite {c : Prop} [Decidable c] {s t u : State} (h : reports s t) (k : reports s u) :
    reports s (if c then t else u) := by
  split <;> assumption

theorem reports_foldl {α : Type} {f : State → α → State} (h : ∀ s a, reports s (f s a)) (l : List α) (s : State) :
    reports s (l.foldl f s) := by
  induction l generalizing s with
  | nil => exact reports_refl s
  | cons a l ih => exact reports_trans (h s a) (ih _)

theorem modStall_reports (s : State) (n : Stall) {f : StallState → StallState} (h : ∀ x, (f x).st = x.st ∧ (f x).grant = x.grant) :
    reports s (modStall s n f) := by
  refine ⟨rfl, rfl, rfl, fun m => ?_⟩
  rw [modStall_stalls]
  by_cases e : n = m
  · rw [← e, vmod_same]
    exact h _
  · rw [vmod_ne _ e]
    exact ⟨rfl, rfl⟩

theorem modEng_reports (s : State) (n : Stall) (f : Engine → Engine) : reports s (modEng s n f) :=
  modStall_reports s n fun _ => ⟨rfl, rfl⟩

theorem modGroom_reports (s : State) (f : Groom → Groom) : reports s (modGroom s f) := reports_of_eq rfl rfl rfl rfl

theorem modPort_reports (s : State) (p : Fin 6) (f : PodPort → PodPort) : reports s (modPort s p f) := reports_of_eq rfl rfl rfl rfl

theorem reports_of_answersOnly {f : Fn} {s t : State} (h : answersOnly f s t) : reports s t := by
  obtain ⟨hrest, hother, -, hstall, -⟩ := h
  refine ⟨by rw [hrest], by rw [hrest], by rw [hrest], fun n => ?_⟩
  by_cases e : n = f
  · rw [e, hstall]
    exact ⟨rfl, rfl⟩
  · rw [(hother n e).2]
    exact ⟨rfl, rfl⟩

/-! ### Events and markers -/

theorem sendEvent_reports (s : State) (f : Fn) (e : CqEntry) : reports s (sendEvent s f e) :=
  reports_of_answersOnly (sendEvent_answers s f e)

theorem sendEvents_reports (s : State) (l : List (Fn × CqEntry)) : reports s (sendEvents s l) := by
  unfold sendEvents
  exact reports_foldl (fun s x => sendEvent_reports s x.1 x.2) l s

theorem sendRated_reports (s : State) (key : RateKey) (interval : Nat) (l : List (Fn × CqEntry)) :
    reports s (sendRated s key interval l) :=
  reports_ite (modGroom_reports _ _) (reports_trans (modGroom_reports _ _) (sendEvents_reports _ _))

theorem dramEventAt_reports (s : State) (t : Time) (who : List Stall) (cause : Nat) (l : Fin 4) (detail : Nat) :
    reports s (dramEventAt s t who cause l detail) := sendRated_reports _ _ _ _

theorem queueRecs_reports (s : State) (n : Stall) (l : List Rec) : reports s (queueRecs s n l) :=
  reports_ite (reports_trans (modGroom_reports _ _) (modStall_reports _ _ fun _ => ⟨rfl, rfl⟩))
    (modStall_reports _ _ fun _ => ⟨rfl, rfl⟩)

theorem marker_reports (s : State) (n : Stall) (kind : Nat) (t : Time) (d : BitVec 64) : reports s (marker s n kind t d) :=
  reports_ite (queueRecs_reports _ _ _) (reports_refl _)

/-! ### What was held in Dormant -/

theorem reportPlug_reports (s : State) (p : Fin 6) (bytes : Option (List Byte)) : reports s (reportPlug s p bytes) :=
  reports_trans (modPort_reports _ _ _) (sendEvents_reports _ _)

theorem dropLatchTerms_reports (s : State) (n : Stall) : reports s (dropLatchTerms s n) := by
  unfold dropLatchTerms
  split
  · exact reports_refl _
  · exact modEng_reports _ _ _

theorem forcePort_reports (s : State) (p : Fin 6) : reports s (forcePort s p) := by
  unfold forcePort
  refine reports_trans ?_ (reports_foldl dropLatchTerms_reports _ _)
  exact reports_of_eq rfl rfl rfl rfl

theorem recognisePlug_reports (s : State) (p : Fin 6) (t : Time) : reports s (recognisePlug s p t) :=
  reports_trans (forcePort_reports _ _) (modPort_reports _ _ _)

theorem reportHeldPlug_reports (s : State) (p : Fin 6) (t : Time) (gone : Bool) : reports s (reportHeldPlug s p t gone) :=
  reports_ite (reports_trans (modPort_reports _ _ _) (reportPlug_reports _ _ _)) (recognisePlug_reports _ _ _)

theorem recogniseUnplug_reports (s : State) (p : Fin 6) (t : Time) (overcurrent : Bool) :
    reports s (recogniseUnplug s p t overcurrent) := by
  unfold recogniseUnplug
  refine reports_trans (reports_trans ?_ (reports_foldl (fun s n => marker_reports s n _ _ _) _ _)) (sendEvents_reports _ _)
  exact reports_trans (forcePort_reports _ _) (modPort_reports _ _ _)

theorem reportUnread_reports (s : State) (p : Fin 6) : reports s (reportUnread s p) :=
  reports_ite (reports_refl _) (reportPlug_reports _ _ _)

theorem reportSpur_reports (s : State) (p : Fin 6) (t : Time) : reports s (reportSpur s p t) :=
  reports_trans (reports_foldl (fun s n => marker_reports s n _ _ _) _ _) (sendEvents_reports _ _)

theorem reportHeld_reports (s : State) (h : HeldPress) (rest : List HeldPress) : reports s (reportHeld s h rest) := by
  refine reports_ite (reports_ite (reports_refl _) (sendEvents_reports _ _)) ?_
  refine reports_ite (reportSpur_reports _ _ _) (reports_ite (reportHeldPlug_reports _ _ _ _) ?_)
  exact reports_trans (reportUnread_reports _ _) (recogniseUnplug_reports _ _ _ _)

theorem reportAll_reports (l : List HeldPress) (s : State) : reports s (reportAll s l) := by
  induction l generalizing s with
  | nil => exact reports_refl s
  | cons h l ih => exact reports_trans (reportHeld_reports _ _ _) (ih _)

theorem giveHeld_reports (s : State) : reports s (giveHeld s) :=
  reports_trans (reports_power s rfl) (reportAll_reports _ _)

/-! ## Step 12 -/

/-- Step 12 has passed and the device is in Run with stall 0, before it reports what it found (R349, R504, R531). -/
def enteredRun (s : State) : State :=
  let s := modStall (setFails (markProgress s 12 0x3F) 12 0) 0 fun x => freshStall x .idle 256 65535
  { s with boot := { s.boot with phase := .ready, reached := true }, power := { s.power with st := .run } }

theorem raiseFloor_reports (s : State) : reports s (raiseFloor s) :=
  reports_ite (reports_refl _) (reports_of_eq rfl rfl rfl rfl)

/-- From there step 12 reports, raises the floor, and queues every parcel for its wipe. -/
theorem stepReady_reports (s : State) : ∃ v, reports (enteredRun s) v ∧ stepReady s true = queueWipe v (List.range v.dram.total) := by
  unfold stepReady
  rw [if_neg (by decide)]
  refine ⟨_, ?_, rfl⟩
  refine reports_trans ?_ (raiseFloor_reports _)
  refine reports_trans ?_ (reports_boot _ rfl)
  refine reports_trans ?_ (reports_foldl (fun s l => dramEventAt_reports s _ _ _ l _) _ _)
  refine reports_trans ?_ (reports_ite (dramEventAt_reports _ _ _ _ _ _) (reports_refl _))
  refine reports_trans ?_ (reports_foldl (fun s x => sendEvent_reports s _ _) _ _)
  refine reports_trans ?_ (giveHeld_reports _)
  exact reports_power (enteredRun s) rfl

theorem enteredRun_dram (s : State) : (enteredRun s).dram = s.dram := rfl

theorem enteredRun_stall0 (s : State) : (enteredRun s).stalls[(0 : Fin 64)].st = .idle ∧
    (enteredRun s).stalls[(0 : Fin 64)].grant = { outstanding := 256, rate := 65535 } := by
  have h : (enteredRun s).stalls[(0 : Fin 64)] = freshStall _ .idle 256 65535 := vmod_same _ _ _
  rw [h]
  exact ⟨rfl, rfl⟩

theorem mem_queueWipe {s : State} {l : List Nat} {k : Nat} (hk : k ∈ l) (hr : k ∉ s.dram.retired) :
    ∃ q ∈ (queueWipe s l).dram.wipeQ, q.parcel = k := by
  refine ⟨{ parcel := k, when := s.tb.now }, List.mem_append_right _ (List.mem_map_of_mem ?_), rfl⟩
  simp [hk, hr]

/-! ## The obligation's parts -/

/-- Step 12 leaves the device ready, in Run, with stall 0 and every parcel to be wiped. -/
theorem stepReady_ready (s : State) : (stepReady s true).boot.phase = .ready ∧ (stepReady s true).power.st = .run ∧
    (stepReady s true).stalls[(0 : Fin 64)].st = .idle ∧ (stepReady s true).stalls[(0 : Fin 64)].grant.outstanding = 256 ∧
    (stepReady s true).stalls[(0 : Fin 64)].grant.rate = 65535 ∧
    ∀ k, k < s.dram.total → k ∉ s.dram.retired → ∃ q ∈ (stepReady s true).dram.wipeQ, q.parcel = k := by
  obtain ⟨v, ⟨hb, hp, hd, hs⟩, hv⟩ := stepReady_reports s
  obtain ⟨hst, hgrant⟩ := hs 0
  obtain ⟨h0, hg0⟩ := enteredRun_stall0 s
  rw [enteredRun_dram] at hd
  rw [hv, ← hd]
  refine ⟨hb, hp, hst.trans h0, ?_, ?_, fun k hk hr => mem_queueWipe (List.mem_range.2 hk) hr⟩
  · exact congrArg Grant.outstanding (hgrant.trans hg0)
  · exact congrArg Grant.rate (hgrant.trans hg0)

/-- Settles O59: each reset is `coreReset` (a loss of power drops the always-on records after it), a boot begins step 1, step 1 begins step 2,
and step 12's reports leave the state it enters (`stepReady_reports`). -/
theorem resetsAndBootSteps : Obligations.ResetsAndBootSteps := by
  unfold Obligations.ResetsAndBootSteps
  refine fun s => ⟨?resets, fun why hp hd => ?starts, fun crystal hp hk ht hd => ?aon, fun hp hk ht hd => ?ready⟩
  case resets =>
    rintro i (rfl | rfl | ⟨rfl, hp, h1, ht, hd⟩)
    · exact ⟨_, rfl, coreReset_inResetFrom s⟩
    · exact ⟨_, rfl, dropAlwaysOn_inResetFrom (coreReset_inResetFrom s)⟩
    · exact ⟨_, exec_bootStepTimeout_of_running hp h1 ht hd, coreReset_inResetFrom s⟩
  case starts =>
    obtain ⟨hphase, hstep, -, -⟩ := startBoot_begins (if why = .powerOn then dropAlwaysOn s else s)
    refine ⟨_, exec_bootStart_of_inReset why hp hd, hphase, hstep, fun hw => ?_⟩
    rw [if_pos hw]
    exact startBoot_powerOn s
  case aon =>
    obtain ⟨hstep, hfault, hphase⟩ := stepAon_begins s crystal
    exact ⟨_, exec_bootStepDone_aon hp ht hd crystal hk, hstep, hfault, hphase.trans hp⟩
  case ready => exact ⟨_, exec_bootStepDone_ready hp ht hd true hk, stepReady_ready s⟩

end Sys2Proof.Machine
end

section
/-! SUPPORT. The stalls and the teams of a pod port (R32). -/

namespace Sys2Proof.Machine

/-- Channel 8p + k is the k-th of port p. -/
theorem mem_stallsOfPort {s : State} {p : Fin 6} {n : Stall} :
    n ∈ stallsOfPort s p ↔ ∃ c : Fin 48, portOf c = p ∧ ownsChan s n c = true := by
  simp only [stallsOfPort, List.mem_filter, List.any_eq_true, List.mem_range]
  constructor
  · rintro ⟨-, k, hk, hb⟩
    exact ⟨⟨8 * p.val + k, by omega⟩, Fin.ext (by simp only [portOf]; omega), hb⟩
  · rintro ⟨c, rfl, hb⟩
    have hc : 8 * (portOf c).val + c.val % 8 = c.val := Nat.div_add_mod c.val 8
    exact ⟨List.mem_finRange n, c.val % 8, by omega, by rw [hc]; exact hb⟩

theorem portOf_eq_iff {c : Fin 48} {p : Fin 6} : portOf c = p ↔ 8 * p.val ≤ c.val ∧ c.val ≤ 8 * p.val + 7 := by
  rw [Fin.ext_iff]
  simp only [portOf]
  omega

theorem teamOf_eq_iff {c : Fin 48} {k : Fin 8} : teamOf c = k ↔ 6 * k.val ≤ c.val ∧ c.val ≤ 6 * k.val + 5 := by
  rw [Fin.ext_iff]
  simp only [teamOf]
  omega

/-- Settles O13: a port's eight channels and a team's six are those of their numbers (R32). -/
theorem stallsOfAPortOwnATeamWithAChannelOnIt : Obligations.StallsOfAPortOwnATeamWithAChannelOnIt :=
  fun _ _ _ => ⟨mem_stallsOfPort, fun _ => portOf_eq_iff, fun _ _ => teamOf_eq_iff, fun _ => Iff.rfl⟩

end Sys2Proof.Machine
end

section
/-! SUPPORT. What a report, and a change of one channel, leave alone: the other channels, the pod ports, the tiles, the front end, the
timebase, and of each stall what its probe rows go by. -/

namespace Sys2Proof.Machine

/-! ## Changes that reach some channels -/

/-- What the probe rows go by of a stall: its state, its capture's phase, parameters and teams, and its store state. -/
def footing (x : StallState) : StallSt × Option (CapPhase × ArmParams × BitVec 8) × Bool × Option StorePend :=
  (x.st, x.cap.map fun c => (c.phase, c.arm, c.teams), x.eng.storing, x.eng.storePend)

/-- Of the front end only the channels of `l` may change, the timebase stands, and every stall keeps its footing. -/
def touches (l : List (Fin 48)) (s t : State) : Prop :=
  (∀ c : Fin 48, c ∉ l → t.chans[c] = s.chans[c]) ∧ t.ports = s.ports ∧ t.tiles = s.tiles ∧ t.fe = s.fe ∧ t.tb = s.tb ∧
  ∀ n : Stall, footing t.stalls[n] = footing s.stalls[n]

/-- A change that touches no channel: a report. -/
abbrev tells (s t : State) : Prop := touches [] s t

theorem touches_chans {l : List (Fin 48)} {s t : State} (h : touches l s t) {c : Fin 48} (hc : c ∉ l) : t.chans[c] = s.chans[c] := h.1 c hc

theorem tells_chans {s t : State} (h : tells s t) : t.chans = s.chans :=
  Vector.ext fun i hi => h.1 ⟨i, hi⟩ List.not_mem_nil

theorem touches_ports {l : List (Fin 48)} {s t : State} (h : touches l s t) : t.ports = s.ports := h.2.1

theorem touches_tiles {l : List (Fin 48)} {s t : State} (h : touches l s t) : t.tiles = s.tiles := h.2.2.1

theorem touches_fe {l : List (Fin 48)} {s t : State} (h : touches l s t) : t.fe = s.fe := h.2.2.2.1

theorem touches_tb {l : List (Fin 48)} {s t : State} (h : touches l s t) : t.tb = s.tb := h.2.2.2.2.1

theorem touches_footing {l : List (Fin 48)} {s t : State} (h : touches l s t) (n : Stall) :
    footing t.stalls[n] = footing s.stalls[n] := h.2.2.2.2.2 n

/-- Whether a stall captures, and whether its segment is open, are parts of its footing. -/
theorem capturing_segmentOpen_of_footing {s t : State} {n : Stall} (h : footing t.stalls[n] = footing s.stalls[n]) :
    capturing t n = capturing s n ∧ segmentOpen t n = segmentOpen s n := by
  have hopen (u : State) : segmentOpen u n = (footing u.stalls[n]).2.1.any fun c => c.1 == .running || c.1 == .closing := by
    simp only [segmentOpen, footing, Option.any_map]
  exact ⟨congrArg (fun x => x.1 == StallSt.capturing) h, by rw [hopen, hopen, h]⟩

theorem touches_of_eq {l : List (Fin 48)} {s t : State} (hc : t.chans = s.chans) (hp : t.ports = s.ports) (ht : t.tiles = s.tiles)
    (hf : t.fe = s.fe) (hb : t.tb = s.tb) (hs : t.stalls = s.stalls) : touches l s t :=
  ⟨fun c _ => by rw [hc], hp, ht, hf, hb, fun n => by rw [hs]⟩

theorem touches_refl (l : List (Fin 48)) (s : State) : touches l s s := touches_of_eq rfl rfl rfl rfl rfl rfl

theorem touches_mono {l m : List (Fin 48)} {s t : State} (h : touches l s t) (k : l ⊆ m) : touches m s t :=
  ⟨fun c hc => h.1 c fun x => hc (k x), h.2⟩

theorem touches_of_tells {s t : State} (l : List (Fin 48)) (h : tells s t) : touches l s t := touches_mono h (List.nil_subset l)

/-- A change after another, the earlier one first. -/
theorem touches_trans {l : List (Fin 48)} {s t u : State} (h : touches l s t) (k : touches l t u) : touches l s u := by
  obtain ⟨hc, hp, ht, hf, hb, hs⟩ := h
  obtain ⟨kc, kp, kt, kf, kb, ks⟩ := k
  exact ⟨fun c x => (kc c x).trans (hc c x), kp.trans hp, kt.trans ht, kf.trans hf, kb.trans hb, fun n => (ks n).trans (hs n)⟩

theorem touches_ite {l : List (Fin 48)} {p : Prop} [Decidable p] {s t u : State} (h : touches l s t) (k : touches l s u) :
    touches l s (if p then t else u) := by
  split <;> assumption

/-- Changes one after another reach the channels of the list that each touches one of. -/
theorem touches_foldl {α : Type} {f : State → α → State} {l : List (Fin 48)} (m : List α) (h : ∀ s, ∀ a ∈ m, touches l s (f s a))
    (s : State) : touches l s (m.foldl f s) := by
  induction m generalizing s with
  | nil => exact touches_refl l s
  | cons a m ih =>
    exact touches_trans (h s a List.mem_cons_self) (ih (fun s b hb => h s b (List.mem_cons_of_mem a hb)) _)

/-- Changes of different channels one after another: what one of them makes of its channel stands, and it found that channel as it was at
the start. -/
theorem foldl_chan_at {α : Type} {f : State → α → State} {g : α → Fin 48} (hg : Function.Injective g)
    (h : ∀ s a, touches [g a] s (f s a)) {m : List α} (hm : m.Nodup) {a : α} (ha : a ∈ m) (s : State) :
    ∃ u, touches (m.map g) s u ∧ u.chans[g a] = s.chans[g a] ∧ (m.foldl f s).chans[g a] = (f u a).chans[g a] := by
  induction m generalizing s with
  | nil => exact absurd ha List.not_mem_nil
  | cons b m ih =>
    obtain ⟨hb, hm⟩ := List.nodup_cons.1 hm
    have hstep : touches ((b :: m).map g) s (f s b) := touches_mono (h s b) (by simp)
    by_cases e : a = b
    · subst e
      have hrest : touches (m.map g) (f s a) (m.foldl f (f s a)) :=
        touches_foldl m (fun s b hb => touches_mono (h s b) (by simpa using ⟨b, hb, rfl⟩)) _
      refine ⟨s, touches_refl _ s, rfl, touches_chans hrest ?_⟩
      rintro hmem
      obtain ⟨c, hc, heq⟩ := List.mem_map.1 hmem
      exact hb (hg heq ▸ hc)
    · obtain ⟨u, hu, hat, hfin⟩ := ih hm ((List.mem_cons.1 ha).resolve_left e) (f s b)
      have hne : g a ∉ [g b] := fun x => e (hg (List.mem_singleton.1 x))
      exact ⟨u, touches_trans hstep (touches_mono hu (by simp)), hat.trans (touches_chans (h s b) hne), hfin⟩

theorem modStall_tells (s : State) (n : Stall) {f : StallState → StallState} (h : ∀ x, footing (f x) = footing x) :
    tells s (modStall s n f) := by
  refine ⟨fun _ _ => rfl, rfl, rfl, rfl, rfl, fun m => ?_⟩
  rw [modStall_stalls]
  by_cases e : n = m
  · rw [← e, vmod_same]
    exact h _
  · rw [vmod_ne _ e]

theorem modEng_tells (s : State) (n : Stall) {f : Engine → Engine} (h : ∀ e, (f e).storing = e.storing ∧ (f e).storePend = e.storePend) :
    tells s (modEng s n f) :=
  modStall_tells s n fun x => by simp only [footing, (h x.eng).1, (h x.eng).2]

theorem modCap_tells (s : State) (n : Stall) {f : Capture → Capture}
    (h : ∀ c, (f c).phase = c.phase ∧ (f c).arm = c.arm ∧ (f c).teams = c.teams) : tells s (modCap s n f) :=
  modStall_tells s n fun x => by simp only [footing, Option.map_map, Function.comp_def, h]

theorem modGroom_tells (s : State) (f : Groom → Groom) : tells s (modGroom s f) := touches_of_eq rfl rfl rfl rfl rfl rfl

theorem modChain_tells (s : State) (k : Fin 8) (f : Chain → Chain) : tells s (modChain s k f) := touches_of_eq rfl rfl rfl rfl rfl rfl

theorem modChan_touches (s : State) (c : Fin 48) (f : Channel → Channel) : touches [c] s (modChan s c f) :=
  ⟨fun _ hd => vmod_ne _ (fun e => hd (List.mem_singleton.2 e.symm)) _, rfl, rfl, rfl, rfl, fun _ => rfl⟩

theorem modChan_at (s : State) (c : Fin 48) (f : Channel → Channel) : (modChan s c f).chans[c] = f s.chans[c] := vmod_same _ _ _

/-- What a channel's change makes of other contents is immaterial. -/
theorem modChan_congr {s : State} {c : Fin 48} {f g : Channel → Channel} (h : f s.chans[c] = g s.chans[c]) :
    modChan s c f = modChan s c g := by
  unfold modChan vmod
  rw [h]

theorem modChan_eq_self {s : State} {c : Fin 48} {f : Channel → Channel} (h : f s.chans[c] = s.chans[c]) : modChan s c f = s := by
  unfold modChan
  rw [vmod_eq_self h]

/-! ## Events and markers -/

theorem tells_of_answersOnly {f : Fn} {s t : State} (h : answersOnly f s t) : tells s t := by
  obtain ⟨hrest, hother, -, hstall, -⟩ := h
  refine ⟨fun c _ => by rw [hrest], by rw [hrest], by rw [hrest], by rw [hrest], by rw [hrest], fun n => ?_⟩
  by_cases e : n = f
  · rw [e, hstall]
    rfl
  · rw [(hother n e).2]

theorem sendEvent_tells (s : State) (f : Fn) (e : CqEntry) : tells s (sendEvent s f e) := tells_of_answersOnly (sendEvent_answers s f e)

theorem sendEvents_tells (s : State) (l : List (Fn × CqEntry)) : tells s (sendEvents s l) := by
  unfold sendEvents
  exact touches_foldl l (fun s x _ => sendEvent_tells s x.1 x.2) s

theorem sendRated_tells (s : State) (key : RateKey) (interval : Nat) (l : List (Fn × CqEntry)) : tells s (sendRated s key interval l) :=
  touches_ite (modGroom_tells _ _) (touches_trans (modGroom_tells _ _) (sendEvents_tells _ _))

theorem queueRecs_tells (s : State) (n : Stall) (l : List Rec) : tells s (queueRecs s n l) := by
  refine touches_ite (touches_trans (modGroom_tells _ _) (modStall_tells _ _ fun _ => rfl)) (modStall_tells _ _ fun x => ?_)
  simp only [footing, Option.map_map, Function.comp_def]

theorem marker_tells (s : State) (n : Stall) (kind : Nat) (t : Time) (d : BitVec 64) : tells s (marker s n kind t d) :=
  touches_ite (queueRecs_tells _ _ _) (touches_refl _ _)

theorem noteDrift_tells (s : State) (l : List Stall) : tells s (noteDrift s l) :=
  touches_foldl l (fun s n _ => modCap_tells s n fun c => by dsimp only; split <;> exact ⟨rfl, rfl, rfl⟩) s

/-! ## Latches -/

theorem latchReport_tells (s : State) (n : Stall) (c : Fin 48) (cond : Nat) (seed : Bool) (t : Time) :
    tells s (latchReport s n c cond seed t) :=
  touches_trans (touches_ite (queueRecs_tells _ _ _) (touches_refl _ _)) (sendEvent_tells _ _ _)

theorem raiseLatchTerms_tells (s : State) (n : Stall) (c k : Nat) (t : Time) : tells s (raiseLatchTerms s n c k t) := by
  unfold raiseLatchTerms
  split
  · exact touches_refl _ _
  · exact modEng_tells _ _ fun _ => ⟨rfl, rfl⟩

theorem dropLatchTerms_tells (s : State) (n : Stall) : tells s (dropLatchTerms s n) := by
  unfold dropLatchTerms
  split
  · exact touches_refl _ _
  · exact modEng_tells _ _ fun _ => ⟨rfl, rfl⟩

/-- A latch that is set does nothing again (R42). -/
theorem setLatch_of_set {s : State} {c : Fin 48} {k : Cond} (seed : Bool) (t : Time) (h : latchOf s.chans[c] k = true) :
    setLatch s c k seed t = s := if_pos h

/-- A latch that sets: the channel's part, and the reports that follow. -/
theorem setLatch_of_clear {s : State} {c : Fin 48} {k : Cond} (seed : Bool) (t : Time) (h : latchOf s.chans[c] k = false) :
    tells (modChan s c fun x => { putLatch x k true with seedBand := x.seedBand || seed }) (setLatch s c k seed t) := by
  unfold setLatch
  rw [if_neg (h ▸ Bool.false_ne_true)]
  dsimp only
  split
  · exact touches_refl _ _
  · exact touches_trans (latchReport_tells _ _ _ _ _ _) (raiseLatchTerms_tells _ _ _ _ _)

theorem setLatch_touches (s : State) (c : Fin 48) (k : Cond) (seed : Bool) (t : Time) : touches [c] s (setLatch s c k seed t) := by
  cases h : latchOf s.chans[c] k
  · exact touches_trans (modChan_touches _ _ _) (touches_of_tells _ (setLatch_of_clear seed t h))
  · rw [setLatch_of_set seed t h]
    exact touches_refl _ _

/-- A channel with a latch set, as `setLatch` leaves it. -/
def withLatch (x : Channel) (k : Cond) (seed : Bool) : Channel :=
  if latchOf x k then x else { putLatch x k true with seedBand := x.seedBand || seed }

theorem setLatch_at (s : State) (c : Fin 48) (k : Cond) (seed : Bool) (t : Time) :
    (setLatch s c k seed t).chans[c] = withLatch s.chans[c] k seed := by
  unfold withLatch
  cases h : latchOf s.chans[c] k
  · rw [tells_chans (setLatch_of_clear seed t h), modChan_at]
    rfl
  · rw [setLatch_of_set seed t h]
    rfl

/-- Setting a latch changes that latch and `seedBand` alone. -/
theorem withLatch_eq (x : Channel) (k : Cond) (seed : Bool) : withLatch x k seed = { x with
    above := x.above || decide (k = .above), below := x.below || decide (k = .below), band := x.band || decide (k = .band)
    open_ := x.open_ || decide (k = .open_), seedBand := (withLatch x k seed).seedBand } := by
  unfold withLatch
  split
  · next h =>
    obtain ⟨⟩ := x
    cases k <;> simp_all [latchOf]
  · cases k <;> simp [putLatch]

@[simp] theorem withLatch_above (x : Channel) (k : Cond) (seed : Bool) : (withLatch x k seed).above = (x.above || decide (k = .above)) := by
  rw [withLatch_eq]

@[simp] theorem withLatch_below (x : Channel) (k : Cond) (seed : Bool) : (withLatch x k seed).below = (x.below || decide (k = .below)) := by
  rw [withLatch_eq]

@[simp] theorem withLatch_band (x : Channel) (k : Cond) (seed : Bool) : (withLatch x k seed).band = (x.band || decide (k = .band)) := by
  rw [withLatch_eq]

@[simp] theorem withLatch_open (x : Channel) (k : Cond) (seed : Bool) : (withLatch x k seed).open_ = (x.open_ || decide (k = .open_)) := by
  rw [withLatch_eq]

@[simp] theorem withLatch_setting (x : Channel) (k : Cond) (seed : Bool) : (withLatch x k seed).setting = x.setting := by
  rw [withLatch_eq]

@[simp] theorem withLatch_pend (x : Channel) (k : Cond) (seed : Bool) : (withLatch x k seed).pend = x.pend := by
  rw [withLatch_eq]

@[simp] theorem withLatch_dwellFrom (x : Channel) (k : Cond) (seed : Bool) : (withLatch x k seed).dwellFrom = x.dwellFrom := by
  rw [withLatch_eq]

@[simp] theorem withLatch_dwellMet (x : Channel) (k : Cond) (seed : Bool) : (withLatch x k seed).dwellMet = x.dwellMet := by
  rw [withLatch_eq]

@[simp] theorem withLatch_checking (x : Channel) (k : Cond) (seed : Bool) : (withLatch x k seed).checking = x.checking := by
  rw [withLatch_eq]

theorem latchOf_withLatch (x : Channel) (k : Cond) (seed : Bool) : latchOf (withLatch x k seed) k = true := by
  unfold withLatch
  split
  · assumption
  · cases k <;> rfl

end Sys2Proof.Machine
end

section
/-! SUPPORT. The rows of the latches (R42 to R47). -/

namespace Sys2Proof.Machine

/-! ## The rows, guards passed -/

section
variable {s : State} {c : Fin 48}

theorem latchRows_of_not_live (h : chLive s.chans[c] = false) :
    (∀ above k, exec (.latchExcursion c above k) s = .next s) ∧ (∀ first, exec (.dwellMet c first) s = .next s) ∧
    ∀ undriven, exec (.openCheckEnd c undriven) s = .next s := by
  refine ⟨fun above k => congrArg _ (if_pos ?_), fun first => congrArg _ (if_pos ?_), fun undriven => congrArg _ (if_pos ?_)⟩
  · simp only [h, Bool.not_false, Bool.true_or]
  · simp only [dwellDue, h, Bool.false_and, Bool.not_false]
  · simp only [h, Bool.not_false, Bool.true_or]

/-- The first sample that may begin a residence after an excursion in sample k (R44). -/
def dwellAfterExcursion (s : State) (c : Fin 48) (k : Fin 8) : Time :=
  if later (s.tb.now + BitVec.ofNat 64 (32 * k.val) + 32) s.chans[c].dwellFrom then s.tb.now + BitVec.ofNat 64 (32 * k.val) + 32
  else s.chans[c].dwellFrom

/-- The latch of a side. -/
def sideCond (above : Bool) : Cond := if above then .above else .below

/-- An excursion of a live channel's samples restarts the dwell count, and sets the side's latch where that is enabled (R42, R44). -/
theorem latchExcursion_of_live {above : Bool} {k : Fin 8} (hl : chLive s.chans[c] = true) (hr : samplesRun s = true)
    (ha : s.chans[c].sampledAt = s.tb.now) :
    exec (.latchExcursion c above k) s = .next (
      if bit (if above then s.chans[c].overs else s.chans[c].unders) k.val then
        if chSideEn s.chans[c].setting above then
          setLatch (modChan s c fun x => restartDwell x (dwellAfterExcursion s c k)) c (sideCond above) false
            (s.tb.now + BitVec.ofNat 64 (32 * k.val))
        else modChan s c fun x => restartDwell x (dwellAfterExcursion s c k)
      else s) := by
  have hx : (modChan s c fun x => restartDwell x (if later (s.tb.now + BitVec.ofNat 64 (32 * k.val) + 32) x.dwellFrom then
      s.tb.now + BitVec.ofNat 64 (32 * k.val) + 32 else x.dwellFrom)) = modChan s c fun x => restartDwell x (dwellAfterExcursion s c k) :=
    modChan_congr rfl
  have hset : (modChan s c fun x => restartDwell x (dwellAfterExcursion s c k)).chans[c].setting = s.chans[c].setting := by
    rw [modChan_at]
    rfl
  show Host.Outcome.next _ = _
  dsimp only
  rw [hx, hset, hl, hr, ha]
  cases bit (if above then s.chans[c].overs else s.chans[c].unders) k.val
  · rw [if_pos (by simp)]
    rfl
  · rw [if_neg (by simp)]
    rfl

theorem latchExcursion_next {above : Bool} {k : Fin 8} (hl : chLive s.chans[c] = true) (hr : samplesRun s = true)
    (ha : s.chans[c].sampledAt = s.tb.now) :
    (bit (if above then s.chans[c].overs else s.chans[c].unders) k.val = false → exec (.latchExcursion c above k) s = .next s) ∧
    (bit (if above then s.chans[c].overs else s.chans[c].unders) k.val = true → ∃ u, exec (.latchExcursion c above k) s = .next u ∧
      (chSideEn s.chans[c].setting above = false → u = modChan s c fun x =>
        { x with dwellFrom := dwellAfterExcursion s c k, dwellMet := false, checking := false, checked := none }) ∧
      (chSideEn s.chans[c].setting above = true → latchOf u.chans[c] (sideCond above) = true ∧
        u.chans[c].dwellFrom = dwellAfterExcursion s c k ∧ u.chans[c].dwellMet = false) ∧
      (latchOf s.chans[c] (sideCond above) = true → u.out = s.out ∧ u.groom = s.groom)) := by
  have h := latchExcursion_of_live (above := above) (k := k) hl hr ha
  refine ⟨fun hb => ?_, fun hb => ⟨_, h.trans (congrArg _ (if_pos hb)), fun he => ?_, fun he => ?_, fun hset => ?_⟩⟩
  · rw [h, hb]
    rfl
  · rw [he]
    rfl
  · rw [if_pos he, setLatch_at, modChan_at]
    exact ⟨latchOf_withLatch _ _ _, withLatch_dwellFrom _ _ _, withLatch_dwellMet _ _ _⟩
  · split
    · rw [setLatch_of_set]
      · exact ⟨rfl, rfl⟩
      · rw [modChan_at]
        cases above <;> exact hset
    · exact ⟨rfl, rfl⟩

/-- A dwell that is met starts the open check or sets the band latch (R44, R45). -/
theorem dwellMet_next {first : Time} (h : dwellDue s c first = true) : ∃ u, exec (.dwellMet c first) s = .next u ∧
    (chOpenEn s.chans[c].setting = true → u = modChan s c fun x => { x with dwellFrom := first, checking := true }) ∧
    (chOpenEn s.chans[c].setting = false → u.chans[c].band = true ∧ u.chans[c].dwellMet = true) := by
  refine ⟨_, congrArg Host.Outcome.next (if_neg (by simp [h])), fun he => ?_, fun he => ?_⟩
  · rw [if_pos he]
  · rw [if_neg (Bool.eq_false_iff.1 he), setLatch_at, modChan_at]
    exact ⟨latchOf_withLatch _ .band _, withLatch_dwellMet _ _ _⟩

/-- A channel whose open check has ended (R45). -/
def checkedChan (x : Channel) (undriven : Bool) : Channel := { x with checking := false, dwellMet := true, checked := some undriven }

/-- The open check of a live channel ends with its verdict; the latch it names sets where it is enabled (R45). -/
theorem openCheckEnd_at (undriven : Bool) (hl : chLive s.chans[c] = true) (hr : samplesRun s = true) (hk : s.chans[c].checking = true) :
    ∃ u, exec (.openCheckEnd c undriven) s = .next u ∧
      u.chans[c] = if (if undriven then chOpenEn s.chans[c].setting else chBandEn s.chans[c].setting) then
          withLatch (checkedChan s.chans[c] undriven) (if undriven then .open_ else .band) false
        else checkedChan s.chans[c] undriven := by
  refine ⟨_, congrArg Host.Outcome.next (if_neg ?_), ?_⟩
  · simp only [hl, hr, hk, Bool.not_true, Bool.or_self, Bool.false_eq_true, not_false_eq_true]
  · cases undriven
    · cases chBandEn s.chans[c].setting
      · exact modChan_at _ _ _
      · exact (setLatch_at _ _ _ _ _).trans (by rw [modChan_at]; rfl)
    · cases chOpenEn s.chans[c].setting
      · exact modChan_at _ _ _
      · exact (setLatch_at _ _ _ _ _).trans (by rw [modChan_at]; rfl)

theorem openCheckEnd_next (hl : chLive s.chans[c] = true) (hr : samplesRun s = true) (hk : s.chans[c].checking = true) :
    (∃ u, exec (.openCheckEnd c true) s = .next u ∧ u.chans[c].open_ = (s.chans[c].open_ || chOpenEn s.chans[c].setting) ∧
      u.chans[c].band = s.chans[c].band ∧ u.chans[c].checking = false) ∧
    (∃ u, exec (.openCheckEnd c false) s = .next u ∧ u.chans[c].open_ = s.chans[c].open_ ∧ u.chans[c].checking = false ∧
      u.chans[c].band = (s.chans[c].band || chBandEn s.chans[c].setting)) := by
  obtain ⟨u, hu, hat⟩ := openCheckEnd_at true hl hr hk
  obtain ⟨v, hv, hbt⟩ := openCheckEnd_at false hl hr hk
  refine ⟨⟨u, hu, ?_⟩, ⟨v, hv, ?_⟩⟩
  · rw [hat]
    cases chOpenEn s.chans[c].setting <;> simp [checkedChan]
  · rw [hbt]
    cases chBandEn s.chans[c].setting <;> simp [checkedChan]

end

/-! ## One channel -/

theorem latchExcursion_touches (s : State) (c : Fin 48) (above : Bool) (k : Fin 8) :
    ∃ u, exec (.latchExcursion c above k) s = .next u ∧ touches [c] s u := by
  refine ⟨_, rfl, touches_ite (touches_refl _ _) ?_⟩
  exact touches_ite (touches_trans (modChan_touches _ _ _) (setLatch_touches _ _ _ _ _)) (modChan_touches _ _ _)

theorem dwellMet_touches (s : State) (c : Fin 48) (first : Time) : ∃ u, exec (.dwellMet c first) s = .next u ∧ touches [c] s u := by
  refine ⟨_, rfl, touches_ite (touches_refl _ _) (touches_ite (modChan_touches _ _ _) ?_)⟩
  exact touches_trans (modChan_touches _ _ _) (setLatch_touches _ _ _ _ _)

theorem openCheckEnd_touches (s : State) (c : Fin 48) (undriven : Bool) :
    ∃ u, exec (.openCheckEnd c undriven) s = .next u ∧ touches [c] s u := by
  have hset (x : Channel → Channel) (k : Cond) (t : Time) : touches [c] s (setLatch (modChan s c x) c k false t) :=
    touches_trans (modChan_touches _ _ _) (setLatch_touches _ _ _ _ _)
  refine ⟨_, rfl, touches_ite (touches_refl _ _) (touches_ite ?_ ?_)⟩
  · exact touches_ite (hset _ _ _) (modChan_touches _ _ _)
  · exact touches_ite (hset _ _ _) (modChan_touches _ _ _)

/-- Settles O39: each row restarts, starts or ends its part of the dwell and sets at most the latch of its channel (`setLatch_at`). -/
theorem latchesFollowTheirConditions : Obligations.LatchesFollowTheirConditions := by
  unfold Obligations.LatchesFollowTheirConditions
  refine ⟨fun s c => ⟨latchRows_of_not_live, ?excursion, fun first h => dwellMet_next h, openCheckEnd_next⟩, ?frame⟩
  case excursion =>
    rintro above k _ _ hl hr ha rfl rfl
    exact latchExcursion_next hl hr ha
  case frame =>
    intro s u c d i hd hi he
    obtain ⟨v, hv, ht⟩ : ∃ v, exec i s = .next v ∧ touches [c] s v := by
      obtain ⟨above, k, rfl⟩ | ⟨first, rfl⟩ | ⟨b, rfl⟩ := hi
      · exact latchExcursion_touches s c above k
      · exact dwellMet_touches s c first
      · exact openCheckEnd_touches s c b
    obtain rfl : v = u := Host.Outcome.next.inj (hv.symm.trans he)
    exact touches_chans ht (fun h => hd (List.mem_singleton.1 h))

end Sys2Proof.Machine
end

section
/-! SUPPORT. The probe commands: PROBE_CONFIG and LATCH_CLEAR on the command in hand (R36 to R38, R42, R43, R421, R423). -/

open Sys2Proof.Claims

namespace Sys2Proof.Machine

/-! ## PROBE_CONFIG -/

theorem settingFault_isSome {w : BitVec 64}
    (h : chUpper w < chLower w + 2 ∨ chDeskew w < -2048 ∨ 2048 < chDeskew w ∨ chDwell w = 0 ∨ 100000 < chDwell w) :
    (settingFault w).isSome = true := by
  unfold settingFault
  split_ifs
  case neg => omega
  all_goals rfl

/-- A bad setting in a slot that the command writes is a fault of the command. -/
theorem configFault_isSome {e : SqEntry} {k : Fin 6} (hk : bit (dw e 3) k.val = false)
    (h : (settingFault (configSetting e k)).isSome = true) : (configFault e).isSome = true := by
  unfold configFault
  split
  · rfl
  · rw [List.findSome?_isSome_iff]
    exact ⟨k, List.mem_finRange k, by rw [if_neg (Bool.eq_false_iff.1 hk), Option.isSome_map]; exact h⟩

section
variable {s : State} {t : Taken} (h : InHand s t 0x20) (hg : bit s.stalls[t.fn].grant.teams (configTeam t.e).val = true)
  (ht : testedChans s &&& teamChans (BitVec.ofNat 8 (2 ^ (configTeam t.e).val)) = 0)
include h hg ht

/-- A team of the stall's, none of whose channels is tested: the entry's form decides. -/
theorem exec_probeConfig (seed : SeedIn) : exec (.probeConfig seed) s = .next (match configFault t.e with
    | some (d, b) => invalidAt (freed s) t d b
    | none => completeAt (writeSettings (freed s) t.fn t.e seed) t .ok
        { p4 := flag (capturing s t.fn && bits (dw t.e 3) 5 0 != 0x3F) 0 }) := by
  refine congrArg Host.Outcome.next ((withCmd_inHand h).trans ((if_neg ?_).trans (if_neg ?_)))
  · rw [Bool.not_eq_true', Bool.not_eq_false]
    exact hg
  · exact not_not_intro ht

end

theorem completeAt_chans (s : State) (t : Taken) (st : Status) (p : Pay) : (completeAt s t st p).chans = s.chans :=
  tells_chans (tells_of_answersOnly (completeAt_answers s t st p))

/-- Settles O14: the slot's fault is one of the entry's (`configFault_isSome`), and an `invalid` only answers. -/
theorem probeConfigRefusesBadWindows : Obligations.ProbeConfigRefusesBadWindows := by
  unfold Obligations.ProbeConfigRefusesBadWindows
  rintro s t seed k _ h hg ht hk rfl hw
  obtain ⟨⟨d, b⟩, hf⟩ := Option.isSome_iff_exists.1 (configFault_isSome hk (settingFault_isSome hw))
  refine ⟨d, b, ?_, completeAt_chans _ _ _ _⟩
  rw [exec_probeConfig h hg ht, hf]

/-! ## Settings that take effect -/

theorem seedChan_touches (s : State) (seed : SeedIn) (c : Fin 48) : touches [c] s (seedChan s seed c) :=
  touches_ite (touches_trans (modChan_touches _ _ _) (setLatch_touches _ _ _ _ _)) (modChan_touches _ _ _)

/-- A seed leaves the channel's settings. -/
theorem seedChan_setting (s : State) (seed : SeedIn) (c : Fin 48) : (seedChan s seed c).chans[c].setting = s.chans[c].setting ∧
    (seedChan s seed c).chans[c].pend = s.chans[c].pend := by
  unfold seedChan
  dsimp only
  split
  · rw [setLatch_at, withLatch_setting, withLatch_pend, modChan_at]
    exact ⟨rfl, rfl⟩
  · rw [modChan_at]
    exact ⟨rfl, rfl⟩

theorem applySetting_touches (s : State) (seed : SeedIn) (c : Fin 48) (w : BitVec 64) : touches [c] s (applySetting s seed c w) :=
  touches_ite (touches_trans (modChan_touches _ _ _) (seedChan_touches _ _ _)) (modChan_touches _ _ _)

theorem applySetting_setting (s : State) (seed : SeedIn) (c : Fin 48) (w : BitVec 64) :
    (applySetting s seed c w).chans[c].setting = w ∧ (applySetting s seed c w).chans[c].pend = none := by
  unfold applySetting
  dsimp only
  split
  · rw [(seedChan_setting _ _ _).1, (seedChan_setting _ _ _).2, modChan_at]
    exact ⟨rfl, rfl⟩
  · rw [modChan_at]
    exact ⟨rfl, rfl⟩

/-! ## The settings of a team -/

/-- The setting of one slot is written, as `writeSettings` does it for each (R38). -/
def writeSlot (n : Stall) (e : SqEntry) (seed : SeedIn) (s : State) (k : Fin 6) : State :=
  if bit (dw e 3) k.val then s
  else if capturing s n || segmentOpen s n then modChan s (teamChan (configTeam e) k) fun x => { x with pend := some (configSetting e k) }
  else applySetting s seed (teamChan (configTeam e) k) (configSetting e k)

theorem writeSettings_eq (s : State) (n : Stall) (e : SqEntry) (seed : SeedIn) :
    writeSettings s n e seed = (List.finRange 6).foldl (writeSlot n e seed) s := rfl

theorem writeSlot_touches (n : Stall) (e : SqEntry) (seed : SeedIn) (s : State) (k : Fin 6) :
    touches [teamChan (configTeam e) k] s (writeSlot n e seed s k) :=
  touches_ite (touches_refl _ _) (touches_ite (modChan_touches _ _ _) (applySetting_touches _ _ _ _))

theorem teamChan_injective (t : Fin 8) : Function.Injective (teamChan t) := fun i j h => by
  have h : 6 * t.val + i.val = 6 * t.val + j.val := congrArg Fin.val h
  exact Fin.ext (by omega)

/-- Each slot's channel after the command: what its slot says, at once or pending (R38). -/
theorem writeSettings_at (s : State) (n : Stall) (e : SqEntry) (seed : SeedIn) (k : Fin 6) :
    (bit (dw e 3) k.val = true →
      (writeSettings s n e seed).chans[teamChan (configTeam e) k].setting = s.chans[teamChan (configTeam e) k].setting) ∧
    (bit (dw e 3) k.val = false →
      ((capturing s n || segmentOpen s n) = true →
        (writeSettings s n e seed).chans[teamChan (configTeam e) k].pend = some (configSetting e k) ∧
        (writeSettings s n e seed).chans[teamChan (configTeam e) k].setting = s.chans[teamChan (configTeam e) k].setting) ∧
      ((capturing s n || segmentOpen s n) = false →
        (writeSettings s n e seed).chans[teamChan (configTeam e) k].setting = configSetting e k ∧
        (writeSettings s n e seed).chans[teamChan (configTeam e) k].pend = none)) := by
  obtain ⟨u, hu, hat, hfin⟩ := foldl_chan_at (teamChan_injective (configTeam e)) (writeSlot_touches n e seed)
    (List.nodup_finRange 6) (List.mem_finRange k) s
  obtain ⟨hcap, hseg⟩ := capturing_segmentOpen_of_footing (touches_footing hu n)
  rw [writeSettings_eq, hfin, writeSlot, hcap, hseg]
  refine ⟨fun hk => ?_, fun hk => ⟨fun hw => ?_, fun hw => ?_⟩⟩
  · rw [if_pos hk, hat]
  · rw [if_neg (Bool.eq_false_iff.1 hk), if_pos hw, modChan_at, hat]
    exact ⟨rfl, rfl⟩
  · rw [if_neg (Bool.eq_false_iff.1 hk), if_neg (Bool.eq_false_iff.1 hw)]
    exact applySetting_setting _ _ _ _

/-! ## LATCH_CLEAR -/

theorem releaseLatches_touches (s : State) (conds : BitVec 4) (c : Fin 48) : touches [c] s (releaseLatches s conds c) := by
  refine touches_trans (modChan_touches s c fun x => clearConds x conds) ?_
  unfold releaseLatches
  dsimp only
  split
  · exact touches_of_tells _ (dropLatchTerms_tells _ _)
  · exact touches_refl _ _

theorem releaseLatches_at (s : State) (conds : BitVec 4) (c : Fin 48) :
    (releaseLatches s conds c).chans[c] = clearConds s.chans[c] conds := by
  unfold releaseLatches
  dsimp only
  split
  · rw [tells_chans (dropLatchTerms_tells _ _), modChan_at]
  · rw [modChan_at]

theorem setAgain_touches (s : State) (c : Fin 48) (old : Channel) : touches [c] s (setAgain s c old) :=
  touches_ite (touches_refl _ _) (touches_ite (setLatch_touches _ _ _ _ _) (touches_ite (setLatch_touches _ _ _ _ _) (touches_refl _ _)))

/-- Only a residence that goes on sets a latch again, and of the band and open latches one (R43). -/
theorem setAgain_at (s : State) (c : Fin 48) (old : Channel) :
    (setAgain s c old).chans[c].above = s.chans[c].above ∧ (setAgain s c old).chans[c].below = s.chans[c].below ∧
    (s.chans[c].dwellMet = false → setAgain s c old = s) := by
  unfold setAgain
  dsimp only
  refine ⟨?_, ?_, fun h => if_pos (by rw [h]; simp)⟩
  · split_ifs <;> simp [setLatch_at, -Fin.getElem_fin]
  · split_ifs <;> simp [setLatch_at, -Fin.getElem_fin]

/-- Each channel after a clear: untouched where it is not named, and else without the named latches, but for a residence that goes on. -/
theorem clearChans_at (s : State) (conds : BitVec 4) {l : List (Fin 48)} (hl : l.Nodup) (c : Fin 48) :
    (c ∉ l → (clearChans s conds l).chans[c] = s.chans[c]) ∧
    (c ∈ l → (clearChans s conds l).chans[c].above = (s.chans[c].above && !bit conds 0) ∧
      (clearChans s conds l).chans[c].below = (s.chans[c].below && !bit conds 1) ∧
      (s.chans[c].dwellMet = false → (clearChans s conds l).chans[c] = clearConds s.chans[c] conds)) := by
  have hclear := touches_foldl l (l := l) (fun t c hc => touches_mono (releaseLatches_touches t conds c) (by simpa using hc)) s
  have hagain := touches_foldl l (l := l) (fun t c hc => touches_mono (setAgain_touches t c s.chans[c]) (by simpa using hc))
    (l.foldl (fun t c => releaseLatches t conds c) s)
  refine ⟨fun hc => (touches_chans hagain hc).trans (touches_chans hclear hc), fun hc => ?_⟩
  obtain ⟨u, -, hu, hfinU⟩ := foldl_chan_at (g := id) Function.injective_id (fun t c => releaseLatches_touches t conds c) hl hc s
  obtain ⟨v, -, hv, hfinV⟩ := foldl_chan_at (g := id) Function.injective_id (fun t c => setAgain_touches t c s.chans[c]) hl hc
    (l.foldl (fun t c => releaseLatches t conds c) s)
  simp only [id] at hu hfinU hv hfinV
  rw [hfinU, releaseLatches_at, hu] at hv
  obtain ⟨habove, hbelow, hstill⟩ := setAgain_at v c s.chans[c]
  unfold clearChans
  rw [hfinV]
  refine ⟨habove.trans (by rw [hv]; rfl), hbelow.trans (by rw [hv]; rfl), fun hd => ?_⟩
  rw [hstill (by rw [hv]; exact hd), hv]

/-- The channels that a command names. -/
abbrev namedChans (m : ChanMask) : List (Fin 48) := allChans.filter fun c => bit m c.val

theorem namedChans_nodup (m : ChanMask) : (namedChans m).Nodup := (List.nodup_finRange 48).filter _

theorem mem_namedChans {m : ChanMask} {c : Fin 48} : c ∈ namedChans m ↔ bit m c.val = true :=
  List.mem_filter.trans (and_iff_right (List.mem_finRange c))

/-- The search for a named channel that the stall does not own finds none when it owns them all. -/
theorem find_foreign_eq_none {s : State} {n : Stall} {m : ChanMask} (h : ∀ c : Fin 48, bit m c.val = true → ownsChan s n c = true) :
    (allChans.find? fun c => bit m c.val && !ownsChan s n c) = none := by
  rw [List.find?_eq_none]
  intro c _ hc
  obtain ⟨hb, ho⟩ := Bool.and_eq_true_iff.1 hc
  rw [h c hb] at ho
  exact Bool.false_ne_true ho

/-- Settles O15: a slot's channel holds its setting (`writeSettings_at`), and a named channel loses the named latches (`clearChans_at`). -/
theorem probeCommandsActOnOwnedChannels : Obligations.ProbeCommandsActOnOwnedChannels := by
  unfold Obligations.ProbeCommandsActOnOwnedChannels
  refine fun s t seed => ⟨fun h hg ht hf => ?config, ?clear⟩
  case config =>
    have hx := exec_probeConfig h hg ht seed
    rw [hf] at hx
    refine ⟨hx, _, hx, fun k => ?_⟩
    rw [completeAt_chans]
    exact writeSettings_at (freed s) t.fn t.e seed k
  case clear =>
    rintro _ _ h hr rfl rfl ho
    have hx : exec .latchClear s = .next (clearNamed (freed s) t (chanField t.e 2)
        (if bits (dw t.e 4) 3 0 = 0 then 0xF else BitVec.ofNat 4 (bits (dw t.e 4) 3 0))) := by
      refine congrArg Host.Outcome.next ((withCmd_inHand h).trans ?_)
      rw [hr]
    rw [clearNamed, find_foreign_eq_none (s := freed s) ho] at hx
    refine ⟨hx, _, hx, fun c => ?_⟩
    rw [completeAt_chans]
    obtain ⟨hother, hnamed⟩ := clearChans_at (freed s) (if bits (dw t.e 4) 3 0 = 0 then 0xF else BitVec.ofNat 4 (bits (dw t.e 4) 3 0))
      (namedChans_nodup (chanField t.e 2)) c
    refine ⟨fun hb => hother fun hc => Bool.eq_false_iff.1 hb (mem_namedChans.1 hc), fun hb => ?_⟩
    obtain ⟨habove, hbelow, hstill⟩ := hnamed (mem_namedChans.2 hb)
    exact ⟨habove, hbelow, fun hd => by rw [hstill hd]; exact ⟨rfl, rfl⟩⟩

end Sys2Proof.Machine
end

section
/-! SUPPORT. Calibration and the channel self-test: when they are refused, what starts them and what their end leaves (R60 to R62, R66, R439,
R440). -/

open Sys2Proof.Claims

namespace Sys2Proof.Machine

/-! ## Captured channels and tested channels -/

theorem ownerOf_freed (s : State) (c : Fin 48) : ownerOf (freed s) c = ownerOf s c := rfl

theorem capturing_freed (s : State) (n : Stall) : capturing (freed s) n = capturing s n := rfl

/-- Which channels are captured does not hang on the command in hand. -/
theorem capturedIn_freed (s : State) (m : ChanMask) : capturedIn (freed s) m = capturedIn s m := by
  simp only [capturedIn, ownerOf_freed, capturing_freed]

theorem capturedIn_of_owner {s : State} {m : ChanMask} {c : Fin 48} {n : Stall} (hc : bit m c.val = true) (ho : ownerOf s c = some n)
    (hn : capturing s n = true) : capturedIn s m = true :=
  List.any_eq_true.2 ⟨c, List.mem_finRange c, by rw [hc, ho]; exact hn⟩

theorem bit_tileChans (tiles : Nat) (c : Fin 48) : bit (tileChans tiles) c.val = tiles.testBit (c.val / 8) := bit_maskOf _ c.isLt

theorem bit_teamChans (teams : BitVec 8) (c : Fin 48) : bit (teamChans teams) c.val = bit teams (c.val / 6) := bit_maskOf _ c.isLt

theorem bit_foldl_or (l : List TestJob) (m : ChanMask) (i : Nat) :
    bit (l.foldl (fun m t => m ||| t.chans) m) i = (bit m i || l.any fun t => bit t.chans i) := by
  induction l generalizing m with
  | nil => simp
  | cons t l ih =>
    rw [List.foldl_cons, ih, List.any_cons, ← Bool.or_assoc]
    simp [bit]

/-- A channel is tested while a test names it, or a calibration is or was at its tile (R61). -/
theorem bit_testedChans {s : State} {d : Fin 48} (h : (∃ j ∈ s.jobs.tests, bit j.chans d.val = true) ∨
    ∃ j ∈ s.jobs.cal, ∃ p : Fin 6, p.val = d.val / 8 ∧ (p ∈ j.todo ∨ bit j.passed p.val = true ∨ bit j.failedT p.val = true)) :
    bit (testedChans s) d.val = true := by
  unfold testedChans
  rw [bit_foldl_or, Bool.or_eq_true]
  obtain h | ⟨j, hj, p, hp, hat⟩ := h
  · exact .inr (List.any_eq_true.2 h)
  · refine .inl ((bit_maskOf _ d.isLt).trans (List.any_eq_true.2 ⟨j, hj, ?_⟩))
    rw [← hp, Bool.or_eq_true, Bool.or_eq_true, List.any_eq_true]
    obtain htodo | hpass | hfail := hat
    · exact .inr ⟨p, htodo, beq_self_eq_true _⟩
    · exact .inl (.inl hpass)
    · exact .inl (.inr hfail)

theorem and_ne_zero_of_bit {n : Nat} {a b : BitVec n} {i : Nat} (ha : bit a i = true) (hb : bit b i = true) : a &&& b ≠ 0 := by
  intro h
  have hi : (a &&& b).getLsbD i = true := by rw [BitVec.getLsbD_and]; exact Bool.and_eq_true_iff.2 ⟨ha, hb⟩
  rw [h] at hi
  simp at hi

theorem complete_jobs (s : State) (t : Taken) (st : Status) : (complete s t st).jobs = s.jobs := by
  rw [complete, (completeAt_answers s t st {}).1]

/-! ## The commands -/

/-- CALIBRATE without a reserved bit, for some tile: refused while a channel is captured or the clocks relock, else its job starts (R61, R439). -/
theorem exec_calibrate {s : State} {t : Taken} (h : InHand s t 0x50) (hr : reservedBit t.e [0x13F] = none) (ht : bits (dw t.e 2) 5 0 ≠ 0) :
    exec .calibrate s = .next (
      if capturedIn s (tileChans (bits (dw t.e 2) 5 0)) = true ∨ s.tb.bypass = true then complete (freed s) t .busy
      else withCal (handOff (freed s) t .calibrate ((List.finRange 6).filter fun p => (bits (dw t.e 2) 5 0).testBit p.val).length) {
        tag := tagOf t.e, todo := (List.finRange 6).filter fun p => (bits (dw t.e 2) 5 0).testBit p.val, sysref := bit (dw t.e 2) 8 }) := by
  have htodo : ((List.finRange 6).filter fun p => (bits (dw t.e 2) 5 0).testBit p.val) ≠ [] := by
    obtain ⟨i, hi⟩ := Nat.exists_testBit_of_ne_zero ht
    have hlt : i < 6 := by
      by_contra hge
      have : bits (dw t.e 2) 5 0 < 2 ^ i :=
        Nat.lt_of_lt_of_le (Nat.mod_lt _ (by decide)) (Nat.pow_le_pow_right (by decide) (Nat.not_lt.1 hge))
      exact Bool.false_ne_true ((Nat.testBit_lt_two_pow this).symm.trans hi)
    exact List.ne_nil_of_mem (List.mem_filter.2 ⟨List.mem_finRange ⟨i, hlt⟩, hi⟩)
  refine congrArg Host.Outcome.next ((withCmd_inHand h).trans ?_)
  dsimp only
  rw [hr]
  dsimp only
  rw [if_neg (fun x => ht x.1), capturedIn_freed, if_neg htodo]
  rfl

/-- The row of a command in hand that passes its test acts from the state in which the Groom holds none. -/
theorem withCmd_held {s : State} {t : Taken} {p : Taken → Bool} {g : State → Taken → State} (h : s.groom.taken = some t)
    (hp : p t = true) : withCmd s p g = g (freed s) t := withCmd_at h hp

/-- A bound value put in its place by a lemma: the kernel recurses too deep when `dsimp` does it in a command's large body. -/
theorem eq_of_bound {α β : Type} {a : α} {f : α → β} {b : β} (h : f a = b) : (have x := a; f x) = b := h

section
variable {s : State} {t : Taken} (h : InHand s t 0x51) (hb : bits (dw t.e 2) 3 0 = 0)
  (ho : ∀ c : Fin 48, bit (chanField t.e 3) c.val = true → ownsChan s t.fn c = true)
include h hb ho

/-- SELFTEST of owned channels, one of them captured, or in a relock (R61, R86). -/
theorem exec_selftest_of_captured (hc : capturedIn s (chanField t.e 3) = true ∨ s.tb.bypass = true) :
    exec .selftest s = .next (complete (freed s) t .busy) := by
  have hf : (allChans.find? fun c => bit (chanField t.e 3) c.val && !ownsChan (freed s) t.fn c) = none :=
    find_foreign_eq_none (s := freed s) ho
  have hc : capturedIn (freed s) (chanField t.e 3) = true ∨ (freed s).tb.bypass = true := by rwa [capturedIn_freed]
  show execSelftest s = _
  unfold execSelftest
  rw [withCmd_held h.1 (by rw [isOp_of h.2, hb]; rfl)]
  generalize freed s = u at hf hc ⊢
  rw [if_neg (not_not_intro hb)]
  refine congrArg _ (eq_of_bound ?_)
  rw [hf]
  exact if_pos hc

/-- SELFTEST of owned channels, none of them captured: the test starts (R60, R440). -/
theorem exec_selftest_of_free (hc : ¬ (capturedIn s (chanField t.e 3) = true ∨ s.tb.bypass = true))
    (hr : reservedBit t.e [0xF, 0xFFFFFFFF, 0xFFFF] = none) :
    exec .selftest s = .next (withTest (handOff (freed s) t .test (popcount (chanField t.e 3)))
      { fn := t.fn, stall := t.fn, tag := tagOf t.e, chans := chanField t.e 3 }) := by
  have hf : (allChans.find? fun c => bit (chanField t.e 3) c.val && !ownsChan (freed s) t.fn c) = none :=
    find_foreign_eq_none (s := freed s) ho
  have hc : ¬ (capturedIn (freed s) (chanField t.e 3) = true ∨ (freed s).tb.bypass = true) := by rwa [capturedIn_freed]
  show execSelftest s = _
  unfold execSelftest
  rw [withCmd_held h.1 (by rw [isOp_of h.2, hb]; rfl)]
  generalize freed s = u at hf hc ⊢
  rw [if_neg (not_not_intro hb)]
  refine congrArg _ (eq_of_bound ?_)
  rw [hf, hr]
  exact if_neg hc

end

/-- A request for lanes is a test's entry of kind 1: its row takes it in hand. -/
theorem exec_retryLanes {s : State} {t : Taken} (h : InHand s t 0x51) (hb : bits (dw t.e 2) 3 0 = 1) :
    exec .retryLanes s = .next (
      if t.fn ≠ 0 then deny (freed s) t .privileged 0 0
      else if s.tb.bypass then complete (freed s) t .busy
      else match reservedBit t.e [0xF] with
        | some (d, b) => invalidAt (freed s) t d b
        | none =>
          let v := drawFree (handOff (freed s) t .flash 0)
          if bit v.1 0 then queueRetry v.2 2 (fld (bits v.1 16 1) 0) else queueRetry v.2 7 0) := by
  have hc : s.tb.bypass = (freed s).tb.bypass := rfl
  show execRetryLanes s = _
  unfold execRetryLanes
  rw [withCmd_held h.1 (by rw [isOp_of h.2, hb]; rfl)]
  generalize s.tb.bypass = relock at hc ⊢
  generalize freed s = u at hc ⊢
  subst hc
  rfl

/-- The request of `retry_lanes` stands in an entry that waits for the flash (R440, R535). -/
theorem queueRetry_ops {s : State} (kind : BitVec 8) (detail : Dword) (h : s.flash.noMore = false) :
    ∃ o x, (queueRetry s kind detail).flash.ops = s.flash.ops ++ [o] ∧ o.work = .flash ∧ o.entry = some x ∧ bit x.flags 0 = true ∧
      (queueRetry s kind detail).boot = s.boot := by
  unfold queueRetry
  rw [if_neg (Bool.eq_false_iff.1 h)]
  exact ⟨_, _, rfl, rfl, rfl, by simp [bit], rfl⟩

/-- Settles O24: a captured channel makes `calibrate` and `selftest` busy (`capturedIn_of_owner`), a tested one the arm
(`bit_testedChans`). -/
theorem capturedChannelsAreNeitherTestedNorCalibrated : Obligations.CapturedChannelsAreNeitherTestedNorCalibrated := by
  unfold Obligations.CapturedChannelsAreNeitherTestedNorCalibrated
  refine fun s t => ⟨fun c n ho hn => ⟨fun h hr hc => ⟨?_, completeAt_chans _ _ _ _, complete_jobs _ _ _⟩,
    fun h hb hc hown => ⟨?_, completeAt_chans _ _ _ _, complete_jobs _ _ _⟩⟩, fun d h hd ho ht => ⟨?_, complete_jobs _ _ _⟩⟩
  · have hne : bits (dw t.e 2) 5 0 ≠ 0 := by
      intro h0
      rw [h0, Nat.zero_testBit] at hc
      exact Bool.false_ne_true hc
    rw [exec_calibrate h hr hne, if_pos (.inl (capturedIn_of_owner ((bit_tileChans _ c).trans hc) ho hn))]
  · exact exec_selftest_of_captured h hb hown (.inl (capturedIn_of_owner hc ho hn))
  · refine congrArg Host.Outcome.next ((withCmd_inHand h).trans ((if_neg (by simp [freed, hd])).trans (if_pos ?_)))
    have hne : testedChans s &&& teamChans s.stalls[t.fn].grant.teams ≠ 0 :=
      and_ne_zero_of_bit (bit_testedChans ht) ((bit_teamChans _ d).trans ho)
    unfold armBusy
    rw [Bool.or_eq_true, Bool.or_eq_true]
    exact .inl (.inr (bne_iff_ne.2 hne))

/-! ## The end of a tile and of a test -/

theorem finishCal_chans_tiles (s : State) (j : CalJob) : (finishCal s j).chans = s.chans ∧ (finishCal s j).tiles = s.tiles := by
  unfold finishCal
  dsimp only
  rw [(completeTag_answers _ _ _ _ _).1]
  split <;> exact ⟨rfl, rfl⟩

/-- A tile's end leaves the front end as its measurement, or its failure, does. -/
theorem exec_calibrateTileDone {s : State} {p : Fin 6} {j : CalJob} (pass : Bool) (meas : CalMeas)
    (h : (s.jobs.cal.find? fun j => j.todo.head? == some p) = some j) : ∃ u, exec (.calibrateTileDone p pass meas) s = .next u ∧
      u.chans = (if pass then storeTile s p meas else modTile s p fun x => { x with uncal := true }).chans ∧
      u.tiles = (if pass then storeTile s p meas else modTile s p fun x => { x with uncal := true }).tiles := by
  show ∃ u, execCalibrateTileDone p pass meas s = .next u ∧ _
  unfold execCalibrateTileDone
  rw [h]
  refine ⟨_, rfl, ?_⟩
  dsimp only
  split
  · exact finishCal_chans_tiles _ _
  · exact ⟨rfl, rfl⟩

theorem storeTile_tiles (s : State) (p : Fin 6) (m : CalMeas) : (storeTile s p m).tiles = vmod s.tiles p fun x => { x with
    uncal := false, stored := true, storedCorr := m.delay, storedOffs := m.offset, storedGain := m.gain, calTemp := x.temp
    calSupply := x.supply } := rfl

/-- The corrections of a channel are those of the measurement where it is on the tile (R51, R62). -/
theorem storeTile_chan (s : State) (p : Fin 6) (m : CalMeas) (c : Fin 48) : (storeTile s p m).chans[c] =
    if c.val / 8 = p.val then { s.chans[c] with
      corr := max (-256) (min 256 (m.delay.getD (c.val % 8) 0)), offs := m.offset.getD (c.val % 8) 0
      pendCorr := 0, pendOffs := 0, pendAt := 0, driftSent := false } else s.chans[c] := vmap_get _ _ _

theorem calibrateTileDone_next {s : State} {p : Fin 6} {j : CalJob} (pass : Bool) (meas : CalMeas)
    (h : (s.jobs.cal.find? fun j => j.todo.head? == some p) = some j) :
    ∃ u, exec (.calibrateTileDone p pass meas) s = .next u ∧ u.tiles[p].uncal = !pass ∧
      (pass = true → u.tiles[p].storedCorr = meas.delay ∧ u.tiles[p].storedOffs = meas.offset ∧
        u.tiles[p].storedGain = meas.gain ∧ u.tiles[p].calTemp = s.tiles[p].temp ∧ u.tiles[p].calSupply = s.tiles[p].supply ∧
        ∀ c : Fin 48, c.val / 8 = p.val → u.chans[c].corr = max (-256) (min 256 (meas.delay.getD (c.val % 8) 0)) ∧
          u.chans[c].offs = meas.offset.getD (c.val % 8) 0) ∧
      (∀ c : Fin 48, pass = false ∨ c.val / 8 ≠ p.val → u.chans[c] = s.chans[c]) ∧
      (∀ q : Fin 6, q ≠ p → u.tiles[q] = s.tiles[q]) := by
  obtain ⟨u, hu, hc, ht⟩ := exec_calibrateTileDone pass meas h
  refine ⟨u, hu, ?_⟩
  rw [hc, ht]
  cases pass with
  | false =>
    simp only [Bool.false_eq_true, if_false, modTile_tiles, modTile_chans]
    exact ⟨by rw [vmod_same]; rfl, nofun, fun _ _ => trivial, fun q hq => vmod_ne _ hq.symm _⟩
  | true =>
    simp only [if_true, storeTile_tiles, storeTile_chan]
    refine ⟨by rw [vmod_same]; rfl, fun _ => ?_, fun c hc => if_neg (hc.resolve_left Bool.noConfusion), fun q hq => vmod_ne _ hq.symm _⟩
    rw [vmod_same]
    refine ⟨rfl, rfl, rfl, rfl, rfl, fun c hc => ?_⟩
    rw [if_pos hc]
    exact ⟨rfl, rfl⟩

/-- Settles O25: each command starts its job, test or entry, and each end leaves its result (`calibrateTileDone_next`). -/
theorem calibrationAndTestsRunAndEnd : Obligations.CalibrationAndTestsRunAndEnd := by
  unfold Obligations.CalibrationAndTestsRunAndEnd
  refine ⟨fun s t => ⟨fun h hr ht hc hb => ?calibrate, fun h hb0 hr ho hc hb => ?selftest, fun h hb hf => ?denied,
    fun h hk hf hb hr hm => ?retry⟩,
    fun s => ⟨fun p pass meas j h => calibrateTileDone_next pass meas h, fun f tag failed checks j h => ?testDone⟩⟩
  case calibrate => rw [exec_calibrate h hr ht, if_neg (by simp [hc, hb])]
  case selftest => exact exec_selftest_of_free h hb0 ho (by simp [hc, hb]) hr
  case denied => rw [exec_retryLanes h hb, if_pos hf]
  case retry =>
    have hx := exec_retryLanes h hk
    rw [if_neg (not_not_intro hf), if_neg (Bool.eq_false_iff.1 hb), hr] at hx
    have hq (kind : BitVec 8) (detail : Dword) := queueRetry_ops (s := (drawFree (handOff (freed s) t .flash 0)).2) kind detail hm
    cases hv : bit (drawFree (handOff (freed s) t .flash 0)).1 0
    · obtain ⟨o, x, hops⟩ := hq 7 0
      exact ⟨_, o, x, hx.trans (congrArg _ (if_neg (Bool.eq_false_iff.1 hv))), hops⟩
    · obtain ⟨o, x, hops⟩ := hq 2 (fld (bits (drawFree (handOff (freed s) t .flash 0)).1 16 1) 0)
      exact ⟨_, o, x, hx.trans (congrArg _ (if_pos hv)), hops⟩
  case testDone =>
    show execSelftestDone f tag failed checks s = _
    unfold execSelftestDone
    rw [h]

end Sys2Proof.Machine
end

section
/-! SUPPORT. Drift and the tile limits: the pending corrections, their notice, and the events of a spread (R51, R63 to R65, R466). -/

namespace Sys2Proof.Machine

/-! ## Drift -/

/-- What a shadow cycle notes of a channel: the pending corrections, and when the delay's first exceeded 2 ticks (R63, R64). -/
def notedCorr (now : Time) (v : Int × Int) (x : Channel) : Channel := { x with
  pendCorr := v.1, pendOffs := v.2, pendAt := if 2 < v.1.natAbs && x.pendCorr.natAbs ≤ 2 then now else x.pendAt }

/-- The owner of a channel captures, or has a segment open. -/
def heldByOwner (s : State) (c : Fin 48) : Bool := match ownerOf s c with
  | some n => capturing s n || segmentOpen s n
  | none => false

theorem exec_shadowCycle (s : State) (p : Fin 6) (corr : List (Int × Int)) : exec (.shadowCycle p corr) s = .next { s with
    chans := vmap s.chans fun i x =>
      if i.val / 8 ≠ p.val then x
      else if heldByOwner s i then notedCorr s.tb.now (corr.getD (i.val % 8) (0, 0)) x
      else applyCorr (notedCorr s.tb.now (corr.getD (i.val % 8) (0, 0)) x) } := rfl

theorem heldByOwner_eq_true {s : State} {c : Fin 48} (h : ∃ n, ownerOf s c = some n ∧ (capturing s n || segmentOpen s n) = true) :
    heldByOwner s c = true := by
  obtain ⟨n, ho, hn⟩ := h
  rw [heldByOwner, ho]
  exact hn

theorem heldByOwner_eq_false {s : State} {c : Fin 48} (h : ∀ n, ownerOf s c = some n → (capturing s n || segmentOpen s n) = false) :
    heldByOwner s c = false := by
  unfold heldByOwner
  split
  · next n ho => exact h n ho
  · rfl

theorem shadowCycle_next (s : State) (p : Fin 6) (corr : List (Int × Int)) :
    ∃ u, exec (.shadowCycle p corr) s = .next u ∧ u = { s with chans := u.chans } ∧
      ∀ c : Fin 48, (c.val / 8 ≠ p.val → u.chans[c] = s.chans[c]) ∧
        (c.val / 8 = p.val →
          ((∃ n, ownerOf s c = some n ∧ (capturing s n || segmentOpen s n) = true) →
            u.chans[c].pendCorr = (corr.getD (c.val % 8) (0, 0)).1 ∧ u.chans[c].pendOffs = (corr.getD (c.val % 8) (0, 0)).2 ∧
            u.chans[c].corr = s.chans[c].corr ∧ u.chans[c].offs = s.chans[c].offs) ∧
          ((∀ n, ownerOf s c = some n → (capturing s n || segmentOpen s n) = false) →
            u.chans[c].corr = max (-256) (min 256 (s.chans[c].corr + (corr.getD (c.val % 8) (0, 0)).1)) ∧
            u.chans[c].offs = s.chans[c].offs + (corr.getD (c.val % 8) (0, 0)).2 ∧ u.chans[c].pendCorr = 0 ∧ u.chans[c].pendOffs = 0 ∧
            u.chans[c].setting = s.chans[c].setting)) := by
  refine ⟨_, exec_shadowCycle s p corr, rfl, fun c => ?_⟩
  rw [vmap_get]
  refine ⟨fun hc => if_pos hc, fun hc => ⟨fun h => ?_, fun h => ?_⟩⟩
  · rw [if_neg (not_not_intro hc), if_pos (heldByOwner_eq_true h)]
    exact ⟨rfl, rfl, rfl, rfl⟩
  · rw [if_neg (not_not_intro hc), if_neg (Bool.eq_false_iff.1 (heldByOwner_eq_false h))]
    exact ⟨rfl, rfl, rfl, rfl, rfl⟩

/-- The notice of a pending correction is given once, to the capturing owner (R64, R466). -/
theorem exec_calibrationDriftPending {s : State} {c : Fin 48} {n : Stall} (ho : ownerOf s c = some n) (hn : capturing s n = true)
    (hs : s.chans[c].driftSent = false) (hc : 2 < s.chans[c].pendCorr.natAbs) (hp : passed s.tb.now s.chans[c].pendAt (1000 * ms) = true) :
    exec (.calibrationDriftPending c) s = .next (sendEvent (noteDrift (modChan s c fun x => { x with driftSent := true }) [n]) n
      (event 0x10 n.val s.tb.now (fld (2 ^ (c.val / 8)) 8 ||| fld 1 0) (sfld s.chans[c].pendCorr 16 16 ||| fld c.val 0) 0 0)) := by
  show execCalibrationDriftPending c s = _
  unfold execCalibrationDriftPending
  rw [ho]
  exact congrArg Host.Outcome.next (if_neg (by rw [hn, hs, hp, decide_eq_false (Nat.not_le.2 hc)]; simp))

/-! ## Tile limits -/

theorem tileEvent_tells (s : State) (reason tiles : Nat) : tells s (tileEvent s reason tiles) :=
  touches_trans (noteDrift_tells _ _) (sendRated_tells _ _ _ _)

theorem tileEvent_tiles (s : State) (reason tiles : Nat) : (tileEvent s reason tiles).tiles = s.tiles :=
  touches_tiles (tileEvent_tells s reason tiles)

theorem tileEvent_fe (s : State) (reason tiles : Nat) : (tileEvent s reason tiles).fe = s.fe :=
  touches_fe (tileEvent_tells s reason tiles)

/-- The tiles as a sample finds them. -/
def sampledTiles (s : State) (temps : Vector (BitVec 16) 6) (supplies : Vector Int 6) : State :=
  { s with tiles := vmap s.tiles fun i x => { x with temp := temps[i], supply := supplies[i] } }

/-- Some tile's supply is beyond its limit (R65). -/
def anySupplyBad (s : State) : Bool := (List.finRange 6).any fun p => supplyBad s p

theorem anySupplyBad_iff {s : State} : anySupplyBad s = true ↔ ∃ p : Fin 6, supplyBad s p = true := by
  simp [anySupplyBad]

/-- What a sample notes: which limits are crossed, whether a spread stands, and since when both limits have been met (R65). -/
def notedLimits (x : FrontEnd) (now : Time) (hot low new : Bool) : FrontEnd := { x with
  crossedT := hot, crossedV := low, spread := x.spread || new, goodSince := if hot || low then none else x.goodSince.or (some now) }

/-- A sample replaces the readings; a limit crossed for the first time sends the event of a spread (R65). -/
theorem exec_tileSensorSample (s : State) (temps : Vector (BitVec 16) 6) (supplies : Vector Int 6) {u : State}
    (hu : u = sampledTiles s temps supplies) {hot low new : Bool} (hhot : hot = decide (60 < tempSpread u)) (hlow : low = anySupplyBad u)
    (hnew : new = ((hot && !s.fe.crossedT) || (low && !s.fe.crossedV))) :
    exec (.tileSensorSample temps supplies) s = .next (
      if new then tileEvent { u with fe := notedLimits s.fe s.tb.now hot low new } 2 (tilesConcerned u)
      else { u with fe := notedLimits s.fe s.tb.now hot low new }) := by
  subst hu hnew hhot hlow
  rfl

theorem tileSensorSample_next (s : State) (temps : Vector (BitVec 16) 6) (supplies : Vector Int 6) {u : State}
    (hu : u = sampledTiles s temps supplies) :
    (tempSpread u ≤ 60 → (∀ p : Fin 6, supplyBad u p = false) →
      exec (.tileSensorSample temps supplies) s = .next { u with fe := { s.fe with
        crossedT := false, crossedV := false, goodSince := s.fe.goodSince.or (some s.tb.now) } }) ∧
    ((60 < tempSpread u ∧ s.fe.crossedT = false) ∨ ((∃ p : Fin 6, supplyBad u p = true) ∧ s.fe.crossedV = false) →
      exec (.tileSensorSample temps supplies) s = .next (tileEvent
        { u with fe := { s.fe with crossedT := decide (60 < tempSpread u), crossedV := anySupplyBad u
                                   spread := true, goodSince := none } } 2 (tilesConcerned u)) ∧
      ∃ v, exec (.tileSensorSample temps supplies) s = .next v ∧ v.tiles = u.tiles ∧ v.fe.spread = true ∧ v.fe.goodSince = none) := by
  refine ⟨fun ht hs => ?_, fun h => ?_⟩
  · have hlow : false = anySupplyBad u := by
      refine (Bool.eq_false_iff.2 fun h => ?_).symm
      obtain ⟨p, hp⟩ := anySupplyBad_iff.1 h
      exact Bool.false_ne_true ((hs p).symm.trans hp)
    have hhot : false = decide (60 < tempSpread u) := (decide_eq_false (Int.not_lt.2 ht)).symm
    rw [exec_tileSensorSample s temps supplies hu hhot hlow rfl]
    simp only [notedLimits, Bool.false_and, Bool.or_self, Bool.false_eq_true, if_false, Bool.or_false]
  · have hnew : true = ((decide (60 < tempSpread u) && !s.fe.crossedT) || (anySupplyBad u && !s.fe.crossedV)) := by
      obtain ⟨ht, hc⟩ | ⟨hp, hc⟩ := h
      · rw [decide_eq_true ht, hc]
        rfl
      · rw [anySupplyBad_iff.2 hp, hc, Bool.not_false, Bool.and_true, Bool.or_true]
    have hcrossed : (decide (60 < tempSpread u) || anySupplyBad u) = true :=
      h.elim (fun h => by rw [decide_eq_true h.1, Bool.true_or]) (fun h => by rw [anySupplyBad_iff.2 h.1, Bool.or_true])
    have hx := exec_tileSensorSample s temps supplies hu rfl rfl hnew
    rw [if_pos rfl, notedLimits, if_pos hcrossed, Bool.or_true] at hx
    refine ⟨hx, _, hx, tileEvent_tiles _ _ _, ?_, ?_⟩
    · exact congrArg FrontEnd.spread (tileEvent_fe _ _ _)
    · exact congrArg FrontEnd.goodSince (tileEvent_fe _ _ _)

/-- When both limits have been met for 100 ms after a spread, their return is told (R65). -/
theorem tileSpreadRestored_next {s : State} {t : Time} (hg : s.fe.goodSince = some t) (hs : s.fe.spread = true)
    (hp : passed s.tb.now t (100 * ms) = true) :
    exec .tileSpreadRestored s = .next (tileEvent { s with fe := { s.fe with spread := false } } 3 (tilesConcerned s)) ∧
    ∃ v, exec .tileSpreadRestored s = .next v ∧ v.fe = { s.fe with spread := false } ∧ v.tiles = s.tiles := by
  have hx : exec .tileSpreadRestored s = .next (tileEvent { s with fe := { s.fe with spread := false } } 3 (tilesConcerned s)) := by
    show execTileSpreadRestored s = _
    unfold execTileSpreadRestored
    rw [hg]
    exact congrArg Host.Outcome.next (if_pos (by rw [hs, hp]; rfl))
  exact ⟨hx, _, hx, tileEvent_fe _ _ _, tileEvent_tiles _ _ _⟩

/-- Settles O26: a held channel's correction is noted and another's applied (`shadowCycle_next`), and a crossing is told
(`tileSensorSample_next`). -/
theorem driftAndTileLimitsAreWatched : Obligations.DriftAndTileLimitsAreWatched := by
  unfold Obligations.DriftAndTileLimitsAreWatched
  exact ⟨fun s => ⟨shadowCycle_next s, fun _ _ ho hn hs hc hp => exec_calibrationDriftPending ho hn hs hc hp⟩,
    fun s => ⟨fun temps supplies _ hu => tileSensorSample_next s temps supplies hu, fun _ hg hs hp => tileSpreadRestored_next hg hs hp⟩⟩

end Sys2Proof.Machine
end

section
/-! SUPPORT. Pod ports: a plug, the read of its descriptor, an unplug or overcurrent, and the spur button (R33, R53, R55 to R59, R508, R510). -/

namespace Sys2Proof.Machine

/-! ## Forced channels -/

/-- A channel of a port forced to 0, its latches clear (R56). -/
def forcedChan (now : Time) (x : Channel) : Channel := { restartDwell (clearLatches x) now with
  forced := true, level := false, before := false, samples := 0, trans := 0, edge := 0, line := [], base := false, overs := 0, unders := 0 }

/-- The latch terms that follow tell of nothing in the front end. -/
theorem forcePort_tells (s : State) (p : Fin 6) :
    tells { s with chans := vmap s.chans fun i x => if i.val / 8 = p.val then forcedChan s.tb.now x else x } (forcePort s p) := by
  unfold forcePort
  exact touches_foldl _ (fun s n _ => dropLatchTerms_tells s n) _

theorem forcePort_chan (s : State) (p : Fin 6) (c : Fin 48) :
    (forcePort s p).chans[c] = if c.val / 8 = p.val then forcedChan s.tb.now s.chans[c] else s.chans[c] := by
  rw [tells_chans (forcePort_tells s p)]
  exact vmap_get _ _ _

theorem modPort_at (s : State) (p : Fin 6) (f : PodPort → PodPort) : (modPort s p f).ports[p] = f s.ports[p] := vmod_same _ _ _

theorem podEvent_tells (s : State) (p : Fin 6) (code : Nat) (t : Time) (p4 p5 p6 p7 : Dword) :
    tells s (podEvent s p code t p4 p5 p6 p7) := sendEvents_tells _ _

/-! ## Plug, read and unplug -/

theorem exec_podPlug {s : State} {p : Fin 6} (t : Time) (hr : recognises s = true) (hp : s.ports[p].present = false)
    (hh : s.ports[p].seenHigh = true) (hd : s.power.st ≠ .dormant) : exec (.podPlug p t) s = .next (recognisePlug s p t) :=
  congrArg Host.Outcome.next ((if_neg (by rw [hr, hp, hh]; exact Bool.false_ne_true)).trans (if_neg hd))

theorem podPlug_next {s : State} {p : Fin 6} (t : Time) (hr : recognises s = true) (hp : s.ports[p].present = false)
    (hh : s.ports[p].seenHigh = true) (hd : s.power.st ≠ .dormant) : ∃ u, exec (.podPlug p t) s = .next u ∧
      u.ports[p].present = true ∧ u.ports[p].pwr = mayPower s p ∧ u.ports[p].phase = .settling ∧ u.ports[p].plugTime = t ∧
      ∀ c : Fin 48, (c.val / 8 ≠ p.val → u.chans[c] = s.chans[c]) ∧ (c.val / 8 = p.val → u.chans[c].forced = true) := by
  refine ⟨_, exec_podPlug t hr hp hh hd, ?_⟩
  have hchan (c : Fin 48) : (recognisePlug s p t).chans[c] = if c.val / 8 = p.val then forcedChan s.tb.now s.chans[c] else s.chans[c] :=
    forcePort_chan s p c
  rw [recognisePlug, modPort_at]
  refine ⟨rfl, rfl, rfl, rfl, fun c => ⟨fun hc => (hchan c).trans (if_neg hc), fun hc => ?_⟩⟩
  exact congrArg Channel.forced ((hchan c).trans (if_pos hc))

theorem exec_podPwrSettled {s : State} {p : Fin 6} (hs : s.ports[p].phase = .settling) (hp : s.ports[p].pwr = true)
    (hd : s.power.st ≠ .dormant) : exec (.podPwrSettled p) s = .next (modPort s p fun x => { x with phase := .reading }) :=
  congrArg Host.Outcome.next (if_pos ⟨hs, hp, hd⟩)

theorem releaseChan_touches (s : State) (seed : SeedIn) (c : Fin 48) : touches [c] s (releaseChan s seed c) :=
  touches_ite (touches_trans (modChan_touches _ _ _) (seedChan_touches _ _ _)) (modChan_touches _ _ _)

theorem releaseIdle_ports (s : State) (p : Fin 6) (seed : SeedIn) : (releaseIdle s p seed).ports = s.ports := by
  have hall (l : List (Fin 48)) : touches l s (l.foldl (fun s c => releaseChan s seed c) s) :=
    touches_foldl l (fun s c hc => touches_mono (releaseChan_touches s seed c) (by simpa using hc)) s
  unfold releaseIdle
  split
  · rfl
  · exact touches_ports (hall _)

theorem reportPlug_port (s : State) (p : Fin 6) (bytes : Option (List Byte)) : (reportPlug s p bytes).ports[p].phase = .idle ∧
    (reportPlug s p bytes).ports[p].desc = (readDescriptor bytes).1 ∧ (reportPlug s p bytes).ports[p].descState = (readDescriptor bytes).2 := by
  unfold reportPlug
  dsimp only
  rw [touches_ports (podEvent_tells _ _ _ _ _ _ _ _), modPort_at]
  exact ⟨rfl, rfl, rfl⟩

theorem podDescriptorRead_next {s : State} {p : Fin 6} (bytes : Option (List Byte)) (seed : SeedIn) (hs : s.ports[p].phase = .reading)
    (hd : s.power.st ≠ .dormant) : exec (.podDescriptorRead p bytes seed) s = .next (releaseIdle (reportPlug s p bytes) p seed) ∧
    ∃ u, exec (.podDescriptorRead p bytes seed) s = .next u ∧ u.ports[p].phase = .idle ∧ u.ports[p].desc = (readDescriptor bytes).1 ∧
      u.ports[p].descState = (readDescriptor bytes).2 := by
  have hx : exec (.podDescriptorRead p bytes seed) s = .next (releaseIdle (reportPlug s p bytes) p seed) :=
    congrArg Host.Outcome.next (if_pos ⟨hs, hd⟩)
  refine ⟨hx, _, hx, ?_⟩
  rw [releaseIdle_ports]
  exact reportPlug_port s p bytes

theorem reportPlug_chans (s : State) (p : Fin 6) (bytes : Option (List Byte)) : (reportPlug s p bytes).chans = s.chans := by
  unfold reportPlug
  exact (tells_chans (podEvent_tells _ _ _ _ _ _ _ _)).trans (modPort_chans _ _ _)

theorem reportUnread_chans (s : State) (p : Fin 6) : (reportUnread s p).chans = s.chans := by
  unfold reportUnread
  split
  · rfl
  · exact reportPlug_chans s p none

/-- An unplug tells of itself once the port is off and its channels are forced (R56). -/
theorem recogniseUnplug_tells (s : State) (p : Fin 6) (t : Time) (short : Bool) :
    tells (modPort (forcePort s p) p fun x => { x with present := false, pwr := false, phase := .idle, overcurrent := short, seenHigh := !short, desc := defaultDescriptor, descState := 0 })
      (recogniseUnplug s p t short) :=
  touches_trans (touches_foldl _ (fun s n _ => marker_tells s n _ _ _) _) (podEvent_tells _ _ _ _ _ _ _ _)

/-- After an unplug the port is off and its channels are forced, and only they. -/
theorem recogniseUnplug_port (s : State) (p : Fin 6) (t : Time) (short : Bool) : (recogniseUnplug s p t short).ports[p].present = false ∧
    (recogniseUnplug s p t short).ports[p].pwr = false ∧
    ∀ c : Fin 48, (recogniseUnplug s p t short).chans[c] = if c.val / 8 = p.val then forcedChan s.tb.now s.chans[c] else s.chans[c] := by
  have ht := recogniseUnplug_tells s p t short
  refine ⟨?_, ?_, fun c => ?_⟩
  · rw [touches_ports ht, modPort_at]
  · rw [touches_ports ht, modPort_at]
  · rw [tells_chans ht]
    exact forcePort_chan s p c

theorem podUnplug_or_overcurrent {s : State} {p : Fin 6} {t : Time} {i : Instr}
    (hi : (i = .podUnplug p t ∧ recognises s = true ∧ s.ports[p].present = true ∧ s.power.st ≠ .dormant) ∨
      (i = .podOvercurrent p t ∧ s.ports[p].pwr = true)) :
    ∃ v short, v.chans = s.chans ∧ exec i s = .next (recogniseUnplug v p t short) := by
  obtain ⟨rfl, hr, hp, hd⟩ | ⟨rfl, hp⟩ := hi
  · exact ⟨s, false, rfl, congrArg Host.Outcome.next
      ((if_neg (by rw [hr]; exact Bool.false_ne_true)).trans ((if_neg (by rw [hp]; exact Bool.false_ne_true)).trans (if_neg hd)))⟩
  · exact ⟨reportUnread s p, true, reportUnread_chans s p, congrArg Host.Outcome.next (if_neg (by rw [hp]; exact Bool.false_ne_true))⟩

/-! ## The spur button -/

theorem raisePulse_tells (s : State) (n : Stall) (k : PulseKind) (index : Nat) (at_ onset : Time) (exact_ : Bool) :
    tells s (raisePulse s n k index at_ onset exact_) := modEng_tells _ _ fun _ => ⟨rfl, rfl⟩

theorem raiseSpur_tells (s : State) (p : Fin 6) : tells s (raiseSpur s p) :=
  touches_foldl _ (fun s n _ => raisePulse_tells s n _ _ _ _ _) s

theorem reportSpur_tells (s : State) (p : Fin 6) (t : Time) : tells s (reportSpur s p t) :=
  touches_trans (touches_foldl _ (fun s n _ => marker_tells s n _ _ _) s) (sendEvents_tells _ _)

theorem spurPress_next {s : State} {p : Fin 6} (t : Time) (hr : recognises s = true) (hs : s.ports[p].spur = false)
    (hd : s.power.st ≠ .dormant) :
    (s.ports[p].present = false → exec (.spurPress p t) s = .next (modPort s p fun x => { x with spur := true })) ∧
    (s.ports[p].present = true →
      exec (.spurPress p t) s = .next (raiseSpur (reportSpur (modPort s p fun x => { x with spur := true }) p t) p) ∧
      ∃ u, exec (.spurPress p t) s = .next u ∧ u.ports[p].spur = true ∧ u.chans = s.chans ∧ ∀ q : Fin 6, q ≠ p → u.ports[q] = s.ports[q]) := by
  have hguard : ¬ (!recognises s || s.ports[p].spur) = true := by
    rw [hr, hs]
    exact Bool.false_ne_true
  have hpresent : (modPort s p fun x => { x with spur := true }).ports[p].present = s.ports[p].present := by rw [modPort_at]
  refine ⟨fun hp => ?_, fun hp => ?_⟩
  · exact congrArg Host.Outcome.next ((if_neg hguard).trans (if_pos (by rw [hpresent, hp]; rfl)))
  · have hx : exec (.spurPress p t) s = .next (raiseSpur (reportSpur (modPort s p fun x => { x with spur := true }) p t) p) :=
      congrArg Host.Outcome.next ((if_neg hguard).trans ((if_neg (by rw [hpresent, hp]; exact Bool.false_ne_true)).trans (if_neg hd)))
    have ht := touches_trans (reportSpur_tells (modPort s p fun x => { x with spur := true }) p t) (raiseSpur_tells _ p)
    refine ⟨hx, _, hx, ?_, (tells_chans ht).trans (modPort_chans _ _ _), fun q hq => ?_⟩
    · rw [touches_ports ht, modPort_at]
    · rw [touches_ports ht]
      exact vmod_ne _ hq.symm _

/-- Settles O45: a plug and an unplug force the port's channels alone (`forcePort_chan`), and what is told afterwards changes no port. -/
theorem podsAndSpursAreRecognised : Obligations.PodsAndSpursAreRecognised := by
  unfold Obligations.PodsAndSpursAreRecognised
  refine fun s p t => ⟨podPlug_next t, exec_podPwrSettled, fun bytes seed => podDescriptorRead_next bytes seed, fun i hi => ?unplug,
    spurPress_next t, rfl⟩
  case unplug =>
    obtain ⟨v, short, hv, hx⟩ := podUnplug_or_overcurrent hi
    obtain ⟨hpresent, hpwr, hchan⟩ := recogniseUnplug_port v p t short
    refine ⟨_, hx, hpresent, hpwr, fun c => ?_⟩
    rw [hchan, hv]
    refine ⟨fun hc => if_neg hc, fun hc => ?_⟩
    rw [if_pos hc]
    exact ⟨rfl, rfl, rfl, rfl, rfl, rfl, rfl⟩

end Sys2Proof.Machine
end

section
/-! SUPPORT. A stride of a stall: when it is evaluated, what an idle stall's samples leave, and the terms, pulses and stores that follow
(R39, R147, R157, R158, R160, R166, R225). -/

namespace Sys2Proof.Machine

/-! ## Once in a stride -/

theorem evaluated_of_ne {s : State} {n : Stall} (h : s.stalls[n].eng.evalAt ≠ s.tb.now) : evaluated s n = false := by
  rw [evaluated, beq_eq_false_iff_ne.2 h, Bool.false_and]

theorem evaluated_of_eq {s : State} {n : Stall} (h : s.stalls[n].eng.evalAt = s.tb.now) (h0 : s.tb.now ≠ 0) : evaluated s n = true := by
  rw [evaluated, h, beq_self_eq_true, bne_iff_ne.2 h0, Bool.true_and]

/-- A stride is evaluated while the front end runs and time is valid, and its engine notes it (R85, R147). -/
theorem exec_courseStride {s : State} {n : Stall} (inp : StrideIn) (hf : frontEndRuns s = true) (ht : s.tb.timeValid = true)
    (he : s.stalls[n].eng.evalAt ≠ s.tb.now) : exec (.courseStride n inp) s = .next (modEng
      (if (beginStride s n inp.seed).tb.bypass then takeDense (beginStride s n inp.seed) n else sampleStride (beginStride s n inp.seed) n inp) n
      fun e => { e with evalAt := s.tb.now, final := none }) := by
  have hnow : (if (beginStride s n inp.seed).tb.bypass then takeDense (beginStride s n inp.seed) n
      else sampleStride (beginStride s n inp.seed) n inp).tb.now = s.tb.now := by
    refine kept_now ?_
    split
    · exact (takeDense_kept _ _).trans (beginStride_kept _ _ _)
    · exact (sampleStride_kept _ _ _).trans (beginStride_kept _ _ _)
  refine congrArg Host.Outcome.next ((if_neg ?_).trans (congrArg (fun t => modEng _ n fun e => { e with evalAt := t, final := none }) hnow))
  rw [hf, ht, evaluated_of_ne he]
  exact Bool.false_ne_true

theorem exec_courseStride_of_evaluated {s : State} {n : Stall} (inp : StrideIn) (he : s.stalls[n].eng.evalAt = s.tb.now)
    (h0 : s.tb.now ≠ 0) : exec (.courseStride n inp) s = .next s :=
  congrArg Host.Outcome.next (if_pos (by rw [evaluated_of_eq he h0, Bool.or_true]))

/-! ## The start of an idle stall's stride -/

/-- Nothing waits for a channel: no setting, no correction, no release. -/
def settledChan (x : Channel) : Prop := x.pend = none ∧ x.pendCorr = 0 ∧ x.pendOffs = 0 ∧ x.pendAt = 0 ∧ x.driftSent = false ∧
  x.forced = false ∧ -256 ≤ x.corr ∧ x.corr ≤ 256

theorem applyCorr_of_settled {x : Channel} (h : settledChan x) : applyCorr x = x := by
  obtain ⟨-, hcorr, hoffs, hat, hsent, -, hlo, hhi⟩ := h
  have hkeep : max (-256) (min 256 (x.corr + x.pendCorr)) = x.corr := by rw [hcorr]; omega
  unfold applyCorr
  rw [hkeep, hoffs, Int.add_zero]
  obtain ⟨⟩ := x
  simp_all

theorem settleIdle_of_settled {s : State} (n : Stall) (seed : SeedIn) (h : ∀ c : Fin 48, settledChan s.chans[c]) :
    settleIdle s n seed = s := by
  have hpending : applyPending s n seed = s := foldl_eq_self fun c _ => by rw [(h c).1]
  have hcorrs : applyCorrs s n = s := foldl_eq_self fun c _ => modChan_eq_self (applyCorr_of_settled (h c))
  have hnone (p : Fin 6) : forcedOn s p (fun c => ownsChan s n c) = [] := by
    refine List.filter_eq_nil_iff.2 fun c _ => ?_
    obtain ⟨-, -, -, -, -, hforced, -, -⟩ := h c
    rw [hforced, Bool.and_false, Bool.false_and]
    exact Bool.false_ne_true
  have hrelease : releaseStallChans s n seed = s :=
    foldl_eq_self fun p _ => if_pos (by rw [hnone, List.isEmpty_nil, Bool.or_true])
  unfold settleIdle
  rw [hpending, hcorrs, hrelease, ite_self]

/-- The stall has no capture, no playback and no start of one waiting. -/
def idleStall (x : StallState) : Prop := x.cap = none ∧ x.course = none ∧ x.ref.play = none ∧ x.ref.timed = none ∧ x.ref.queued = none ∧
  x.st ≠ .capturing

theorem beginStride_of_idle {s : State} {n : Stall} (seed : SeedIn) (hn : idleStall s.stalls[n])
    (hc : ∀ c : Fin 48, settledChan s.chans[c]) : beginStride s n seed = s := by
  obtain ⟨hcap, -, hplay, htimed, hqueued, hst⟩ := hn
  have hfinish : finishPlay s n = s := by rw [finishPlay, hplay]
  have hrunTimed : runTimed s n = s := by rw [runTimed, htimed, startDue, Option.filter_none]
  have hrunQueued : runQueued s n = s := by rw [runQueued, hqueued, startDue, Option.filter_none]
  have hshut : (capturing s n || segmentOpen s n) = false := by
    rw [capturing, segmentOpen, hcap, beq_eq_false_iff_ne.2 hst]
    rfl
  unfold beginStride
  rw [hfinish, hrunTimed, hrunQueued]
  dsimp only
  rw [hshut, if_neg Bool.false_ne_true, settleIdle_of_settled n seed hc, hcap]

/-! ## Samples -/

@[simp] theorem dwellAfter_sampledAt (now : Time) (x : Channel) (out : BitVec 8) : (dwellAfter now x out).sampledAt = x.sampledAt := by
  unfold dwellAfter
  split <;> rfl

@[simp] theorem dwellAfter_level (now : Time) (x : Channel) (out : BitVec 8) : (dwellAfter now x out).level = x.level := by
  unfold dwellAfter
  split <;> rfl

@[simp] theorem dwellAfter_samples (now : Time) (x : Channel) (out : BitVec 8) : (dwellAfter now x out).samples = x.samples := by
  unfold dwellAfter
  split <;> rfl

@[simp] theorem dwellAfter_trans (now : Time) (x : Channel) (out : BitVec 8) : (dwellAfter now x out).trans = x.trans := by
  unfold dwellAfter
  split <;> rfl

@[simp] theorem dwellAfter_before (now : Time) (x : Channel) (out : BitVec 8) : (dwellAfter now x out).before = x.before := by
  unfold dwellAfter
  split <;> rfl

theorem sampleChan_touches (s : State) (inp : StrideIn) (c : Fin 48) : touches [c] s (sampleChan s inp c) := modChan_touches _ _ _

/-- A channel's samples: zeros where it is not live, else its transitions are those that the samples show (R39, R48). -/
theorem sampleChan_at (s : State) (inp : StrideIn) (c : Fin 48) : (sampleChan s inp c).chans[c].sampledAt = s.tb.now ∧
    (chLive s.chans[c] = false → (sampleChan s inp c).chans[c].level = false ∧ (sampleChan s inp c).chans[c].samples = 0 ∧
      (sampleChan s inp c).chans[c].trans = 0) ∧
    (chLive s.chans[c] = true → (sampleChan s inp c).chans[c].level = bit (sampleChan s inp c).chans[c].samples 7 ∧
      (sampleChan s inp c).chans[c].trans =
        (transSamples (sampleChan s inp c).chans[c].before (sampleChan s inp c).chans[c].samples).length) := by
  unfold sampleChan
  dsimp only
  rw [modChan_at]
  cases hl : chLive s.chans[c]
  · rw [if_neg Bool.false_ne_true]
    exact ⟨rfl, fun _ => ⟨rfl, rfl, rfl⟩, nofun⟩
  · rw [if_pos rfl]
    simp only [dwellAfter_sampledAt, dwellAfter_level, dwellAfter_samples, dwellAfter_trans, dwellAfter_before]
    exact ⟨trivial, nofun, fun _ => ⟨trivial, trivial⟩⟩

/-- The channels sampled one after another: nothing but channels changes. -/
theorem foldl_sampleChan_eq (inp : StrideIn) (l : List (Fin 48)) (s : State) :
    ∃ v, l.foldl (fun s c => sampleChan s inp c) s = { s with chans := v } := by
  induction l generalizing s with
  | nil => exact ⟨s.chans, rfl⟩
  | cons c l ih =>
    obtain ⟨v, hv⟩ := ih (sampleChan s inp c)
    exact ⟨v, hv⟩

theorem chansOf_nodup (s : State) (n : Stall) : (chansOf s n).Nodup := (List.nodup_finRange 48).filter _

theorem mem_chansOf {s : State} {n : Stall} {c : Fin 48} : c ∈ chansOf s n ↔ ownsChan s n c = true :=
  List.mem_filter.trans (and_iff_right (List.mem_finRange c))

/-- The samples of a stall's channels (R39, R48), and no others'. -/
theorem foldl_sampleChan_at (s : State) (n : Stall) (inp : StrideIn) (c : Fin 48) {u : State}
    (hu : u = (chansOf s n).foldl (fun s c => sampleChan s inp c) s) : (ownsChan s n c = false → u.chans[c] = s.chans[c]) ∧
    (ownsChan s n c = true → u.chans[c].sampledAt = s.tb.now ∧
      (chLive s.chans[c] = false → u.chans[c].level = false ∧ u.chans[c].samples = 0 ∧ u.chans[c].trans = 0) ∧
      (chLive s.chans[c] = true → u.chans[c].level = bit u.chans[c].samples 7 ∧
        u.chans[c].trans = (transSamples u.chans[c].before u.chans[c].samples).length)) := by
  have hall : touches (chansOf s n) s u := by
    rw [hu]
    exact touches_foldl _ (fun s c hc => touches_mono (sampleChan_touches s inp c) (by simpa using hc)) s
  refine ⟨fun ho => touches_chans hall fun hc => Bool.eq_false_iff.1 ho (mem_chansOf.1 hc), fun ho => ?_⟩
  obtain ⟨v, hv, hat, hfin⟩ := foldl_chan_at (g := id) Function.injective_id (fun s c => sampleChan_touches s inp c) (chansOf_nodup s n)
    (mem_chansOf.2 ho) s
  simp only [id] at hat hfin
  rw [hu, hfin, ← touches_tb hv, ← hat]
  exact sampleChan_at v inp c

/-! ## The rest of an idle stall's stride -/

theorem checkFull_of_wraps {s : State} {n : Stall} (h : ∀ c, s.stalls[n].cap = some c → oneShot c = false) : checkFull s n = s := by
  unfold checkFull
  split
  · rfl
  · next c hcap => rw [ringFull, h c hcap, Bool.false_and, Bool.false_and, Bool.not_false, if_pos rfl]

theorem placeDense_of_no_capture {s : State} {n : Stall} (h : s.stalls[n].cap = none) : placeDense s n = s := by rw [placeDense, h]

theorem takeDense_of_no_capture {s : State} {n : Stall} (h : s.stalls[n].cap = none) : takeDense s n = s := by
  have hfull : checkFull s n = s := checkFull_of_wraps fun c hc => Option.some_ne_none c (hc.symm.trans h) |>.elim
  rw [takeDense, placeDense_of_no_capture h, hfull, h]

theorem courseStep_of_no_course {s : State} {n : Stall} (trigIn : BitVec 8) (h : s.stalls[n].course = none) :
    courseStep s n trigIn = s := by rw [courseStep, h]

theorem playStride_of_no_playback {s : State} {n : Stall} (h : s.stalls[n].ref.play = none) : playStride s n = s := by
  rw [playStride, comparing, h, Option.filter_none]

/-- An idle stall stores nothing, runs no course and compares nothing. -/
theorem strideRest_of_idle {s : State} {n : Stall} (trigIn : BitVec 8) (h : idleStall s.stalls[n]) :
    playStride (courseStep (takeDense s n) n trigIn) n = s := by
  obtain ⟨hcap, hcourse, hplay, -, -, -⟩ := h
  rw [takeDense_of_no_capture hcap, courseStep_of_no_course _ hcourse, playStride_of_no_playback hplay]

theorem sampleStride_of_idle {s : State} {n : Stall} (inp : StrideIn) (h : idleStall s.stalls[n]) : sampleStride s n inp = { s with
    chans := ((chansOf s n).foldl (fun s c => sampleChan s inp c) s).chans, fe := { s.fe with trigIn := bit inp.trigIn 7 } } := by
  obtain ⟨v, hv⟩ := foldl_sampleChan_eq inp (chansOf s n) s
  rw [sampleStride, hv]
  exact strideRest_of_idle _ h

/-- An idle stall's stride is its samples. -/
theorem courseStride_of_idle {s : State} {n : Stall} (inp : StrideIn) (hf : frontEndRuns s = true) (ht : s.tb.timeValid = true)
    (hb : s.tb.bypass = false) (he : s.stalls[n].eng.evalAt ≠ s.tb.now) (hn : idleStall s.stalls[n])
    (hc : ∀ c : Fin 48, settledChan s.chans[c]) : exec (.courseStride n inp) s = .next (modEng { s with
      chans := ((chansOf s n).foldl (fun s c => sampleChan s inp c) s).chans, fe := { s.fe with trigIn := bit inp.trigIn 7 } } n
      fun e => { e with evalAt := s.tb.now, final := none }) := by
  rw [exec_courseStride inp hf ht he, beginStride_of_idle inp.seed hn hc, if_neg (Bool.eq_false_iff.1 hb), sampleStride_of_idle inp hn]

/-! ## Terms and pulses -/

@[simp] theorem follow_on (f : Flag) (b : Bool) (now : Time) : (follow f b now).on = b := by
  unfold follow
  split
  · assumption
  · rfl

theorem followTerms_tmrSince_on {p : Course} {k : Nat} {x : TimerEntry} (e : Engine) (now : Time) (h : p.timers[k]? = some x) :
    ((followTerms p e now).tmrSince.getD k {}).on = decide (x.limit.toNat ≤ (e.timers.getD k {}).value.toNat) := by
  simp [followTerms, h]

theorem followTerms_ctrSince_on {p : Course} {k : Nat} {x : CounterEntry} (e : Engine) (now : Time) (h : p.counters[k]? = some x) :
    ((followTerms p e now).ctrSince.getD k {}).on = counterTrue x (e.counters.getD k 0) := by
  simp [followTerms, h]

/-- A timer's term follows its value before the stride is evaluated (R158). -/
theorem exec_courseTimerLimit {s : State} {n : Stall} {p : Course} {k : Fin 32} {x : TimerEntry} (hp : s.stalls[n].course = some p)
    (he : s.stalls[n].eng.evalAt ≠ s.tb.now) (hx : p.timers[k.val]? = some x) : exec (.courseTimerLimit n k) s =
      .next (modEng s n fun e => { e with tmrSince := (followTerms p e s.tb.now).tmrSince }) := by
  have hlt : k.val < p.timers.length := (List.getElem?_eq_some_iff.1 hx).1
  refine congrArg Host.Outcome.next ?_
  rw [hp]
  exact if_neg (not_or.2 ⟨he, hlt.not_ge⟩)

/-- A counter's term follows its count before the stride is evaluated (R157). -/
theorem exec_courseCounterCompare {s : State} {n : Stall} {p : Course} {k : Fin 32} {x : CounterEntry}
    (hp : s.stalls[n].course = some p) (he : s.stalls[n].eng.evalAt ≠ s.tb.now) (hx : p.counters[k.val]? = some x) :
    exec (.courseCounterCompare n k) s = .next (modEng s n fun e => { e with ctrSince := (followTerms p e s.tb.now).ctrSince }) := by
  have hlt : k.val < p.counters.length := (List.getElem?_eq_some_iff.1 hx).1
  refine congrArg Host.Outcome.next ?_
  rw [hp]
  exact if_neg (not_or.2 ⟨he, hlt.not_ge⟩)

theorem exec_trigOutPulseEnd {s : State} {n : Stall} {t : Time} (hp : s.stalls[n].eng.pulseEnd = some t)
    (hw : past s.tb.now (t &&& ~~~ (255 : Time)) = false) :
    exec (.trigOutPulseEnd n) s = .next (refreshTrigOut (modEng s n fun e => { e with pulseEnd := none })) := by
  refine congrArg Host.Outcome.next ?_
  rw [hp]
  exact if_neg (Bool.eq_false_iff.1 hw)

/-- Nobody drives the TRIG_OUT ball (R166). -/
theorem refreshTrigOut_low {s : State} (h : ∀ m : Stall,
    capturing s m = false ∨ (s.stalls[m].eng.level = false ∧ s.stalls[m].eng.pulseEnd = none)) : (refreshTrigOut s).pins.trigOut = false := by
  refine List.any_eq_false.2 fun m _ => Bool.eq_false_iff.1 ?_
  obtain hcap | ⟨hlevel, hpulse⟩ := h m
  · rw [hcap, Bool.false_and, Bool.false_and]
  · rw [hlevel, hpulse, Option.isSome_none, Bool.or_self, Bool.and_false]

/-- The end of a pulse: its engine drives the ball no more, but for its level (R166). -/
theorem pulseEnd_ball {s : State} {n : Stall} (hl : s.stalls[n].eng.level = false) (ho : ∀ m : Stall, m ≠ n → capturing s m = false) :
    (refreshTrigOut (modEng s n fun e => { e with pulseEnd := none })).pins.trigOut = false := by
  refine refreshTrigOut_low fun m => ?_
  by_cases e : m = n
  · subst e
    rw [modEng_stalls, vmod_same]
    exact .inr ⟨hl, rfl⟩
  · rw [capturing, modEng_stalls, vmod_ne _ (Ne.symm e)]
    exact .inl (ho m e)

/-! ## A store on -/

theorem applyStoreOn_of_past {s : State} {n : Stall} {c : Capture} {p : StorePend} (hc : s.stalls[n].cap = some c)
    (hp : s.stalls[n].eng.storePend = some p) (hw : past s.tb.now p.when = true) : applyStoreOn s n = s := by
  unfold applyStoreOn
  rw [hc, hp]
  exact if_pos (.inr (.inl hw))

theorem openRun_footing (c : Capture) (t : Time) : (openRun c t).phase = c.phase ∧ (openRun c t).arm = c.arm ∧ (openRun c t).teams = c.teams := by
  unfold openRun
  split <;> exact ⟨rfl, rfl, rfl⟩

theorem writeKey_of_no_teams {s : State} {n : Stall} (cause : Nat) (h : ∀ c, s.stalls[n].cap = some c → c.teams = 0) :
    writeKey s n cause = s := by
  unfold writeKey
  split
  · rfl
  · next c hc => exact if_pos (h c hc)

/-- A capture's part of a stall's footing. -/
theorem cap_of_footing {x y : StallState} {c : Capture} (h : footing x = footing y) (hx : x.cap = some c) :
    ∃ d, y.cap = some d ∧ d.phase = c.phase ∧ d.arm = c.arm ∧ d.teams = c.teams := by
  have hcap : y.cap.map (fun d => (d.phase, d.arm, d.teams)) = some (c.phase, c.arm, c.teams) := by
    have h := congrArg (fun f => f.2.1) h.symm
    rwa [footing, footing, hx] at h
  obtain ⟨d, hd, heq⟩ := Option.map_eq_some_iff.1 hcap
  simp only [Prod.mk.injEq] at heq
  exact ⟨d, hd, heq⟩

/-- What a store on of a stall without teams does beside storing: its run, its marker and the anchors of its chains (R225, R226). -/
theorem storeOnRest_tells {s : State} {n : Stall} {f : Capture → Capture} (kind : Nat) (t : Time) (d : BitVec 64) (l : List (Fin 8))
    (g : Chain → Chain) (cause : Nat) (hf : ∀ c, (f c).phase = c.phase ∧ (f c).arm = c.arm ∧ (f c).teams = c.teams)
    (h0 : ∀ c, s.stalls[n].cap = some c → c.teams = 0) :
    tells s (writeKey (l.foldl (fun s k => modChain s k g) (marker (modCap s n f) n kind t d)) n cause) := by
  have hchains : tells s (l.foldl (fun s k => modChain s k g) (marker (modCap s n f) n kind t d)) :=
    touches_trans (modCap_tells s n hf) (touches_trans (marker_tells _ _ _ _ _) (touches_foldl l (fun s k _ => modChain_tells s k g) _))
  rw [writeKey_of_no_teams]
  · exact hchains
  · intro c hc
    obtain ⟨b, hb, -, -, hteams⟩ := cap_of_footing (touches_footing hchains n) hc
    exact hteams ▸ h0 b hb

/-- A store on of a stall without teams takes effect: it stores, nothing waits, and its capture keeps its footing (R163, R225). -/
theorem applyStoreOn_of_due {s : State} {n : Stall} {c : Capture} {p : StorePend} (hc : s.stalls[n].cap = some c)
    (hp : s.stalls[n].eng.storePend = some p) (hw : past s.tb.now p.when = false) (hr : c.phase = .running) (hg : c.arm.gait = .gallop)
    (h0 : c.teams = 0) :
    tells (modEng s n fun e => { e with storing := true, storePend := none }) (applyStoreOn s n) := by
  have hdue : ¬ (c.phase ≠ .running ∨ past s.tb.now p.when = true ∨ (c.arm.gait = .walk ∧ ¬ walkBoundary c s.tb.now = true)) := by
    simp [hr, hw, hg]
  have hcap : (modEng s n fun e => { e with storing := true, storePend := none }).stalls[n].cap = some c := by
    rw [modEng_stalls, vmod_same, hc]
  unfold applyStoreOn
  rw [hc, hp]
  dsimp only
  rw [if_neg hdue]
  exact storeOnRest_tells _ _ _ _ _ _ (fun b => openRun_footing b _) fun b hb => Option.some_inj.1 (hcap.symm.trans hb) ▸ h0

theorem exec_storeOnDeferred_of_past {s : State} {n : Stall} {c : Capture} {p : StorePend} (hc : s.stalls[n].cap = some c)
    (hp : s.stalls[n].eng.storePend = some p) (ho : oneShot c = false) (hw : past s.tb.now p.when = true) :
    exec (.storeOnDeferred n) s = .next s := by
  have hfull : checkFull s n = s := checkFull_of_wraps fun b hb => Option.some_inj.1 (hc.symm.trans hb) ▸ ho
  exact congrArg Host.Outcome.next ((congrArg (fun u => checkFull u n) (applyStoreOn_of_past hc hp hw)).trans hfull)

theorem exec_storeOnDeferred_of_due {s : State} {n : Stall} {c : Capture} {p : StorePend} (hc : s.stalls[n].cap = some c)
    (hp : s.stalls[n].eng.storePend = some p) (ho : oneShot c = false) (hw : past s.tb.now p.when = false) (hr : c.phase = .running)
    (hg : c.arm.gait = .gallop) (h0 : c.teams = 0) :
    ∃ u, exec (.storeOnDeferred n) s = .next u ∧ u.stalls[n].eng.storing = true ∧ u.stalls[n].eng.storePend = none := by
  have hfoot := touches_footing (applyStoreOn_of_due hc hp hw hr hg h0) n
  rw [modEng_stalls, vmod_same] at hfoot
  have hfull : checkFull (applyStoreOn s n) n = applyStoreOn s n := checkFull_of_wraps fun b hb => by
    obtain ⟨d, hd, -, harm, -⟩ := cap_of_footing hfoot hb
    obtain rfl : c = d := Option.some_inj.1 (hc.symm.trans hd)
    rwa [oneShot, ← harm]
  exact ⟨applyStoreOn s n, congrArg Host.Outcome.next hfull, congrArg (fun x => x.2.2.1) hfoot, congrArg (fun x => x.2.2.2) hfoot⟩

/-! ## A stride is evaluated once -/

theorem exec_courseStride_of_lock {s a b : State} {n : Stall} {inp : StrideIn} (hf : frontEndRuns s = true) (ht : s.tb.timeValid = true)
    (he : s.stalls[n].eng.evalAt ≠ s.tb.now) (ha : a = beginStride s n inp.seed)
    (hb : b = (chansOf a n).foldl (fun s c => sampleChan s inp c) a) (hlock : a.tb.bypass = false) :
    exec (.courseStride n inp) s = .next
      (modEng (playStride (courseStep (takeDense { b with fe := { b.fe with trigIn := bit inp.trigIn 7 } } n) n inp.trigIn) n) n fun e =>
        { e with evalAt := s.tb.now, final := none }) := by
  subst hb ha
  rw [exec_courseStride inp hf ht he, if_neg (Bool.eq_false_iff.1 hlock), sampleStride]

theorem exec_courseStride_of_relock {s a : State} {n : Stall} {inp : StrideIn} (hf : frontEndRuns s = true) (ht : s.tb.timeValid = true)
    (he : s.stalls[n].eng.evalAt ≠ s.tb.now) (ha : a = beginStride s n inp.seed) (hlock : a.tb.bypass = true) :
    exec (.courseStride n inp) s = .next (modEng (takeDense a n) n fun e => { e with evalAt := s.tb.now, final := none }) := by
  subst ha
  rw [exec_courseStride inp hf ht he, if_pos hlock]

/-- Settles O40, row by row: the stride itself, its terms, the pulse and the store on. -/
theorem stridesAreEvaluatedOnce : Obligations.StridesAreEvaluatedOnce := by
  unfold Obligations.StridesAreEvaluatedOnce
  intro s n
  refine ⟨fun inp a b hf ht he ha hb => ⟨exec_courseStride_of_lock hf ht he ha hb, exec_courseStride_of_relock hf ht he ha⟩, ?_,
    fun inp he h0 => exec_courseStride_of_evaluated inp he h0, fun p k hp he => ⟨fun x hx => ?_, fun x hx => ?_⟩, fun t hp hw => ?_, rfl,
    fun c p hc hp ho => ⟨exec_storeOnDeferred_of_past hc hp ho, exec_storeOnDeferred_of_due hc hp ho⟩⟩
  · intro inp hf ht hb he hcap hcourse hplay htimed hqueued hst hc
    refine ⟨_, courseStride_of_idle inp hf ht hb he ⟨hcap, hcourse, hplay, htimed, hqueued, hst⟩ hc, rfl, ?_, fun m hm => ?_, rfl, rfl,
      fun c => (foldl_sampleChan_at s n inp c rfl :)⟩
    · rw [modEng_stalls, vmod_same]
    · rw [modEng_stalls, vmod_ne _ hm.symm]
  · refine ⟨_, exec_courseTimerLimit hp he hx, rfl, ?_⟩
    rw [modEng_stalls, vmod_same]
    exact followTerms_tmrSince_on _ _ hx
  · refine ⟨_, exec_courseCounterCompare hp he hx, rfl, ?_⟩
    rw [modEng_stalls, vmod_same]
    exact followTerms_ctrSince_on _ _ hx
  · have hstalls : (refreshTrigOut (modEng s n fun e => { e with pulseEnd := none })).stalls =
        vmod s.stalls n fun x => { x with eng := { x.eng with pulseEnd := none } } := rfl
    refine ⟨_, exec_trigOutPulseEnd hp hw, rfl, ?_, ?_, fun m hm => ?_, pulseEnd_ball⟩
    · rw [hstalls, vmod_same]
    · rw [hstalls, vmod_same]
    · rw [hstalls, vmod_ne _ hm.symm]

end Sys2Proof.Machine
end

section
/-! SUPPORT. Which commands leave system time alone (R87, R89, R516, R531). -/

open Sys2Proof.Claims

namespace Sys2Proof.Machine

/-- A change that leaves system time alone. -/
def keepsTime (s t : State) : Prop := t.tb.now = s.tb.now

theorem keepsTime_of_scratchOnly {s t : State} (h : scratchOnly s t) : keepsTime s t := h.1

theorem keepsTime_of_dramOnly {s t : State} (h : dramOnly s t) : keepsTime s t := h.1

/-- The rows that write a memory, but no time, leave system time alone. -/
theorem exec_keepsTime_of_writesKept (c : Instr) (s : State) (hw : writesKept c = true) (hm : movesTime c = false) :
    relBy keepsTime s (exec c s) :=
  match c, hw, hm with
  | .identify, _, _ => relBy_mono (execIdentify_scratch s) keepsTime_of_scratchOnly
  | .getHealth, _, _ => relBy_mono (execGetHealth_scratch s) keepsTime_of_scratchOnly
  | .attest, _, _ => relBy_mono (execAttest_scratch s) keepsTime_of_scratchOnly
  | .stallCreate, _, _ => relBy_mono (execStallCreate_scratch s) keepsTime_of_scratchOnly
  | .probeQuery, _, _ => relBy_mono (execProbeQuery_scratch s) keepsTime_of_scratchOnly
  | .courseQuery, _, _ => relBy_mono (execCourseQuery_scratch s) keepsTime_of_scratchOnly
  | .queraStatus, _, _ => relBy_mono (execQueraStatus_scratch s) keepsTime_of_scratchOnly
  | .journalRead readOk, _, _ => relBy_mono (execJournalRead_scratch readOk s) keepsTime_of_scratchOnly
  | .scratchWrite f off data be collide, _, _ => relBy_mono (execScratchWrite_scratch f off data be collide s) keepsTime_of_scratchOnly
  | .scratchBitSet f off data be port, _, _ => relBy_mono (execScratchBitSet_scratch f off data be port s) keepsTime_of_scratchOnly
  | .scratchBitClear f off data be port, _, _ => relBy_mono (execScratchBitClear_scratch f off data be port s) keepsTime_of_scratchOnly
  | .stallResetRelease st, _, _ => relBy_mono (execStallResetRelease_scratch st s) keepsTime_of_scratchOnly
  | .writeAck l id, _, _ => relBy_mono (execWriteAck_dram l id s) keepsTime_of_dramOnly
  | .softRepairEnd flips, _, _ => relBy_mono (execSoftRepairEnd_dram flips s) keepsTime_of_dramOnly
  | .dikewatchWakeDone ecc lost bad seed, _, _ => relBy_mono (execDikewatchWakeDone_dram ecc lost bad seed s) keepsTime_of_dramOnly

/-- A command outside `movesTime` leaves system time alone. -/
theorem exec_keepsTime (c : Instr) (s : State) (h : movesTime c = false) : relBy keepsTime s (exec c s) := by
  cases hw : writesKept c with
  | false => exact relBy_of_keptBy (exec_kept c s hw) kept_now
  | true => exact exec_keepsTime_of_writesKept c s hw h

/-- Settles O7: a command keeps all of the frame (`exec_kept`), or writes one memory and no time. -/
theorem onlyNamedCommandsMoveTime : Obligations.OnlyNamedCommandsMoveTime := by
  unfold Obligations.OnlyNamedCommandsMoveTime
  exact fun c s t hm he => relBy_elim (exec_keepsTime c s hm) he

end Sys2Proof.Machine
end

section
/-! SUPPORT. What an event changes: the Groom's intervals, the recipients' stores and rings, and the transcript. -/

namespace Sys2Proof.Machine

/-- Only what an event to some functions changes is changed. -/
def told (s t : State) : Prop :=
  t = { s with fns := t.fns, groom := t.groom, stalls := t.stalls, out := t.out } ∧
  ∀ n : Stall, t.stalls[n] = { s.stalls[n] with
    store := t.stalls[n].store, outst := t.stalls[n].outst, eventsDropped := t.stalls[n].eventsDropped }

theorem told_refl (s : State) : told s s := ⟨rfl, fun _ => rfl⟩

theorem told_trans {s t u : State} (h : told s t) (k : told t u) : told s u := by
  obtain ⟨h1, h2⟩ := h
  obtain ⟨k1, k2⟩ := k
  refine ⟨?_, fun n => ?_⟩
  · rw [k1, h1]
  · rw [k2 n, h2 n]

theorem told_ite {c : Prop} [Decidable c] {s t u : State} (h : told s t) (k : told s u) : told s (if c then t else u) := by
  split <;> assumption

theorem told_foldl {α : Type} {f : State → α → State} (h : ∀ s a, told s (f s a)) (l : List α) (s : State) : told s (l.foldl f s) := by
  induction l generalizing s with
  | nil => exact told_refl s
  | cons a l ih => exact told_trans (h s a) (ih _)

theorem told_of_answersOnly {f : Fn} {s t : State} (h : answersOnly f s t) : told s t := by
  obtain ⟨hrest, hother, -, hstall, -⟩ := h
  refine ⟨by rw [hrest], fun n => ?_⟩
  by_cases e : n = f
  · subst e
    exact hstall
  · rw [(hother n e).2]

theorem modGroom_told (s : State) (f : Groom → Groom) : told s (modGroom s f) := ⟨rfl, fun _ => rfl⟩

theorem sendEvents_told (s : State) (l : List (Fn × CqEntry)) : told s (sendEvents s l) := by
  unfold sendEvents
  exact told_foldl (fun s x => told_of_answersOnly (sendEvent_answers s x.1 x.2)) l s

theorem sendRated_told (s : State) (key : RateKey) (interval : Nat) (l : List (Fn × CqEntry)) : told s (sendRated s key interval l) :=
  told_ite (modGroom_told _ _) (told_trans (modGroom_told _ _) (sendEvents_told _ _))

/-! ## What stands -/

section
variable {s t : State} (h : told s t)
include h

theorem told_tb : t.tb = s.tb := by rw [h.1]

theorem told_chains : t.chains = s.chains := by rw [h.1]

theorem told_links : t.links = s.links := by rw [h.1]

theorem told_power : t.power = s.power := by rw [h.1]

theorem told_cap (n : Stall) : t.stalls[n].cap = s.stalls[n].cap := by rw [h.2 n]

theorem told_armedStalls : armedStalls t = armedStalls s := by
  unfold armedStalls armedOrCapturing
  refine List.filter_congr fun n _ => ?_
  rw [h.2 n]

end

end Sys2Proof.Machine
end

section
/-! SUPPORT. What the formatting of records, the close of a capture, the end of uploads and loads, the open of a segment and reports leave alone:
the timebase, the power state, Dikewatch, the secure element, and each chain but for its side samples. The formatting of records leaves alone,
too, whether each stall's arm is at its end. -/

open Sys2Proof.Claims

namespace Sys2Proof.Machine

/-- The timebase, the power state, Dikewatch, the secure element, and each chain but for its side samples. -/
def still (s : State) : Timebase × Power × DikeRing × Secure × Vector Chain 8 := (s.tb, s.power, s.dike, s.sec, s.chains.map sideless)

/-- Of each stall's capture, if it has one, the reason with which its arm is at its end. -/
def arms (s : State) : Vector (Option (Option (BitVec 8))) 64 := s.stalls.map fun x => x.cap.map Capture.ended

/-- What the formatting of records leaves alone. -/
def placed (s : State) : (Timebase × Power × DikeRing × Secure × Vector Chain 8) × Vector (Option (Option (BitVec 8))) 64 := (still s, arms s)

/-! ## Parts and composition -/

theorem still_of_placed {s t : State} (h : placed t = placed s) : still t = still s := congrArg Prod.fst h

theorem arms_of_placed {s t : State} (h : placed t = placed s) : arms t = arms s := congrArg Prod.snd h

theorem still_tb {s t : State} (h : still t = still s) : t.tb = s.tb := congrArg (fun x => x.1) h

theorem still_power {s t : State} (h : still t = still s) : t.power = s.power := congrArg (fun x => x.2.1) h

theorem still_dike {s t : State} (h : still t = still s) : t.dike = s.dike := congrArg (fun x => x.2.2.1) h

theorem still_sec {s t : State} (h : still t = still s) : t.sec = s.sec := congrArg (fun x => x.2.2.2.1) h

theorem still_chain {s t : State} (h : still t = still s) (k : Fin 8) : sideless t.chains[k] = sideless s.chains[k] := by
  have hk := congrArg (fun x => x.2.2.2.2[k]) h
  simpa [still] using hk

theorem still_of_eq {s t : State} (htb : t.tb = s.tb) (hp : t.power = s.power) (hd : t.dike = s.dike) (hs : t.sec = s.sec)
    (hc : t.chains = s.chains) : still t = still s := by
  unfold still
  rw [htb, hp, hd, hs, hc]

theorem placed_of_eq {s t : State} (htb : t.tb = s.tb) (hp : t.power = s.power) (hd : t.dike = s.dike) (hs : t.sec = s.sec)
    (hc : t.chains = s.chains) (hst : t.stalls = s.stalls) : placed t = placed s := by
  unfold placed arms
  rw [still_of_eq htb hp hd hs hc, hst]

/-- Two branches with one observation of them. -/
theorem ite_same {α : Type} {g : State → α} {p : Prop} [Decidable p] {s t u : State} (h : g t = g s) (k : g u = g s) :
    g (if p then t else u) = g s := by
  split <;> assumption

/-- Changes one after another that each leave an observation. -/
theorem foldl_same {α β : Type} {g : State → β} {f : State → α → State} (h : ∀ s a, g (f s a) = g s) (l : List α) (s : State) :
    g (l.foldl f s) = g s := by
  induction l generalizing s with
  | nil => rfl
  | cons a l ih => exact (ih _).trans (h s a)

/-! ## The named operations -/

theorem modStall_still (s : State) (n : Stall) (f : StallState → StallState) : still (modStall s n f) = still s := rfl

theorem modCap_still (s : State) (n : Stall) (f : Capture → Capture) : still (modCap s n f) = still s := rfl

theorem modEng_still (s : State) (n : Stall) (f : Engine → Engine) : still (modEng s n f) = still s := rfl

theorem modRef_still (s : State) (n : Stall) (f : Reference → Reference) : still (modRef s n f) = still s := rfl

theorem modGroom_still (s : State) (f : Groom → Groom) : still (modGroom s f) = still s := rfl

theorem modChan_still (s : State) (c : Fin 48) (f : Channel → Channel) : still (modChan s c f) = still s := rfl

theorem modPort_still (s : State) (p : Fin 6) (f : PodPort → PodPort) : still (modPort s p f) = still s := rfl

theorem modLane_still (s : State) (l : Fin 4) (f : Lane → Lane) : still (modLane s l f) = still s := rfl

theorem modStall_placed (s : State) (n : Stall) {f : StallState → StallState}
    (h : ∀ x, (f x).cap.map Capture.ended = x.cap.map Capture.ended := by exact fun _ => rfl) :
    placed (modStall s n f) = placed s := by
  refine Prod.ext rfl (Vector.ext fun i hi => ?_)
  simp only [placed, arms, Vector.getElem_map, modStall_stalls]
  by_cases e : i = n.val
  · subst e
    rw [vmod_at]
    exact h _
  · exact congrArg (fun x => Option.map Capture.ended (StallState.cap x)) (vmod_ne s.stalls (j := ⟨i, hi⟩) (fun x => e (congrArg Fin.val x).symm) f)

theorem modCap_placed (s : State) (n : Stall) {f : Capture → Capture} (h : ∀ c, (f c).ended = c.ended := by exact fun _ => rfl) :
    placed (modCap s n f) = placed s :=
  modStall_placed s n fun x => by simp only [Option.map_map, Function.comp_def, h]

theorem modEng_placed (s : State) (n : Stall) (f : Engine → Engine) : placed (modEng s n f) = placed s := modStall_placed s n

theorem modRef_placed (s : State) (n : Stall) (f : Reference → Reference) : placed (modRef s n f) = placed s := modStall_placed s n

theorem modGroom_placed (s : State) (f : Groom → Groom) : placed (modGroom s f) = placed s := rfl

theorem modLane_placed (s : State) (l : Fin 4) (f : Lane → Lane) : placed (modLane s l f) = placed s := rfl

theorem modChain_placed (s : State) (k : Fin 8) {f : Chain → Chain} (h : ∀ c, sideless (f c) = sideless c := by exact fun _ => rfl) :
    placed (modChain s k f) = placed s := by
  have hc : (modChain s k f).chains.map sideless = s.chains.map sideless := by
    refine Vector.ext fun i hi => ?_
    simp only [Vector.getElem_map, modChain_chains]
    by_cases e : i = k.val
    · subst e
      rw [vmod_at]
      exact h _
    · exact congrArg sideless (vmod_ne s.chains (j := ⟨i, hi⟩) (fun x => e (congrArg Fin.val x).symm) f)
  unfold placed still
  rw [hc]
  rfl

/-! ## Events, completions and markers -/

theorem placed_of_told {s t : State} (h : told s t) : placed t = placed s := by
  obtain ⟨hrest, hstall⟩ := h
  refine Prod.ext (still_of_eq (by rw [hrest]) (by rw [hrest]) (by rw [hrest]) (by rw [hrest]) (by rw [hrest])) (Vector.ext fun i hi => ?_)
  have hcap : t.stalls[(⟨i, hi⟩ : Stall)].cap = s.stalls[(⟨i, hi⟩ : Stall)].cap := by rw [hstall]
  simpa [placed, arms] using congrArg (Option.map Capture.ended) hcap

theorem sendEvent_placed (s : State) (f : Fn) (e : CqEntry) : placed (sendEvent s f e) = placed s :=
  placed_of_told (told_of_answersOnly (sendEvent_answers s f e))

theorem sendRated_placed (s : State) (key : RateKey) (interval : Nat) (l : List (Fn × CqEntry)) : placed (sendRated s key interval l) = placed s :=
  placed_of_told (sendRated_told _ _ _ _)

theorem completeTag_placed (s : State) (f : Fn) (tag : BitVec 16) (st : Status) (p : Pay) : placed (completeTag s f tag st p) = placed s :=
  placed_of_told (told_of_answersOnly (completeTag_answers s f tag st p))

theorem queueRecs_placed (s : State) (n : Stall) (l : List Rec) : placed (queueRecs s n l) = placed s := by
  refine ite_same ((modStall_placed _ n).trans (modGroom_placed _ _)) (modStall_placed _ n fun x => ?_)
  simp only [Option.map_map, Function.comp_def]

theorem marker_placed (s : State) (n : Stall) (kind : Nat) (t : Time) (d : BitVec 64) : placed (marker s n kind t d) = placed s :=
  ite_same (queueRecs_placed _ _ _) rfl

/-! ## Records and blocks -/

theorem notePeak_placed (s : State) (n : Stall) : placed (notePeak s n) = placed s := modStall_placed s n

theorem putSlice_placed (s : State) (l : Fin 4) (b : FbBlock) : placed (putSlice s l b) = placed s := by
  unfold putSlice
  split <;> rfl

theorem placeIn_placed (s : State) (c : Capture) (l : Fin 4) (b : FbBlock) (part : FbPart) : placed (placeIn s c l b part) = placed s :=
  (notePeak_placed _ _).trans ((modCap_placed _ _).trans (putSlice_placed _ _ _))

theorem putBlock_placed (l : Fin 4) (s : State) (b : FbBlock) : placed (putBlock l s b) = placed s := by
  have wait : placed { s with fbd := { s.fbd with outbox := vmod s.fbd.outbox l fun q => q ++ [b] } } = placed s := rfl
  unfold putBlock
  dsimp only
  split
  · exact ite_same (putSlice_placed _ _ _) wait
  · split
    · exact wait
    · refine ite_same wait ?_
      split
      · exact wait
      · exact placeIn_placed _ _ _ _ _

theorem placeAt_placed (s : State) (n : Stall) (c : Capture) (blk : Nat) (recs : List Rec) (typed : Bool) :
    placed (placeAt s n c blk recs typed) = placed s := by
  unfold placeAt
  split
  · rfl
  · exact (putBlock_placed _ _ _).trans (modCap_placed _ _)

theorem placeBlock_placed (s : State) (n : Stall) (typed : Bool) (recs : List Rec) : placed (placeBlock s n typed recs) = placed s := by
  unfold placeBlock
  split
  · rfl
  · exact (modCap_placed _ _).trans (placeAt_placed _ _ _ _ _ _)

theorem addRec_placed (s : State) (n : Stall) (r : Rec) : placed (addRec s n r) = placed s := by
  unfold addRec
  split
  · rfl
  · exact ite_same (modCap_placed _ _) ((placeBlock_placed _ _ _ _).trans (modCap_placed _ _))

theorem addRecs_placed (s : State) (n : Stall) (l : List Rec) : placed (addRecs s n l) = placed s := foldl_same (fun s r => addRec_placed s n r) l s

theorem fillPart_placed (s : State) (n : Stall) : placed (fillPart s n) = placed s := by
  unfold fillPart
  split
  · rfl
  · exact ite_same rfl (addRecs_placed _ _ _)

theorem addSide_placed (s : State) (n : Stall) (l : List Rec) : placed (addSide s n l) = placed s := by
  unfold addSide
  split
  · rfl
  · exact ite_same (addRecs_placed _ _ _) (modCap_placed _ _)

theorem writeKey_placed (s : State) (n : Stall) (cause : Nat) : placed (writeKey s n cause) = placed s := by
  unfold writeKey
  split
  · rfl
  · refine ite_same rfl ?_
    dsimp only
    split
    · exact (addRec_placed _ _ _).trans ((addRec_placed _ _ _).trans (modCap_placed _ _))
    · exact (addRec_placed _ _ _).trans ((addRec_placed _ _ _).trans (modCap_placed _ _))
    · exact (addRec_placed _ _ _).trans (modCap_placed _ _)

theorem dueKey_placed (s : State) (n : Stall) : placed (dueKey s n) = placed s := by
  unfold dueKey
  split
  · rfl
  · exact ite_same (writeKey_placed _ _ _) rfl

theorem walkEnd_placed (s : State) (n : Stall) : placed (walkEnd s n) = placed s := by
  unfold walkEnd
  split
  · rfl
  · refine ite_same rfl ?_
    have key (k : Nat) : placed (dueKey (modCap s n fun c => { c with walkIdx := k }) n) = placed s :=
      (dueKey_placed _ _).trans (modCap_placed _ _)
    dsimp only
    split
    · exact key _
    · exact ite_same (key _) ((addRec_placed _ _ _).trans ((modCap_placed _ _).trans (key _)))

theorem placeHeader_placed (s : State) (n : Stall) (uid start : Nat) (recs : List Rec) : placed (placeHeader s n uid start recs) = placed s := by
  unfold placeHeader
  dsimp only
  split
  · rfl
  · exact putBlock_placed _ _ _

theorem flushOverrun_placed (s : State) (n : Stall) : placed (flushOverrun s n) = placed s := by
  unfold flushOverrun
  split
  · rfl
  · exact ite_same rfl ((marker_placed _ _ _ _ _).trans (modCap_placed _ _))

theorem sideRest_placed (s : State) (n : Stall) : placed (sideRest s n).1 = placed s :=
  (foldl_same (fun s k => modChain_placed s k) _ _).trans (modGroom_placed _ _)

/-- A typed close has written what is left, its close anchor and the fill, and its header follows (R123, R205, R221). -/
def closeWritten (s : State) (n : Stall) (c : Capture) (endT : Time) : State :=
  let q := sideRest (flushOverrun s n) n
  let f := fitGroups q.2 (if oneShot c then 16 * (c.seg.ring - c.seg.written) - c.part.length - 1 else 2 ^ 20)
  fillPart (addRec (modCap (addRecs q.1 n f.1) n fun c => { c with eventsLost := c.eventsLost || f.2 }) n (anchorRec 3 endT)) n

theorem closeWritten_placed (s : State) (n : Stall) (c : Capture) (endT : Time) : placed (closeWritten s n c endT) = placed s := by
  refine (fillPart_placed _ _).trans ((addRec_placed _ _ _).trans ((modCap_placed _ _).trans ?_))
  exact (addRecs_placed _ _ _).trans ((sideRest_placed _ _).trans (flushOverrun_placed _ _))

/-- A typed close of an open segment: the walk record of a period that ends there, the last records, the header (R106, R123). -/
theorem closeTyped_of_some {s u : State} {n : Stall} {c0 c : Capture} (cause : Nat) {stop : Time}
    (hu : (if stop = s.tb.now then walkEnd s n else s) = u) (h0 : u.stalls[n].cap = some c0)
    (h1 : (closeWritten u n c0 (closeTime c0 stop)).stalls[n].cap = some c) : closeTyped s n cause stop =
    holdSegment (closeWritten u n c0 (closeTime c0 stop)) n c cause 0 (closeTime c0 stop) (stop - 256) := by
  unfold closeTyped
  simp only [hu, h0]
  simp only [closeWritten] at h1 ⊢
  simp only [h1]

/-! ## A playback's slice and its end -/

theorem askDense_placed (s : State) (n : Stall) (k : Nat) : placed (askDense s n k) = placed s := by
  unfold askDense
  dsimp only
  split <;> rfl

theorem askUpto_placed (s : State) (n : Stall) (stop : Nat) : placed (askUpto s n stop) = placed s :=
  (modRef_placed _ _ _).trans (foldl_same (fun s k => askDense_placed s n k) _ _)

theorem fillSlice_placed (s : State) (n : Stall) : placed (fillSlice s n) = placed s :=
  (askUpto_placed _ _ _).trans ((modRef_placed _ _ _).trans (placed_of_eq rfl rfl rfl rfl rfl rfl))

theorem endPlayback_placed (s : State) (n : Stall) : placed (endPlayback s n) = placed s := by
  have stop (f : Engine → Engine) : placed (modEng (modRef s n fun r => { r with play := none }) n f) = placed s :=
    (modEng_placed _ _ _).trans (modRef_placed _ _ _)
  exact ite_same rfl (ite_same ((fillSlice_placed _ _).trans (stop _)) (stop _))

theorem refreshTrigOut_placed (s : State) : placed (refreshTrigOut s) = placed s := rfl

theorem stopEngine_placed (s : State) (n : Stall) : placed (stopEngine s n) = placed s :=
  (refreshTrigOut_placed _).trans (modEng_placed _ _ _)

theorem refFault_placed (s : State) (n : Stall) (cause block : Nat) (t : Time) : placed (refFault s n cause block t) = placed s := sendRated_placed _ _ _ _

theorem abortPlayback_placed (s : State) (n : Stall) (cause : Nat) : placed (abortPlayback s n cause) = placed s := by
  unfold abortPlayback
  split
  · rfl
  · exact ((endPlayback_placed _ _)).trans ((refFault_placed _ _ _ _ _).trans ((marker_placed _ _ _ _ _)))

/-! ## Uploads and loads -/

theorem putJob_placed (s : State) (u v : UploadJob) : placed (putJob s u v) = placed s := rfl

theorem readChunk_placed (s : State) (u : UploadJob) : placed (readChunk s u) = placed s := by
  refine (putJob_placed _ _ _).trans (foldl_same (g := placed) (fun s x => ?_) _ s)
  dsimp only
  split <;> rfl

theorem issueChunks_placed (k : Nat) (s : State) : placed (issueChunks k s) = placed s := by
  induction k generalizing s with
  | zero => rfl
  | succ k ih =>
    unfold issueChunks
    split
    · rfl
    · exact (ih _).trans ((readChunk_placed _ _).trans (placed_of_eq rfl rfl rfl rfl rfl rfl))

theorem takeComp_placed (s : State) (k : Fin 4) : placed (takeComp s k) = placed s := by
  unfold takeComp
  refine ite_same rfl ?_
  split
  · rfl
  · split <;> rfl

theorem startUploads_placed (s : State) : placed (startUploads s) = placed s :=
  (foldl_same takeComp_placed _ _).trans ((issueChunks_placed _ _).trans (placed_of_eq rfl rfl rfl rfl rfl rfl))

theorem endUpload_placed (s : State) (u : UploadJob) (st : Status) : placed (endUpload s u st) = placed s := by
  unfold endUpload
  dsimp only
  split
  · exact (startUploads_placed _).trans (placed_of_eq rfl rfl rfl rfl rfl rfl)
  · refine (startUploads_placed _).trans ((foldl_same (fun s c => completeTag_placed s _ _ _ _) _ _).trans ?_)
    exact (completeTag_placed _ _ _ _ _).trans (placed_of_eq rfl rfl rfl rfl rfl rfl)

theorem reapUploads_placed (k : Nat) (s : State) : placed (reapUploads k s) = placed s := by
  induction k generalizing s with
  | zero => rfl
  | succ k ih =>
    unfold reapUploads
    split
    · rfl
    · exact (ih _).trans (endUpload_placed _ _ _)

theorem killUploads_placed (p : UploadJob → Bool) (k : Nat) (s : State) : placed (killUploads p k s) = placed s := by
  induction k generalizing s with
  | zero => rfl
  | succ k ih =>
    unfold killUploads
    split
    · rfl
    · exact (ih _).trans (endUpload_placed _ _ _)

theorem stopUploads_placed (s : State) (p : UploadJob → Bool) (st : Status) : placed (stopUploads s p st) = placed s :=
  (reapUploads_placed _ _).trans (placed_of_eq rfl rfl rfl rfl rfl rfl)

theorem endLoad_placed (s : State) (j : LoadJob) (st : Status) (p : Pay) : placed (endLoad s j st p) = placed s :=
  (completeTag_placed _ _ _ _ _).trans ((modRef_placed _ _ _).trans (placed_of_eq rfl rfl rfl rfl rfl rfl))

/-! ## Held segments and the polder -/

theorem deleteHeld_placed (s : State) (n : Stall) (keep : Seg → Bool) : placed (deleteHeld s n keep) = placed s :=
  (killUploads_placed _ _ _).trans (modStall_placed _ _)

theorem changePolder_placed (s : State) (n : Stall) (parcels refArea : List Nat) : placed (changePolder s n parcels refArea).1 = placed s :=
  (modStall_placed _ _).trans (deleteHeld_placed _ _ _)

theorem applyRetire_placed (s : State) (n : Stall) : placed (applyRetire s n) = placed s :=
  ite_same ((placed_of_eq rfl rfl rfl rfl rfl rfl).trans (changePolder_placed s n _ _)) rfl

/-! ## The close of a capture -/

theorem markEnd_still (s : State) (n : Stall) (reason : Nat) : still (markEnd s n reason) = still s := rfl

theorem holdSegment_still (s : State) (n : Stall) (c : Capture) (cause tail : Nat) (endT last : Time) :
    still (holdSegment s n c cause tail endT last) = still s := by
  have stopped (y : List Rec) : still (endPlayback (stopEngine (placeHeader s n c.seg.uid c.seg.start y) n) n) = still s :=
    still_of_placed ((endPlayback_placed _ _).trans ((stopEngine_placed _ _).trans (placeHeader_placed _ _ _ _ _)))
  have held (f : Engine → Engine) (g : StallState → StallState) (h : Capture → Capture) (y : List Rec) :
      still (modCap (modStall (modEng (endPlayback (stopEngine (placeHeader s n c.seg.uid c.seg.start y) n) n) n f) n g) n h) = still s :=
    (modCap_still _ _ _).trans ((modStall_still _ _ _).trans ((modEng_still _ _ _).trans (stopped y)))
  unfold holdSegment
  exact ite_same (g := still) ((markEnd_still _ _ _).trans (held _ _ _ _)) (held _ _ _ _)

theorem closeTyped_still (s : State) (n : Stall) (cause : Nat) (stop : Time) : still (closeTyped s n cause stop) = still s := by
  have start : still (if stop = s.tb.now then walkEnd s n else s) = still s := ite_same (still_of_placed (walkEnd_placed _ _)) rfl
  unfold closeTyped
  generalize (if stop = s.tb.now then walkEnd s n else s) = u at start ⊢
  dsimp only
  split
  · exact start
  · next c0 _ =>
    have written : still (closeWritten u n c0 (closeTime c0 stop)) = still s := (still_of_placed (closeWritten_placed _ _ _ _)).trans start
    split
    · exact written
    · exact (holdSegment_still _ _ _ _ _ _ _).trans written

theorem closeDense_still (s : State) (n : Stall) (c : Capture) (cause : Nat) (moment : Time) : still (closeDense s n c cause moment) = still s :=
  (modCap_still _ _ _).trans ((modEng_still _ _ _).trans (still_of_placed (stopEngine_placed _ _)))

theorem closeNow_still (s : State) (n : Stall) (c : Capture) (cause : Nat) : still (closeNow s n c cause) = still s :=
  ite_same (closeDense_still _ _ _ _ _) (closeTyped_still _ _ _ _)

theorem closeFill_still (s : State) (n : Stall) (c : Capture) : still (closeFill s n c) = still s := by
  unfold closeFill
  split
  · rfl
  · exact ite_same (closeDense_still _ _ _ _ _) (closeTyped_still _ _ _ _)

theorem finishArm_still (s : State) (n : Stall) (c : Capture) (reason : BitVec 8) : still (finishArm s n c reason) = still s := by
  unfold finishArm
  refine (still_of_placed (applyRetire_placed _ _)).trans ((modStall_still _ _ _).trans ((still_of_placed (stopEngine_placed _ _)).trans ?_))
  exact (foldl_same (fun s q => still_of_placed (completeTag_placed s _ _ _ _)) _ _).trans (ite_same rfl (still_of_placed (sendEvent_placed _ _ _)))

theorem tryFinish_still (s : State) (n : Stall) : still (tryFinish s n) = still s := by
  unfold tryFinish
  split
  · rfl
  · split
    · rfl
    · exact ite_same rfl (finishArm_still _ _ _ _)

theorem raiseCause_still (s : State) (n : Stall) (c : Capture) (cause reason : Nat) : still (raiseCause s n c cause reason) = still s := by
  unfold raiseCause
  refine ite_same rfl ?_
  dsimp only
  split
  · rfl
  · exact ite_same rfl (still_of_eq rfl rfl rfl rfl rfl)

theorem closeCapture_still (s : State) (n : Stall) (cause : Nat) (reason : Option Nat) : still (closeCapture s n cause reason) = still s := by
  have raised (c : Capture) : still (modCap (raiseCause s n c cause (reason.getD 0)) n dropOwed) = still s := raiseCause_still _ _ _ _ _
  unfold closeCapture
  dsimp only
  split
  · rfl
  · refine (tryFinish_still _ _).trans ((markEnd_still _ _ _).trans ?_)
    exact ite_same (raised _) (ite_same ((closeFill_still _ _ _).trans (raised _)) ((closeNow_still _ _ _ _).trans (raised _)))

theorem closeAll_still (s : State) (cause reason : Nat) : still (closeAll s cause reason) = still s :=
  foldl_same (fun s n => closeCapture_still s n _ _) _ _

theorem checkFull_still (s : State) (n : Stall) : still (checkFull s n) = still s := by
  unfold checkFull
  split
  · rfl
  · refine ite_same rfl ((tryFinish_still _ _).trans ((markEnd_still _ _ _).trans ?_))
    exact ite_same (closeDense_still _ _ _ _ _) (closeTyped_still _ _ _ _)

end Sys2Proof.Machine
end

section
/-! SUPPORT. The monitor of the references: what its rows leave alone, and the choice of the reference in use (R69 to R79, R92). -/

namespace Sys2Proof.Machine

theorem tbEvent_told (s : State) (cause : Nat) (offset : Int) : told s (tbEvent s cause offset) := sendRated_told _ _ _ _

@[simp] theorem tbEvent_tb (s : State) (cause : Nat) (offset : Int) : (tbEvent s cause offset).tb = s.tb := told_tb (tbEvent_told _ _ _)

theorem noteOpen_tb (s : State) (n : Stall) (f : Capture → Capture) : (noteOpen s n f).tb = s.tb := rfl

@[simp] theorem noteOpens_tb (f : Capture → Capture) (s : State) (l : List Stall) : (l.foldl (fun s n => noteOpen s n f) s).tb = s.tb :=
  foldl_same (g := State.tb) (fun s n => noteOpen_tb s n f) l s

@[simp] theorem monOf_modMon_same (s : State) (b : Bool) (f : RefMon → RefMon) : monOf (modMon s b f).tb b = f (monOf s.tb b) := by
  cases b <;> rfl

@[simp] theorem monOf_modMon_other (s : State) (b : Bool) (f : RefMon → RefMon) : monOf (modMon s b f).tb (!b) = monOf s.tb (!b) := by
  cases b <;> rfl

@[simp] theorem modMon_timeValid (s : State) (b : Bool) (f : RefMon → RefMon) : (modMon s b f).tb.timeValid = s.tb.timeValid := by
  cases b <;> rfl

@[simp] theorem modMon_selected (s : State) (b : Bool) (f : RefMon → RefMon) : (modMon s b f).tb.selected = s.tb.selected := by
  cases b <;> rfl

/-! ## The monitors and the choice -/

/-- What the choice of a reference goes by: whether time runs, the order of preference, and both monitors. -/
def judged (t : Timebase) : Bool × RefMode × RefMon × RefMon := (t.timeValid, t.refMode, t.refA, t.refB)

theorem monOf_of_judged {t u : Timebase} (h : judged t = judged u) (b : Bool) : monOf t b = monOf u b := by
  cases b
  · exact congrArg (fun x => x.2.2.1) h
  · exact congrArg (fun x => x.2.2.2) h

theorem preferred_of_judged {t u : Timebase} (h : judged t = judged u) : preferred t = preferred u := by
  have hmode : t.refMode = u.refMode := congrArg (fun x => x.2.1) h
  unfold preferred
  simp only [monOf_of_judged h, hmode]

theorem setFreeRunning_tb (s : State) : (setFreeRunning s).tb = { s.tb with freeRunning := freeRunningNow s } := by
  unfold setFreeRunning
  dsimp only
  split
  · exact noteOpens_tb _ _ _
  · rfl

theorem enterHoldover_judged (s : State) (offset : Int) : judged (enterHoldover s offset).tb = judged s.tb := by
  simp [enterHoldover, judged]

theorem switchTo_judged (s : State) (r : RefSel) : judged (switchTo s r).tb = judged s.tb := by
  simp [switchTo, judged]

theorem enterHoldover_selected (s : State) (offset : Int) : (enterHoldover s offset).tb.selected = .none := by
  simp [enterHoldover]

theorem switchTo_selected (s : State) (r : RefSel) : (switchTo s r).tb.selected = r := by
  simp [switchTo]

theorem reselect_judged (s : State) : judged (reselect s).tb = judged s.tb := by
  unfold reselect
  dsimp only
  rw [setFreeRunning_tb]
  change judged (State.tb (ite _ _ _)) = _
  split
  · rfl
  · split
    · exact enterHoldover_judged _ _
    · exact switchTo_judged _ _

/-- While time runs the reference in use is the first qualified one of the order (R69). -/
theorem reselect_selected (s : State) (h : s.tb.timeValid = true) : (reselect s).tb.selected = preferred s.tb := by
  unfold reselect
  dsimp only
  rw [setFreeRunning_tb]
  change Timebase.selected (State.tb (ite _ _ _)) = _
  split
  · next hk =>
    have he : preferred s.tb = s.tb.selected := by simpa [h] using hk
    exact he.symm
  · split
    · next hn => exact (enterHoldover_selected _ _).trans hn.symm
    · exact switchTo_selected _ _

theorem refOf_inj {a b : Bool} (h : refOf a = refOf b) : a = b :=
  match a, b, h with
  | true, true, _ => rfl
  | false, false, _ => rfl

/-- A reference that is not qualified is not the preferred one. -/
theorem preferred_ne {t : Timebase} {b : Bool} (h : (monOf t b).qualified = false) : preferred t ≠ refOf b := by
  unfold preferred
  split
  · next a ha =>
    intro e
    have hq : (monOf t a).qualified = true := by simpa using List.find?_some ha
    rw [refOf_inj e, h] at hq
    cases hq
  · cases b <;> exact nofun

/-- A disqualified reference, before the choice is made anew. -/
def unqualified (m : RefMon) : RefMon := { m with qualified := false, within30 := 0, within25 := 0, gateOk := false }

theorem disqualify_judged (s : State) (b : Bool) (offset : Int) : judged (disqualify s b offset).tb = judged (modMon s b unqualified).tb := by
  unfold disqualify
  dsimp only
  rw [reselect_judged]
  split
  · exact enterHoldover_judged _ _
  · rfl

theorem disqualify_mon (s : State) (b : Bool) (offset : Int) : monOf (disqualify s b offset).tb b = unqualified (monOf s.tb b) := by
  rw [monOf_of_judged (disqualify_judged s b offset), monOf_modMon_same]

theorem disqualify_mon_other (s : State) (b : Bool) (offset : Int) : monOf (disqualify s b offset).tb (!b) = monOf s.tb (!b) := by
  rw [monOf_of_judged (disqualify_judged s b offset), monOf_modMon_other]

/-- While time runs a disqualified reference is not in use (R72, R74). -/
theorem disqualify_selected (s : State) (b : Bool) (offset : Int) (h : s.tb.timeValid = true) :
    (disqualify s b offset).tb.selected ≠ refOf b := by
  have hj : ∀ u : State, judged u.tb = judged (modMon s b unqualified).tb → (reselect u).tb.selected ≠ refOf b := fun u hu => by
    have hv : u.tb.timeValid = true := (congrArg Prod.fst hu).trans ((modMon_timeValid _ _ _).trans h)
    rw [reselect_selected u hv, preferred_of_judged hu]
    exact preferred_ne (by rw [monOf_modMon_same]; rfl)
  unfold disqualify
  dsimp only
  split
  · exact hj _ (enterHoldover_judged _ _)
  · exact hj _ rfl

theorem warnStep_judged (s : State) (b : Bool) (d : Nat) : judged (warnStep s b d).tb = judged s.tb := by
  unfold warnStep
  split
  · rfl
  · split
    · rw [tbEvent_tb]; rfl
    · split
      · rw [tbEvent_tb]; rfl
      · rfl

end Sys2Proof.Machine
end

section
/-! SUPPORT. The rows of the monitor (R70 to R78). -/

namespace Sys2Proof.Machine

/-! ## Long gates -/

/-- A monitor after a long gate that passed the 50 ppm check (R70 to R72). -/
def passedGate (count : Nat) (m : RefMon) : RefMon :=
  let d := ((count : Int) - 100000000).natAbs
  let m := { m with offset := longOffset count, passOffset := longOffset count, within30 := runOf m.within30 (d ≤ 3000)
                    within25 := runOf m.within25 (d ≤ 2500) }
  { m with qualified := m.qualified || m.within30 == 10 }

/-- The state in which a long gate that passed has been counted. -/
def gateCounted (s : State) (b : Bool) (count : Nat) : State := modMon s b (passedGate count)

theorem exec_longGateEnd_beyond {s : State} {b : Bool} {count : Nat} (hg : s.tb.gatesRun = true) (ht : s.tb.timeValid = true)
    (hd : 5000 < ((count : Int) - 100000000).natAbs) : exec (.longGateEnd b count) s =
      .next (disqualify (modMon s b fun m => { m with offset := longOffset count }) b (longOffset count)) := by
  change execLongGateEnd b count s = _
  unfold execLongGateEnd
  rw [if_neg (by simp [hg, ht])]
  exact congrArg _ (if_pos hd)

theorem modMon_modMon (s : State) (b : Bool) (f g : RefMon → RefMon) : modMon (modMon s b f) b g = modMon s b fun m => g (f m) := by
  cases b <;> rfl

theorem exec_longGateEnd_within {s : State} {b : Bool} {count : Nat} (hg : s.tb.gatesRun = true) (ht : s.tb.timeValid = true)
    (hd : ((count : Int) - 100000000).natAbs ≤ 5000) : exec (.longGateEnd b count) s =
      .next (reselect (warnStep (gateCounted s b count) b ((count : Int) - 100000000).natAbs)) := by
  change execLongGateEnd b count s = _
  unfold execLongGateEnd
  rw [if_neg (by simp [hg, ht])]
  dsimp only
  rw [if_neg (Nat.not_lt.2 hd), modMon_modMon]
  rfl

/-- What a long gate that passed leaves of both monitors, whatever is made of `warn` and of the choice. -/
theorem withinGate_judged (s : State) (b : Bool) (count d : Nat) :
    judged (reselect (warnStep (gateCounted s b count) b d)).tb = judged (gateCounted s b count).tb :=
  (reselect_judged _).trans (warnStep_judged _ _ _)

theorem passedGate_qualified (count : Nat) (m : RefMon) :
    (passedGate count m).qualified = true ↔ m.qualified = true ∨ (passedGate count m).within30 = 10 := by
  simp [passedGate]

theorem passedGate_within30 (count : Nat) (m : RefMon) : (passedGate count m).within30 =
    if ((count : Int) - 100000000).natAbs ≤ 3000 then min 10 (m.within30 + 1) else 0 := by
  simp [passedGate, runOf]

/-! ## Fast gates and the loss of a reference -/

theorem exec_fastGateEnd_beyond {s : State} {b : Bool} {count : Nat} (hg : s.tb.gatesRun = true)
    (hd : 390625 < (4 * (count : Int) - 390625).natAbs * 1000) : exec (.fastGateEnd b count) s = .next (disqualify s b (fastOffset count)) := by
  change execFastGateEnd b count s = _
  unfold execFastGateEnd
  rw [if_neg (by simp [hg]), if_pos hd]

theorem exec_fastGateEnd_within {s : State} {b : Bool} {count : Nat} (hg : s.tb.gatesRun = true)
    (hd : (4 * (count : Int) - 390625).natAbs * 1000 ≤ 390625) :
    exec (.fastGateEnd b count) s = .next (modMon s b fun m => { m with gateOk := true }) := by
  change execFastGateEnd b count s = _
  unfold execFastGateEnd
  rw [if_neg (by simp [hg]), if_neg (Nat.not_lt.2 hd)]

theorem exec_referenceLoss_awake {s : State} (b : Bool) (h : s.power.st ≠ .dormant) :
    exec (.referenceLoss b) s = .next (disqualify s b (monOf s.tb b).offset) := congrArg _ (if_neg h)

theorem exec_holdover60s_holding {s : State} (h : s.tb.holdover = true) :
    exec .holdover60s s = .next { s with tb := { s.tb with aonSteered := true } } := congrArg _ (if_pos h)

end Sys2Proof.Machine
end

section
/-! SUPPORT. The loss of the sample PLL's lock: what closes, and what stops (R84 to R86). -/

namespace Sys2Proof.Machine

/-- The clocks are bypassed and the relock is reported (R84, R85). -/
def relocking (s : State) : State := startRelock { s with tb := { s.tb with bypass := true } }

/-- What a lock loss makes of the captures, the chains and the engines (R86). -/
def lockLostIn (s : State) : State := allStalls.foldl (fun s n => stopEngine s n) (stopChains (closeAll (relocking s) 0x05 6) 0xFF)

theorem exec_pllLockLoss_running {s : State} (ht : s.tb.timeValid = true) (hb : s.tb.bypass = false) :
    exec .pllLockLoss s = .next { lockLostIn s with pins := { (lockLostIn s).pins with trigOut := false } } := by
  change execPllLockLoss s = _
  unfold execPllLockLoss
  rw [if_neg (by simp [ht, hb])]
  rfl

/-! ## Engines and chains -/

/-- A stall whose engine has stopped: nothing else of it changes (R152). -/
theorem stopEngine_stall (s : State) (n m : Stall) : (stopEngine s n).stalls[m] = if n = m then
    { s.stalls[m] with eng := { s.stalls[m].eng with running := false, level := false, pulseEnd := none, storePend := none, final := none } }
    else s.stalls[m] := by
  change (vmod s.stalls n _)[m] = _
  split
  · next e => rw [e, vmod_same]
  · next e => rw [vmod_ne _ e]

/-- The engines of the stalls of a list stop, and of every stall what is not its engine stands. -/
theorem stopEngines_stall (l : List Stall) (s : State) (m : Stall) : ∃ e, (l.foldl (fun s n => stopEngine s n) s).stalls[m] =
    { s.stalls[m] with eng := e } ∧ (m ∈ l ∨ s.stalls[m].eng.running = false → e.running = false) := by
  induction l generalizing s with
  | nil => exact ⟨s.stalls[m].eng, rfl, fun h => h.resolve_left List.not_mem_nil⟩
  | cons n l ih =>
    obtain ⟨e, he, hrun⟩ := ih (stopEngine s n)
    rw [stopEngine_stall] at he hrun
    refine ⟨e, ?_, fun h => hrun ?_⟩
    · rw [List.foldl_cons, he]
      split <;> rfl
    · split
      · exact Or.inr rfl
      · next hne =>
        refine h.imp_left fun hm => ?_
        exact (List.mem_cons.1 hm).resolve_left fun x => hne x.symm

theorem stopEngines_chains (l : List Stall) (s : State) : (l.foldl (fun s n => stopEngine s n) s).chains = s.chains :=
  foldl_same (g := State.chains) (f := fun s n => stopEngine s n) (fun _ _ => rfl) l s

theorem mem_allStalls (n : Stall) : n ∈ allStalls := List.mem_finRange n

theorem stopChains_chain (s : State) (chains : BitVec 8) (k : Fin 8) : (stopChains s chains).chains[k] =
    if bit chains k.val then { s.chains[k] with stopped := true, producing := false } else s.chains[k] := vmap_get _ _ _

/-- A mask of all ones stops every chain. -/
theorem stopChains_all (s : State) (k : Fin 8) : (stopChains s 0xFF).chains[k] = { s.chains[k] with stopped := true, producing := false } := by
  rw [stopChains_chain]
  exact if_pos (by revert k; decide)

/-! ## The one armed capture -/

theorem modCap_cap {s : State} {n : Stall} {c : Capture} (f : Capture → Capture) (h : s.stalls[n].cap = some c) :
    (modCap s n f).stalls[n].cap = some (f c) := by
  change (vmod s.stalls n _)[n].cap = _
  rw [vmod_same, h]
  rfl

theorem modStall_cap (s : State) (n : Stall) {f : StallState → StallState} (h : ∀ x, (f x).cap = x.cap := by exact fun _ => rfl) :
    (modStall s n f).stalls[n].cap = s.stalls[n].cap := by
  rw [modStall_stalls, vmod_same, h]

theorem modCap_held (s : State) (n : Stall) (f : Capture → Capture) : (modCap s n f).stalls[n].held = s.stalls[n].held := by
  change (vmod s.stalls n _)[n].held = _
  rw [vmod_same]

theorem modEng_cap (s : State) (n : Stall) (f : Engine → Engine) : (modEng s n f).stalls[n].cap = s.stalls[n].cap := by
  change (vmod s.stalls n _)[n].cap = _
  rw [vmod_same]

theorem stopEngine_cap (s : State) (n : Stall) : (stopEngine s n).stalls[n].cap = s.stalls[n].cap := by
  rw [stopEngine_stall, if_pos rfl]

/-- The reason of a capture's end is among what `arms` tells of its stall. -/
theorem cap_of_arms {s t : State} {n : Stall} {c : Capture} (h : arms t = arms s) (hc : s.stalls[n].cap = some c) :
    ∃ d, t.stalls[n].cap = some d ∧ d.ended = c.ended := by
  have hn : t.stalls[n].cap.map Capture.ended = s.stalls[n].cap.map Capture.ended := by
    have hk := congrArg (fun v => v[n]) h
    simpa [arms] using hk
  rw [hc] at hn
  exact Option.map_eq_some_iff.1 hn

/-- A Gallop segment's close is decided, and its arm goes on until it is done (R131, R152). -/
theorem closeDense_cap {s : State} {n : Stall} {c : Capture} (c0 : Capture) (cause : Nat) (moment : Time) (h : s.stalls[n].cap = some c) :
    ∃ d, (closeDense s n c0 cause moment).stalls[n].cap = some d ∧ d.phase = .closing ∧ d.closeCause = some (BitVec.ofNat 6 cause) ∧
      d.ended = c.ended :=
  ⟨_, modCap_cap _ ((modEng_cap _ _ _).trans ((stopEngine_cap _ _).trans h)), rfl, rfl, rfl⟩

/-- A segment that is held: the capture is in re-arm with its cause, and the segment is the newest of those held (R197, R199). -/
theorem holdSegment_cap {s : State} {n : Stall} {c : Capture} (c0 : Capture) {cause : Nat} (tail : Nat) (endT last : Time) (hcause : cause ≠ 1)
    (h : s.stalls[n].cap = some c) : ∃ d x, (holdSegment s n c0 cause tail endT last).stalls[n].cap = some d ∧ d.phase = .rearm ∧
      d.closeCause = some (BitVec.ofNat 6 cause) ∧ d.ended = c.ended ∧
      (holdSegment s n c0 cause tail endT last).stalls[n].held.getLast? = some x ∧ x.cause = BitVec.ofNat 6 cause := by
  have stopped (y : List Rec) : arms (endPlayback (stopEngine (placeHeader s n c0.seg.uid c0.seg.start y) n) n) = arms s :=
    arms_of_placed ((endPlayback_placed _ _).trans ((stopEngine_placed _ _).trans (placeHeader_placed _ _ _ _ _)))
  unfold holdSegment
  rw [if_neg (fun k => hcause k.1)]
  generalize hu : endPlayback (stopEngine (placeHeader s n _ _ _) n) n = u
  obtain ⟨d, hd, hend⟩ := cap_of_arms (hu ▸ stopped _) h
  refine ⟨_, ?newest, modCap_cap _ ((modStall_cap _ _).trans ((modEng_cap _ _ _).trans hd)), rfl, rfl, hend, ?last, ?cause⟩
  case last =>
    rw [modCap_held, modStall_stalls, vmod_same]
    exact List.getLast?_concat
  case cause => rfl

/-- A typed segment is held with its cause, and its arm's end is not touched (R123, R197). -/
theorem closeTyped_cap {s : State} {n : Stall} {c : Capture} {cause : Nat} (stop : Time) (hcause : cause ≠ 1) (h : s.stalls[n].cap = some c) :
    ∃ d x, (closeTyped s n cause stop).stalls[n].cap = some d ∧ d.phase = .rearm ∧ d.closeCause = some (BitVec.ofNat 6 cause) ∧
      d.ended = c.ended ∧ (closeTyped s n cause stop).stalls[n].held.getLast? = some x ∧ x.cause = BitVec.ofNat 6 cause := by
  have start : arms (if stop = s.tb.now then walkEnd s n else s) = arms s := ite_same (arms_of_placed (walkEnd_placed _ _)) rfl
  generalize hu : (if stop = s.tb.now then walkEnd s n else s) = u at start
  obtain ⟨c0, hc0, hend0⟩ := cap_of_arms start h
  obtain ⟨c1, hc1, hend1⟩ := cap_of_arms (arms_of_placed (closeWritten_placed u n c0 (closeTime c0 stop))) hc0
  rw [closeTyped_of_some cause hu hc0 hc1]
  obtain ⟨d, x, hd, hphase, hclose, hend, hlast, hx⟩ := holdSegment_cap c1 0 (closeTime c0 stop) (stop - 256) hcause hc1
  exact ⟨d, x, hd, hphase, hclose, hend.trans (hend1.trans hend0), hlast, hx⟩

theorem cap_none_of_arms {s t : State} {n : Stall} (h : arms t = arms s) (hc : s.stalls[n].cap = none) : t.stalls[n].cap = none := by
  have hn : t.stalls[n].cap.map Capture.ended = s.stalls[n].cap.map Capture.ended := by
    have hk := congrArg (fun v => v[n]) h
    simpa [arms] using hk
  rw [hc] at hn
  exact Option.map_eq_none_iff.1 hn

/-- The end of an arm leaves no capture (R453). -/
theorem finishArm_cap (s : State) (n : Stall) (c : Capture) (reason : BitVec 8) : (finishArm s n c reason).stalls[n].cap = none := by
  unfold finishArm
  refine cap_none_of_arms (arms_of_placed (applyRetire_placed _ n)) ?_
  rw [modStall_stalls, vmod_same]

/-- Either an arm is over, or nothing is done. -/
theorem tryFinish_cap (s : State) (n : Stall) : (tryFinish s n).stalls[n].cap = none ∨ tryFinish s n = s := by
  unfold tryFinish
  split
  · exact Or.inr rfl
  · split
    · exact Or.inr rfl
    · split
      · exact Or.inr rfl
      · exact Or.inl (finishArm_cap _ _ _ _)

theorem tryFinish_of_open {s : State} {n : Stall} {c : Capture} (h : s.stalls[n].cap = some c) (hp : c.phase = .closing) :
    tryFinish s n = s := by
  unfold tryFinish
  rw [h]
  dsimp only
  split
  · rfl
  · exact if_pos (Or.inr (Or.inl hp))

/-- A cause prevails over an earlier one only when the arm is at its end already (R523). -/
theorem raiseCause_of_open {s : State} {n : Stall} {c : Capture} (cause reason : Nat) (h : c.ended = none) : raiseCause s n c cause reason = s :=
  if_pos (Or.inl (by rw [h]; rfl))

theorem dropOwed_ended (c : Capture) : (dropOwed c).ended = c.ended := by
  unfold dropOwed
  split <;> rfl

/-- The close of an open segment whose fill is not over (R152, R198). -/
theorem closeCapture_of_running {s : State} {n : Stall} {c : Capture} (cause reason : Nat) (h : s.stalls[n].cap = some c)
    (hp : c.phase = .running) (he : c.ended = none) (hf : fillOver s c = false) : closeCapture s n cause (some reason) =
    tryFinish (markEnd (closeNow (modCap s n dropOwed) n c cause) n reason) n := by
  unfold closeCapture
  rw [h]
  dsimp only
  rw [raiseCause_of_open _ _ he, if_neg (not_not_intro hp)]
  exact congrArg (fun u => tryFinish (markEnd u n reason) n) (if_neg (Bool.eq_false_iff.1 hf))

/-- An arm that was not at its end is, with the reason given (R458). -/
theorem markEnd_cap {s : State} {n : Stall} {d : Capture} (reason : Nat) (h : s.stalls[n].cap = some d) (he : d.ended = none) :
    (markEnd s n reason).stalls[n].cap = some { d with ended := some (BitVec.ofNat 8 reason), doneAt := s.tb.now } := by
  refine (modCap_cap _ h).trans (congrArg some ?_)
  rw [if_neg (by rw [he]; exact Bool.false_ne_true)]

/-- A Gallop segment that is open stores on to the end of its furlong, with the cause of the close (R131, R152). -/
theorem closeCapture_gallop {s : State} {n : Stall} {c : Capture} (cause reason : Nat) (h : s.stalls[n].cap = some c)
    (hp : c.phase = .running) (he : c.ended = none) (hf : fillOver s c = false) (hg : c.arm.gait = .gallop) :
    ∃ d, (closeCapture s n cause (some reason)).stalls[n].cap = some d ∧ d.phase = .closing ∧ d.closeCause = some (BitVec.ofNat 6 cause) ∧
      d.ended = some (BitVec.ofNat 8 reason) := by
  rw [closeCapture_of_running cause reason h hp he hf]
  have hnow : closeNow (modCap s n dropOwed) n c cause = closeDense (modCap s n dropOwed) n c cause (modCap s n dropOwed).tb.now := if_pos hg
  obtain ⟨d, hd, hphase, hclose, hend⟩ := closeDense_cap c cause (modCap s n dropOwed).tb.now (modCap_cap dropOwed h)
  rw [dropOwed_ended, he] at hend
  rw [← hnow] at hd
  have hmark := markEnd_cap reason hd hend
  rw [tryFinish_of_open hmark hphase]
  exact ⟨_, hmark, hphase, hclose, rfl⟩

/-- A typed segment that is open is held with the cause of the close, or its capture is over (R152, R197, R453). -/
theorem closeCapture_typed {s : State} {n : Stall} {c : Capture} {cause : Nat} (reason : Nat) (h : s.stalls[n].cap = some c)
    (hp : c.phase = .running) (he : c.ended = none) (hf : fillOver s c = false) (hg : c.arm.gait ≠ .gallop) (hcause : cause ≠ 1) :
    (closeCapture s n cause (some reason)).stalls[n].cap = none ∨
    ∃ d x, (closeCapture s n cause (some reason)).stalls[n].cap = some d ∧ d.phase = .rearm ∧ d.closeCause = some (BitVec.ofNat 6 cause) ∧
      d.ended = some (BitVec.ofNat 8 reason) ∧ (closeCapture s n cause (some reason)).stalls[n].held.getLast? = some x ∧
      x.cause = BitVec.ofNat 6 cause := by
  rw [closeCapture_of_running cause reason h hp he hf]
  have hnow : closeNow (modCap s n dropOwed) n c cause = closeTyped (modCap s n dropOwed) n cause (modCap s n dropOwed).tb.now := if_neg hg
  obtain ⟨d, x, hd, hphase, hclose, hend, hlast, hx⟩ := closeTyped_cap (modCap s n dropOwed).tb.now hcause (modCap_cap dropOwed h)
  rw [dropOwed_ended, he] at hend
  rw [← hnow] at hd hlast
  refine (tryFinish_cap _ _).imp_right fun hsame => ?_
  rw [hsame]
  exact ⟨_, x, markEnd_cap reason hd hend, hphase, hclose, rfl, (congrArg List.getLast? (modCap_held _ _ _)).trans hlast, hx⟩

/-! ## All of it -/

theorem relocking_told (s : State) : told { s with tb := { s.tb with bypass := true } } (relocking s) := tbEvent_told _ _ _

theorem lockLostIn_tb (s : State) : (lockLostIn s).tb = { s.tb with bypass := true } := by
  have hstop : (lockLostIn s).tb = (closeAll (relocking s) 0x05 6).tb :=
    foldl_same (g := State.tb) (f := fun s n => stopEngine s n) (fun _ _ => rfl) _ _
  exact hstop.trans ((still_tb (closeAll_still _ _ _)).trans (told_tb (relocking_told s)))

theorem lockLostIn_running (s : State) (n : Stall) : (lockLostIn s).stalls[n].eng.running = false := by
  obtain ⟨e, he, hrun⟩ := stopEngines_stall allStalls (stopChains (closeAll (relocking s) 0x05 6) 0xFF) n
  unfold lockLostIn
  rw [he]
  exact hrun (Or.inl (mem_allStalls n))

theorem lockLostIn_chain (s : State) (k : Fin 8) : (lockLostIn s).chains[k].stopped = true ∧ (lockLostIn s).chains[k].producing = false := by
  unfold lockLostIn
  rw [stopEngines_chains, stopChains_all]
  exact ⟨rfl, rfl⟩

/-- Of a stall what is not its engine is as the closes left it. -/
theorem lockLostIn_stall (s : State) (n : Stall) : (lockLostIn s).stalls[n].cap = (closeAll (relocking s) 0x05 6).stalls[n].cap ∧
    (lockLostIn s).stalls[n].held = (closeAll (relocking s) 0x05 6).stalls[n].held := by
  obtain ⟨e, he, -⟩ := stopEngines_stall allStalls (stopChains (closeAll (relocking s) 0x05 6) 0xFF) n
  unfold lockLostIn
  rw [he]
  exact ⟨rfl, rfl⟩

/-- With one stall armed its capture alone closes. -/
theorem closeAll_of_one {s : State} {n : Stall} (cause reason : Nat) (h : armedStalls s = [n]) :
    closeAll s cause reason = closeCapture s n cause (some reason) := by
  unfold closeAll
  rw [h]
  rfl

theorem fillOver_of_tb {s t : State} (h : t.tb.now = s.tb.now) (c : Capture) : fillOver t c = fillOver s c := by
  unfold fillOver
  rw [h]

theorem exec_relockDone_awake {s : State} (hb : s.tb.bypass = true) (hd : s.power.st ≠ .dikewatch) : exec .relockDone s = .next (tbEvent
    { s with tb := { s.tb with bypass := false }, chans := s.chans.map (sampleAnew s.tb.now) } 6 (offsetOf s.tb s.tb.selected)) := by
  change Host.Outcome.next (ite _ _ _) = _
  rw [if_neg hd, leaveBypass, if_pos hb]

theorem exec_relockDone_idle {s : State} (h : s.tb.bypass = false ∨ s.power.st = .dikewatch) : exec .relockDone s = .next s := by
  change Host.Outcome.next (ite _ _ _) = _
  split
  · rfl
  · next hd => rw [leaveBypass, if_neg (Bool.eq_false_iff.1 (h.resolve_right hd))]

theorem exec_pllLockLoss_idle {s : State} (h : s.tb.timeValid = false ∨ s.tb.bypass = true) : exec .pllLockLoss s = .next s := by
  change execPllLockLoss s = _
  unfold execPllLockLoss
  rw [if_pos (by simpa using h)]

theorem exec_aonClockRestored_lost {s : State} (h : s.tb.aonFault = true) :
    exec .aonClockRestored s = .next { s with tb := { s.tb with aonFault := false, gatesRun := true } } := by
  change Host.Outcome.next (ite _ _ _) = _
  rw [if_pos h]

/-- What a lock loss makes of the one armed capture, whose segment is open (R86, R152). -/
theorem lockLostIn_capture {s : State} {n : Stall} {c : Capture} (ha : armedStalls s = [n]) (hc : s.stalls[n].cap = some c)
    (hp : c.phase = .running) (he : c.ended = none) (hf : fillOver s c = false) :
    (c.arm.gait = .gallop → ∃ d, (lockLostIn s).stalls[n].cap = some d ∧ d.phase = .closing ∧ d.closeCause = some 5 ∧ d.ended = some 6) ∧
    (c.arm.gait ≠ .gallop → (lockLostIn s).stalls[n].cap = none ∨ ∃ d x, (lockLostIn s).stalls[n].cap = some d ∧ d.phase = .rearm ∧
      d.closeCause = some 5 ∧ d.ended = some 6 ∧ (lockLostIn s).stalls[n].held.getLast? = some x ∧ x.cause = 5) := by
  have hone : closeAll (relocking s) 0x05 6 = closeCapture (relocking s) n 0x05 (some 6) :=
    closeAll_of_one _ _ ((told_armedStalls (relocking_told s)).trans ha)
  have hcap : (relocking s).stalls[n].cap = some c := (told_cap (relocking_told s) n).trans hc
  have hfill : fillOver (relocking s) c = false := (fillOver_of_tb (by rw [told_tb (relocking_told s)]) c).trans hf
  obtain ⟨hend, hheld⟩ := lockLostIn_stall s n
  rw [hend, hheld, hone]
  exact ⟨closeCapture_gallop 5 6 hcap hp he hfill, fun hg => closeCapture_typed 6 hcap hp he hfill hg (by decide)⟩

/-- Settles O46: the monitor's rows go through `disqualify` and `reselect`, which keep the other monitor and choose by both; a lock loss goes
through `closeAll`. -/
theorem referencesAreJudgedAndLockIsWatched : Obligations.ReferencesAreJudgedAndLockIsWatched := by
  unfold Obligations.ReferencesAreJudgedAndLockIsWatched
  refine ⟨fun s b count hg => ⟨fun ht hd => ?beyond, fun ht hd => ?within, fun hd => ?fast, exec_fastGateEnd_within hg,
      exec_referenceLoss_awake b, exec_holdover60s_holding⟩,
    fun s b ht hd => ⟨_, exec_referenceLoss_awake b hd, ?_, disqualify_selected _ _ _ ht, disqualify_mon_other _ _ _⟩,
    fun s => ⟨fun ht hb => ⟨?named, ?stops, fun n c ha hc hp he hf => ?capture⟩, ?unlocked, exec_relockDone_awake, exec_relockDone_idle, rfl, ?aon⟩⟩
  case beyond =>
    refine ⟨_, exec_longGateEnd_beyond hg ht hd, rfl, ?_, ?_, ?_, disqualify_selected _ _ _ ?_, ?_⟩
    · rw [disqualify_mon]; rfl
    · rw [disqualify_mon]; rfl
    · rw [disqualify_mon, monOf_modMon_same]; rfl
    · rw [modMon_timeValid, ht]
    · rw [disqualify_mon_other, monOf_modMon_other]
  case within =>
    have hj := withinGate_judged s b count ((count : Int) - 100000000).natAbs
    have hw : judged (warnStep (gateCounted s b count) b ((count : Int) - 100000000).natAbs).tb = judged (gateCounted s b count).tb :=
      warnStep_judged _ _ _
    have hsame : monOf (gateCounted s b count).tb b = passedGate count (monOf s.tb b) := monOf_modMon_same _ _ _
    have hother : monOf (gateCounted s b count).tb (!b) = monOf s.tb (!b) := monOf_modMon_other _ _ _
    refine ⟨_, gateCounted s b count, exec_longGateEnd_within hg ht hd, rfl, monOf_of_judged hj b, ?_⟩
    rw [monOf_of_judged hj b, monOf_of_judged hj (!b), hsame, hother]
    refine ⟨rfl, rfl, passedGate_within30 _ _, passedGate_qualified _ _, rfl, ?_⟩
    rw [reselect_selected _ ((congrArg Prod.fst hw).trans ((modMon_timeValid _ _ _).trans ht))]
    exact preferred_of_judged (reselect_judged _).symm
  case fast =>
    refine ⟨_, exec_fastGateEnd_beyond hg hd, rfl, ?_, ?_, disqualify_mon_other _ _ _⟩
    · rw [disqualify_mon]; rfl
    · rw [disqualify_mon]; rfl
  case named =>
    intro w hw
    obtain rfl : w = lockLostIn s := hw
    exact exec_pllLockLoss_running ht hb
  case stops =>
    have hexec := exec_pllLockLoss_running ht hb
    have hby : (lockLostIn s).tb.bypass = true := congrArg Timebase.bypass (lockLostIn_tb s)
    have hrun := lockLostIn_running s
    have hchain := lockLostIn_chain s
    generalize lockLostIn s = w at hexec hby hrun hchain
    exact ⟨_, hexec, hby, rfl, hrun, hchain⟩
  case capture =>
    have hexec := exec_pllLockLoss_running ht hb
    obtain ⟨hgallop, htyped⟩ := lockLostIn_capture ha hc hp he hf
    generalize lockLostIn s = w at hexec hgallop htyped
    exact ⟨_, hexec, hgallop, htyped⟩
  case unlocked => exact exec_pllLockLoss_idle
  case aon => exact exec_aonClockRestored_lost
  · rw [disqualify_mon]; rfl

end Sys2Proof.Machine
end

section
/-! SUPPORT. A Quera port that receives: what it keeps of the blocks, what a discarded message costs it, and that no change of the ring brings a
port up (R474 to R479). -/

namespace Sys2Proof.Machine

theorem modQport_same (s : State) (p : Fin 4) (f : QPort → QPort) : (modQport s p f).quera.ports[p] = f s.quera.ports[p] := vmod_same _ _ _

theorem modQport_other (s : State) {p q : Fin 4} (h : q ≠ p) (f : QPort → QPort) : (modQport s p f).quera.ports[q] = s.quera.ports[q] :=
  vmod_ne _ h.symm _

theorem modQport_modQport (s : State) (p : Fin 4) (f g : QPort → QPort) : modQport (modQport s p f) p g = modQport s p fun q => g (f q) := by
  have h : vmod (vmod s.quera.ports p f) p g = vmod s.quera.ports p fun q => g (f q) := by
    refine Vector.ext fun i hi => ?_
    by_cases e : p.val = i
    · subst e
      rw [vmod_at, vmod_at, vmod_at]
    · have hne : p ≠ ⟨i, hi⟩ := fun x => e (congrArg Fin.val x)
      exact (vmod_ne _ hne _).trans ((vmod_ne _ hne _).trans (vmod_ne _ hne _).symm)
  unfold modQport
  rw [← h]

/-! ## Which ports are up -/

/-- Which ports are up. -/
def ups (s : State) : Vector Bool 4 := s.quera.ports.map QPort.up

theorem up_of_ups {s t : State} (h : ups t = ups s) (p : Fin 4) : t.quera.ports[p].up = s.quera.ports[p].up := by
  have hp := congrArg (fun v => v[p]) h
  simpa [ups] using hp

theorem ups_of_ports {s t : State} (h : t.quera.ports = s.quera.ports) : ups t = ups s := by
  unfold ups
  rw [h]

theorem ups_of_told {s t : State} (h : told s t) : ups t = ups s := by
  obtain ⟨hrest, -⟩ := h
  exact ups_of_ports (by rw [hrest])

theorem modQport_ups (s : State) (p : Fin 4) {f : QPort → QPort} (h : ∀ q, (f q).up = q.up := by exact fun _ => rfl) :
    ups (modQport s p f) = ups s := by
  refine Vector.ext fun i hi => ?_
  simp only [ups, Vector.getElem_map]
  by_cases e : p.val = i
  · subst e
    exact (congrArg QPort.up (modQport_same s p f)).trans (h _)
  · have hne : (⟨i, hi⟩ : Fin 4) ≠ p := fun x => e (congrArg Fin.val x).symm
    exact congrArg QPort.up (modQport_other s hne f)

theorem sendMsg_ups (s : State) (p : Fin 4) (v : Nat) : ups (sendMsg s p v) = ups s := modQport_ups s p

theorem announce_ups (old s : State) : ups (announce old s) = ups s :=
  foldl_same (g := ups) (fun s p => (sendMsg_ups _ p _).trans (modQport_ups s p)) _ s

theorem topoEvent_ups (s : State) (cause port : Nat) (far : BitVec 12) : ups (topoEvent s cause port far) = ups s :=
  ups_of_told (sendRated_told _ _ _ _)

theorem setFreeRunning_ups (s : State) : ups (setFreeRunning s) = ups s :=
  ite_same (g := ups) ((foldl_same (g := ups) (f := fun s n => noteOpen s n fun c => { c with freeRun := true }) (fun _ _ => rfl) _ _).trans rfl) rfl

theorem follow_ups (s : State) (m : BitVec 12) : ups (follow_ s m) = ups s := by
  unfold follow_
  split <;> rfl

theorem electNew_ups (s : State) : ups (electNew s) = ups s := by
  unfold electNew
  dsimp only
  split
  · exact follow_ups _ _
  · exact follow_ups _ _
  · exact ite_same (g := ups) rfl rfl

theorem elect_ups (s : State) : ups (elect s) = ups s := by
  have cut (b : Bool) : ups { s with quera := { s.quera with cut := b } } = ups s := rfl
  unfold elect
  refine ite_same (g := ups) rfl ?_
  dsimp only
  split
  · split
    · split
      · exact ite_same ((follow_ups _ _).trans (cut _)) rfl
      · exact ite_same ((follow_ups _ _).trans (cut _)) rfl
    · exact ite_same ((follow_ups _ _).trans (cut _)) (ite_same ((electNew_ups _).trans (cut _)) (follow_ups _ _))
  · exact ite_same rfl ((electNew_ups _).trans (cut _))
  · exact electNew_ups _

theorem adopt_ups (s : State) : ups (adopt s) = ups s := by
  unfold adopt
  split
  · rfl
  · exact (topoEvent_ups _ _ _ _).trans ((setFreeRunning_ups _).trans rfl)

theorem trackEpoch_ups (s : State) : ups (trackEpoch s) = ups s := by
  unfold trackEpoch
  split
  · rfl
  · exact ite_same (g := ups) rfl (ite_same (g := ups) ((adopt_ups _).trans rfl) rfl)

theorem startCensus_ups (s : State) (root : Bool) : ups (startCensus s root) = ups s := ite_same (g := ups) rfl (sendMsg_ups _ _ _)

theorem ringTurned_ups (s : State) (root : Bool) : ups (ringTurned s root) = ups s :=
  ite_same (g := ups) ((startCensus_ups _ _).trans (ite_same (g := ups) rfl rfl)) rfl

theorem ringEvent_ups (s : State) (root : Bool) (port : Fin 4) : ups (ringEvent s root port) = ups s := topoEvent_ups _ _ _ _

theorem settleRings_ups (old s : State) (port : Fin 4) : ups (settleRings old s port) = ups s := by
  have then_ {p : Prop} [Decidable p] {u v : State} (h : ups v = ups u) : ups (if p then v else u) = ups u := ite_same h rfl
  have else_ {p : Prop} [Decidable p] {u v : State} (h : ups v = ups u) : ups (if p then u else v) = ups u := ite_same rfl h
  unfold settleRings
  refine else_ ?_
  refine Eq.trans (then_ (ringTurned_ups _ _)) (Eq.trans (then_ (ringTurned_ups _ _)) ?_)
  refine Eq.trans (else_ (ringEvent_ups _ _ _)) (Eq.trans (else_ (ringEvent_ups _ _ _)) (Eq.trans (setFreeRunning_ups _) ?_))
  exact Eq.trans (then_ rfl) (Eq.trans (then_ rfl) (then_ rfl))

/-- What follows a change of ports leaves them up and down as the change left them. -/
theorem reconverge_ups (old s : State) (port : Fin 4) : ups (reconverge old s port) = ups s :=
  (setFreeRunning_ups _).trans ((trackEpoch_ups _).trans ((settleRings_ups _ _ _).trans ((elect_ups _).trans (ite_same (g := ups) rfl rfl))))

/-- A port that is taken down is down (R477, R479). -/
theorem takeDown_up (s : State) (p : Fin 4) : (takeDown s p).quera.ports[p].up = false := by
  unfold takeDown
  split
  · next h => simpa [portUp] using h
  · rw [up_of_ups ((announce_ups _ _).trans (reconverge_ups _ _ _)), modQport_same]
    rfl

/-! ## Blocks received -/

/-- The counts of the block-lock procedure are all that headers change (R474). -/
theorem seeHeaders_eq (l : List (BitVec 66)) (q : QPort) :
    l.foldl seeHeader q = { q with headers := (l.foldl seeHeader q).headers, badHeaders := (l.foldl seeHeader q).badHeaders } := by
  induction l generalizing q with
  | nil => rfl
  | cons b l ih =>
    have hb : seeHeader q b = { q with headers := (seeHeader q b).headers, badHeaders := (seeHeader q b).badHeaders } := by
      unfold seeHeader
      split <;> rfl
    rw [List.foldl_cons, ih, hb]

/-- What a port keeps of the blocks received: the counts of its headers, and its lock (R474, R479; log entry 265). -/
theorem seeBlocks_port (s : State) (p : Fin 4) (rx : Received) : (seeBlocks s p rx).quera.ports[p] = { s.quera.ports[p] with
    headers := (seeBlocks s p rx).quera.ports[p].headers, badHeaders := (seeBlocks s p rx).quera.ports[p].badHeaders
    lockSince := some (s.quera.ports[p].lockSince.getD s.tb.now) } := by
  unfold seeBlocks
  rw [modQport_same]
  dsimp only
  rw [seeHeaders_eq]

/-! ## A message on a live port -/

section
variable {s : State} {p : Fin 4} {rx : Received} (hl : portLive s p = true) (hb : breaksLock s.quera.ports[p] (lineBlocks rx) = false)
include hl hb

/-- A second block without its first, a bad CRC and a kind that is not listed are discarded (R475 to R477). -/
theorem onMsg_of_bad (kind : Nat) (g : BitVec 112 → State → State)
    (h : ∀ m, received rx = some m → crcOk m = false ∨ kindListed m = false) : onMsg s p rx kind g = discardMsg (seeBlocks s p rx) p := by
  unfold onMsg
  rw [if_neg (by simp [hl]), if_neg (Bool.eq_false_iff.1 hb)]
  dsimp only
  split
  · rfl
  · next m hm => exact if_pos (by simpa using h m hm)

/-- A message of the row's kind takes effect, and what it changes is announced (R476). -/
theorem onMsg_of_good {m : BitVec 112} (g : BitVec 112 → State → State) (hm : received rx = some m) (hc : crcOk m = true)
    (hk : kindListed m = true) : onMsg s p rx (msgKind m) g = announce (seeBlocks s p rx) (g m (seeBlocks s p rx)) := by
  unfold onMsg
  rw [if_neg (by simp [hl]), if_neg (Bool.eq_false_iff.1 hb)]
  simp only [hm]
  rw [if_neg (by simp [hc, hk]), if_neg (not_not_intro rfl)]

end

/-- The times of a port's discards within the last millisecond, the newest first. -/
def recentDiscards (s : State) (p : Fin 4) : List Time := s.quera.ports[p].discards.filter fun t => !passed s.tb.now t ms

theorem seeBlocks_recentDiscards (s : State) (p : Fin 4) (rx : Received) : recentDiscards (seeBlocks s p rx) p = recentDiscards s p := by
  unfold recentDiscards
  rw [seeBlocks_port]
  rfl

/-- A discard before the sixteenth is remembered, and the topology messages before it count no longer (R477, R479). -/
theorem discardMsg_of_few {s : State} {p : Fin 4} (h : (recentDiscards s p).length < 15) :
    discardMsg s p = modQport s p fun q => { q with discards := s.tb.now :: recentDiscards s p, topoOk := 0 } := by
  have hlen : (s.tb.now :: recentDiscards s p).length < 16 := by
    rw [List.length_cons]
    omega
  unfold discardMsg
  refine (if_neg (Nat.not_le.2 hlen)).trans ?_
  have htake : (s.tb.now :: recentDiscards s p).take 16 = s.tb.now :: recentDiscards s p := List.take_of_length_le (Nat.le_of_lt hlen)
  rw [recentDiscards] at htake ⊢
  rw [htake]

/-- The sixteenth discard within 1 ms takes the port down (R477). -/
theorem discardMsg_of_many {s : State} {p : Fin 4} (h : 15 ≤ (recentDiscards s p).length) : (discardMsg s p).quera.ports[p].up = false := by
  unfold discardMsg
  have hlen : 16 ≤ (s.tb.now :: recentDiscards s p).length := by
    rw [List.length_cons]
    omega
  rw [recentDiscards] at hlen
  rw [if_pos hlen]
  exact takeDown_up _ _

/-- A change of a port that its topology messages do not tell is not announced. -/
theorem announce_modQport (s : State) (p : Fin 4) {f : QPort → QPort}
    (h : ∀ q, (f q).up = q.up ∧ (f q).farReach = q.farReach) : announce s (modQport s p f) = modQport s p f := by
  have hup : ups (modQport s p f) = ups s := modQport_ups s p fun q => (h q).1
  have hreach (q : Fin 4) : (modQport s p f).quera.ports[q].farReach = s.quera.ports[q].farReach := by
    by_cases e : q = p
    · subst e
      rw [modQport_same]
      exact (h _).2
    · rw [modQport_other s e]
  have hmsg (q : Fin 4) : topologyMsg (modQport s p f) q = topologyMsg s q := by
    have hr : reachOn (modQport s p f) q = reachOn s q := by
      unfold reachOn
      dsimp only
      rw [up_of_ups hup, hreach]
    unfold topologyMsg
    rw [hr]
    rfl
  have hnone : (allPorts.filter fun q => portUp (modQport s p f) q && (!portUp s q || topologyMsg s q != topologyMsg (modQport s p f) q)) = [] := by
    refine List.filter_eq_nil_iff.2 fun q _ => ?_
    rw [hmsg, portUp, up_of_ups hup]
    simp [portUp]
  unfold announce
  rw [hnone]
  rfl

end Sys2Proof.Machine
end

section
/-! SUPPORT. The rows of the Quera messages, and the step of system time (R474 to R486). -/

namespace Sys2Proof.Machine

/-! ## Discards -/

/-- Each row of received blocks takes them as `onMsg` does, for its kind of message. -/
theorem exec_of_blocks {p : Fin 4} {rx : Received} {t v : Time} {i : Instr} (s : State)
    (h : i ∈ [Instr.queraTimingRequest p rx t v, .queraTimingResponse p rx t, .queraTopologyMsg p rx, .queraIdentifyMsg p rx,
      .queraCensusMsg p rx, .queraCrossTriggerMsg p rx]) : ∃ kind g, exec i s = .next (onMsg s p rx kind g) := by
  simp only [List.mem_cons, List.not_mem_nil, or_false] at h
  obtain rfl | rfl | rfl | rfl | rfl | rfl := h
  · exact ⟨2, _, rfl⟩
  · exact ⟨2, _, rfl⟩
  · exact ⟨3, _, rfl⟩
  · exact ⟨4, _, rfl⟩
  · exact ⟨5, _, rfl⟩
  · exact ⟨1, _, rfl⟩

/-- The ports after a discard before the sixteenth (R477; log entry 265). -/
theorem discard_few {s : State} {p : Fin 4} (rx : Received) (h : (recentDiscards s p).length < 15) :
    ∃ u, discardMsg (seeBlocks s p rx) p = u ∧ u = { s with quera := { s.quera with ports := u.quera.ports } } ∧
      (∀ q : Fin 4, q ≠ p → u.quera.ports[q] = s.quera.ports[q]) ∧
      u.quera.ports[p] = { s.quera.ports[p] with
        discards := s.tb.now :: recentDiscards s p
        topoOk := 0, lockSince := some (s.quera.ports[p].lockSince.getD s.tb.now)
        headers := u.quera.ports[p].headers, badHeaders := u.quera.ports[p].badHeaders } := by
  have hfew := discardMsg_of_few (s := seeBlocks s p rx) (p := p) (by rw [seeBlocks_recentDiscards]; exact h)
  rw [seeBlocks_recentDiscards] at hfew
  refine ⟨_, hfew, rfl, fun q hq => ?_, ?_⟩
  · exact (modQport_other _ hq _).trans (modQport_other _ hq _)
  · rw [modQport_same, seeBlocks_port]
    rfl

/-! ## Time transfer -/

theorem exec_queraTimingSend_live {s : State} {p : Fin 4} (due : Time) (h : portLive s p = true) : exec (.queraTimingSend p due) s =
    .next (modQport s p fun x => { x with
      seq := s.quera.ports[p].seq + 1
      queue := x.queue ++ [{ msg := withCrc (timingMsg false s.quera.ports[p].seq.toNat 0 0), after := some due }] }) := by
  change execQueraTimingSend p due s = _
  unfold execQueraTimingSend
  rw [if_neg (by simp [h])]

section
variable {s : State} {p : Fin 4} {rx : Received} {msg : BitVec 112} (hl : portLive s p = true)
  (hb : breaksLock s.quera.ports[p] (lineBlocks rx) = false) (hm : received rx = some msg) (hc : crcOk msg = true) (hk : msgKind msg = 2)
include hl hb hm hc hk

theorem onMsg_timing (g : BitVec 112 → State → State) :
    onMsg s p rx 2 g = announce (seeBlocks s p rx) (g msg (seeBlocks s p rx)) := by
  rw [← hk]
  exact onMsg_of_good hl hb g hm hc (by simp [kindListed, hk])

/-- A request is answered with its arrival time, corrected by what the device has not yet applied (R484). -/
theorem exec_queraTimingRequest_answered (t2 ready : Time) (hreq : bit msg 107 = false) : exec (.queraTimingRequest p rx t2 ready) s =
    .next (modQport (seeBlocks s p rx) p fun q => { q with
      queue := q.queue ++ [{
        msg := withCrc (timingMsg true (bits msg 106 100) (moveTime t2 (owed s)) 0), since := some t2
        after := some (if past ready t2 then t2 else ready) }] }) := by
  change Host.Outcome.next (onMsg s p rx 2 _) = _
  rw [onMsg_timing hl hb hm hc hk, if_neg (Bool.eq_false_iff.1 hreq)]
  exact congrArg _ (announce_modQport _ _ fun _ => ⟨rfl, rfl⟩)

/-- A response to the open request gives the delay; on a port that is not upstream its offset is not used (R484, R485). -/
theorem exec_queraTimingResponse_measured {t1 : Time} (t4 : Time) {d : Int} (ht : s.quera.ports[p].t1 = some t1) (hresp : bit msg 107 = true)
    (hseq : bits msg 106 100 = s.quera.ports[p].reqSeq.toNat) (hup : s.quera.upstream ≠ some p)
    (hd : d = ((t4 - t1).toInt - (bits msg 35 20 : Int)) / 2) : exec (.queraTimingResponse p rx t4) s =
    .next (modQport (seeBlocks s p rx) p fun x => { x with
      t1 := none, delay := (max 0 (min 65535 d)).toNat, measured := decide (0 ≤ d ∧ d ≤ 65535)
      exchanges := if x.up then min 256 (x.exchanges + 1) else 0 }) := by
  have ht1 : (seeBlocks s p rx).quera.ports[p].t1 = some t1 := by
    rw [seeBlocks_port]
    exact ht
  have hreq : bits msg 106 100 = (seeBlocks s p rx).quera.ports[p].reqSeq.toNat := by
    rw [seeBlocks_port]
    exact hseq
  change Host.Outcome.next (onMsg s p rx 2 _) = _
  rw [onMsg_timing hl hb hm hc hk]
  simp only [ht1]
  rw [if_neg (by rw [hresp, hreq]; simp), if_neg (fun h => hup h.1), ← hd]
  exact congrArg _ (announce_modQport _ _ fun _ => ⟨rfl, rfl⟩)

end

/-! ## The step of system time -/

/-- A time step moves by the nearest number of whole strides, and steers the rest (R486). -/
theorem exec_queraTimeStep_step {s : State} {e : Int} (he : s.quera.step = some e) (ha : stepAllowed s = true) (ht : s.tb.timeValid = true) :
    ∃ u, exec .queraTimeStep s = .next u ∧ u.quera.step = none ∧ u.quera.hist = [] ∧ u.tb.timeEstimated = false ∧
      (∀ n : Fin 8, u.chains[n].stopped = true ∧ u.chains[n].producing = false) ∧
      u.tb.now = s.tb.now + BitVec.ofInt 64 (256 * ((e + 128) / 256)) ∧ u.tb.steer = e - 256 * ((e + 128) / 256) := by
  have hexec : exec .queraTimeStep s = .next (stopChains (moveQuera (256 * ((e + 128) / 256)) (moveDram (256 * ((e + 128) / 256)) { s with
      tb := { s.tb with now := moveTime s.tb.now (256 * ((e + 128) / 256)), steer := e - 256 * ((e + 128) / 256), steerFine := 0
                        timeEstimated := false }
      quera := { s.quera with step := none, hist := [] } })) 0xFF) := by
    change execQueraTimeStep s = _
    unfold execQueraTimeStep
    simp only [he]
    rw [if_neg (by simp [ha, ht])]
  refine ⟨_, hexec, rfl, rfl, rfl, fun n => ?_, rfl, rfl⟩
  rw [stopChains_all]
  exact ⟨rfl, rfl⟩

theorem exec_queraTimeStep_held {s : State} (h : stepAllowed s = false) : exec .queraTimeStep s = .next s := by
  change execQueraTimeStep s = _
  unfold execQueraTimeStep
  split
  · rfl
  · rw [if_pos (by simp [h])]

/-- Settles O53: a row of received blocks is `onMsg`, which discards, or takes effect and announces nothing of a port's times; a step is the
nearest whole number of strides. -/
theorem queraMessagesAreCheckedAndTimed : Obligations.QueraMessagesAreCheckedAndTimed := by
  unfold Obligations.QueraMessagesAreCheckedAndTimed
  refine ⟨fun s p rx t v i hl hb hbad hi => ?discards, fun s => ⟨fun p due hl => ?send, fun p rx msg hl hb hm hc hk => ⟨fun t2 ready hreq =>
    exec_queraTimingRequest_answered hl hb hm hc hk t2 ready hreq, fun t1 t4 d ht hresp hseq hup hd =>
    exec_queraTimingResponse_measured hl hb hm hc hk t4 ht hresp hseq hup hd⟩, fun e he ha ht => ?step, exec_queraTimeStep_held⟩⟩
  case discards =>
    obtain ⟨kind, g, hexec⟩ := exec_of_blocks s hi
    rw [hexec, onMsg_of_bad hl hb kind g hbad]
    refine ⟨fun hfew => ?_, fun hmany => ⟨_, rfl, discardMsg_of_many ?_⟩⟩
    · obtain ⟨u, hu, hrest⟩ := discard_few rx hfew
      exact ⟨u, congrArg _ hu, hrest⟩
    · rw [seeBlocks_recentDiscards]
      exact hmany
  case send =>
    refine ⟨_, exec_queraTimingSend_live due hl, rfl, fun q hq => modQport_other s hq _, ?_, ?_, rfl, rfl⟩ <;> rw [modQport_same]
  case step =>
    obtain ⟨u, hexec, hstep, hhist, hest, hchains, hnow, hsteer⟩ := exec_queraTimeStep_step he ha ht
    refine ⟨u, hexec, hstep, hhist, hest, hchains, (e + 128) / 256, hnow, hsteer, ?_⟩
    rw [hsteer]
    omega

end Sys2Proof.Machine
end

section
/-! SUPPORT. SYSREF and SYNC edges, sync instants, and the links: what each changes, and the chains it leaves alone (R93 to R97, R286 to R288,
R314). -/

namespace Sys2Proof.Machine

/-! ## One chain, one link -/

theorem modChain_same (s : State) (k : Fin 8) (f : Chain → Chain) : (modChain s k f).chains[k] = f s.chains[k] := vmod_same _ _ _

theorem modChain_other (s : State) {k j : Fin 8} (h : j ≠ k) (f : Chain → Chain) : (modChain s k f).chains[j] = s.chains[j] :=
  vmod_ne _ h.symm _

/-- What a chain's change makes of other contents is immaterial. -/
theorem modChain_congr {s : State} {k : Fin 8} {f g : Chain → Chain} (h : f s.chains[k] = g s.chains[k]) : modChain s k f = modChain s k g := by
  unfold modChain vmod
  rw [h]

theorem modLink_same (s : State) (l : Fin 2) (f : JLink → JLink) : (modLink s l f).links[l] = f s.links[l] := vmod_same _ _ _

theorem modLink_other (s : State) {l k : Fin 2} (h : k ≠ l) (f : JLink → JLink) : (modLink s l f).links[k] = s.links[k] := vmod_ne _ h.symm _

/-! ## SYSREF -/

theorem linkEvent_told (s : State) (l : Fin 2) (reason : Nat) (p5 : Dword) : told s (linkEvent s l reason p5) := sendRated_told _ _ _ _

/-- A SYSREF edge that is off the boundary of its link by d ticks sets `sysref_error` and is reported (R93, R286). -/
def sysrefBad (s : State) (l : Fin 2) (d : Rat) : State :=
  linkEvent { s with tb := { s.tb with sysrefError := true } } l 4 (sfld ((d / 32).num.tdiv (d / 32).den) 32 0)

theorem sysrefBad_told (s : State) (l : Fin 2) (d : Rat) :
    told { s with tb := { s.tb with sysrefError := true } } (sysrefBad s l d) := linkEvent_told _ _ _ _

theorem sysrefBad_error (s : State) (l : Fin 2) (d : Rat) : (sysrefBad s l d).tb.sysrefError = true := by
  rw [told_tb (sysrefBad_told s l d)]

theorem sysrefBad_chains (s : State) (l : Fin 2) (d : Rat) : (sysrefBad s l d).chains = s.chains :=
  (told_chains (sysrefBad_told s l d)).trans rfl

theorem sysrefBad_links (s : State) (l : Fin 2) (d : Rat) : (sysrefBad s l d).links = s.links :=
  (told_links (sysrefBad_told s l d)).trans rfl

/-- An edge means nothing to a link that is off. -/
theorem sysrefOn_of_off (e : Time) {s : State} {l : Fin 2} (h : linkEnable s.links[l].setting = false) : sysrefOn e s l = s := by
  unfold sysrefOn
  rw [if_pos (by rw [h]; rfl)]

/-- The first edge fixes the boundaries of a link (R286). -/
theorem sysrefOn_of_first (e : Time) {s : State} {l : Fin 2} (h : linkEnable s.links[l].setting = true) (hs : s.links[l].sysrefSeen = false) :
    sysrefOn e s l = modLink s l fun x => { x with sysrefSeen := true, boundary := e, frame := 0 } := by
  unfold sysrefOn
  rw [if_neg (by rw [h]; exact Bool.false_ne_true), if_pos (by rw [hs]; rfl)]

/-- A later edge is checked against them (R93). -/
theorem sysrefOn_of_later (e : Time) {s : State} {l : Fin 2} (h : linkEnable s.links[l].setting = true) (hs : s.links[l].sysrefSeen = true) :
    sysrefOn e s l = if -32 ≤ edgeOff s.links[l] e ∧ edgeOff s.links[l] e ≤ 32 then s else sysrefBad s l (edgeOff s.links[l] e) := by
  unfold sysrefOn
  rw [if_neg (by rw [h]; exact Bool.false_ne_true), if_neg (by rw [hs]; exact Bool.false_ne_true)]
  rfl

/-- What a SYSREF edge leaves: no chain changes, another link stands, and a SYSREF error stands. -/
theorem sysrefOn_frame (e : Time) (s : State) (l : Fin 2) : (sysrefOn e s l).chains = s.chains ∧
    (∀ k : Fin 2, k ≠ l → (sysrefOn e s l).links[k] = s.links[k]) ∧
    (s.tb.sysrefError = true → (sysrefOn e s l).tb.sysrefError = true) := by
  cases h : linkEnable s.links[l].setting
  · rw [sysrefOn_of_off e h]
    exact ⟨rfl, fun _ _ => rfl, id⟩
  · cases hs : s.links[l].sysrefSeen
    · rw [sysrefOn_of_first e h hs]
      exact ⟨rfl, fun k hk => modLink_other s hk _, id⟩
    · rw [sysrefOn_of_later e h hs]
      refine ⟨ite_same (g := State.chains) rfl (sysrefBad_chains _ _ _),
        fun k _ => ite_same (g := fun u => u.links[k]) rfl (by rw [sysrefBad_links]), fun herr => ?_⟩
      split
      · exact herr
      · exact sysrefBad_error _ _ _

/-- What a SYSREF edge makes of its link: a boundary, or a check against the one it has (R93, R286). -/
theorem sysrefOn_link (e : Time) (s : State) (l : Fin 2) :
    (linkEnable s.links[l].setting = false → (sysrefOn e s l).links[l] = s.links[l]) ∧
    (linkEnable s.links[l].setting = true → s.links[l].sysrefSeen = false →
      (sysrefOn e s l).links[l] = { s.links[l] with sysrefSeen := true, boundary := e, frame := 0 }) ∧
    (linkEnable s.links[l].setting = true → s.links[l].sysrefSeen = true → (sysrefOn e s l).links[l] = s.links[l] ∧
      (edgeOff s.links[l] e < -32 ∨ 32 < edgeOff s.links[l] e → (sysrefOn e s l).tb.sysrefError = true)) := by
  refine ⟨fun h => by rw [sysrefOn_of_off e h], fun h hs => ?_, fun h hs => ?_⟩
  · rw [sysrefOn_of_first e h hs]
    exact modLink_same _ _ _
  · rw [sysrefOn_of_later e h hs]
    refine ⟨ite_same (g := fun u => u.links[l]) rfl (by rw [sysrefBad_links]), fun hout => ?_⟩
    rw [if_neg fun hin => hout.elim (not_lt.2 hin.1) (not_lt.2 hin.2)]
    exact sysrefBad_error _ _ _

/-- An edge reaches both links, each as if alone. -/
theorem sysrefEdge_link (e : Time) (s : State) (l : Fin 2) : ∃ u, u.links[l] = s.links[l] ∧
    ([0, 1].foldl (sysrefOn e) s).links[l] = (sysrefOn e u l).links[l] ∧
    ((sysrefOn e u l).tb.sysrefError = true → ([0, 1].foldl (sysrefOn e) s).tb.sysrefError = true) := by
  match l with
  | 0 =>
    obtain ⟨-, hlink, herr⟩ := sysrefOn_frame e (sysrefOn e s 0) 1
    exact ⟨s, rfl, hlink 0 (by decide), herr⟩
  | 1 =>
    obtain ⟨-, hlink, -⟩ := sysrefOn_frame e s 0
    exact ⟨sysrefOn e s 0, hlink 1 (by decide), rfl, id⟩

theorem sysrefEdge_chains (e : Time) (s : State) : ([0, 1].foldl (sysrefOn e) s).chains = s.chains :=
  (sysrefOn_frame e (sysrefOn e s 0) 1).1.trans (sysrefOn_frame e s 0).1

theorem exec_sysrefEdge_timed {s : State} {t e : Time} (ht : s.tb.timeValid = true) (he : e = t &&& ~~~ (31 : Time)) :
    exec (.sysrefEdge t) s = .next ([0, 1].foldl (sysrefOn e) s) := by
  subst he
  exact congrArg _ (if_pos ht)

/-! ## SYNC -/

theorem exec_syncEdge_running {s : State} (t : Time) (ht : s.tb.timeValid = true) (hb : s.tb.bypass = false) :
    exec (.syncEdge t) s = .next { s with tb := { s.tb with
      syncPending := s.tb.syncPending ++ [{ y := (t &&& ~~~ (255 : Time)) + strides 32, chains := syncChains s }] } } := by
  change execSyncEdge t s = _
  unfold execSyncEdge
  rw [if_neg (by simp [ht, hb])]

theorem syncChain_frame (y : Time) (s : State) (k : Fin 8) : (syncChain y s k).tb = s.tb ∧
    ∀ j : Fin 8, j ≠ k → (syncChain y s k).chains[j] = s.chains[j] := by
  unfold syncChain
  split
  · exact ⟨rfl, fun _ _ => rfl⟩
  · exact ⟨rfl, fun j hj => modChain_other s hj _⟩
  · exact ⟨rfl, fun j hj => modChain_other s hj _⟩
  · exact ⟨rfl, fun j hj => modChain_other s hj _⟩

theorem syncChains_frame (y : Time) (l : List (Fin 8)) (s : State) : (l.foldl (syncChain y) s).tb = s.tb ∧
    ∀ j : Fin 8, j ∉ l → (l.foldl (syncChain y) s).chains[j] = s.chains[j] := by
  induction l generalizing s with
  | nil => exact ⟨rfl, fun _ _ => rfl⟩
  | cons k l ih =>
    obtain ⟨htb, hchain⟩ := syncChain_frame y s k
    obtain ⟨itb, ichain⟩ := ih (syncChain y s k)
    refine ⟨itb.trans htb, fun j hj => ?_⟩
    rw [List.mem_cons, not_or] at hj
    exact (ichain j hj.2).trans (hchain j hj.1)

theorem queueRecs_chains (s : State) (n : Stall) (l : List Rec) : (queueRecs s n l).chains = s.chains :=
  ite_same (g := State.chains) rfl rfl

theorem syncMarker_chains (y : Time) (m : BitVec 8) (s : State) (n : Stall) : (syncMarker y m s n).chains = s.chains :=
  ite_same (g := State.chains) rfl (ite_same (g := State.chains) (queueRecs_chains _ _ _) rfl)

theorem syncMarker_tb (y : Time) (m : BitVec 8) (s : State) (n : Stall) : (syncMarker y m s n).tb = s.tb :=
  ite_same (g := State.tb) rfl (still_tb (still_of_placed (marker_placed _ _ _ _ _)))

/-- A bit that no word of a list has is not in their union. -/
theorem bit_union {n i : Nat} (l : List (BitVec n)) (a : BitVec n) (h : ∀ w ∈ l, bit w i = false) (ha : bit a i = false) :
    bit (l.foldl (· ||| ·) a) i = false := by
  induction l generalizing a with
  | nil => exact ha
  | cons w l ih =>
    obtain ⟨hw, hl⟩ := List.forall_mem_cons.1 h
    refine ih _ hl ?_
    unfold bit at ha hw ⊢
    rw [BitVec.getLsbD_or, ha, hw]
    rfl

/-- A sync instant serves every request that gives it once, and changes the chains that they name alone (R95, R97, R293). -/
theorem exec_syncInstant_due {s : State} {y : Time} (hy : nextSync s = some y) (hp : past s.tb.now y = false) (hb : s.tb.bypass = false) :
    ∃ u, exec .syncInstant s = .next u ∧ u.tb = { s.tb with syncPending := s.tb.syncPending.filter fun r => r.y != y } ∧
      ∀ n : Fin 8, (∀ r ∈ s.tb.syncPending, r.y = y → bit r.chains n.val = false) → u.chains[n] = s.chains[n] := by
  change ∃ u, execSyncInstant s = .next u ∧ _
  unfold execSyncInstant
  simp only [hy]
  rw [if_neg (by simp [hp, hb])]
  generalize hl : (List.finRange 8).filter (fun n => bit _ n.val) = l
  obtain ⟨htb, hchain⟩ := syncChains_frame y l { s with tb := { s.tb with syncPending := s.tb.syncPending.filter fun r => r.y != y } }
  refine ⟨_, rfl, ?_, fun n hn => ?_⟩
  · exact (foldl_same (g := State.tb) (syncMarker_tb y _) _ _).trans htb
  · rw [foldl_same (g := State.chains) (syncMarker_chains y _)]
    refine hchain n ?_
    rw [← hl]
    simp only [List.mem_filter, List.mem_finRange, true_and, Bool.not_eq_true]
    refine bit_union _ _ (fun w hw => ?_) (by simp [bit])
    obtain ⟨r, hr, rfl⟩ := List.mem_map.1 hw
    obtain ⟨hr, hry⟩ := List.mem_filter.1 hr
    exact hn r hr (by simpa using hry)

/-! ## Links -/

/-- A link that is up from here on (R287, R288). -/
def raisedLink (s : State) (l : Fin 2) (x : JLink) : JLink := { x with
  up := true, phase := 3, ilasMismatch := false, aligned := lanesOf s l, syncPin := true, lost := false, recent := []
  frame := if x.sysrefSeen then frameNow s x else 0 }

section
variable {s : State} {l : Fin 2} {aligned : BitVec 8} (he : linkEnable s.links[l].setting = true) (hu : s.links[l].up = false)
include he hu

theorem exec_linkUp_unaligned (ilas : Option Bool) (h : aligned &&& lanesOf s l ≠ lanesOf s l) :
    exec (.linkUp l { lanes := aligned, ilas := ilas }) s =
      .next (modLink s l fun x => { x with aligned := aligned &&& lanesOf s l, phase := 1 }) := by
  change execLinkUp l _ s = _
  unfold execLinkUp
  rw [if_neg (by rw [he, hu]; exact Bool.false_ne_true)]
  exact congrArg _ (if_pos h)

section
variable (h : aligned &&& lanesOf s l = lanesOf s l)
include h

theorem exec_linkUp_noIlas : exec (.linkUp l { lanes := aligned, ilas := none }) s =
    .next (modLink s l fun x => { x with aligned := lanesOf s l, phase := 2 }) := by
  change execLinkUp l _ s = _
  unfold execLinkUp
  rw [if_neg (by rw [he, hu]; exact Bool.false_ne_true)]
  exact congrArg _ (if_neg (not_not_intro h))

theorem exec_linkUp_mismatch (hc : linkC s.links[l].setting = false) : exec (.linkUp l { lanes := aligned, ilas := some false }) s =
    .next (modLink s l fun x => { x with ilasMismatch := true, aligned := lanesOf s l, phase := 2 }) := by
  change execLinkUp l _ s = _
  unfold execLinkUp
  rw [if_neg (by rw [he, hu]; exact Bool.false_ne_true)]
  refine congrArg _ ((if_neg (not_not_intro h)).trans ?_)
  exact if_pos (by rw [hc]; rfl)

theorem exec_linkUp_raised {ok : Bool} (hok : (!linkC s.links[l].setting && !ok) = false) :
    exec (.linkUp l { lanes := aligned, ilas := some ok }) s =
      .next (if s.links[l].lost then linkEvent (modLink s l (raisedLink s l)) l 6 0 else modLink s l (raisedLink s l)) := by
  change execLinkUp l _ s = _
  unfold execLinkUp
  rw [if_neg (by rw [he, hu]; exact Bool.false_ne_true)]
  refine congrArg _ ((if_neg (not_not_intro h)).trans ?_)
  exact if_neg (Bool.eq_false_iff.1 hok)

/-- A link whose parameters match, or that has none, is up (R287, R314). -/
theorem exec_linkUp_up {ilas : Option Bool} (hi : ilas = some true ∨ (ilas = some false ∧ linkC s.links[l].setting = true)) :
    ∃ u, exec (.linkUp l { lanes := aligned, ilas := ilas }) s = .next u ∧ u.links[l].up = true ∧ u.links[l].phase = 3 ∧
      u.links[l].ilasMismatch = false ∧ u.links[l].syncPin = true ∧ u.links[l].aligned = lanesOf s l ∧ u.chains = s.chains := by
  obtain ⟨ok, rfl, hok⟩ : ∃ ok, ilas = some ok ∧ (!linkC s.links[l].setting && !ok) = false := by
    obtain rfl | ⟨rfl, hc⟩ := hi
    · exact ⟨true, rfl, Bool.and_false _⟩
    · exact ⟨false, rfl, by rw [hc]; rfl⟩
  have htold := linkEvent_told (modLink s l (raisedLink s l)) l 6 0
  refine ⟨_, exec_linkUp_raised he hu h hok, ?_⟩
  generalize hu : (if s.links[l].lost then linkEvent (modLink s l (raisedLink s l)) l 6 0 else modLink s l (raisedLink s l)) = u
  have hlinks : u.links = (modLink s l (raisedLink s l)).links := hu ▸ ite_same (g := State.links) (told_links htold) rfl
  have hchains : u.chains = (modLink s l (raisedLink s l)).chains := hu ▸ ite_same (g := State.chains) (told_chains htold) rfl
  rw [hlinks, hchains, modLink_same]
  exact ⟨rfl, rfl, rfl, rfl, rfl, rfl⟩

end

end

/-- A link with a lane out of alignment is lost, and the chains that it feeds stop (R287, R314). -/
theorem exec_linkLost_unaligned {s : State} {l : Fin 2} {aligned : BitVec 8} (hu : s.links[l].up = true)
    (hbad : lanesOf s l &&& ~~~ aligned ≠ 0) : ∃ u, exec (.linkLost l aligned) s = .next u ∧ u.links[l].up = false ∧
      u.links[l].losses = satAdd 32 s.links[l].losses 1 ∧
      (∀ n : Fin 8, bit (linkChains s l) n.val = true → u.chains[n].stopped = true ∧ u.chains[n].producing = false) ∧
      ∀ n : Fin 8, bit (linkChains s l) n.val = false → u.chains[n] = s.chains[n] := by
  change ∃ u, execLinkLost l aligned s = .next u ∧ _
  unfold execLinkLost
  dsimp only
  rw [if_neg (by rw [hu, beq_eq_false_iff_ne.2 hbad, Bool.and_false]; exact Bool.false_ne_true)]
  refine ⟨_, rfl, ?_⟩
  rw [told_links (linkEvent_told _ _ _ _), told_chains (linkEvent_told _ _ _ _), modLink_same]
  refine ⟨rfl, rfl, fun n hn => ?_, fun n hn => ?_⟩
  · have hc := (stopChains_chain s (linkChains s l) n).trans (if_pos hn)
    exact ⟨congrArg Chain.stopped hc, congrArg Chain.producing hc⟩
  · exact (stopChains_chain s (linkChains s l) n).trans (if_neg (Bool.eq_false_iff.1 hn))

/-- A frame of a link that is up is counted, an erroneous one too, and only the chains that the link feeds take samples (R287, R288). -/
theorem exec_jesdFrame_released {s : State} {l : Fin 2} {v : List (BitVec 16)} {f : Nat} (err : Bool)
    (he : linkEnable s.links[l].setting = true) (hu : s.links[l].up = true) (hf : f = linkM s.links[l].setting * linkS s.links[l].setting)
    (hv : v ≠ []) (hdiv : v.length % f = 0) (hone : linkC s.links[l].setting = true ∨ v.length / f = 1)
    (hrel : s.links[l].sysrefSeen = true →
      releaseTicks s.links[l].setting s.links[l].frame < ((s.tb.now - s.links[l].boundary).toInt : Rat) + 256) :
    ∃ u, exec (.jesdFrame l err v) s = .next u ∧
      u.links[l].frame = (if s.links[l].sysrefSeen then s.links[l].frame + v.length / f else 0) ∧
      u.links[l].replaced = (if err then satAdd 32 s.links[l].replaced 1 else s.links[l].replaced) ∧
      (s.links[l].sysrefSeen = false → u.chains = s.chains) ∧
      ∀ n : Fin 8, (∀ j, chainSource s n ≠ some (l, j)) → u.chains[n] = s.chains[n] := by
  subst hf
  change ∃ u, execJesdFrame l err v s = .next u ∧ _
  unfold execJesdFrame
  have hform : (!linkC s.links[l].setting && v.length / (linkM s.links[l].setting * linkS s.links[l].setting) != 1) = false := by
    obtain h | h := hone
    · rw [h]
      rfl
    · rw [h]
      exact Bool.and_false _
  dsimp only
  rw [if_neg (by rw [he, hu, hdiv, beq_eq_false_iff_ne.2 hv, hform]; decide), if_neg (by
    rw [Bool.and_eq_true, decide_eq_true_iff, not_and, not_le]
    exact hrel)]
  refine ⟨_, rfl, ?_, ?_, fun hno => ?_, fun n hn => ?_⟩
  · rw [modLink_same]
  · rw [modLink_same]
  · refine Vector.ext fun i hi => ?_
    rw [modLink_chains, vmap_at]
    split
    · rw [if_neg (by rw [hno, Bool.and_false]; exact Bool.false_ne_true)]
    · rfl
  · rw [modLink_chains, vmap_get]
    split
    · next k j hsrc =>
      have hkl : k ≠ l := fun e => hn j (e ▸ hsrc)
      rw [if_neg (by simp [hkl])]
    · rfl

end Sys2Proof.Machine
end

section
/-! SUPPORT. The outputs of a chain, its detector and its cycles: what a sample that emerges leaves alone of the other chains (R132, R302 to R309). -/

open Sys2Proof.Claims

namespace Sys2Proof.Machine

/-! ## Samples that emerge -/

theorem updateTerms_still (s : State) (n : Stall) (src : Nat) (v : BitVec 20) (t : Time) : still (updateTerms s n src v t) = still s := by
  unfold updateTerms
  split
  · rfl
  · exact modEng_still _ _ _

theorem packOutput_still (s : State) (n : Stall) (k : Fin 8) (v : BitVec 20) (t : Time) (period : Nat) (det : Bool) :
    still (packOutput s n k v t period det) = still s := by
  have side (p : Prop) [Decidable p] (u : State) (l : List Rec) : still (if p then addSide u n l else u) = still u :=
    ite_same (still_of_placed (addSide_placed _ _ _)) rfl
  unfold packOutput
  refine (still_of_placed (modChain_placed _ _ fun c => ?_)).trans (Eq.trans (side _ _ _) (side _ _ _))
  cases det <;> rfl

/-- A sample that emerges changes no chain but for its side samples (R132, R205). -/
theorem emergeSample_still (s : State) (k : Fin 8) (v : BitVec 20) (t : Time) (det : Bool) : still (emergeSample s k v t det) = still s := by
  unfold emergeSample
  dsimp only
  split
  · rfl
  · refine ite_same (updateTerms_still _ _ _ _ _) (ite_same ?_ ?_)
    · exact (checkFull_still _ _).trans ((still_of_placed (addSide_placed _ _ _)).trans (updateTerms_still _ _ _ _ _))
    · exact (checkFull_still _ _).trans ((packOutput_still _ _ _ _ _ _ _).trans (updateTerms_still _ _ _ _ _))

/-- A sample of a chain that no stall owns goes nowhere (R309). -/
theorem emergeSample_unowned {s : State} {k : Fin 8} (v : BitVec 20) (t : Time) (det : Bool) (h : chainOwner s k = none) :
    emergeSample s k v t det = s := by
  unfold emergeSample
  simp only [h]

/-- A chain's own change, and a sample of it that emerges: the other chains stand but for their side samples. -/
theorem emergeSample_modChain (s : State) (n : Fin 8) (f : Chain → Chain) (v : BitVec 20) (t : Time) (det : Bool) :
    sideless (emergeSample (modChain s n f) n v t det).chains[n] = sideless (f s.chains[n]) ∧
    (∀ k : Fin 8, k ≠ n → sideless (emergeSample (modChain s n f) n v t det).chains[k] = sideless s.chains[k]) ∧
    (chainOwner s n = none → emergeSample (modChain s n f) n v t det = modChain s n f) := by
  have h (k : Fin 8) : sideless (emergeSample (modChain s n f) n v t det).chains[k] = sideless (modChain s n f).chains[k] :=
    still_chain (emergeSample_still _ _ _ _ _) k
  refine ⟨(h n).trans (congrArg sideless (modChain_same s n f)), fun k hk => (h k).trans (congrArg sideless (modChain_other s hk f)),
    fun ho => emergeSample_unowned v t det ?_⟩
  exact ho

/-! ## Outputs -/

section
variable {s : State} {n : Fin 8} {lw : BitVec 128} (hlw : linkOfChain s n = some lw) (hr : chainRuns s.chains[n] = true)
include hlw hr

section
variable (he : emerged s.tb.now (outputTime s.chains[n]) s.chains[n].delayO = true)
include he

/-- An output that cannot be formed counts as a restart (R304, R309). -/
theorem exec_chainOutput_restart (hp : aroundPos s.chains[n] (outputPos lw s.chains[n] / 1024) = none) : exec (.chainOutput n) s =
    .next (modChain s n fun c => { c with m := c.m + 1, restarts := satAdd 32 c.restarts 1, anchorOut := true }) := by
  change execChainOutput n s = _
  unfold execChainOutput
  simp only [hlw]
  rw [if_neg (by rw [hr, he]; exact Bool.false_ne_true)]
  simp only [hp]

/-- An output whose samples are there emerges (R303, R304). -/
theorem exec_chainOutput_emerges {l : List Rat} (hp : aroundPos s.chains[n] (outputPos lw s.chains[n] / 1024) = some l) {v : BitVec 20 × Bool}
    (hv : v = sat20 (roundOpen (resample (outputPos lw s.chains[n] % 1024) l))) : exec (.chainOutput n) s =
    .next (emergeSample (modChain s n fun c => { c with
      m := c.m + 1, producing := true, lastRestart := if c.producing then c.lastRestart else some (outputTime s.chains[n])
      saturations := if v.2 then satAdd 32 c.saturations 1 else c.saturations }) n v.1 (outputTime s.chains[n]) false) := by
  subst hv
  change execChainOutput n s = _
  unfold execChainOutput
  simp only [hlw]
  rw [if_neg (by rw [hr, he]; exact Bool.false_ne_true)]
  simp only [hp]

end

/-! ## Detectors -/

section
variable {a : DetAcc} {rest : List DetAcc} (hw : s.chains[n].detWin = a :: rest) (hstop : a.stop ≠ 0)
  (he : emerged s.tb.now a.stamp s.chains[n].delayD = true)
include hw hstop he

/-- A window that is not done counts as a restart (R306, R309). -/
theorem exec_detectorOutput_restart (hd : a.done = false) : ∃ w, exec (.detectorOutput n) s = .next w ∧
    w.chains[n].restarts = satAdd 32 s.chains[n].restarts 1 ∧ w.chains[n].anchorDet = true ∧ w.stalls = s.stalls ∧
    ∀ k : Fin 8, k ≠ n → w.chains[k] = s.chains[k] := by
  change ∃ w, execDetectorOutput n s = .next w ∧ _
  unfold execDetectorOutput
  simp only [hlw, hw]
  rw [if_neg (by rw [hr, he]; simp [hstop]), if_pos (by rw [hd]; rfl)]
  refine ⟨_, rfl, ?_, ?_, rfl, fun k hk => modChain_other s hk _⟩
  · rw [modChain_same]
  · rw [modChain_same]

/-- A window that is done emerges with its value (R306, R307). -/
theorem exec_detectorOutput_emerges (hd : a.done = true) {v : BitVec 20 × Bool} (hv : v = sat20 (detValue s.chains[n].setting a)) :
    exec (.detectorOutput n) s = .next (emergeSample (modChain s n fun c => { c with
      detWin := rest, saturations := if v.2 then satAdd 32 c.saturations 1 else c.saturations }) n v.1 a.stamp true) := by
  subst hv
  change execDetectorOutput n s = _
  unfold execDetectorOutput
  simp only [hlw, hw]
  rw [if_neg (by rw [hr, he]; simp [hstop]), if_neg (by rw [hd]; exact Bool.false_ne_true)]

end

/-! ## Cycles -/

/-- What an instant makes of a chain's cycle: an edge of its source, or the longest cycle (R308). -/
def cycleStep (lw : BitVec 128) (e : Time) (edge : Bool) (c : Chain) : Chain :=
  match c.cycleFrom with
  | none => if edge then cycleEdge lw c e else c
  | some a =>
    if past e (a + longCycle) then (if edge then cycleEdge lw c e else c)
    else if e = a + longCycle || !edge then endCycle lw { c with cycleForced := satAdd 32 c.cycleForced 1 } (a + longCycle)
    else cycleEdge lw (endCycle lw { c with cycleForced := satAdd 32 c.cycleForced 1 } (a + longCycle)) e

theorem exec_cycleEnd_step {t e : Time} (he : e = t &&& ~~~ (31 : Time)) (hm : detMode s.chains[n].setting = 3)
    (hp : past e (s.tb.now + 256) = true) : exec (.cycleEnd n t) s =
    .next (modChain s n (cycleStep lw e (cycleEdgeAt s s.chains[n].setting e))) := by
  subst he
  change execCycleEnd n t s = _
  unfold execCycleEnd
  simp only [hlw]
  rw [if_neg (by rw [hr, hp, decide_eq_false (not_not_intro hm)]; exact Bool.false_ne_true)]
  rfl

end

theorem cycleStep_of_early {lw : BitVec 128} {e : Time} {c : Chain} (edge : Bool)
    (h : ∀ a, c.cycleFrom = some a → past e (a + longCycle) = true) : cycleStep lw e edge c = if edge then cycleEdge lw c e else c := by
  unfold cycleStep
  split
  · rfl
  · next a ha => exact if_pos (h a ha)

/-- The first edge after T1 begins a cycle (R308). -/
theorem cycleEdge_of_first {lw : BitVec 128} {e : Time} {c : Chain} (h : c.cycleFrom = none) (hl : later e c.t1 = true) :
    cycleEdge lw c e = { c with cycleFrom := some e, detWin := [{ first := firstCond lw c ((e - c.y).toInt : Rat) }] } := by
  unfold cycleEdge
  rw [h]
  exact if_pos hl

/-- An edge too soon after the last is merged into its cycle (R308). -/
theorem cycleEdge_of_close {lw : BitVec 128} {e a : Time} {c : Chain} (h : c.cycleFrom = some a) (hl : leads e a 256 = false) :
    cycleEdge lw c e = { c with cycleMerges := satAdd 32 c.cycleMerges 1 } := by
  unfold cycleEdge
  rw [h]
  exact if_pos (by rw [hl]; rfl)

/-- A cycle of 2^30 strides is ended (R308). -/
theorem cycleStep_of_long {lw : BitVec 128} {e a : Time} {c : Chain} (edge : Bool) (h : c.cycleFrom = some a) (he : e = a + longCycle)
    (hp : past e (a + longCycle) = false) :
    cycleStep lw e edge c = endCycle lw { c with cycleForced := satAdd 32 c.cycleForced 1 } (a + longCycle) := by
  unfold cycleStep
  rw [h]
  refine (if_neg (Bool.eq_false_iff.1 hp)).trans (if_pos ?_)
  rw [decide_eq_true he, Bool.true_or]

theorem exec_dcFreezeHoldExpiry_over {s : State} {n : Fin 8} (ha : s.chains[n].frozenAuto = true)
    (hp : passed s.tb.now s.chains[n].lastBig (1024 * bits s.chains[n].setting 203 192) = true) :
    exec (.dcFreezeHoldExpiry n) s = .next (modChain s n fun c => setFreeze c c.frozenCmd false) :=
  congrArg _ (if_pos (by rw [ha, hp]; rfl))

/-! ## The obligation's parts -/

/-- The cycle rows: an edge that is none, an edge of the source, and the longest cycle (R308). -/
theorem cycleEnds {s : State} {n : Fin 8} {lw : BitVec 128} (hlw : linkOfChain s n = some lw) {t e : Time} (he : e = t &&& ~~~ (31 : Time))
    (hr : chainRuns s.chains[n] = true) (hm : detMode s.chains[n].setting = 3) (hp : past e (s.tb.now + 256) = true) :
    (cycleEdgeAt s s.chains[n].setting e = false → (∀ a, s.chains[n].cycleFrom = some a → past e (a + longCycle) = true) →
      exec (.cycleEnd n t) s = .next (modChain s n id)) ∧
    (cycleEdgeAt s s.chains[n].setting e = true →
      (s.chains[n].cycleFrom = none → exec (.cycleEnd n t) s = .next (modChain s n fun c => cycleEdge lw c e) ∧
        (later e s.chains[n].t1 = true → exec (.cycleEnd n t) s = .next (modChain s n fun c =>
          { c with cycleFrom := some e, detWin := [{ first := firstCond lw c ((e - c.y).toInt : Rat) }] }))) ∧
      (∀ a, s.chains[n].cycleFrom = some a → past e (a + longCycle) = true →
        exec (.cycleEnd n t) s = .next (modChain s n fun c => cycleEdge lw c e) ∧
        (leads e a 256 = false → exec (.cycleEnd n t) s = .next (modChain s n fun c => { c with cycleMerges := satAdd 32 c.cycleMerges 1 })))) ∧
    (∀ a, s.chains[n].cycleFrom = some a → e = a + longCycle → past e (a + longCycle) = false →
      exec (.cycleEnd n t) s = .next (modChain s n fun c => endCycle lw { c with cycleForced := satAdd 32 c.cycleForced 1 } (a + longCycle))) := by
  have hexec := exec_cycleEnd_step hlw hr he hm hp
  have runs {f : Chain → Chain} (h : cycleStep lw e (cycleEdgeAt s s.chains[n].setting e) s.chains[n] = f s.chains[n]) :
      exec (.cycleEnd n t) s = .next (modChain s n f) := hexec.trans (congrArg _ (modChain_congr h))
  refine ⟨fun hedge hearly => runs ?_, fun hedge => ⟨fun hnone => ?_, fun a ha hearly => ?_⟩, fun a ha hlong hpast => runs ?_⟩
  · rw [hedge]
    exact cycleStep_of_early _ hearly
  · have hstep : cycleStep lw e (cycleEdgeAt s s.chains[n].setting e) s.chains[n] = cycleEdge lw s.chains[n] e := by
      rw [hedge]
      exact cycleStep_of_early _ fun a ha => by rw [hnone] at ha; cases ha
    exact ⟨runs hstep, fun hl => runs (hstep.trans (cycleEdge_of_first hnone hl))⟩
  · have hstep : cycleStep lw e (cycleEdgeAt s s.chains[n].setting e) s.chains[n] = cycleEdge lw s.chains[n] e := by
      rw [hedge]
      refine cycleStep_of_early _ fun b hb => ?_
      obtain rfl : a = b := Option.some.inj (ha.symm.trans hb)
      exact hearly
    exact ⟨runs hstep, fun hl => runs (hstep.trans (cycleEdge_of_close ha hl))⟩
  · exact cycleStep_of_long _ ha hlong hpast

/-- Settles O47, row by row: a SYSREF edge reaches each link as if alone, a sync instant only the chains it names, and a sample that emerges no
other chain but for its side samples. -/
theorem syncInstantsLinksAndChainsFollowTheirRules : Obligations.SyncInstantsLinksAndChainsFollowTheirRules := by
  unfold Obligations.SyncInstantsLinksAndChainsFollowTheirRules
  refine ⟨fun s => ⟨fun t e ht he => ⟨exec_sysrefEdge_timed ht he, ⟨_, exec_sysrefEdge_timed ht he, sysrefEdge_chains e s, fun l => ?sysref⟩,
      exec_syncEdge_running t ht⟩, fun y hy hp hb => exec_syncInstant_due hy hp hb, fun l aligned ilas he hu => ⟨exec_linkUp_unaligned he hu ilas,
      fun h => ⟨?noIlas, ?mismatch, exec_linkUp_up he hu h⟩⟩, fun l aligned hu hbad => exec_linkLost_unaligned hu hbad,
      fun l err v f he hu hf hv hdiv hone hrel => exec_jesdFrame_released err he hu hf hv hdiv hone hrel⟩,
    fun s n lw hlw => ⟨fun hr he => ⟨exec_chainOutput_restart hlw hr he, fun l hp => ?output⟩, fun a rest hw hr hstop he =>
      ⟨exec_detectorOutput_restart hlw hr hw hstop he, fun hd => ?detector⟩, fun t e he hr hm hp => cycleEnds hlw he hr hm hp,
      exec_dcFreezeHoldExpiry_over⟩⟩
  case sysref =>
    obtain ⟨u, hu, hlink, herr⟩ := sysrefEdge_link e s l
    obtain ⟨hoff, hfirst, hlater⟩ := sysrefOn_link e u l
    rw [hu] at hoff hfirst hlater
    rw [hlink]
    exact ⟨hoff, hfirst, fun hon hseen => ⟨(hlater hon hseen).1, fun hout => herr ((hlater hon hseen).2 hout)⟩⟩
  case noIlas =>
    rintro rfl
    exact exec_linkUp_noIlas he hu h
  case mismatch =>
    rintro rfl hc
    exact exec_linkUp_mismatch he hu h hc
  case output =>
    have hexec := exec_chainOutput_emerges hlw hr he hp rfl
    obtain ⟨hself, hothers, hunowned⟩ := emergeSample_modChain s n (fun c => { c with
      m := c.m + 1, producing := true, lastRestart := if c.producing then c.lastRestart else some (outputTime s.chains[n])
      saturations := if (sat20 (roundOpen (resample (outputPos lw s.chains[n] % 1024) l))).2 then satAdd 32 c.saturations 1 else c.saturations })
      (sat20 (roundOpen (resample (outputPos lw s.chains[n] % 1024) l))).1 (outputTime s.chains[n]) false
    exact ⟨_, _, _, rfl, rfl, rfl, hexec, congrArg Chain.m hself, congrArg Chain.producing hself, hothers, hunowned⟩
  case detector =>
    have hexec := exec_detectorOutput_emerges hlw hr hw hstop he hd rfl
    obtain ⟨hself, hothers, hunowned⟩ := emergeSample_modChain s n (fun c => { c with
      detWin := rest, saturations := if (sat20 (detValue s.chains[n].setting a)).2 then satAdd 32 c.saturations 1 else c.saturations })
      (sat20 (detValue s.chains[n].setting a)).1 a.stamp true
    exact ⟨_, _, _, rfl, rfl, rfl, hexec, congrArg Chain.detWin hself, hothers, hunowned⟩

end Sys2Proof.Machine
end

section
/-! SUPPORT. What the end of a wake leaves alone once the clocks are back and the power state is set: the timebase, the power state and its
transition, Dikewatch and the secure element. -/

namespace Sys2Proof.Machine

/-- The timebase, the power state and its transition, Dikewatch, and the secure element. -/
def wakeView (s : State) : Timebase × PowerSt × Option PowerTarget × DikeRing × Secure :=
  (s.tb, s.power.st, s.power.target, s.dike, s.sec)

/-! ## Parts and composition -/

theorem wakeView_tb {s t : State} (h : wakeView t = wakeView s) : t.tb = s.tb := congrArg (fun x => x.1) h

theorem wakeView_st {s t : State} (h : wakeView t = wakeView s) : t.power.st = s.power.st := congrArg (fun x => x.2.1) h

theorem wakeView_target {s t : State} (h : wakeView t = wakeView s) : t.power.target = s.power.target := congrArg (fun x => x.2.2.1) h

theorem wakeView_dike {s t : State} (h : wakeView t = wakeView s) : t.dike = s.dike := congrArg (fun x => x.2.2.2.1) h

theorem wakeView_sec {s t : State} (h : wakeView t = wakeView s) : t.sec = s.sec := congrArg (fun x => x.2.2.2.2) h

theorem wakeView_of_eq {s t : State} (htb : t.tb = s.tb) (hst : t.power.st = s.power.st) (ht : t.power.target = s.power.target)
    (hd : t.dike = s.dike) (hs : t.sec = s.sec) : wakeView t = wakeView s := by
  unfold wakeView
  rw [htb, hst, ht, hd, hs]

theorem wakeView_of_still {s t : State} (h : still t = still s) : wakeView t = wakeView s :=
  wakeView_of_eq (still_tb h) (by rw [still_power h]) (by rw [still_power h]) (still_dike h) (still_sec h)

theorem wakeView_of_placed {s t : State} (h : placed t = placed s) : wakeView t = wakeView s := wakeView_of_still (still_of_placed h)

theorem wakeView_of_told {s t : State} (h : told s t) : wakeView t = wakeView s := wakeView_of_placed (placed_of_told h)

theorem foldl_wakeView {α : Type} {f : State → α → State} (h : ∀ s a, wakeView (f s a) = wakeView s) (l : List α) (s : State) :
    wakeView (l.foldl f s) = wakeView s := foldl_same h l s

theorem marker_wakeView (s : State) (n : Stall) (kind : Nat) (t : Time) (d : BitVec 64) : wakeView (marker s n kind t d) = wakeView s :=
  wakeView_of_placed (marker_placed _ _ _ _ _)

theorem sendEvents_wakeView (s : State) (l : List (Fn × CqEntry)) : wakeView (sendEvents s l) = wakeView s :=
  wakeView_of_told (sendEvents_told _ _)

theorem endArm_wakeView (s : State) (n : Stall) (reason : Nat) : wakeView (tryFinish (markEnd s n reason) n) = wakeView s :=
  wakeView_of_still ((tryFinish_still _ _).trans (markEnd_still _ _ _))

theorem putBack_wakeView (l : Fin 4) (row : BitVec 21) (s : State) (x : BufBlock × Nat) : wakeView (putBack l row s x) = wakeView s :=
  ite_same (g := wakeView) (ite_same (g := wakeView) rfl rfl) rfl

/-! ## Lanes and slices -/

theorem trainPattern_wakeView (s : State) (l : Fin 4) : wakeView (trainPattern s l) = wakeView s :=
  foldl_wakeView (putBack_wakeView l _) _ _

theorem markUnstable_wakeView (s : State) (l : Fin 4) : wakeView (markUnstable s l) = wakeView s :=
  ite_same (g := wakeView) rfl (wakeView_of_still (closeAll_still _ _ _))

theorem wakeLanes_wakeView (s : State) (bad : BitVec 4) : wakeView (wakeLanes s bad) = wakeView s := by
  unfold wakeLanes
  refine (foldl_wakeView markUnstable_wakeView _ _).trans ?_
  refine (foldl_wakeView (fun s l => ?_) _ _).trans rfl
  exact trainPattern_wakeView s l

/-- The state entered: Run, and no transition. -/
theorem enterRun_wakeView (s : State) (bad : BitVec 4) :
    wakeView (enterRun s bad) = wakeView { s with power := { s.power with st := .run, target := none } } := by
  unfold enterRun
  refine (foldl_wakeView (fun s n => ?_) _ _).trans (wakeLanes_wakeView _ _)
  exact ite_same (g := wakeView) (wakeView_of_placed (fillSlice_placed _ _)) rfl

theorem completeRun_wakeView (s : State) (p : PowerTarget) : wakeView (completeRun s p) = wakeView s :=
  ite_same (g := wakeView) (wakeView_of_placed (completeTag_placed _ _ _ _ _)) rfl

/-! ## Channels -/

theorem dropLatchTerms_wakeView (s : State) (n : Stall) : wakeView (dropLatchTerms s n) = wakeView s := by
  unfold dropLatchTerms
  split <;> rfl

theorem raiseLatchTerms_wakeView (s : State) (n : Stall) (c k : Nat) (t : Time) : wakeView (raiseLatchTerms s n c k t) = wakeView s := by
  unfold raiseLatchTerms
  split <;> rfl

theorem releaseLatches_wakeView (s : State) (conds : BitVec 4) (c : Fin 48) : wakeView (releaseLatches s conds c) = wakeView s := by
  unfold releaseLatches
  dsimp only
  split
  · exact dropLatchTerms_wakeView _ _
  · rfl

theorem latchReport_wakeView (s : State) (n : Stall) (c : Fin 48) (cond : Nat) (seed : Bool) (t : Time) :
    wakeView (latchReport s n c cond seed t) = wakeView s :=
  (wakeView_of_placed (sendEvent_placed _ _ _)).trans (ite_same (g := wakeView) (wakeView_of_placed (queueRecs_placed _ _ _)) rfl)

theorem setLatch_wakeView (s : State) (c : Fin 48) (k : Cond) (seed : Bool) (t : Time) : wakeView (setLatch s c k seed t) = wakeView s := by
  refine ite_same (g := wakeView) rfl ?_
  dsimp only
  split
  · rfl
  · exact (raiseLatchTerms_wakeView _ _ _ _ _).trans (latchReport_wakeView _ _ _ _ _ _)

theorem seedChan_wakeView (s : State) (seed : SeedIn) (c : Fin 48) : wakeView (seedChan s seed c) = wakeView s :=
  ite_same (g := wakeView) (setLatch_wakeView _ _ _ _ _) rfl

theorem applyPending_wakeView (s : State) (n : Stall) (seed : SeedIn) : wakeView (applyPending s n seed) = wakeView s := by
  refine foldl_wakeView (fun s c => ?_) _ _
  split
  · rfl
  · exact ite_same (g := wakeView) (seedChan_wakeView _ _ _) rfl

theorem applyCorrs_wakeView (s : State) (n : Stall) : wakeView (applyCorrs s n) = wakeView s := by
  refine foldl_wakeView (fun _ _ => ?_) _ _
  rfl

theorem releaseChan_wakeView (s : State) (seed : SeedIn) (c : Fin 48) : wakeView (releaseChan s seed c) = wakeView s :=
  ite_same (g := wakeView) (seedChan_wakeView _ _ _) rfl

theorem releasePort_wakeView (s : State) (n : Stall) (seed : SeedIn) (p : Fin 6) : wakeView (releasePort s n seed p) = wakeView s :=
  ite_same (g := wakeView) rfl ((marker_wakeView _ _ _ _ _).trans (foldl_wakeView (fun s c => releaseChan_wakeView s seed c) _ _))

theorem releaseStallChans_wakeView (s : State) (n : Stall) (seed : SeedIn) : wakeView (releaseStallChans s n seed) = wakeView s :=
  foldl_wakeView (fun s p => releasePort_wakeView s n seed p) _ _

theorem setAgain_wakeView (s : State) (c : Fin 48) (old : Channel) : wakeView (setAgain s c old) = wakeView s :=
  ite_same (g := wakeView) rfl (ite_same (g := wakeView) (setLatch_wakeView _ _ _ _ _)
    (ite_same (g := wakeView) (setLatch_wakeView _ _ _ _ _) rfl))

theorem tilesOn_wakeView (s : State) (ports : BitVec 6) : wakeView (tilesOn s ports) = wakeView s := rfl

theorem resumeChans_wakeView (s : State) (watched : ChanMask) (teams : BitVec 8) (seed : SeedIn) :
    wakeView (resumeChans s watched teams seed) = wakeView s := by
  unfold resumeChans
  exact wakeView_of_eq rfl rfl rfl rfl rfl

/-! ## The open of the watched stall's segment -/

theorem rearmStall_wakeView (s : State) (n : Stall) (seed : SeedIn) : wakeView (rearmStall s n seed) = wakeView s := by
  unfold rearmStall
  refine (foldl_wakeView (fun _ _ => ?_) _ _).trans ?_
  · rfl
  refine Eq.trans (foldl_wakeView (fun s c => setAgain_wakeView s c _) _ _) ?_
  refine (releaseStallChans_wakeView _ _ _).trans ((applyCorrs_wakeView _ _).trans ((applyPending_wakeView _ _ _).trans ?_))
  exact foldl_wakeView (fun s c => releaseLatches_wakeView s _ c) _ _

theorem flushSide_wakeView (s : State) (n : Stall) : wakeView (flushSide s n) = wakeView s := by
  unfold flushSide
  split
  · rfl
  · exact ite_same (g := wakeView) rfl (wakeView_of_placed ((addRecs_placed _ _ _).trans (modCap_placed _ _)))

theorem openWith_wakeView (s : State) (n : Stall) (seed : SeedIn) (ring : Nat) {g : State → State} (h : ∀ s, wakeView (g s) = wakeView s) :
    wakeView (openWith s n seed ring g) = wakeView s :=
  (flushSide_wakeView _ _).trans ((wakeView_of_placed (dueKey_placed _ _)).trans ((h _).trans (rearmStall_wakeView _ _ _)))

theorem deleteOldest_wakeView (s : State) (n : Stall) : wakeView (deleteOldest s n) = wakeView s := by
  unfold deleteOldest
  split
  · rfl
  · exact wakeView_of_placed (deleteHeld_placed _ _ _)

theorem deleteUntil_wakeView (n : Stall) (need k : Nat) (s : State) : wakeView (deleteUntil n need k s) = wakeView s := by
  induction k generalizing s with
  | zero => rfl
  | succ k ih => exact ite_same (g := wakeView) rfl ((ih _).trans (deleteOldest_wakeView _ _))

theorem makeRoom_wakeView (s : State) (n : Stall) (c : Capture) (extra : Nat) : wakeView (makeRoom s n c extra).1 = wakeView s := by
  unfold makeRoom
  dsimp only
  split
  · split
    · split <;> exact deleteUntil_wakeView _ _ _ _
    · split <;> rfl
  · split
    · split <;> exact wakeView_of_placed (deleteHeld_placed _ _ _)
    · split <;> rfl

theorem placeCopy_wakeView (n : Stall) (s : State) (x : List Rec × Nat) : wakeView (placeCopy n s x) = wakeView s := by
  unfold placeCopy
  split
  · rfl
  · dsimp only
    split
    · rfl
    · exact wakeView_of_placed ((modCap_placed _ _).trans (putSlice_placed _ _ _))

theorem headSegment_wakeView (n : Stall) (d : DikeRing) (l : List Rec) (extra : Nat) (s : State) :
    wakeView (headSegment n d l extra s) = wakeView s := foldl_wakeView (placeCopy_wakeView n) _ _

theorem hitTrigger_wakeView (s : State) (n : Stall) (d : DikeRing) : wakeView (hitTrigger s n d) = wakeView s := by
  unfold hitTrigger
  split <;> rfl

theorem openWake_wakeView (s : State) (d : DikeRing) (lost : List Nat) (seed : SeedIn) : wakeView (openWake s d lost seed) = wakeView s := by
  unfold openWake
  split
  · rfl
  · next n _ =>
    split
    · rfl
    · next c _ =>
      refine ite_same (g := wakeView) rfl (ite_same (g := wakeView) (endArm_wakeView _ _ _) (ite_same (g := wakeView) (endArm_wakeView _ _ _) ?_))
      have room := (makeRoom_wakeView (applyRetire s n) n c (ceilDiv (2 + (copied d lost).length) 16)).trans
        (wakeView_of_placed (applyRetire_placed _ _))
      dsimp only
      split
      · next h =>
        rw [h] at room
        exact (endArm_wakeView _ _ _).trans room
      · next h =>
        rw [h] at room
        exact (hitTrigger_wakeView _ _ _).trans ((openWith_wakeView _ _ _ _ (headSegment_wakeView n d _ _)).trans room)

/-! ## What was held in Dormant -/

theorem reportPlug_wakeView (s : State) (p : Fin 6) (bytes : Option (List Byte)) : wakeView (reportPlug s p bytes) = wakeView s :=
  sendEvents_wakeView _ _

theorem forcePort_wakeView (s : State) (p : Fin 6) : wakeView (forcePort s p) = wakeView s := by
  unfold forcePort
  exact (foldl_wakeView dropLatchTerms_wakeView _ _).trans (wakeView_of_eq rfl rfl rfl rfl rfl)

theorem recognisePlug_wakeView (s : State) (p : Fin 6) (t : Time) : wakeView (recognisePlug s p t) = wakeView s :=
  (wakeView_of_still (modPort_still _ _ _)).trans (forcePort_wakeView _ _)

theorem reportHeldPlug_wakeView (s : State) (p : Fin 6) (t : Time) (gone : Bool) : wakeView (reportHeldPlug s p t gone) = wakeView s :=
  ite_same (g := wakeView) (reportPlug_wakeView _ _ _) (recognisePlug_wakeView _ _ _)

theorem recogniseUnplug_wakeView (s : State) (p : Fin 6) (t : Time) (overcurrent : Bool) :
    wakeView (recogniseUnplug s p t overcurrent) = wakeView s := by
  unfold recogniseUnplug
  refine (sendEvents_wakeView _ _).trans ((foldl_wakeView (fun s n => marker_wakeView s n _ _ _) _ _).trans ?_)
  exact forcePort_wakeView _ _

theorem reportUnread_wakeView (s : State) (p : Fin 6) : wakeView (reportUnread s p) = wakeView s :=
  ite_same (g := wakeView) rfl (reportPlug_wakeView _ _ _)

theorem reportSpur_wakeView (s : State) (p : Fin 6) (t : Time) : wakeView (reportSpur s p t) = wakeView s :=
  (sendEvents_wakeView _ _).trans (foldl_wakeView (fun s n => marker_wakeView s n _ _ _) _ _)

theorem reportHeld_wakeView (s : State) (h : HeldPress) (rest : List HeldPress) : wakeView (reportHeld s h rest) = wakeView s := by
  refine ite_same (g := wakeView) (ite_same (g := wakeView) rfl (sendEvents_wakeView _ _)) ?_
  refine ite_same (g := wakeView) (reportSpur_wakeView _ _ _) (ite_same (g := wakeView) (reportHeldPlug_wakeView _ _ _ _) ?_)
  exact (recogniseUnplug_wakeView _ _ _ _).trans (reportUnread_wakeView _ _)

theorem reportAll_wakeView (l : List HeldPress) (s : State) : wakeView (reportAll s l) = wakeView s := by
  induction l generalizing s with
  | nil => rfl
  | cons h l ih => exact (ih _).trans (reportHeld_wakeView _ _ _)

theorem giveHeld_wakeView (s : State) : wakeView (giveHeld s) = wakeView s := reportAll_wakeView _ _

theorem replug_wakeView (old : Vector PodPort 6) (s : State) (p : Fin 6) : wakeView (replug old s p) = wakeView s :=
  ite_same (g := wakeView) (recognisePlug_wakeView _ _ _) rfl

theorem queueEcc_wakeView (s : State) (f : Fn) (ecc : List Ecc) : wakeView (queueEcc s f ecc) = wakeView s := ite_same (g := wakeView) rfl rfl

theorem drain_wakeView (s : State) (f : Fn) : wakeView (drain s f) = wakeView s := wakeView_of_told (told_of_answersOnly (drain_answers s f))

theorem syncResume_wakeView (s : State) : wakeView (syncResume s) = wakeView s := rfl

/-! ## The stages -/

theorem undone_wakeView (s : State) : wakeView (undone s) = wakeView s := rfl

theorem leaveStage4_wakeView (s : State) : wakeView (leaveStage4 s) = wakeView s := ite_same (g := wakeView) rfl rfl

theorem shedEvent_wakeView (s : State) (src : Nat) : wakeView (shedEvent s src) = wakeView s :=
  ite_same (g := wakeView) rfl (sendEvents_wakeView _ _)

theorem shedMarkers_wakeView (s : State) (stage : Nat) : wakeView (shedMarkers s stage) = wakeView s :=
  foldl_wakeView (fun s n => marker_wakeView s n _ _ _) _ _

theorem shedClose_wakeView (s : State) (stage cause reason : Nat) : wakeView (shedClose s stage cause reason) = wakeView s :=
  (wakeView_of_still (closeAll_still _ _ _)).trans (foldl_wakeView (fun s n => marker_wakeView s n _ _ _) _ _)

theorem stageOne_wakeView (s : State) : wakeView (stageOne s) = wakeView s := by
  unfold stageOne
  refine (shedMarkers_wakeView _ _).trans ((foldl_wakeView (fun s j => wakeView_of_placed (endLoad_placed s j _ _)) _ _).trans ?_)
  exact wakeView_of_placed (stopUploads_placed s _ _)

theorem cancelStarts_wakeView (s : State) (n : Stall) : wakeView (cancelStarts s n) = wakeView s := by
  have fault (s : State) (t : Time) : wakeView (refFault s n 3 0 t) = wakeView s := wakeView_of_placed (refFault_placed _ _ _ _ _)
  unfold cancelStarts
  dsimp only
  split
  · split
    · exact (fault _ _).trans (fault _ _)
    · exact fault _ _
  · split
    · exact fault _ _
    · rfl

theorem stopChains_wakeView (s : State) (chains : BitVec 8) : wakeView (stopChains s chains) = wakeView s := rfl

theorem stageTwo_wakeView (s : State) : wakeView (stageTwo s) = wakeView s := by
  unfold stageTwo
  refine (shedMarkers_wakeView _ _).trans ((stopChains_wakeView _ _).trans (foldl_wakeView (fun s n => ?_) _ _))
  exact (cancelStarts_wakeView _ _).trans (wakeView_of_placed (abortPlayback_placed _ _ _))

theorem stageThree_wakeView (s : State) (heat : Bool) : wakeView (stageThree s heat) = wakeView s := by
  unfold stageThree
  refine ite_same (g := wakeView) ?_ ?_
  · exact (shedClose_wakeView _ _ _ _).trans rfl
  · exact (shedClose_wakeView _ _ _ _).trans rfl

theorem stageAction_wakeView (heat : Bool) (s : State) (k : Nat) : wakeView (stageAction heat s k) = wakeView s := by
  unfold stageAction
  refine ite_same (g := wakeView) ?_ (ite_same (g := wakeView) ?_ ?_)
  · exact stageOne_wakeView _
  · exact stageTwo_wakeView _
  · exact stageThree_wakeView _ _

theorem runStages_wakeView (s : State) (heat : Bool) : wakeView (runStages s heat) = wakeView s := by
  unfold runStages
  exact foldl_wakeView (stageAction_wakeView heat) _ _

/-! ## The clocks -/

theorem startRelock_told (s : State) : told s (startRelock s) := tbEvent_told _ _ _

/-- However the clocks stood, they are back, and nothing else of the view changes. -/
theorem leaveBypass_wakeView (s : State) : wakeView (leaveBypass s) = wakeView { s with tb := { s.tb with bypass := false } } := by
  unfold leaveBypass
  split
  · exact (wakeView_of_told (tbEvent_told _ _ _)).trans rfl
  · next h =>
    refine wakeView_of_eq ?_ rfl rfl rfl rfl
    rw [← Bool.eq_false_iff.2 h]

/-- Taking the clocks back commutes with changes that the view does not see. -/
theorem leaveBypass_congr {s t : State} (h : wakeView t = wakeView s) : wakeView (leaveBypass t) = wakeView (leaveBypass s) := by
  rw [leaveBypass_wakeView, leaveBypass_wakeView]
  exact congrArg (fun x => (({ x.1 with bypass := false } : Timebase), x.2)) h

end Sys2Proof.Machine
end

section
/-! The samples and the hit of Dikewatch, and the wakes from Dikewatch and Dormant (R83, R88, R404, R509 to R516, R529). -/

open Sys2Proof.Claims

namespace Sys2Proof.Machine

/-! ## A sample and its hit -/

theorem ringKey_watch (d : DikeRing) (t : Time) : (ringKey d t).watch = d.watch ∧ (ringKey d t).hit = d.hit := by
  unfold ringKey
  dsimp only
  split <;> exact ⟨rfl, rfl⟩

theorem ringWalk_watch (d : DikeRing) (t : Time) (m : ChanMask) : (ringWalk d t m).watch = d.watch ∧ (ringWalk d t m).hit = d.hit := by
  unfold ringWalk
  dsimp only
  split
  · exact ringKey_watch _ _
  · exact ⟨rfl, rfl⟩

/-- What a sample writes into the ring leaves the watch and its hit. -/
theorem ringPeriod_watch (d : DikeRing) (t : Time) : (ringPeriod d t).watch = d.watch ∧ (ringPeriod d t).hit = d.hit := by
  unfold ringPeriod
  dsimp only
  split
  · exact ⟨rfl, rfl⟩
  · split
    · exact ringKey_watch _ _
    · split
      · exact ⟨rfl, rfl⟩
      · exact ringWalk_watch _ _ _

theorem leaveDikewatch_told (s : State) (dest : PowerSt) : told s (leaveDikewatch s dest) := told_ite (startRelock_told _) (told_refl _)

theorem startWake_tb (s : State) : (startWake s).tb = s.tb := by
  unfold startWake
  split
  · exact (told_tb (leaveDikewatch_told s .run) :)
  · exact ite_same (g := State.tb) rfl rfl

/-- A hit outside a transition starts the wake to Run (R513). -/
theorem startWake_of_none {s : State} (h : s.power.target = none) :
    (startWake s).power.target = some { dest := .run, when := s.tb.now, hit := true } ∧ (startWake s).dike.hit = some s.tb.now := by
  unfold startWake
  simp only [h, told_tb (leaveDikewatch_told s .run), and_self]

/-- The ring has taken the sample's period (R512). -/
def ringed (s : State) : State := { s with dike := ringPeriod s.dike s.tb.now }

/-- The sample has given the states that the next one follows (R511). -/
def sampled (s : State) (m : ChanMask) (t : Time) : State := { s with dike := { s.dike with prev := m, seen := some t } }

section
variable {s : State} {inp : StrideIn} (hst : s.power.st = .dikewatch) (hn : s.dike.stall.isSome = true) (hseen : s.dike.seen ≠ some s.tb.now)
include hst hn hseen

theorem exec_dikewatchSample_taken : exec (.dikewatchSample inp) s =
    .next (sampled (if s.dike.hit.isNone && watchTrue s.dike.watch s.dike.prev (dikeStates s inp) then startWake (ringed s) else ringed s)
      (dikeStates s inp) s.tb.now) := by
  obtain ⟨hwatch, hhit⟩ := ringPeriod_watch s.dike s.tb.now
  have htb (p : Prop) [Decidable p] : (if p then startWake (ringed s) else ringed s).tb = s.tb :=
    ite_same (g := State.tb) (startWake_tb _) rfl
  rw [← congrArg Timebase.now (htb ((s.dike.hit.isNone && watchTrue s.dike.watch s.dike.prev (dikeStates s inp)) = true))]
  change execDikewatchSample inp s = _
  unfold execDikewatchSample
  rw [if_neg (by simp [hst, hseen, Option.isSome_iff_ne_none.1 hn])]
  dsimp only
  rw [hwatch, hhit]
  rfl

/-- A sample takes the states of the watched channels, and the hit starts the wake (R511 to R513). -/
theorem exec_dikewatchSample_watching : ∃ u, exec (.dikewatchSample inp) s = .next u ∧ u.dike.prev = dikeStates s inp ∧
    u.dike.seen = some s.tb.now ∧
    (watchTrue s.dike.watch s.dike.prev (dikeStates s inp) = false ∨ s.dike.hit.isSome = true →
      u.power = s.power ∧ u.dike.hit = s.dike.hit) ∧
    (watchTrue s.dike.watch s.dike.prev (dikeStates s inp) = true → s.dike.hit = none → s.power.target = none →
      u.power.target = some { dest := .run, when := s.tb.now, hit := true } ∧ u.dike.hit = some s.tb.now) := by
  refine ⟨_, exec_dikewatchSample_taken hst hn hseen, rfl, rfl, fun hq => ?_, fun hw hh ht => ?_⟩
  · rw [if_neg (by rcases hq with h | h <;> simp [h, Option.isSome_iff_ne_none.1])]
    exact ⟨rfl, (ringPeriod_watch _ _).2⟩
  · rw [if_pos (by simp [hw, hh])]
    exact startWake_of_none (s := ringed s) ht

end

/-! ## The end of a wake from Dikewatch -/

/-- The ring is given up, and its tiles and the clocks are back (R88, R513, R514). -/
def clocksBack (s : State) (n : Nat) (seed : SeedIn) : State :=
  leaveBypass (tilesOn (resumeChans { s with dike := { corrupted := satAdd 32 s.dike.corrupted n } } s.dike.prev s.dike.teams seed) 0x3F)

theorem clocksBack_wakeView (s : State) (n : Nat) (seed : SeedIn) : wakeView (clocksBack s n seed) =
    wakeView { s with tb := { s.tb with bypass := false }, dike := { corrupted := satAdd 32 s.dike.corrupted n } } := by
  unfold clocksBack
  rw [leaveBypass_congr ((tilesOn_wakeView _ _).trans (resumeChans_wakeView _ _ _ _)), leaveBypass_wakeView]

/-- The end of the wake enters Run, with the clocks back (R88, R513). -/
theorem exec_dikewatchWakeDone_run {s : State} {p : PowerTarget} (lost : List Nat) (bad : BitVec 4) (seed : SeedIn)
    (hst : s.power.st = .dikewatch) (hp : s.power.target = some p) (hrun : p.dest = .run) :
    ∃ u, exec (.dikewatchWakeDone .clean lost bad seed) s = .next u ∧ u.power.st = .run ∧ u.power.target = none ∧
      u.tb.bypass = false ∧ u.dike.stall = none := by
  have hexec : exec (.dikewatchWakeDone .clean lost bad seed) s =
      .next (openWake (completeRun (enterRun (clocksBack s lost.length seed) bad) p) s.dike lost seed) := by
    change execDikewatchWakeDone .clean lost bad seed s = _
    unfold execDikewatchWakeDone
    simp only [hp]
    rw [if_neg (by simp [hst, hrun]), if_neg (by decide)]
    rfl
  have hview := (openWake_wakeView _ s.dike lost seed).trans ((completeRun_wakeView _ p).trans
    (enterRun_wakeView (clocksBack s lost.length seed) bad))
  have hback := clocksBack_wakeView s lost.length seed
  refine ⟨_, hexec, wakeView_st hview, wakeView_target hview, ?_, ?_⟩
  · rw [wakeView_tb hview]
    exact congrArg Timebase.bypass (wakeView_tb hback)
  · rw [wakeView_dike hview]
    exact congrArg DikeRing.stall (wakeView_dike hback)

/-! ## The wake from Dormant -/

/-- The time that a wake estimates, by a count of the always-on cycles (R89, R516). -/
def wakeTime (s : State) (cycles : Nat) : Time := (s.power.dormantAt + BitVec.ofNat 64 (cycles * 7812500)) &&& ~~~ (255 : Time)

/-- System time is estimated, and the device is in Ready (R88, R505). -/
def estimated (s : State) (t : Time) : State := { s with
  tb := { s.tb with now := t, timeValid := true, timeEstimated := true, gatesRun := !s.tb.aonFault }
  power := { s.power with st := .ready } }

/-- The clocks are back. -/
def unbypassed (s : State) : State := { s with tb := { s.tb with bypass := false } }

theorem estimated_sec (s : State) (t : Time) : (unbypassed (estimated s t)).sec = s.sec := rfl

/-- The sample PLL locks anew: whatever the bypass was, the clocks are back (R84). -/
theorem relocked_wakeView {u v : State} (h : wakeView u = wakeView v) :
    wakeView (leaveBypass (startRelock { u with tb := { u.tb with bypass := true } })) = wakeView (unbypassed v) := by
  refine (leaveBypass_congr (wakeView_of_told (startRelock_told _))).trans ((leaveBypass_wakeView _).trans ?_)
  exact congrArg (fun x => (({ x.1 with bypass := false } : Timebase), x.2)) h

/-- There is no safe halt where the bank could be wiped. -/
theorem wiped_wakeView {u v halted : State} (h : wakeView u = wakeView v) (hw : v.sec.wipeBad = false) :
    wakeView (if u.sec.wipeBad then halted else u) = wakeView v := by
  rw [if_neg (by rw [wakeView_sec h]; exact Bool.eq_false_iff.1 hw)]
  exact h

/-- A wake brings the tiles back, reports what was held in Dormant, and runs the stages, with the clocks back at last (R84, R88, R507). -/
theorem wakeReady_wakeView {s : State} (cycles : Nat) (seed : SeedIn) (ecc : List (Fn × List Ecc)) (hw : s.sec.wipeBad = false) :
    wakeView (wakeReady s cycles seed ecc) = wakeView (unbypassed (estimated s (wakeTime s cycles))) := by
  unfold wakeReady
  refine wiped_wakeView ?_ ((congrArg Secure.wipeBad (estimated_sec _ _)).trans hw)
  rw [runStages_wakeView, shedEvent_wakeView]
  refine (foldl_wakeView (fun s n => ?_) _ _).trans (relocked_wakeView ?_)
  · rw [drain_wakeView, queueEcc_wakeView]
  · rw [foldl_wakeView (replug_wakeView _), giveHeld_wakeView, resumeChans_wakeView, tilesOn_wakeView, syncResume_wakeView, undone_wakeView,
      leaveStage4_wakeView]
    rfl

/-- A wake ends in Ready with the estimated time (R88, R505, R516). -/
theorem wakeReady_ready {s : State} (cycles : Nat) (seed : SeedIn) (ecc : List (Fn × List Ecc)) (hw : s.sec.wipeBad = false) :
    (wakeReady s cycles seed ecc).power.st = .ready ∧ (wakeReady s cycles seed ecc).tb.timeValid = true ∧
    (wakeReady s cycles seed ecc).tb.timeEstimated = true ∧
    (wakeReady s cycles seed ecc).tb.now = (s.power.dormantAt + BitVec.ofNat 64 (cycles * 7812500)) &&& ~~~ (255 : Time) := by
  have hview := wakeReady_wakeView cycles seed ecc hw
  rw [wakeView_st hview, wakeView_tb hview]
  exact ⟨rfl, rfl, rfl, rfl⟩

/-- A full boot from the core's reset starts at step 1, with no trip, out of Dormant (R529, R531). -/
theorem startBoot_coreReset (s : State) : (startBoot (coreReset s)).boot.phase = .booting ∧ (startBoot (coreReset s)).boot.step = 1 ∧
    (startBoot (coreReset s)).power.tripped = false ∧ (startBoot (coreReset s)).power.st = .off := by
  unfold startBoot leaveStage4
  split <;> exact ⟨rfl, rfl, rfl, rfl⟩

section
variable {s : State} {src : WakeSrc} (cycles : Nat) (seed : SeedIn) (ecc : List (Fn × List Ecc)) (hst : s.power.st = .dormant)
  (hsrc : wakeCounts s src = true)
include hst hsrc

theorem exec_dormantWake_counted : exec (.dormantWake src cycles ⟨seed, ecc⟩) s = .next (
    if s.power.tripped then (if s.power.tj.toInt < 380 then startBoot (coreReset s) else s)
    else if s.boot.phase ≠ .ready then startBoot (coreReset s)
    else wakeReady s cycles seed ecc) := by
  change execDormantWake src cycles ⟨seed, ecc⟩ s = _
  unfold execDormantWake
  rw [if_neg (by simp [hst, hsrc])]

/-- A device that was ready wakes in Ready. -/
theorem exec_dormantWake_ready (ht : s.power.tripped = false) (hb : s.boot.phase = .ready) :
    exec (.dormantWake src cycles ⟨seed, ecc⟩) s = .next (wakeReady s cycles seed ecc) := by
  rw [exec_dormantWake_counted cycles seed ecc hst hsrc, if_neg (Bool.eq_false_iff.1 ht), if_neg (not_not_intro hb)]

/-- After a trip, a device that is not cool stays in Dormant (R529). -/
theorem exec_dormantWake_hot (ht : s.power.tripped = true) (hj : 380 ≤ s.power.tj.toInt) :
    exec (.dormantWake src cycles ⟨seed, ecc⟩) s = .next s := by
  rw [exec_dormantWake_counted cycles seed ecc hst hsrc, if_pos ht, if_neg (not_lt.2 hj)]

/-- After a trip, once cool, and for a device that was not ready, the wake begins a boot (R529; log entry 288). -/
theorem exec_dormantWake_boot (h : (s.power.tripped = true ∧ s.power.tj.toInt < 380) ∨ (s.power.tripped = false ∧ s.boot.phase ≠ .ready)) :
    exec (.dormantWake src cycles ⟨seed, ecc⟩) s = .next (startBoot (coreReset s)) := by
  rw [exec_dormantWake_counted cycles seed ecc hst hsrc]
  rcases h with ⟨ht, hj⟩ | ⟨ht, hb⟩
  · rw [if_pos ht, if_pos hj]
  · rw [if_neg (Bool.eq_false_iff.1 ht), if_pos hb]

end

/-- Settles O58, by what the end of each wake leaves alone once the clocks and the power state are set, and by the cases of the wake from Dormant. -/
theorem wakesLeaveDikewatchAndDormant : Obligations.WakesLeaveDikewatchAndDormant := by
  intro s
  refine ⟨fun inp hst hn hseen => exec_dikewatchSample_watching hst hn hseen,
    fun lost bad seed p hst hp hrun => exec_dikewatchWakeDone_run lost bad seed hst hp hrun,
    fun src cycles seed ecc hst hsrc => ⟨fun ht hb hw => ?_, fun ht hj => exec_dormantWake_hot cycles seed ecc hst hsrc ht hj, fun h => ?_⟩⟩
  · exact ⟨_, exec_dormantWake_ready cycles seed ecc hst hsrc ht hb, wakeReady_ready cycles seed ecc hw⟩
  · exact ⟨_, exec_dormantWake_boot cycles seed ecc hst hsrc h, startBoot_coreReset s⟩

end Sys2Proof.Machine
end

section
/-! SUPPORT. Records of an open segment: what a capture's change makes of it, the record that finds room in its block, the keyframe that is due,
and the hoofbeat (R101, R107, R111, R120 to R124). -/

namespace Sys2Proof.Machine

/-! ## Changes of a capture -/

theorem vmod_congr {α : Type} {k : Nat} {v : Vector α k} {i : Fin k} {f g : α → α} (h : f v[i] = g v[i]) : vmod v i f = vmod v i g := by
  unfold vmod
  rw [h]

section
variable {s : State} {n : Stall} {c : Capture} (hc : s.stalls[n].cap = some c)
include hc

/-- What a capture's change makes of other contents is immaterial. -/
theorem modCap_congr {f g : Capture → Capture} (h : f c = g c) : modCap s n f = modCap s n g := by
  refine congrArg (fun v => { s with stalls := v }) (vmod_congr ?_)
  rw [hc, Option.map_some, Option.map_some, h]

theorem modCap_eq_self {f : Capture → Capture} (h : f c = c) : modCap s n f = s := by
  refine congrArg (fun v => { s with stalls := v }) (vmod_eq_self ?_)
  rw [hc, Option.map_some, h, ← hc]

/-- A ring that is written cyclically never fills (R205). -/
theorem checkFull_of_cyclic (ho : oneShot c = false) : checkFull s n = s :=
  checkFull_of_wraps fun _ hb => Option.some_inj.1 (hc.symm.trans hb) ▸ ho

theorem applyStoreOn_of_none (hp : s.stalls[n].eng.storePend = none) : applyStoreOn s n = s := by
  unfold applyStoreOn
  rw [hc, hp]

/-! ## A record, a keyframe -/

/-- A record for which the block has room is appended (R107). -/
theorem addRec_of_room (r : Rec) (hl : c.part.length < 15) : addRec s n r = modCap s n fun x => { x with part := c.part ++ [r] } := by
  unfold addRec
  rw [hc]
  refine if_pos ?_
  rw [List.length_append, List.length_singleton]
  omega

/-- No keyframe is due. -/
theorem dueKey_of_not_due (hk : keyDue s c = false) : dueKey s n = s := by
  unfold dueKey
  rw [hc]
  exact if_neg (Bool.eq_false_iff.1 hk)

theorem dueKey_of_due (hk : keyDue s c = true) : dueKey s n = writeKey s n (if c.resume && !c.hasKey then 2 else 0) := by
  unfold dueKey
  rw [hc]
  exact if_pos hk

end

theorem modCap_other (s : State) {m n : Stall} (h : m ≠ n) (f : Capture → Capture) : (modCap s n f).stalls[m] = s.stalls[m] :=
  vmod_ne _ h.symm _

theorem addRec_cap {s : State} {n : Stall} {c : Capture} (r : Rec) (hc : s.stalls[n].cap = some c) (hl : c.part.length < 15) :
    (addRec s n r).stalls[n].cap = some { c with part := c.part ++ [r] } := by
  rw [addRec_of_room hc r hl, modCap_cap _ hc]

/-- The states that a keyframe stores after its anchor (R121). -/
def keyStates (g : Gait) (m : ChanMask) : List Rec := match g with
  | .canter => [stateRec 3 m 0]
  | .walk => [stateRec 4 m 0]
  | _ => []

/-- A capture once a keyframe is noted in it, its records not yet written (R121). -/
def keyed (c : Capture) (t : Time) (m : ChanMask) : Capture := { c with
  seg := { c.seg with kf := c.seg.kf ++ [{ block := c.seg.written, time := t }] }
  chainTime := t, hasKey := true, lastKey := t, walkStates := m }

/-- A keyframe for which the block has room (R121, R123). -/
theorem writeKey_cap {s : State} {n : Stall} {c : Capture} (cause : Nat) (hc : s.stalls[n].cap = some c) (ht : c.teams ≠ 0)
    (hl : c.part.length < 14) : (writeKey s n cause).stalls[n].cap = some { keyed c s.tb.now (stateBefore s c.teams) with
      part := c.part ++ [anchorRec cause s.tb.now] ++ keyStates c.arm.gait (stateBefore s c.teams) } := by
  have hkeyed : (modCap s n fun c' => keyed c' s.tb.now (stateBefore s c.teams)).stalls[n].cap =
      some (keyed c s.tb.now (stateBefore s c.teams)) := modCap_cap _ hc
  have hanchor := addRec_cap (anchorRec cause s.tb.now) hkeyed (show c.part.length < 15 by omega)
  have hroom : (c.part ++ [anchorRec cause s.tb.now]).length < 15 := by
    rw [List.length_append, List.length_singleton]
    omega
  unfold writeKey
  rw [hc]
  dsimp only
  rw [if_neg ht]
  cases c.arm.gait with
  | canter => exact addRec_cap _ hanchor hroom
  | walk => exact addRec_cap _ hanchor hroom
  | gallop | trot => exact hanchor.trans (congrArg (fun l => some { keyed c s.tb.now (stateBefore s c.teams) with part := l })
      (List.append_nil _).symm)

theorem teams_of_keyDue {s : State} {c : Capture} (h : keyDue s c = true) : c.teams ≠ 0 := by
  simp only [keyDue, Bool.and_eq_true] at h
  obtain ⟨⟨⟨⟨-, hteams⟩, -⟩, -⟩, -⟩ := h
  exact bne_iff_ne.1 hteams

theorem of_openIn {s : State} {n : Stall} {g : Gait} {c : Capture} (h : openIn s n g = some c) :
    s.stalls[n].cap = some c ∧ c.phase = .running ∧ c.arm.gait = g := by
  unfold openIn at h
  split at h
  · next b hb =>
    split at h
    · next hopen =>
      obtain ⟨hphase, hgait, -⟩ := hopen
      obtain rfl := Option.some_inj.1 h
      exact ⟨hb, hphase, hgait⟩
    · exact absurd h (by simp)
  · exact absurd h (by simp)

theorem cap_of_openIn {s : State} {n : Stall} {g : Gait} {c : Capture} (h : openIn s n g = some c) : s.stalls[n].cap = some c :=
  (of_openIn h).1

/-! ## Canter -/

section
variable {s : State} {t : Fin 8} {n : Stall} {c : Capture}
  (hn : (allStalls.find? fun n => bit s.stalls[n].grant.teams t.val) = some n) (hc : openIn s n .canter = some c)
include hn hc

/-- No channel of the team had a transition: no hoofbeat (R101). -/
theorem exec_hoofbeat_of_no_transition (ht : (teamList t).any (fun k => hadTransition s k) = false) : exec (.hoofbeat t) s = .next s := by
  refine congrArg Host.Outcome.next ?_
  rw [hn]
  dsimp only
  rw [hc]
  exact if_pos (by simp [ht])

section
variable (hteam : bit c.teams t.val = true) (hs : storedAt c s.tb.now = true) (ht : (teamList t).any (fun k => hadTransition s k) = true)
  (hd : (hoofsDone s c).toNat / 2 ^ t.val = 0)
include hteam hs ht hd

/-- A hoofbeat, after the keyframe and the gap anchor it needs (R111, R122, R124). -/
theorem exec_hoofbeat_of_transition {k w : State} {delta : Nat} (hk : k = dueKey s n)
    (hdelta : delta = strideOf (k.tb.now - ((k.stalls[n].cap.map fun c => c.chainTime).getD k.tb.now)))
    (hw : w = if 31 < delta then addRec k n (anchorRec 1 k.tb.now) else k) : exec (.hoofbeat t) s = .next (checkFull (addRec
      (modCap w n fun x => { x with chainTime := k.tb.now, hoofAt := some k.tb.now, hoofDone := setBit (hoofsDone w x) t.val true })
      n (hoofRec t.val (if 31 < delta then 0 else delta) ((teamList t).map fun j => hoofField w.chans[j]))) n) := by
  subst hw hdelta hk
  refine congrArg Host.Outcome.next ?_
  rw [hn]
  dsimp only
  rw [hc]
  exact if_neg (by simp [hteam, hs, ht, hd])

/-- Where no keyframe is due and the block has room, a hoofbeat is one record more (R107, R111, R120). -/
theorem hoofbeat_of_room {delta : Nat} (hk : keyDue s c = false) (ho : oneShot c = false) (hl : c.part.length < 15)
    (hdelta : delta = strideOf (s.tb.now - c.chainTime)) (hgap : delta ≤ 31) : ∃ u, exec (.hoofbeat t) s = .next u ∧
      u.stalls[n].cap = some { c with
        chainTime := s.tb.now, hoofAt := some s.tb.now, hoofDone := setBit (hoofsDone s c) t.val true
        part := c.part ++ [hoofRec t.val delta ((teamList t).map fun j => hoofField s.chans[j])] } ∧
      ∀ m : Stall, m ≠ n → u.stalls[m] = s.stalls[m] := by
  have hcap := cap_of_openIn hc
  have hchain : delta = strideOf (s.tb.now - ((s.stalls[n].cap.map fun c => c.chainTime).getD s.tb.now)) := by
    rw [hcap]
    exact hdelta
  have hgap' : ¬ 31 < delta := hgap.not_gt
  have hexec := exec_hoofbeat_of_transition hn hc hteam hs ht hd (dueKey_of_not_due hcap hk).symm hchain (if_neg hgap').symm
  rw [if_neg hgap'] at hexec
  have hdone := modCap_cap (fun x => { x with
    chainTime := s.tb.now, hoofAt := some s.tb.now, hoofDone := setBit (hoofsDone s x) t.val true }) hcap
  have hrec := addRec_cap (hoofRec t.val delta ((teamList t).map fun j => hoofField s.chans[j])) hdone hl
  rw [checkFull_of_cyclic hrec ho] at hexec
  refine ⟨_, hexec, hrec, fun m hm => ?_⟩
  rw [addRec_of_room hdone _ hl, modCap_other _ hm, modCap_other _ hm]

end

end

/-- Settles O41: a hoofbeat's row up to its record, and the record that finds room. -/
theorem hoofbeatsAreWrittenForTransitions : Obligations.HoofbeatsAreWrittenForTransitions := by
  intro s k w t n c delta hn hc
  exact ⟨exec_hoofbeat_of_no_transition hn hc, fun hteam hs ht hd => ⟨exec_hoofbeat_of_transition hn hc hteam hs ht hd,
    hoofbeat_of_room hn hc hteam hs ht hd⟩⟩

end Sys2Proof.Machine
end

section
/-! SUPPORT. The rows of Trot and Walk: the edges and periods that write a record, and those that write none (R104 to R106). -/

namespace Sys2Proof.Machine

/-! ## Trot -/

section
variable {s : State} {n : Stall} {c : Capture} {e : TrotEdge} (hc : openIn s n .trot = some c)
include hc

/-- An edge that the clock channel does not have, or of the other polarity, does nothing (R18, R103). -/
theorem exec_trotClockEdge_of_no_match
    (h : clockHas s (Fin.ofNat 48 c.arm.clockChan.toNat) e = false ∨ edgeMatches c.arm.clockEdge e.rising = false) :
    exec (.trotClockEdge n e) s = .next s := by
  refine congrArg Host.Outcome.next ?_
  rw [hc]
  exact if_pos (by simpa using h)

section
variable {t : Time} (ht : t = s.tb.now + BitVec.ofNat 64 (32 * e.sample.val + e.fine.toNat))
  (hhas : clockHas s (Fin.ofNat 48 c.arm.clockChan.toNat) e = true) (hmatch : edgeMatches c.arm.clockEdge e.rising = true)
include ht hhas hmatch

/-- An edge too soon after the last qualified one is counted (R104). -/
theorem exec_trotClockEdge_of_soon {l : Time} (hl : c.lastClock = some l) (hsoon : (t - l).toNat < minEdge (1000 * c.arm.gaitParam.toNat)) :
    exec (.trotClockEdge n e) s = .next (countOverrun s n c t) := by
  subst ht
  refine congrArg Host.Outcome.next ?_
  rw [hc]
  dsimp only
  rw [if_neg (by rw [hhas, hmatch]; exact Bool.false_ne_true), if_pos (by simpa [hl] using hsoon)]

/-- An edge far enough after the last is qualified (R104, R105). -/
theorem exec_trotClockEdge_of_qualified (hfar : ∀ l, c.lastClock = some l → minEdge (1000 * c.arm.gaitParam.toNat) ≤ (t - l).toNat) :
    exec (.trotClockEdge n e) s = .next (
      if storedAt c s.tb.now then checkFull (trotRecord (modCap s n fun x => { x with lastClock := some t }) n c.teams e.sample.val t) n
      else modCap s n fun x => { x with lastClock := some t }) := by
  subst ht
  have hnone : ¬ (c.lastClock.any fun l => decide ((s.tb.now + BitVec.ofNat 64 (32 * e.sample.val + e.fine.toNat) - l).toNat <
      minEdge (1000 * c.arm.gaitParam.toNat))) = true := by
    rw [Option.any_eq_true]
    rintro ⟨l, hl, hlt⟩
    exact (hfar l hl).not_gt (of_decide_eq_true hlt)
  refine congrArg Host.Outcome.next ?_
  rw [hc]
  dsimp only
  rw [if_neg (by rw [hhas, hmatch]; exact Bool.false_ne_true), if_neg hnone]
  rfl

end

end

/-- The first edge too soon of a period (R104). -/
theorem countOverrun_of_first {s : State} {n : Stall} {c : Capture} (t : Time) (hc : s.stalls[n].cap = some c) (h0 : c.overruns = 0) :
    countOverrun s n c t = modCap s n fun c => { c with overruns := 1, overrunAt := t } := by
  unfold countOverrun
  rw [if_neg (fun h => h.1 h0)]
  exact modCap_congr hc (by rw [h0]; rfl)

/-- A qualified edge's record, where no keyframe is due and the block has room (R105, R110, R120). -/
theorem trotRecord_cap {s : State} {n : Stall} {c : Capture} (k : Nat) {t : Time} {delta : Nat} (hc : s.stalls[n].cap = some c)
    (hk : keyDue s c = false) (hl : c.part.length < 15) (hdelta : delta = (t - c.chainTime).toNat) (hgap : delta ≤ 1048575) :
    (trotRecord s n c.teams k t).stalls[n].cap =
      some { c with chainTime := t, part := c.part ++ [stateRec 3 (statesBefore s c.teams k) delta] } := by
  have hchain : (t - ((s.stalls[n].cap.map fun c => c.chainTime).getD t)).toNat = delta := by
    rw [hc]
    exact hdelta.symm
  unfold trotRecord
  rw [dueKey_of_not_due hc hk]
  dsimp only
  rw [hchain, if_neg hgap.not_gt, if_neg hgap.not_gt]
  exact addRec_cap _ (modCap_cap _ hc) hl

theorem trotClockEdge_of_room {s : State} {n : Stall} {c : Capture} {e : TrotEdge} {t : Time} {delta : Nat} (hc : openIn s n .trot = some c)
    (hexec : exec (.trotClockEdge n e) s =
      .next (checkFull (trotRecord (modCap s n fun x => { x with lastClock := some t }) n c.teams e.sample.val t) n))
    (hk : keyDue s c = false) (ho : oneShot c = false) (hl : c.part.length < 15) (hdelta : delta = (t - c.chainTime).toNat)
    (hgap : delta ≤ 1048575) : ∃ u, exec (.trotClockEdge n e) s = .next u ∧ u.stalls[n].cap = some { c with
      lastClock := some t, chainTime := t, part := c.part ++ [stateRec 3 (statesBefore s c.teams e.sample.val) delta] } := by
  have hrec := trotRecord_cap e.sample.val (modCap_cap (fun x => { x with lastClock := some t }) (cap_of_openIn hc)) hk hl hdelta hgap
  exact ⟨_, hexec.trans (congrArg Host.Outcome.next (checkFull_of_cyclic hrec ho)), hrec⟩

/-! ## Walk -/

section
variable {s : State} {n : Stall} {c : Capture} (hc : openIn s n .walk = some c)
include hc

theorem exec_walkPeriodEnd_of_open : exec (.walkPeriodEnd n) s = .next (checkFull (walkEnd (applyStoreOn s n) n) n) := by
  refine congrArg Host.Outcome.next ?_
  rw [hc]

/-- No store on waits, and the ring is written cyclically: the row is the end of a period alone. -/
theorem exec_walkPeriodEnd_of_cyclic {u : State} {d : Capture} (hp : s.stalls[n].eng.storePend = none) (hw : walkEnd s n = u)
    (hd : u.stalls[n].cap = some d) (ho : oneShot d = false) : exec (.walkPeriodEnd n) s = .next u := by
  rw [exec_walkPeriodEnd_of_open hc, applyStoreOn_of_none (cap_of_openIn hc) hp, hw, checkFull_of_cyclic hd ho]

section
variable {k : Nat} (hk : k = (relStride c s.tb.now / (walkPeriod c : Int)).toNat)
include hk

/-- Within a period, and at the end of one that is written already, nothing is written. -/
theorem walkEnd_of_no_end (h : walkBoundary c s.tb.now = false ∨ k ≤ c.walkIdx) : walkEnd s n = s := by
  subst hk
  unfold walkEnd
  rw [cap_of_openIn hc]
  refine if_pos (.inr (.inr ?_))
  exact h.imp_left Bool.eq_false_iff.1

/-- At the end of a period without a keyframe the states are compared with those last stored (R106). -/
theorem walkEnd_of_end (hb : walkBoundary c s.tb.now = true) (hi : c.walkIdx < k) (hkey : keyDue s c = false)
    (hs : storedAt c (s.tb.now - 256) = true) (hh : c.hasKey = true) : walkEnd s n =
    if stateBefore s c.teams = c.walkStates then modCap s n fun c => { c with walkIdx := k }
    else addRec (modCap (modCap s n fun c => { c with walkIdx := k }) n fun x =>
      { x with chainTime := s.tb.now, walkStates := stateBefore s c.teams }) n
      (stateRec 4 (stateBefore s c.teams) (strideOf (s.tb.now - c.chainTime) / walkPeriod c)) := by
  subst hk
  obtain ⟨hcap, hphase, hgait⟩ := of_openIn hc
  have hidx := modCap_cap (fun c' => { c' with walkIdx := (relStride c s.tb.now / (walkPeriod c : Int)).toNat }) hcap
  have hend : ¬ (c.arm.gait ≠ .walk ∨ c.phase ≠ .running ∨ ¬ walkBoundary c s.tb.now = true ∨
      (relStride c s.tb.now / (walkPeriod c : Int)).toNat ≤ c.walkIdx) :=
    not_or.2 ⟨not_not_intro hgait, not_or.2 ⟨not_not_intro hphase, not_or.2 ⟨not_not_intro hb, hi.not_ge⟩⟩⟩
  unfold walkEnd
  rw [hcap]
  dsimp only
  rw [if_neg hend, dueKey_of_not_due hidx hkey, hidx]
  refine ite_congr (propext ?_) (fun _ => rfl) fun _ => rfl
  exact or_iff_left fun h => h.elim (fun hn => hn hs) fun hn => hn hh

section
variable (hp : s.stalls[n].eng.storePend = none) (ho : oneShot c = false)
include hp ho

theorem exec_walkPeriodEnd_of_no_end (h : walkBoundary c s.tb.now = false ∨ k ≤ c.walkIdx) : exec (.walkPeriodEnd n) s = .next s :=
  exec_walkPeriodEnd_of_cyclic hc hp (walkEnd_of_no_end hc hk h) (cap_of_openIn hc) ho

section
variable (hb : walkBoundary c s.tb.now = true) (hi : c.walkIdx < k) (hkey : keyDue s c = false)
  (hs : storedAt c (s.tb.now - 256) = true) (hh : c.hasKey = true)
include hb hi hkey hs hh

/-- Every state is the one last stored: the period leaves no record. -/
theorem exec_walkPeriodEnd_of_same (hm : stateBefore s c.teams = c.walkStates) :
    exec (.walkPeriodEnd n) s = .next (modCap s n fun c => { c with walkIdx := k }) :=
  exec_walkPeriodEnd_of_cyclic hc hp ((walkEnd_of_end hc hk hb hi hkey hs hh).trans (if_pos hm)) (modCap_cap _ (cap_of_openIn hc)) ho

/-- A state differs from the one last stored, and the block has room: one walk record more. -/
theorem walkPeriodEnd_of_changed (hm : stateBefore s c.teams ≠ c.walkStates) (hl : c.part.length < 15) :
    ∃ u, exec (.walkPeriodEnd n) s = .next u ∧ u.stalls[n].cap = some { c with
      walkIdx := k, chainTime := s.tb.now, walkStates := stateBefore s c.teams
      part := c.part ++ [stateRec 4 (stateBefore s c.teams) (strideOf (s.tb.now - c.chainTime) / walkPeriod c)] } := by
  have hidx := modCap_cap (fun c => { c with walkIdx := k }) (cap_of_openIn hc)
  have hnoted := modCap_cap (fun x => { x with chainTime := s.tb.now, walkStates := stateBefore s c.teams }) hidx
  have hrec := addRec_cap (stateRec 4 (stateBefore s c.teams) (strideOf (s.tb.now - c.chainTime) / walkPeriod c)) hnoted hl
  exact ⟨_, exec_walkPeriodEnd_of_cyclic hc hp ((walkEnd_of_end hc hk hb hi hkey hs hh).trans (if_neg hm)) hrec ho, hrec⟩

end

end

end

end

/-- Settles O43, edge by edge and period by period. -/
theorem trotAndWalkWriteTheirRecords : Obligations.TrotAndWalkWriteTheirRecords := by
  intro s n c
  refine ⟨fun e t hc ht => ⟨exec_trotClockEdge_of_no_match hc, fun hhas hmatch => ⟨fun l hl hsoon => ?soon, fun hfar => ?far⟩⟩,
    fun hc => ⟨exec_walkPeriodEnd_of_open hc, fun k m hp ho hk hm => ⟨exec_walkPeriodEnd_of_no_end hc hk hp ho,
      fun hb hi hkey hs hh => ?walk⟩⟩⟩
  case soon =>
    have hexec := exec_trotClockEdge_of_soon hc ht hhas hmatch hl hsoon
    exact ⟨hexec, fun h0 => hexec.trans (congrArg Host.Outcome.next (countOverrun_of_first t (cap_of_openIn hc) h0))⟩
  case far =>
    have hexec := exec_trotClockEdge_of_qualified hc ht hhas hmatch hfar
    refine ⟨fun hs => ?_, fun hs => ?_, fun delta hs hk ho hl hdelta hgap => ?_⟩
    · rwa [hs, if_neg Bool.false_ne_true] at hexec
    · rwa [if_pos hs] at hexec
    · rw [if_pos hs] at hexec
      exact trotClockEdge_of_room hc hexec hk ho hl hdelta hgap
  case walk =>
    subst hm
    exact ⟨exec_walkPeriodEnd_of_same hc hk hp ho hb hi hkey hs hh, walkPeriodEnd_of_changed hc hk hp ho hb hi hkey hs hh⟩

end Sys2Proof.Machine
end

section
/-! SUPPORT. The placing of a block, of which a stall notes its peak and its capture the credit, the rate and the blocks not yet acknowledged;
and the dense block of Gallop, the keyframe and the event record (R121, R126, R129, R130, R136, R212 to R222). -/

namespace Sys2Proof.Machine

/-! ## What placing a block leaves -/

/-- A capture without what its slices note of it. -/
def unplaced (c : Capture) : Capture := { c with
  inUse := .replicate 4 0, putAt := .replicate 4 none, dueAt := .replicate 4 0, seg := { c.seg with unacked := 0, lost := [] } }

/-- A stall without what its slices note of it. -/
def unshelved (x : StallState) : StallState := { x with fbPeak := 0, cap := x.cap.map unplaced }

/-- A view of a stall that its change leaves alone is left alone at every stall. -/
theorem modStall_view {α : Type} {g : StallState → α} (s : State) (n m : Stall) {f : StallState → StallState} (h : ∀ x, g (f x) = g x) :
    g (modStall s n f).stalls[m] = g s.stalls[m] := by
  rw [modStall_stalls]
  by_cases e : n = m
  · rw [← e, vmod_same, h]
  · rw [vmod_ne _ e]

/-- A stall of the state without what its slices note of it. -/
def shelfless (m : Stall) (s : State) : StallState := unshelved s.stalls[m]

theorem modCap_shelfless (m : Stall) (s : State) (n : Stall) {f : Capture → Capture}
    (h : ∀ c, unplaced (f c) = unplaced c := by exact fun _ => rfl) : shelfless m (modCap s n f) = shelfless m s :=
  modStall_view s n m fun x => by simp only [unshelved, Option.map_map, Function.comp_def, h]

theorem notePeak_shelfless (m : Stall) (s : State) (n : Stall) : shelfless m (notePeak s n) = shelfless m s :=
  modStall_view s n m fun _ => rfl

theorem putSlice_stalls (s : State) (l : Fin 4) (b : FbBlock) : (putSlice s l b).stalls = s.stalls :=
  ite_same (g := State.stalls) (t := modLane s l fun x => { x with lastIssue := s.tb.now }) rfl rfl

theorem shelfless_of_stalls {m : Stall} {s t : State} (h : t.stalls = s.stalls) : shelfless m t = shelfless m s :=
  congrArg (fun v : Vector StallState 64 => unshelved v[m]) h

theorem placeIn_shelfless (m : Stall) (s : State) (c : Capture) (l : Fin 4) (b : FbBlock) (part : FbPart) :
    shelfless m (placeIn s c l b part) = shelfless m s :=
  (notePeak_shelfless _ _ _).trans ((modCap_shelfless _ _ _).trans (shelfless_of_stalls (putSlice_stalls _ _ _)))

theorem putBlock_shelfless (m : Stall) (l : Fin 4) (s : State) (b : FbBlock) : shelfless m (putBlock l s b) = shelfless m s := by
  unfold putBlock
  dsimp only
  split
  · exact ite_same (g := shelfless m) (shelfless_of_stalls (putSlice_stalls _ _ _)) rfl
  · split
    · rfl
    · refine ite_same (g := shelfless m) rfl ?_
      split
      · rfl
      · exact placeIn_shelfless _ _ _ _ _ _

theorem placeAt_shelfless (m : Stall) (s : State) (n : Stall) (c : Capture) (blk : Nat) (recs : List Rec) (typed : Bool) :
    shelfless m (placeAt s n c blk recs typed) = shelfless m s := by
  unfold placeAt
  split
  · rfl
  · exact (putBlock_shelfless _ _ _ _).trans (modCap_shelfless _ _ _)

theorem cap_of_shelfless {s t : State} {m : Stall} {c : Capture} (h : shelfless m t = shelfless m s) (hc : s.stalls[m].cap = some c) :
    ∃ d, t.stalls[m].cap = some d ∧ unplaced d = unplaced c := by
  have hcap : t.stalls[m].cap.map unplaced = s.stalls[m].cap.map unplaced := congrArg StallState.cap h
  rw [hc] at hcap
  exact Option.map_eq_some_iff.1 hcap

/-- A capture whose next data block has been given its place in the ring (R191). -/
def blockPlaced (c : Capture) : Capture := { c with seg := { c.seg with kf := keepKeys c.seg, written := c.seg.written + 1 } }

theorem unplaced_blockPlaced (c : Capture) : unplaced (blockPlaced c) = blockPlaced (unplaced c) := rfl

/-- The next data block of a segment: its place in the ring, and what the slices note of it (R191, R212). -/
theorem placeBlock_cap {s : State} {n : Stall} {c : Capture} (typed : Bool) (recs : List Rec) (hc : s.stalls[n].cap = some c) :
    ∃ d, (placeBlock s n typed recs).stalls[n].cap = some d ∧ unplaced d = unplaced (blockPlaced c) := by
  unfold placeBlock
  rw [hc]
  obtain ⟨d, hd, heq⟩ := cap_of_shelfless (placeAt_shelfless n s n c
    (devBlock s.stalls[n].grant (ringBlockOf c.seg (polderSize s.stalls[n].grant) c.seg.written)) recs typed) hc
  exact ⟨blockPlaced d, modCap_cap blockPlaced hd, by rw [unplaced_blockPlaced, unplaced_blockPlaced, heq]⟩

/-! ## Gallop -/

section
variable {s : State} {n : Stall} {c : Capture} (hc : s.stalls[n].cap = some c)
include hc

theorem placeDense_of_not_full (hd : denseFull c = false) : placeDense s n = s := by
  unfold placeDense
  rw [hc]
  exact if_pos (.inr (Bool.eq_false_iff.1 hd))

/-- A complete dense block within a furlong is placed, and the next one begins (R126, R129). -/
theorem placeDense_cap (hg : c.arm.gait = .gallop) (hd : denseFull c = true) (hi : (c.denseIdx + 1) % (64 - c.sideBlocks) ≠ 0) :
    ∃ d, (placeDense s n).stalls[n].cap = some d ∧
      unplaced d = unplaced { blockPlaced c with dense := [], denseIdx := c.denseIdx + 1 } := by
  have hfull : ¬ (c.arm.gait ≠ .gallop ∨ ¬ denseFull c = true) := not_or.2 ⟨not_not_intro hg, not_not_intro hd⟩
  obtain ⟨d, hcap, heq⟩ := placeBlock_cap false (denseRecs c.teams c.dense) hc
  unfold placeDense
  rw [hc]
  dsimp only
  rw [if_neg hfull, if_pos hi]
  exact ⟨_, modCap_cap _ hcap, congrArg (fun x : Capture => { x with dense := [], denseIdx := x.denseIdx + 1 }) heq⟩

end

theorem oneShot_of_unplaced {c d : Capture} (h : unplaced d = unplaced c) : oneShot d = oneShot c :=
  (congrArg oneShot h :)

theorem gallopDenseBlock_within_furlong {s : State} {n : Stall} {c : Capture} (hc : s.stalls[n].cap = some c) (hg : c.arm.gait = .gallop)
    (ho : oneShot c = false) (hd : denseFull c = true) (hi : (c.denseIdx + 1) % (64 - c.sideBlocks) ≠ 0) :
    ∃ u d, exec (.gallopDenseBlock n) s = .next u ∧ u.stalls[n].cap = some d ∧ d.dense = [] ∧ d.denseIdx = c.denseIdx + 1 ∧
      d.seg.written = c.seg.written + 1 ∧ d.sideQ = c.sideQ ∧ d.part = c.part ∧ d.phase = c.phase := by
  obtain ⟨d, hcap, heq⟩ := placeDense_cap hc hg hd hi
  have hcyclic : oneShot d = false := (oneShot_of_unplaced heq).trans ho
  refine ⟨_, d, congrArg Host.Outcome.next (checkFull_of_cyclic hcap hcyclic), hcap, ?_⟩
  exact ⟨congrArg (·.dense) heq, congrArg (·.denseIdx) heq, congrArg (·.seg.written) heq, congrArg (·.sideQ) heq, congrArg (·.part) heq,
    congrArg (·.phase) heq⟩

/-! ## Keyframes -/

section
variable {s : State} {n : Stall} {c : Capture} (hc : s.stalls[n].cap = some c) (hf : fillOver s c = false)
include hc hf

theorem exec_keyframe_of_open : exec (.keyframe n) s = .next (checkFull (dueKey s n) n) := by
  refine congrArg Host.Outcome.next ?_
  rw [hc]
  exact if_neg (Bool.eq_false_iff.1 hf)

theorem exec_keyframe_of_not_due (hk : keyDue s c = false) (ho : oneShot c = false) : exec (.keyframe n) s = .next s := by
  rw [exec_keyframe_of_open hc hf, dueKey_of_not_due hc hk, checkFull_of_cyclic hc ho]

/-- A due keyframe for which the block has room (R121, R123). -/
theorem keyframe_of_room (hk : keyDue s c = true) (ho : oneShot c = false) (hl : c.part.length < 14) :
    ∃ u, exec (.keyframe n) s = .next u ∧ u.stalls[n].cap = some { keyed c s.tb.now (stateBefore s c.teams) with
      part := c.part ++ [anchorRec (if c.resume && !c.hasKey then 2 else 0) s.tb.now] ++
        keyStates c.arm.gait (stateBefore s c.teams) } := by
  have hkey := writeKey_cap (if c.resume && !c.hasKey then 2 else 0) hc (teams_of_keyDue hk) hl
  rw [← dueKey_of_due hc hk] at hkey
  exact ⟨_, (exec_keyframe_of_open hc hf).trans (congrArg Host.Outcome.next (checkFull_of_cyclic hkey ho)), hkey⟩

end

/-! ## Event records -/

/-- An event record has left the queue (R136). -/
def dequeued (s : State) (e : EvRec) (rest : List EvRec) : State :=
  modGroom s fun g => { g with evQueue := rest, evLast := s.tb.now + strides (32 * (e.recs.length - 1)) }

section
variable {s : State} {e : EvRec} {rest : List EvRec} (hq : s.groom.evQueue = e :: rest)
include hq

theorem exec_eventRecordLeavesQueue_of_early (hw : past s.tb.now (s.groom.evLast + strides 32) = true) :
    exec .eventRecordLeavesQueue s = .next s := by
  refine congrArg Host.Outcome.next ?_
  rw [hq]
  exact if_pos hw

section
variable (hw : past s.tb.now (s.groom.evLast + strides 32) = false)
include hw

/-- An event record leaves the queue; a stall that records takes it (R116, R136). -/
theorem exec_eventRecordLeavesQueue_of_due : exec .eventRecordLeavesQueue s = .next (
    if recording s e.stall then checkFull (addSide (dequeued s e rest) e.stall e.recs) e.stall else dequeued s e rest) := by
  refine congrArg Host.Outcome.next ?_
  rw [hq]
  exact if_neg (Bool.eq_false_iff.1 hw)

theorem exec_eventRecordLeavesQueue_of_recording (hr : recording s e.stall = true) :
    exec .eventRecordLeavesQueue s = .next (checkFull (addSide (dequeued s e rest) e.stall e.recs) e.stall) := by
  rw [exec_eventRecordLeavesQueue_of_due hq hw, if_pos hr]

theorem exec_eventRecordLeavesQueue_of_silent (hr : recording s e.stall = false) :
    exec .eventRecordLeavesQueue s = .next (dequeued s e rest) := by
  rw [exec_eventRecordLeavesQueue_of_due hq hw, if_neg (Bool.eq_false_iff.1 hr)]

/-- In Gallop, and outside an open segment, an event record waits behind the side records (R130, R200). -/
theorem eventRecordLeavesQueue_to_sideQ {d : Capture} (hr : recording s e.stall = true) (hc : s.stalls[e.stall].cap = some d)
    (hside : d.arm.gait = .gallop ∨ d.phase ≠ .running) (ho : oneShot d = false) :
    ∃ u, exec .eventRecordLeavesQueue s = .next u ∧ u.stalls[e.stall].cap = some { d with sideQ := d.sideQ ++ e.recs } ∧
      u.groom.evQueue = rest := by
  have hq' : (dequeued s e rest).stalls[e.stall].cap = some d := hc
  have hwait : addSide (dequeued s e rest) e.stall e.recs =
      modCap (dequeued s e rest) e.stall fun c => { c with sideQ := c.sideQ ++ e.recs } := by
    unfold addSide
    rw [hq']
    exact if_neg fun h => hside.elim h.1 fun hp => hp h.2
  have hcap := modCap_cap (fun c => { c with sideQ := c.sideQ ++ e.recs }) hq'
  refine ⟨_, (exec_eventRecordLeavesQueue_of_recording hq hw hr).trans ?_, hcap, rfl⟩
  rw [hwait, checkFull_of_cyclic hcap ho]

end

end

/-- Settles O42, formatter by formatter. -/
theorem formattersWriteTheirRecords : Obligations.FormattersWriteTheirRecords := by
  intro s n c
  refine ⟨rfl, fun hc hg ho => ⟨fun hd => ?notFull, gallopDenseBlock_within_furlong hc hg ho⟩,
    fun hc hf => ⟨exec_keyframe_of_open hc hf, exec_keyframe_of_not_due hc hf, fun m hk ho hl hm => ?key⟩,
    fun e rest hq => ⟨exec_eventRecordLeavesQueue_of_early hq, fun hw => ⟨exec_eventRecordLeavesQueue_of_recording hq hw,
      fun d => eventRecordLeavesQueue_to_sideQ hq hw, exec_eventRecordLeavesQueue_of_silent hq hw⟩⟩⟩
  case notFull =>
    change Host.Outcome.next (checkFull (placeDense s n) n) = _
    rw [placeDense_of_not_full hc hd, checkFull_of_cyclic hc ho]
  case key =>
    subst hm
    exact keyframe_of_room hc hf hk ho hl

end Sys2Proof.Machine
end

section
/-! SUPPORT. What the close and the open of a segment go by of a stall, and what leaves it alone: reports, the requests of a stride, blocks and
records, latches and settings. -/

namespace Sys2Proof.Machine

/-- What the close and the open of a segment go by of a capture. -/
def sketch (c : Capture) : Capture := {
  arm := c.arm, phase := c.phase, openAt := c.openAt, segNo := c.segNo, closeCause := c.closeCause, lastStride := c.lastStride
  ended := c.ended, seg := { num := c.seg.num, ring := c.seg.ring } }

/-- What the close and the open of a segment go by of a stall: its state, its held segments, and its capture's part. -/
def outline (n : Stall) (s : State) : StallSt × List Seg × Option Capture :=
  (s.stalls[n].st, s.stalls[n].held, s.stalls[n].cap.map sketch)

theorem cap_of_outline {s t : State} {n : Stall} {c : Capture} (h : outline n t = outline n s) (hc : s.stalls[n].cap = some c) :
    ∃ d, t.stalls[n].cap = some d ∧ sketch d = sketch c := by
  have hcap : t.stalls[n].cap.map sketch = s.stalls[n].cap.map sketch := congrArg (fun x => x.2.2) h
  rw [hc] at hcap
  exact Option.map_eq_some_iff.1 hcap

theorem held_of_outline {s t : State} {n : Stall} (h : outline n t = outline n s) : t.stalls[n].held = s.stalls[n].held :=
  congrArg (fun x => x.2.1) h

theorem st_of_outline {s t : State} {n : Stall} (h : outline n t = outline n s) : t.stalls[n].st = s.stalls[n].st :=
  congrArg (fun x => x.1) h

theorem outline_of_shelfless {s t : State} {n : Stall} (h : shelfless n t = shelfless n s) : outline n t = outline n s := by
  have hview (u : State) : outline n u = ((shelfless n u).st, (shelfless n u).held, (shelfless n u).cap.map sketch) := by
    refine Prod.ext rfl (Prod.ext rfl ?_)
    simp only [outline, shelfless, unshelved, Option.map_map]
    rfl
  rw [hview, hview, h]

/-! ## The named operations -/

theorem modStall_outline (n : Stall) (s : State) (m : Stall) {f : StallState → StallState}
    (h : ∀ x, ((f x).st, (f x).held, (f x).cap.map sketch) = (x.st, x.held, x.cap.map sketch) := by exact fun _ => rfl) :
    outline n (modStall s m f) = outline n s :=
  modStall_view (g := fun x => (x.st, x.held, x.cap.map sketch)) s m n h

theorem modCap_outline (n : Stall) (s : State) (m : Stall) {f : Capture → Capture}
    (h : ∀ c, sketch (f c) = sketch c := by exact fun _ => rfl) : outline n (modCap s m f) = outline n s :=
  modStall_outline n s m fun x => by simp only [Option.map_map, Function.comp_def, h]

theorem modEng_outline (n : Stall) (s : State) (m : Stall) (f : Engine → Engine) : outline n (modEng s m f) = outline n s :=
  modStall_outline n s m

theorem modRef_outline (n : Stall) (s : State) (m : Stall) (f : Reference → Reference) : outline n (modRef s m f) = outline n s :=
  modStall_outline n s m

/-! ## Events and markers -/

theorem outline_of_told {n : Stall} {s t : State} (h : told s t) : outline n t = outline n s := by
  unfold outline
  rw [h.2 n]

theorem sendEvent_outline (n : Stall) (s : State) (f : Fn) (e : CqEntry) : outline n (sendEvent s f e) = outline n s :=
  outline_of_told (told_of_answersOnly (sendEvent_answers s f e))

theorem queueRecs_outline (n : Stall) (s : State) (m : Stall) (l : List Rec) : outline n (queueRecs s m l) = outline n s := by
  refine ite_same (g := outline n) (modStall_outline n _ m) (modStall_outline n _ m fun x => ?_)
  rw [Option.map_map]
  rfl

theorem marker_outline (n : Stall) (s : State) (m : Stall) (kind : Nat) (t : Time) (d : BitVec 64) :
    outline n (marker s m kind t d) = outline n s := ite_same (g := outline n) (queueRecs_outline _ _ _ _) rfl

/-! ## The requests of a stride -/

theorem giveMissed_outline (n : Stall) (s : State) (m : Stall) (x : MissedEntry) : outline n (giveMissed s m x) = outline n s :=
  (outline_of_told (sendRated_told _ _ _ _)).trans ((modCap_outline _ _ _).trans (modStall_outline _ _ _))

theorem giveTaken_outline (n : Stall) (s : State) (m : Stall) (o : OwedTrig) (e : CqEntry) : outline n (giveTaken s m o e) = outline n s :=
  (ite_same (g := outline n) (modCap_outline _ _ _) (sendEvent_outline _ _ _ _)).trans (marker_outline _ _ _ _ _ _)

theorem giveTrigger_outline (n : Stall) (s : State) (m : Stall) (o : OwedTrig) : outline n (giveTrigger m s o) = outline n s := by
  unfold giveTrigger
  split
  · exact giveMissed_outline _ _ _ _
  · exact giveTaken_outline _ _ _ _ _
  · exact modStall_outline _ _ _

theorem giveTriggers_outline (n : Stall) (s : State) (m : Stall) : outline n (giveTriggers s m) = outline n s := by
  unfold giveTriggers
  split
  · rfl
  · exact ite_same (g := outline n) rfl ((foldl_same (g := outline n) (fun s o => giveTrigger_outline n s m o) _ _).trans (modCap_outline _ _ _))

/-! ## Blocks and records -/

theorem placeBlock_outline (n : Stall) (s : State) (m : Stall) (typed : Bool) (recs : List Rec) :
    outline n (placeBlock s m typed recs) = outline n s := by
  unfold placeBlock
  split
  · rfl
  · exact (modCap_outline _ _ _).trans (outline_of_shelfless (placeAt_shelfless _ _ _ _ _ _ _))

theorem placeBlocks_outline (n : Stall) (s : State) (m : Stall) (l : List (List Rec)) : outline n (placeBlocks s m l) = outline n s :=
  foldl_same (g := outline n) (fun s b => placeBlock_outline n s m true b) _ _

theorem addRec_outline (n : Stall) (s : State) (m : Stall) (r : Rec) : outline n (addRec s m r) = outline n s := by
  unfold addRec
  split
  · rfl
  · exact ite_same (g := outline n) (modCap_outline _ _ _) ((placeBlock_outline _ _ _ _ _).trans (modCap_outline _ _ _))

theorem addRecs_outline (n : Stall) (s : State) (m : Stall) (l : List Rec) : outline n (addRecs s m l) = outline n s :=
  foldl_same (g := outline n) (fun s r => addRec_outline n s m r) _ _

theorem writeKey_outline (n : Stall) (s : State) (m : Stall) (cause : Nat) : outline n (writeKey s m cause) = outline n s := by
  unfold writeKey
  split
  · rfl
  · refine ite_same (g := outline n) rfl ?_
    dsimp only
    split
    · exact (addRec_outline _ _ _ _).trans ((addRec_outline _ _ _ _).trans (modCap_outline _ _ _))
    · exact (addRec_outline _ _ _ _).trans ((addRec_outline _ _ _ _).trans (modCap_outline _ _ _))
    · exact (addRec_outline _ _ _ _).trans (modCap_outline _ _ _)

theorem dueKey_outline (n : Stall) (s : State) (m : Stall) : outline n (dueKey s m) = outline n s := by
  unfold dueKey
  split
  · rfl
  · exact ite_same (g := outline n) (writeKey_outline _ _ _ _) rfl

theorem flushSide_outline (n : Stall) (s : State) (m : Stall) : outline n (flushSide s m) = outline n s := by
  unfold flushSide
  split
  · rfl
  · exact ite_same (g := outline n) rfl ((addRecs_outline _ _ _ _).trans (modCap_outline _ _ _))

theorem placeHeader_outline (n : Stall) (s : State) (m : Stall) (uid start : Nat) (recs : List Rec) :
    outline n (placeHeader s m uid start recs) = outline n s := by
  unfold placeHeader
  dsimp only
  split
  · rfl
  · exact outline_of_shelfless (putBlock_shelfless _ _ _ _)

theorem sideRest_outline (n : Stall) (s : State) (m : Stall) : outline n (sideRest s m).1 = outline n s :=
  foldl_same (g := outline n) (f := fun s k => modChain s k fun c => { c with sideOut := [], sideDet := [] }) (fun _ _ => rfl) _ _

/-! ## The engine and a playback -/

theorem refreshTrigOut_outline (n : Stall) (s : State) : outline n (refreshTrigOut s) = outline n s := rfl

theorem stopEngine_outline (n : Stall) (s : State) (m : Stall) : outline n (stopEngine s m) = outline n s :=
  (refreshTrigOut_outline _ _).trans (modEng_outline _ _ _ _)

theorem fillSlice_outline (n : Stall) (s : State) (m : Stall) : outline n (fillSlice s m) = outline n s := by
  refine (modRef_outline _ _ _ _).trans ((foldl_same (g := outline n) (fun s k => ?_) _ _).trans (modRef_outline _ _ _ _))
  unfold askDense
  dsimp only
  split <;> rfl

theorem endPlayback_outline (n : Stall) (s : State) (m : Stall) : outline n (endPlayback s m) = outline n s :=
  ite_same (g := outline n) rfl (ite_same (g := outline n)
    ((fillSlice_outline _ _ _).trans ((modEng_outline _ _ _ _).trans (modRef_outline _ _ _ _)))
    ((modEng_outline _ _ _ _).trans (modRef_outline _ _ _ _)))

/-! ## Latches and settings -/

theorem dropLatchTerms_outline (n : Stall) (s : State) (m : Stall) : outline n (dropLatchTerms s m) = outline n s := by
  unfold dropLatchTerms
  split
  · rfl
  · exact modEng_outline _ _ _ _

theorem raiseLatchTerms_outline (n : Stall) (s : State) (m : Stall) (c k : Nat) (t : Time) :
    outline n (raiseLatchTerms s m c k t) = outline n s := by
  unfold raiseLatchTerms
  split
  · rfl
  · exact modEng_outline _ _ _ _

theorem releaseLatches_outline (n : Stall) (s : State) (conds : BitVec 4) (c : Fin 48) :
    outline n (releaseLatches s conds c) = outline n s := by
  unfold releaseLatches
  dsimp only
  split
  · exact dropLatchTerms_outline _ _ _
  · rfl

theorem latchReport_outline (n : Stall) (s : State) (m : Stall) (c : Fin 48) (cond : Nat) (seed : Bool) (t : Time) :
    outline n (latchReport s m c cond seed t) = outline n s :=
  (sendEvent_outline _ _ _ _).trans (ite_same (g := outline n) (queueRecs_outline _ _ _ _) rfl)

theorem setLatch_outline (n : Stall) (s : State) (c : Fin 48) (k : Cond) (seed : Bool) (t : Time) :
    outline n (setLatch s c k seed t) = outline n s := by
  refine ite_same (g := outline n) rfl ?_
  dsimp only
  split
  · rfl
  · exact (raiseLatchTerms_outline _ _ _ _ _ _).trans (latchReport_outline _ _ _ _ _ _ _)

theorem seedChan_outline (n : Stall) (s : State) (seed : SeedIn) (c : Fin 48) : outline n (seedChan s seed c) = outline n s :=
  ite_same (g := outline n) (setLatch_outline _ _ _ _ _ _) rfl

theorem setAgain_outline (n : Stall) (s : State) (c : Fin 48) (old : Channel) : outline n (setAgain s c old) = outline n s :=
  ite_same (g := outline n) rfl (ite_same (g := outline n) (setLatch_outline _ _ _ _ _ _)
    (ite_same (g := outline n) (setLatch_outline _ _ _ _ _ _) rfl))

theorem applyPending_outline (n : Stall) (s : State) (m : Stall) (seed : SeedIn) : outline n (applyPending s m seed) = outline n s := by
  refine foldl_same (g := outline n) (fun s c => ?_) _ _
  split
  · rfl
  · exact ite_same (g := outline n) (seedChan_outline _ _ _ _) rfl

theorem applyCorrs_outline (n : Stall) (s : State) (m : Stall) : outline n (applyCorrs s m) = outline n s :=
  foldl_same (g := outline n) (f := fun s c => modChan s c applyCorr) (fun _ _ => rfl) _ _

theorem releaseChan_outline (n : Stall) (s : State) (seed : SeedIn) (c : Fin 48) : outline n (releaseChan s seed c) = outline n s :=
  ite_same (g := outline n) (seedChan_outline _ _ _ _) rfl

theorem releasePort_outline (n : Stall) (s : State) (m : Stall) (seed : SeedIn) (p : Fin 6) :
    outline n (releasePort s m seed p) = outline n s :=
  ite_same (g := outline n) rfl
    ((marker_outline _ _ _ _ _ _).trans (foldl_same (g := outline n) (fun s c => releaseChan_outline n s seed c) _ _))

theorem releaseStallChans_outline (n : Stall) (s : State) (m : Stall) (seed : SeedIn) :
    outline n (releaseStallChans s m seed) = outline n s :=
  foldl_same (g := outline n) (fun s p => releasePort_outline n s m seed p) _ _

theorem rearmStall_outline (n : Stall) (s : State) (m : Stall) (seed : SeedIn) : outline n (rearmStall s m seed) = outline n s := by
  unfold rearmStall
  refine (foldl_same (g := outline n) (fun _ _ => ?_) _ _).trans ((modEng_outline _ _ _ _).trans ?_)
  · rfl
  refine (foldl_same (g := outline n) (fun s c => setAgain_outline n s c _) _ _).trans ?_
  refine (releaseStallChans_outline _ _ _ _).trans ((applyCorrs_outline _ _ _).trans ((applyPending_outline _ _ _ _).trans ?_))
  exact foldl_same (g := outline n) (fun s c => releaseLatches_outline n s _ c) _ _

end Sys2Proof.Machine
end

section
/-! SUPPORT. The rows of a segment's end and open: the fill that is over, the furlong that is whole, the segment that is acknowledged, and the
next one that is due (R131, R195, R199, R204, R206, R220, R457). -/

namespace Sys2Proof.Machine

theorem tryFinish_of_going {s : State} {n : Stall} {c : Capture} (hc : s.stalls[n].cap = some c) (he : c.ended = none) : tryFinish s n = s := by
  unfold tryFinish
  rw [hc]
  dsimp only
  rw [he]

/-! ## Engines -/

theorem modCap_eng (s : State) (n : Stall) (f : Capture → Capture) : (modCap s n f).stalls[n].eng = s.stalls[n].eng := by
  change (vmod s.stalls n _)[n].eng = _
  rw [vmod_same]

theorem modEng_eng (s : State) (n : Stall) (f : Engine → Engine) : (modEng s n f).stalls[n].eng = f s.stalls[n].eng := by
  change (vmod s.stalls n _)[n].eng = _
  rw [vmod_same]

theorem modRef_eng (s : State) (n : Stall) (f : Reference → Reference) : (modRef s n f).stalls[n].eng = s.stalls[n].eng := by
  change (vmod s.stalls n _)[n].eng = _
  rw [vmod_same]

theorem stopEngine_eng (s : State) (n : Stall) : (stopEngine s n).stalls[n].eng =
    { s.stalls[n].eng with running := false, level := false, pulseEnd := none, storePend := none, final := none } := by
  rw [stopEngine_stall, if_pos rfl]

theorem fillSlice_eng (s : State) (n : Stall) : (fillSlice s n).stalls[n].eng = s.stalls[n].eng := by
  refine (modRef_eng _ _ _).trans ((foldl_same (g := fun s : State => s.stalls[n].eng) (fun s k => ?_) _ _).trans (modRef_eng _ _ _))
  unfold askDense
  dsimp only
  split <;> rfl

/-- A playback's end changes its terms alone of the engine (R160). -/
theorem endPlayback_running (s : State) (n : Stall) : (endPlayback s n).stalls[n].eng.running = s.stalls[n].eng.running := by
  have hterms (f : Reference → Reference) (l : Engine → List Flag) :
      (modEng (modRef s n f) n fun e => { e with refs := l e }).stalls[n].eng.running = s.stalls[n].eng.running := by rw [modEng_eng, modRef_eng]
  unfold endPlayback
  dsimp only
  split
  · rfl
  · split
    · rw [fillSlice_eng]
      exact hterms _ _
    · exact hterms _ _

/-! ## The end of the fill -/

section
variable {s : State} {n : Stall} {c : Capture} (hc : s.stalls[n].cap = some c)
include hc

theorem exec_postTriggerFillEnd_of_over (hf : fillOver s c = true) : exec (.postTriggerFillEnd n) s = .next (closeFill s n c) := by
  refine congrArg Host.Outcome.next ?_
  rw [hc]
  exact if_pos hf

theorem exec_postTriggerFillEnd_of_filling (hf : fillOver s c = false) : exec (.postTriggerFillEnd n) s = .next s := by
  refine congrArg Host.Outcome.next ?_
  rw [hc]
  exact if_neg (Bool.eq_false_iff.1 hf)

/-- In Gallop the segment closes at the end of the furlong of the fill's last stride (R131, R195). -/
theorem postTriggerFillEnd_gallop {x : Trig} (hf : fillOver s c = true) (hx : c.seg.trig = some x) (hg : c.arm.gait = .gallop) :
    ∃ u, exec (.postTriggerFillEnd n) s = .next u ∧ u.stalls[n].eng.running = false ∧ u.stalls[n].eng.storePend = none ∧
      u.stalls[n].cap = some { c with
        phase := .closing, closeCause := some 1
        lastStride := c.openAt + strides (((relStride c x.fillEnd).toNat / furlongStrides c + 1) * furlongStrides c) - 256 } := by
  have hclose : closeFill s n c = closeDense s n c 1 x.fillEnd := by
    unfold closeFill
    rw [hx]
    exact if_pos hg
  have heng : (closeDense s n c 1 x.fillEnd).stalls[n].eng.running = false ∧ (closeDense s n c 1 x.fillEnd).stalls[n].eng.storePend = none := by
    unfold closeDense
    dsimp only
    rw [modCap_eng, modEng_eng, stopEngine_eng]
    exact ⟨rfl, rfl⟩
  refine ⟨_, (exec_postTriggerFillEnd_of_over hc hf).trans (congrArg _ hclose), heng.1, heng.2, ?_⟩
  exact modCap_cap _ ((modEng_cap _ _ _).trans ((stopEngine_cap _ _).trans hc))

end

/-! ## The closing furlong -/

/-- The segment that a close holds (R197, R203, R217). -/
def heldAs (s : State) (n : Stall) (c : Capture) (cause tail : Nat) (endT : Time) : Seg :=
  cutSegment s.stalls[n].grant { c.seg with
    header := formHeader s n c cause tail, cause := BitVec.ofNat 6 cause, endTime := endT
    occupied := 1 + c.seg.ringBlocks + min c.seg.written c.seg.ring }

/-- The header has gone to its slice, and the engine and a playback have stopped (R152, R219, R341). -/
def headerGone (s : State) (n : Stall) (c : Capture) (l : List Rec) : State :=
  endPlayback (stopEngine (placeHeader s n c.seg.uid c.seg.start l) n) n

theorem headerGone_outline (s : State) (n : Stall) (c : Capture) (l : List Rec) : outline n (headerGone s n c l) = outline n s :=
  (endPlayback_outline _ _ _).trans ((stopEngine_outline _ _ _).trans (placeHeader_outline _ _ _ _ _ _))

theorem headerGone_running (s : State) (n : Stall) (c : Capture) (l : List Rec) : (headerGone s n c l).stalls[n].eng.running = false := by
  unfold headerGone
  rw [endPlayback_running, stopEngine_eng]

/-- A capture whose segment is held: the re-arm of 17 strides begins behind its last one (R199). -/
def inRearm (cause : Nat) (last : Time) (c : Capture) : Capture := { c with
  phase := .rearm, seg := {}, closeCause := some (BitVec.ofNat 6 cause), lastStride := last, openAt := last + strides 18
  part := [], dense := [], eventsLost := false, segStrides := [] }

/-- A segment is the newest of those held, and its capture is in re-arm (R199, R203). -/
def rearmed (s : State) (n : Stall) (y : Seg) (next : Nat) (fin : Option Time) (cause : Nat) (last : Time) : State :=
  modCap (modStall (modEng s n fun e => { e with final := fin }) n fun x => { x with held := x.held ++ [y], nextStart := next }) n
    (inRearm cause last)

theorem rearmed_stall (s : State) (n : Stall) (y : Seg) (next : Nat) (fin : Option Time) (cause : Nat) (last : Time) :
    (rearmed s n y next fin cause last).stalls[n] = { s.stalls[n] with
      eng := { s.stalls[n].eng with final := fin }, held := s.stalls[n].held ++ [y], nextStart := next
      cap := s.stalls[n].cap.map (inRearm cause last) } := by
  rw [rearmed, modCap_stalls, vmod_same, modStall_stalls, vmod_same, modEng_stalls, vmod_same]

theorem cutSegment_facts (g : Grant) (x : Seg) :
    (cutSegment g x).num = x.num ∧ (cutSegment g x).endTime = x.endTime ∧ (cutSegment g x).cause = x.cause := ⟨rfl, rfl, rfl⟩

theorem heldAs_facts (s : State) (n : Stall) (c : Capture) (cause tail : Nat) (endT : Time) :
    (heldAs s n c cause tail endT).num = c.seg.num ∧ (heldAs s n c cause tail endT).endTime = endT ∧
    (heldAs s n c cause tail endT).cause = BitVec.ofNat 6 cause := cutSegment_facts _ _

/-- In an arm without a last segment a close ends in re-arm (R206). -/
theorem holdSegment_of_endless (s : State) (n : Stall) {c : Capture} (cause tail : Nat) (endT last : Time) (hs : c.arm.segments = 0) :
    ∃ v y next fin, holdSegment s n c cause tail endT last = rearmed v n y next fin cause last ∧ outline n v = outline n s ∧
      v.stalls[n].eng.running = false ∧ y.num = c.seg.num ∧ y.endTime = endT ∧ y.cause = BitVec.ofNat 6 cause :=
  ⟨_, _, _, _, if_neg fun h => h.2.1 hs, headerGone_outline _ _ _ _, headerGone_running _ _ _ _, heldAs_facts _ _ _ _ _ _⟩

/-- The requests of the stride are given, and what a close still writes stands behind the side records (R132, R198). -/
def furlongRest (s : State) (n : Stall) : State :=
  modCap (sideRest (giveTriggers s n) n).1 n fun c => { c with sideQ := c.sideQ ++ (sideRest (giveTriggers s n) n).2.flatten }

/-- The tail of a capture's last furlong is written (R131, R205). -/
def tailWritten (s : State) (n : Stall) (c : Capture) : State :=
  placeBlocks (modCap s n fun c' => { c' with sideQ := [], eventsLost := c'.eventsLost || decide ((tailOf c).length < c'.sideQ.length) }) n
    (blocksOf (tailOf c) (ceilDiv (tailOf c).length 16))

theorem furlongRest_outline (s : State) (n : Stall) : outline n (furlongRest s n) = outline n s :=
  (modCap_outline _ _ _).trans ((sideRest_outline _ _ _).trans (giveTriggers_outline _ _ _))

theorem tailWritten_outline (s : State) (n : Stall) (c : Capture) : outline n (tailWritten s n c) = outline n s :=
  (placeBlocks_outline _ _ _ _).trans (modCap_outline _ _ _)

/-- A whole closing furlong is followed by its tail, and the segment is held (R131). -/
theorem closeFurlong_of_done {s : State} {n : Stall} {c a b : Capture} (hc : s.stalls[n].cap = some c) (hd : furlongDone c = true)
    (ha : (furlongRest s n).stalls[n].cap = some a) (hb : (tailWritten (furlongRest s n) n a).stalls[n].cap = some b) :
    closeFurlong s n = holdSegment (tailWritten (furlongRest s n) n a) n b (b.closeCause.getD 0).toNat (ceilDiv (tailOf a).length 16)
      (b.lastStride + 256) b.lastStride := by
  unfold closeFurlong
  rw [hc]
  dsimp only
  rw [if_neg (by rw [hd]; exact Bool.false_ne_true)]
  simp only [furlongRest] at ha
  simp only [ha]
  simp only [tailWritten, furlongRest] at hb
  simp only [hb]
  rfl

/-- The close of a whole furlong ends in re-arm, in an arm without a last segment (R131, R197, R199). -/
theorem closeFurlong_rearms {s : State} {n : Stall} {c : Capture} (hc : s.stalls[n].cap = some c) (hd : furlongDone c = true)
    (hs : c.arm.segments = 0) : ∃ v y next fin, closeFurlong s n = rearmed v n y next fin (c.closeCause.getD 0).toNat c.lastStride ∧
      outline n v = outline n s ∧ v.stalls[n].eng.running = false ∧ y.num = c.seg.num ∧ y.endTime = c.lastStride + 256 ∧
      y.cause = c.closeCause.getD 0 := by
  have hrest := furlongRest_outline s n
  obtain ⟨a, ha, -⟩ := cap_of_outline hrest hc
  have htail := (tailWritten_outline (furlongRest s n) n a).trans hrest
  obtain ⟨b, hb, hsketch⟩ := cap_of_outline htail hc
  have harm : b.arm = c.arm := congrArg (·.arm) hsketch
  have hlast : b.lastStride = c.lastStride := congrArg (·.lastStride) hsketch
  have hcause : b.closeCause = c.closeCause := congrArg (·.closeCause) hsketch
  have hnum : b.seg.num = c.seg.num := congrArg (·.seg.num) hsketch
  obtain ⟨v, y, next, fin, hhold, hout, hrun, hynum, hyend, hycause⟩ := holdSegment_of_endless (tailWritten (furlongRest s n) n a) n
    (b.closeCause.getD 0).toNat (ceilDiv (tailOf a).length 16) (b.lastStride + 256) b.lastStride (harm ▸ hs)
  refine ⟨v, y, next, fin, ?_, hout.trans htail, hrun, hynum.trans hnum, hlast ▸ hyend, ?_⟩
  · rw [closeFurlong_of_done hc hd ha hb, hhold, hcause, hlast]
  · rw [hycause, hcause, BitVec.ofNat_toNat, BitVec.setWidth_eq]

section
variable {s : State} {n : Stall} {c : Capture} (hc : s.stalls[n].cap = some c)
include hc

theorem exec_gallopFurlongClose_of_part (hd : furlongDone c = false) : exec (.gallopFurlongClose n) s = .next s := by
  refine congrArg Host.Outcome.next ?_
  rw [hc]
  exact if_neg (Bool.eq_false_iff.1 hd)

theorem exec_gallopFurlongClose_of_done (hd : furlongDone c = true) :
    exec (.gallopFurlongClose n) s = .next (tryFinish (closeFurlong s n) n) := by
  refine congrArg Host.Outcome.next ?_
  rw [hc]
  exact if_pos hd

/-- The segment of a whole closing furlong is held, and the re-arm of 17 strides begins (R131, R197, R199). -/
theorem gallopFurlongClose_holds (hd : furlongDone c = true) (he : c.ended = none) (hs : c.arm.segments = 0) :
    ∃ u d x, exec (.gallopFurlongClose n) s = .next u ∧ u.stalls[n].cap = some d ∧ d.phase = .rearm ∧
      d.openAt = c.lastStride + strides 18 ∧ d.closeCause.isSome = true ∧ u.stalls[n].held = s.stalls[n].held ++ [x] ∧
      x.num = c.seg.num ∧ x.endTime = c.lastStride + 256 ∧ x.cause = (c.closeCause.getD 0) ∧ u.stalls[n].eng.running = false := by
  obtain ⟨v, y, next, fin, hclose, hout, hrun, hnum, hend, hcause⟩ := closeFurlong_rearms hc hd hs
  obtain ⟨d, hcap, hsketch⟩ := cap_of_outline hout hc
  have hstall := rearmed_stall v n y next fin (c.closeCause.getD 0).toNat c.lastStride
  rw [hcap] at hstall
  have hrearm := congrArg (·.cap) hstall
  have hended : d.ended = none := (congrArg (·.ended) hsketch).trans he
  refine ⟨rearmed v n y next fin (c.closeCause.getD 0).toNat c.lastStride, _, y, ?exec, hrearm, rfl, rfl, rfl, ?held, hnum, hend, hcause, ?stop⟩
  case exec => rw [exec_gallopFurlongClose_of_done hc hd, hclose, tryFinish_of_going hrearm hended]
  case held => exact (congrArg (·.held) hstall).trans (congrArg (· ++ [y]) (held_of_outline hout))
  case stop => exact (congrArg (·.eng.running) hstall).trans hrun

end

/-! ## The open of a segment -/

theorem applyRetire_of_none_pending {s : State} {n : Stall} (h : s.dram.retirePend = []) : applyRetire s n = s := by
  unfold applyRetire
  refine if_neg (Bool.eq_false_iff.1 (List.any_eq_false.2 fun p _ => ?_))
  rw [h]
  exact Bool.false_ne_true

/-- A region that the free blocks hold is the next ring (R204, R206). -/
theorem makeRoom_of_room {s : State} {n : Stall} {c : Capture} (hr : c.arm.region ≠ 0) (hw : c.arm.wrap = false)
    (hfree : 1 + c.arm.region ≤ freeBlocks s n) (hlive : (liveSegs s n).length < 2 ^ 20) : makeRoom s n c 0 = (s, some c.arm.region) := by
  unfold makeRoom
  dsimp only
  rw [if_pos hr, hw, if_neg Bool.false_ne_true]
  exact if_neg (not_or.2 ⟨hfree.not_gt, fun h => hlive.not_ge h.1⟩)

/-- The stall captures, and its capture holds the new segment (R199, R203). -/
def newlyOpen (s : State) (n : Stall) (ring : Nat) : State :=
  modCap (modStall s n fun x => { x with st := .capturing }) n fun c => newSegment s n c ring (courseOf s n).startStored

theorem openSegment_outline (s : State) (n : Stall) (seed : SeedIn) (ring : Nat) :
    outline n (openSegment s n seed ring) = outline n (newlyOpen s n ring) :=
  (flushSide_outline _ _ _).trans ((dueKey_outline _ _ _).trans
    ((modCap_outline _ _ _).trans ((rearmStall_outline _ _ _ _).trans (modStall_outline _ _ _))))

/-- A segment opens at the current stride, in its ring and with its number (R199, R203, R206). -/
theorem openSegment_opens {s : State} {n : Stall} {c : Capture} (seed : SeedIn) (ring : Nat) (hc : s.stalls[n].cap = some c) :
    (openSegment s n seed ring).stalls[n].st = .capturing ∧ ∃ d, (openSegment s n seed ring).stalls[n].cap = some d ∧ d.phase = .running ∧
      d.openAt = s.tb.now ∧ d.segNo = c.segNo + 1 ∧ d.seg.num = BitVec.ofNat 20 c.segNo ∧ d.seg.ring = ring := by
  have hst : (newlyOpen s n ring).stalls[n].st = .capturing := by
    rw [newlyOpen, modCap_stalls, vmod_same, modStall_stalls, vmod_same]
  have hcap : (newlyOpen s n ring).stalls[n].cap = some (newSegment s n c ring (courseOf s n).startStored) :=
    modCap_cap _ ((modStall_cap _ _).trans hc)
  have hout := openSegment_outline s n seed ring
  obtain ⟨d, hd, hsketch⟩ := cap_of_outline hout hcap
  exact ⟨(st_of_outline hout).trans hst, d, hd, congrArg (·.phase) hsketch, congrArg (·.openAt) hsketch, congrArg (·.segNo) hsketch,
    congrArg (·.seg.num) hsketch, congrArg (·.seg.ring) hsketch⟩

section
variable {s : State} {n : Stall} {c : Capture} (seed : SeedIn) (hc : s.stalls[n].cap = some c)
include hc

theorem exec_segmentOpen_of_not_due (hd : openDue s c = false) : exec (.segmentOpen n seed) s = .next s := by
  refine congrArg Host.Outcome.next ?_
  rw [hc]
  exact if_pos (by rw [hd]; rfl)

section
variable (hd : openDue s c = true) {u : State}
include hd

/-- Without room the arm ends with reason 2 (R206, R458). -/
theorem exec_segmentOpen_of_full (hm : makeRoom (applyRetire s n) n c 0 = (u, none)) :
    exec (.segmentOpen n seed) s = .next (settleIdle (tryFinish (markEnd u n 2) n) n seed) := by
  refine congrArg Host.Outcome.next ?_
  rw [hc]
  dsimp only
  rw [if_neg (by rw [hd]; exact Bool.false_ne_true), hm]

theorem exec_segmentOpen_of_room {ring : Nat} (hm : makeRoom (applyRetire s n) n c 0 = (u, some ring)) :
    exec (.segmentOpen n seed) s = .next (openSegment u n seed ring) := by
  refine congrArg Host.Outcome.next ?_
  rw [hc]
  dsimp only
  rw [if_neg (by rw [hd]; exact Bool.false_ne_true), hm]

end

end

/-! ## The acknowledged close -/

/-- Nothing waits for the close of an earlier segment in a capture whose segment is open: the close changes nothing more (R432, R453). -/
theorem afterClosed_of_going {s : State} {n : Stall} {c : Capture} (num : BitVec 20) (seed : SeedIn) (hc : s.stalls[n].cap = some c)
    (hp : c.phase = .running) (he : c.ended = none) (hf : c.flush = []) (ht : c.heldTrigger = []) :
    settleIdle (tryFinish (sendHeld (flushMarks s n num) n) n) n seed = s := by
  have hmarks : flushMarks s n num = s := by
    have hkeep : (modCap s n fun c => { c with flush := c.flush.filter fun q => q.seg != num }) = s :=
      modCap_eq_self hc (by rw [hf, List.filter_nil, ← hf])
    unfold flushMarks
    rw [hc]
    dsimp only
    rw [hkeep, hf]
    rfl
  have hsend : sendHeld s n = s := by
    unfold sendHeld
    rw [hc]
    dsimp only
    rw [ht, sendHeldList]
  have hopen : segmentOpen s n = true := by
    unfold segmentOpen
    rw [hc, Option.any_some, hp]
    rfl
  rw [hmarks, hsend, tryFinish_of_going hc he]
  exact if_pos (by rw [hopen, Bool.or_true])

/-- A held segment is acknowledged whole: it is counted, and it goes if it was deleted (R207, R220). -/
def acknowledged (x : Seg) (y : StallState) : StallState := { y with
  segsClosed := satAdd 32 y.segsClosed 1
  held := (y.held.map fun h => if h.uid = x.uid then { h with closed := true } else h).filter fun h => !(h.closed && h.gone) }

section
variable {s : State} {n : Stall} {x : Seg} (seed : SeedIn) (hx : (s.stalls[n].held.find? fun x => !x.closed) = some x)
include hx

theorem exec_segmentClosed_of_owed (h : x.unacked ≠ 0 ∨ x.hdrAcked = false) : exec (.segmentClosed n seed) s = .next s := by
  refine congrArg Host.Outcome.next ?_
  rw [hx]
  exact if_pos (h.imp_right Bool.eq_false_iff.1)

section
variable (hu : x.unacked = 0) (hh : x.hdrAcked = true)
include hu hh

/-- The oldest closed segment is reported (R220, R457). -/
theorem exec_segmentClosed_of_acked {u : State} (hm : u = modStall s n (acknowledged x)) : exec (.segmentClosed n seed) s =
    .next (settleIdle (tryFinish (sendHeld (flushMarks (sendEvent u n (closedEvent u n x)) n x.num) n) n) n seed) := by
  subst hm
  refine congrArg Host.Outcome.next ?_
  rw [hx]
  exact if_neg (not_or.2 ⟨not_not_intro hu, not_not_intro hh⟩)

theorem exec_segmentClosed_of_going {u : State} {c : Capture} (hm : u = modStall s n (acknowledged x)) (hc : s.stalls[n].cap = some c)
    (hp : c.phase = .running) (he : c.ended = none) (hf : c.flush = []) (ht : c.heldTrigger = []) :
    exec (.segmentClosed n seed) s = .next (sendEvent u n (closedEvent u n x)) := by
  have hcap : (sendEvent u n (closedEvent u n x)).stalls[n].cap = some c := by
    rw [told_cap (told_of_answersOnly (sendEvent_answers _ _ _)), hm, modStall_cap, hc]
  rw [exec_segmentClosed_of_acked seed hx hu hh hm, afterClosed_of_going x.num seed hcap hp he hf ht]

end

end

/-- Settles O44, row by row: the end of the fill, the closing furlong, the open, and the acknowledged close. -/
theorem segmentsCloseAndOpen : Obligations.SegmentsCloseAndOpen := by
  intro s n
  refine ⟨fun c hc => ⟨exec_postTriggerFillEnd_of_over hc, fun x => postTriggerFillEnd_gallop hc, exec_postTriggerFillEnd_of_filling hc,
      exec_gallopFurlongClose_of_part hc, exec_gallopFurlongClose_of_done hc, gallopFurlongClose_holds hc,
      fun seed u ring hd hm => ⟨fun hr => ?full, fun k hr => ?room⟩, fun seed => exec_segmentOpen_of_not_due seed hc,
      fun seed hd hr hreg hw hfree hlive => ?opens⟩,
    fun seed x hx => ⟨exec_segmentClosed_of_owed seed hx, fun hu hh u hm => ⟨exec_segmentClosed_of_acked seed hx hu hh hm,
      fun c hc => exec_segmentClosed_of_going seed hx hu hh hm hc⟩⟩⟩
  case full => exact exec_segmentOpen_of_full seed hc hd (hr ▸ hm)
  case room => exact exec_segmentOpen_of_room seed hc hd (hr ▸ hm)
  case opens =>
    have hroom : makeRoom (applyRetire s n) n c 0 = (s, some c.arm.region) := by
      rw [applyRetire_of_none_pending hr, makeRoom_of_room hreg hw hfree hlive]
    obtain ⟨hst, d, hd'⟩ := openSegment_opens seed c.arm.region hc
    exact ⟨_, d, exec_segmentOpen_of_room seed hc hd hroom, hst, hd'⟩

end Sys2Proof.Machine
end

section
/-! SUPPORT. COURSE_LOAD on the command in hand: who may load, when, the form of its operands, and the read of the image (R142, R145, R180, R426). -/

open Sys2Proof.Claims

namespace Sys2Proof.Machine

@[simp] theorem armedOrCapturing_freed (s : State) (n : Stall) : armedOrCapturing (freed s) n = armedOrCapturing s n := rfl

theorem not_isNone_of_isSome {α : Type} {o : Option α} (h : o.isSome = true) : ¬ o.isNone = true :=
  mt Option.isNone_iff_eq_none.1 (Option.isSome_iff_ne_none.1 h)

/-- The image of a COURSE_LOAD waits to be read, behind those of the loads before it (R426). -/
def courseAwaited (s : State) (t : Taken) : State :=
  modGroom (handOff (freed s) t .read 0) fun g => { g with
    courseQ := g.courseQ ++ [{ fn := t.fn, tag := tagOf t.e, len := bits (dw t.e 4) 12 0 }] }

/-- The read of the image is issued (R374, R426). -/
def imageAsked (s : State) (t : Taken) : State :=
  issueRead (courseAwaited s t) t.fn (tagOf t.e) .image (wide t.e 2) (bits (dw t.e 4) 12 0)

theorem imageAsked_groom (s : State) (t : Taken) :
    (imageAsked s t).groom.courseQ = s.groom.courseQ ++ [{ fn := t.fn, tag := tagOf t.e, len := bits (dw t.e 4) 12 0 }] ∧
    (imageAsked s t).groom.reads = s.groom.reads ++ [{ id := s.groom.nextRead, fn := t.fn, stall := t.fn, tag := tagOf t.e,
                                                       purpose := .image, addr := wide t.e 2, len := bits (dw t.e 4) 12 0 }] :=
  ⟨rfl, rfl⟩

theorem imageAsked_out (s : State) (t : Taken) :
    (imageAsked s t).out = s.out ++ readRequests s t.fn s.groom.nextRead (wide t.e 2) (bits (dw t.e 4) 12 0) := rfl

section
variable {s : State} {t : Taken} (h : InHand s t 0x30)
include h

/-- Without an engine there is nothing to load (R142, R361). -/
theorem exec_courseLoad_of_no_engine (he : s.stalls[t.fn].grant.engine = none) :
    exec .courseLoad s = .next (deny (freed s) t .notGranted 4 0) :=
  congrArg Host.Outcome.next ((withCmd_inHand h).trans (if_pos (Option.isNone_iff_eq_none.2 he)))

section
variable (he : s.stalls[t.fn].grant.engine.isSome = true)
include he

/-- A stall that may run its course keeps it (R145, R180). -/
theorem exec_courseLoad_of_armed (ha : armedOrCapturing s t.fn = true) : exec .courseLoad s = .next (complete (freed s) t .busy) :=
  congrArg Host.Outcome.next ((withCmd_inHand h).trans ((if_neg (not_isNone_of_isSome he)).trans (if_pos ha)))

/-- Operands in form, of an image no longer than the longest: its read is issued (R426). -/
theorem exec_courseLoad_of_form (ha : armedOrCapturing s t.fn = false)
    (hr : reservedBit t.e [0xFFFFFFFF, 0xFFFFFFFF, 0x1FFF] = none) (halign : bits (dw t.e 2) 2 0 = 0)
    (hpos : bits (dw t.e 4) 12 0 ≠ 0) (hmax : bits (dw t.e 4) 12 0 ≤ 5664) : exec .courseLoad s = .next (imageAsked s t) := by
  have hlen : ¬ (bits (dw t.e 4) 12 0 = 0 ∨ 5664 < bits (dw t.e 4) 12 0) := not_or.2 ⟨hpos, hmax.not_gt⟩
  refine congrArg Host.Outcome.next ((withCmd_inHand h).trans ((if_neg (not_isNone_of_isSome he)).trans ?_))
  rw [armedOrCapturing_freed, ha, if_neg Bool.false_ne_true, hr]
  exact (if_neg (not_not_intro halign)).trans (if_neg hlen)

end

end

/-- Settles O19, by the checks in their order: the engine, the stall's state, and the form of the operands. -/
theorem courseLoadReadsTheImage : Obligations.CourseLoadReadsTheImage := by
  intro s t h
  refine ⟨exec_courseLoad_of_no_engine h, exec_courseLoad_of_armed h, fun he ha hr halign hpos hmax => ?_⟩
  have hx := exec_courseLoad_of_form h he ha hr halign hpos hmax
  obtain ⟨hqueue, hreads⟩ := imageAsked_groom s t
  exact ⟨hx, _, hx, hqueue, hreads, imageAsked_out s t⟩

end Sys2Proof.Machine
end

section
/-! SUPPORT. The end of uploads, of held segments that are deleted and of retired parcels leaves each stall's state, capture and engine; and with
it the end of an arm whose segments are all acknowledged (R233, R235, R326, R453). -/

namespace Sys2Proof.Machine

/-- What a stall is doing: its state, its capture and its engine. -/
def doing (n : Stall) (s : State) : StallSt × Option Capture × Engine := (s.stalls[n].st, s.stalls[n].cap, s.stalls[n].eng)

theorem doing_of_stalls {n : Stall} {s t : State} (h : t.stalls = s.stalls) : doing n t = doing n s := by
  unfold doing
  rw [h]

theorem doing_of_told {n : Stall} {s t : State} (h : told s t) : doing n t = doing n s := by
  unfold doing
  rw [h.2 n]

theorem modStall_doing (n : Stall) (s : State) (m : Stall) {f : StallState → StallState}
    (h : ∀ x, ((f x).st, (f x).cap, (f x).eng) = (x.st, x.cap, x.eng) := by exact fun _ => rfl) : doing n (modStall s m f) = doing n s :=
  modStall_view (g := fun x => (x.st, x.cap, x.eng)) s m n h

theorem sendEvent_doing (n : Stall) (s : State) (f : Fn) (e : CqEntry) : doing n (sendEvent s f e) = doing n s :=
  doing_of_told (told_of_answersOnly (sendEvent_answers s f e))

theorem completeTag_doing (n : Stall) (s : State) (f : Fn) (tag : BitVec 16) (st : Status) (p : Pay) :
    doing n (completeTag s f tag st p) = doing n s := doing_of_told (told_of_answersOnly (completeTag_answers s f tag st p))

/-! ## The end of uploads -/

theorem readChunk_stalls (s : State) (u : UploadJob) : (readChunk s u).stalls = s.stalls := by
  refine foldl_same (g := State.stalls) (fun s x => ?_) _ s
  dsimp only
  split <;> rfl

theorem issueChunks_stalls (k : Nat) (s : State) : (issueChunks k s).stalls = s.stalls := by
  induction k generalizing s with
  | zero => rfl
  | succ k ih =>
    unfold issueChunks
    split
    · rfl
    · exact (ih _).trans (readChunk_stalls _ _)

theorem takeComp_stalls (s : State) (k : Fin 4) : (takeComp s k).stalls = s.stalls := by
  unfold takeComp
  refine ite_same (g := State.stalls) rfl ?_
  split
  · rfl
  · split <;> rfl

theorem startUploads_stalls (s : State) : (startUploads s).stalls = s.stalls :=
  (foldl_same (g := State.stalls) takeComp_stalls _ _).trans (issueChunks_stalls _ _)

theorem endUpload_doing (n : Stall) (s : State) (u : UploadJob) (st : Status) : doing n (endUpload s u st) = doing n s := by
  unfold endUpload
  dsimp only
  split
  · exact doing_of_stalls (startUploads_stalls _)
  · refine (doing_of_stalls (startUploads_stalls _)).trans ((foldl_same (g := doing n) (fun s c => ?_) _ _).trans ?_)
    · exact completeTag_doing _ _ _ _ _ _
    · exact completeTag_doing _ _ _ _ _ _

theorem killUploads_doing (n : Stall) (p : UploadJob → Bool) (k : Nat) (s : State) : doing n (killUploads p k s) = doing n s := by
  induction k generalizing s with
  | zero => rfl
  | succ k ih =>
    unfold killUploads
    split
    · rfl
    · exact (ih _).trans (endUpload_doing _ _ _ _)

/-! ## Held segments and retired parcels -/

theorem deleteHeld_doing (n : Stall) (s : State) (m : Stall) (keep : Seg → Bool) : doing n (deleteHeld s m keep) = doing n s :=
  (killUploads_doing _ _ _ _).trans (modStall_doing _ _ _)

theorem changePolder_doing (n : Stall) (s : State) (m : Stall) (parcels refArea : List Nat) :
    doing n (changePolder s m parcels refArea).1 = doing n s :=
  (modStall_doing _ _ _).trans (deleteHeld_doing _ _ _ _)

theorem applyRetire_doing (n : Stall) (s : State) (m : Stall) : doing n (applyRetire s m) = doing n s :=
  ite_same (g := doing n) (changePolder_doing n s m _ _) rfl

/-! ## The end of an arm -/

theorem stopEngine_st (s : State) (n : Stall) : (stopEngine s n).stalls[n].st = s.stalls[n].st := by
  rw [stopEngine_stall, if_pos rfl]

/-- The end of an arm leaves its stall idle, without a capture and with its engine stopped, unless the stall is in its reset sequence (R152,
R453). -/
theorem finishArm_idle {s : State} {n : Stall} (c : Capture) (reason : BitVec 8) (h : s.stalls[n].st ≠ .resetting) :
    (finishArm s n c reason).stalls[n].cap = none ∧ (finishArm s n c reason).stalls[n].st = .idle ∧
    (finishArm s n c reason).stalls[n].eng.running = false := by
  have htold : doing n (c.stops.foldl (fun u q => completeTag u q.fn q.tag .ok
      { p4 := flag q.closed 31 ||| fld q.num.toNat 0, p5 := fld s.stalls[n].segsClosed 0 })
      (if reason = 0 then s else sendEvent s n (event 3 n.val c.doneAt (fld reason.toNat 24 ||| fld (sat 21 s.stalls[n].segsClosed) 0) 0 0 0))) =
      doing n s :=
    (foldl_same (g := doing n) (fun _ _ => completeTag_doing _ _ _ _ _ _) _ _).trans (ite_same (g := doing n) rfl (sendEvent_doing _ _ _ _))
  unfold finishArm
  dsimp only
  generalize c.stops.foldl _ _ = u at htold ⊢
  have hst : u.stalls[n].st = s.stalls[n].st := congrArg Prod.fst htold
  have hretire := applyRetire_doing n (modStall (stopEngine u n) n fun x => { x with
    cap := none, st := if x.st = .resetting then .resetting else .idle }) n
  unfold doing at hretire
  rw [modStall_stalls, vmod_same, stopEngine_eng, stopEngine_st, hst, if_neg h] at hretire
  exact ⟨congrArg (fun x => x.2.1) hretire, congrArg Prod.fst hretire, congrArg (fun x => x.2.2.running) hretire⟩

end Sys2Proof.Machine
end

section
/-! SUPPORT. CAPTURE_STOP, CAPTURE_FORCE and CAPTURE_MARK on the command in hand (R184, R221, R430 to R432). -/

open Sys2Proof.Claims

namespace Sys2Proof.Machine

theorem modCap_stall (s : State) (n : Stall) (f : Capture → Capture) :
    (modCap s n f).stalls[n] = { s.stalls[n] with cap := s.stalls[n].cap.map f } := vmod_same _ _ _

/-! ## Stop -/

theorem dropOwed_phase (c : Capture) : (dropOwed c).phase = c.phase := by
  unfold dropOwed
  split <;> rfl

/-- The close of a capture that has no segment open decides its end alone (R206, R458). -/
theorem closeCapture_of_not_running {s : State} {n : Stall} {c : Capture} (cause reason : Nat) (h : s.stalls[n].cap = some c)
    (hp : c.phase ≠ .running) (he : c.ended = none) :
    closeCapture s n cause (some reason) = tryFinish (markEnd (modCap s n dropOwed) n reason) n := by
  unfold closeCapture
  rw [h]
  dsimp only
  rw [raiseCause_of_open _ _ he, if_pos hp]
  rfl

/-- An arm at its end is over when no segment is open or waits for its acknowledgements (R220, R453). -/
theorem tryFinish_of_ended {s : State} {n : Stall} {c : Capture} {r : BitVec 8} (h : s.stalls[n].cap = some c) (he : c.ended = some r)
    (hp : c.phase ≠ .running) (hq : c.phase ≠ .closing) (hh : ∀ x ∈ s.stalls[n].held, x.closed = true) :
    tryFinish s n = finishArm s n c r := by
  have hheld : ¬ (s.stalls[n].held.any fun x => !x.closed) = true := by simpa using hh
  unfold tryFinish
  rw [h]
  dsimp only
  rw [he]
  exact if_neg (not_or.2 ⟨hp, not_or.2 ⟨hq, hheld⟩⟩)

/-- A stop before the first segment opens, with every held segment acknowledged, ends the capture (R206, R430, R453). -/
theorem stopCapture_of_armed {s : State} {n : Stall} {c : Capture} (h : s.stalls[n].cap = some c) (hp : c.phase = .armed)
    (he : c.ended = none) (hst : s.stalls[n].st = .armed) (hh : ∀ x ∈ s.stalls[n].held, x.closed = true) :
    (stopCapture s n).stalls[n].cap = none ∧ (stopCapture s n).stalls[n].st = .idle ∧ (stopCapture s n).stalls[n].eng.running = false := by
  have hphase : (dropOwed c).phase = .armed := (dropOwed_phase c).trans hp
  have hcap := markEnd_cap 3 (modCap_cap dropOwed h) ((dropOwed_ended c).trans he)
  have hstall : (markEnd (modCap s n dropOwed) n 3).stalls[n] = { s.stalls[n] with
      cap := (markEnd (modCap s n dropOwed) n 3).stalls[n].cap } := by
    unfold markEnd
    rw [modCap_stall, modCap_stall]
  have hdone : stopCapture s n = finishArm (markEnd (modCap s n dropOwed) n 3) n
      { dropOwed c with ended := some 3, doneAt := (modCap s n dropOwed).tb.now } 3 := by
    refine (closeCapture_of_not_running 2 3 h (hp ▸ by decide) he).trans (tryFinish_of_ended hcap rfl ?_ ?_ ?_)
    · exact hphase ▸ by decide
    · exact hphase ▸ by decide
    · rw [hstall]; exact hh
  rw [hdone]
  refine finishArm_idle _ _ ?_
  rw [hstall]
  exact hst ▸ by decide

/-- The stop waits for the close that it asks for (R430). -/
def withStop (s : State) (t : Taken) (c : Capture) : Capture := { c with
  stops := c.stops ++ [{ tag := tagOf t.e, fn := t.fn, closed := (stopCloses s t.fn).isSome, num := (stopCloses s t.fn).getD 0 }] }

/-- CAPTURE_STOP is handed off, and its stall's capture knows of it (R430). -/
def stopAwaited (s : State) (t : Taken) : State := modCap (handOff (freed s) t .stop 0) t.fn (withStop s t)

theorem handOff_stall (s : State) (t : Taken) (w : Work) (total : Nat) :
    ∃ l, (handOff s t w total).stalls[t.fn] = { s.stalls[t.fn] with outst := l } := ⟨_, vmod_same _ _ _⟩

theorem stopAwaited_stall (s : State) (t : Taken) :
    ∃ l, (stopAwaited s t).stalls[t.fn] = { s.stalls[t.fn] with outst := l, cap := s.stalls[t.fn].cap.map (withStop s t) } := by
  obtain ⟨l, hl⟩ := handOff_stall (freed s) t .stop 0
  refine ⟨l, (modCap_stall _ _ _).trans ?_⟩
  rw [hl]
  rfl

section
variable {s : State} {t : Taken} (h : InHand s t 0x39) (hr : reservedBit t.e [] = none)
include h hr

theorem exec_captureStop_of_none (hc : s.stalls[t.fn].cap = none) :
    exec .captureStop s = .next (completeAt (freed s) t .ok { p5 := fld s.stalls[t.fn].segsClosed 0 }) := by
  refine congrArg Host.Outcome.next ((withCmd_inHand h).trans ?_)
  rw [hr]
  exact if_pos (Option.isNone_iff_eq_none.2 hc)

theorem exec_captureStop_of_some (hc : s.stalls[t.fn].cap.isSome = true) :
    exec .captureStop s = .next (stopCapture (stopAwaited s t) t.fn) := by
  refine congrArg Host.Outcome.next ((withCmd_inHand h).trans ?_)
  rw [hr]
  exact if_neg (not_isNone_of_isSome hc)

end

/-! ## Force -/

/-- A trigger that no exit fired is never masked: the first of an open segment is taken (R184, R193, R194). -/
theorem requestTrigger_taken {s : State} {n : Stall} {c : Capture} {q : TrigReq} (h : s.stalls[n].cap = some c) (hp : c.phase = .running)
    (ht : c.seg.trig = none) (hq : q.source = none) : requestTrigger s n q = (takeTrigger s n c q, .taken) := by
  have hfill : ¬ fillOver s c = true := by
    unfold fillOver
    rw [ht]
    exact Bool.false_ne_true
  have hmask : ¬ trigMasked c q = true := by
    unfold trigMasked
    rw [hq, Option.isSome_none, Bool.and_false, Bool.false_and]
    exact Bool.false_ne_true
  have hopen : requestOpen s n c q = (takeTrigger s n c q, .taken) := by
    unfold requestOpen
    rw [ht, Option.isSome_none, if_neg Bool.false_ne_true, if_neg hmask]
  unfold requestTrigger
  rw [h]
  dsimp only
  rw [if_neg hfill, h]
  dsimp only
  rw [hp]
  exact hopen

/-- The segment has the trigger, with its placement, its kind and its exactness (R182, R195). -/
theorem takeTrigger_cap {s : State} {n : Stall} {c : Capture} (q : TrigReq) (h : s.stalls[n].cap = some c) :
    ∃ d x, (takeTrigger s n c q).stalls[n].cap = some d ∧ d.seg.trig = some x ∧ x.time = q.time ∧ x.kind = q.kind ∧ x.exact = q.exact :=
  ⟨_, _, modCap_cap _ (modCap_cap _ h), rfl, rfl, rfl, rfl⟩

theorem completeAt_cap (s : State) (t : Taken) (st : Status) (p : Pay) (n : Stall) :
    (completeAt s t st p).stalls[n].cap = s.stalls[n].cap := told_cap (told_of_answersOnly (completeAt_answers s t st p)) n

section
variable {s : State} {t : Taken} (h : InHand s t 0x3A)
include h

theorem exec_captureForce_of_armed (hst : s.stalls[t.fn].st = .armed) : exec .captureForce s = .next (complete (freed s) t .busy) :=
  congrArg Host.Outcome.next ((withCmd_inHand h).trans (if_pos hst))

theorem exec_captureForce_of_capturing (hr : reservedBit t.e [] = none) (hst : s.stalls[t.fn].st = .capturing) :
    exec .captureForce s = .next (completeAt (forceTrigger (freed s) t.fn).1 t .ok (forcePay (forceTrigger (freed s) t.fn).2 s.tb.now)) := by
  have harmed : ¬ (freed s).stalls[t.fn].st = .armed := fun k => by cases hst.symm.trans k
  refine congrArg Host.Outcome.next ((withCmd_inHand h).trans ((if_neg harmed).trans ?_))
  rw [hr]
  exact if_neg (not_not_intro hst)

end

/-- A forced trigger of an open segment that has none is the segment's, at the system time of the state (R184, R431; log entry 224). -/
theorem forceTrigger_open {s : State} {n : Stall} {c : Capture} (h : s.stalls[n].cap = some c) (hp : c.phase = .running)
    (ht : c.seg.trig = none) : ∃ d x, (forceTrigger s n).1.stalls[n].cap = some d ∧ d.seg.trig = some x ∧ x.time = s.tb.now ∧ x.kind = 3 ∧
      x.exact = false := by
  unfold forceTrigger
  rw [requestTrigger_taken h hp ht rfl]
  exact takeTrigger_cap _ h

/-! ## Mark -/

/-- Event records that find room, with no overflow marker owed, stand last in the queue (R136). -/
theorem queueRecs_evQueue {s : State} {n : Stall} {l : List Rec} (hlost : s.stalls[n].evLostCount = 0) (hroom : evCount s + l.length ≤ 1024) :
    (queueRecs s n l).groom.evQueue = s.groom.evQueue ++ [{ stall := n, recs := l }] := by
  unfold queueRecs
  dsimp only
  rw [hlost, if_pos rfl, List.length_nil, Nat.add_zero, if_pos hroom]
  rfl

theorem marker_evQueue {s : State} {n : Stall} (kind : Nat) (t : Time) (d : BitVec 64) (hrec : recording s n = true)
    (hlost : s.stalls[n].evLostCount = 0) (hroom : evCount s ≤ 1022) :
    (marker s n kind t d).groom.evQueue = s.groom.evQueue ++ [{ stall := n, recs := [markerRec kind t, detailRec kind d] }] :=
  (congrArg (fun u : State => u.groom.evQueue) (if_pos hrec)).trans (queueRecs_evQueue hlost (Nat.add_le_add_right hroom 2))

theorem completeAt_groom (s : State) (t : Taken) (st : Status) (p : Pay) : (completeAt s t st p).groom = s.groom := by
  rw [(completeAt_answers s t st p).1]

/-- A mark that does not flush and gives its time is written at that time, and completes at once (R432). -/
theorem doMark_unflushed {s : State} {t : Taken} (hrec : recording s t.fn = true) (hmark : bit (dw t.e 0) 10 = false)
    (hflush : bit (dw t.e 0) 9 = false) (htime : wide t.e 4 ≠ 0) :
    ∃ p, doMark s t = completeAt (marker s t.fn 0x0 (wide t.e 4) (wide t.e 2)) t .ok p := by
  unfold doMark
  dsimp only
  rw [hflush, hmark, hrec, if_neg htime]
  exact ⟨_, rfl⟩

section
variable {s : State} {t : Taken} (h : InHand s t 0x3B)
  (hr : reservedBit t.e [0xFFFFFFFF, 0xFFFFFFFF, 0xFFFFFFFF, 0xFFFFFFFF] = none) (hc : capturing s t.fn = true)
include h hr hc

theorem exec_captureMark_of_form (hf : bit (dw t.e 0) 10 = false ∨ bit (dw t.e 0) 9 = true) :
    exec .captureMark s = .next (doMark (freed s) t) := by
  have hcap : ¬ (!capturing (freed s) t.fn) = true := by
    rw [show capturing (freed s) t.fn = true from hc]
    exact Bool.false_ne_true
  have hform : ¬ (bit (dw t.e 0) 10 && !bit (dw t.e 0) 9) = true := by
    obtain hf | hf := hf <;> simp [hf]
  refine congrArg Host.Outcome.next ((withCmd_inHand h).trans ?_)
  rw [hr]
  exact (if_neg hcap).trans (if_neg hform)

/-- The marker and its detail of a mark that does not flush and gives its time (R115, R432). -/
theorem exec_captureMark_unflushed (hrec : recording s t.fn = true) (hmark : bit (dw t.e 0) 10 = false) (hflush : bit (dw t.e 0) 9 = false)
    (hlost : s.stalls[t.fn].evLostCount = 0) (hroom : evCount s ≤ 1022) (htime : wide t.e 4 ≠ 0) :
    ∃ u, exec .captureMark s = .next u ∧ u.groom.evQueue = s.groom.evQueue ++
      [{ stall := t.fn, recs := [markerRec 0x0 (wide t.e 4), detailRec 0x0 (wide t.e 2)] }] := by
  obtain ⟨p, hp⟩ := doMark_unflushed (s := freed s) hrec hmark hflush htime
  refine ⟨_, (exec_captureMark_of_form h hr hc (Or.inl hmark)).trans (congrArg _ hp), ?_⟩
  rw [completeAt_groom]
  exact marker_evQueue 0x0 _ _ (s := freed s) hrec hlost hroom

end

/-- Settles O21: a stop before an open finishes the arm (`stopCapture_of_armed`), a forced trigger is never masked
(`requestTrigger_taken`), and a mark's records stand last in the event queue. -/
theorem captureCommandsReachTheOpenSegment : Obligations.CaptureCommandsReachTheOpenSegment := by
  intro s t
  refine ⟨exec_captureStop_of_none, fun c h hr hc hp he hst hh => ?stop, exec_captureStop_of_some, exec_captureForce_of_armed,
    exec_captureForce_of_capturing, fun c h hr hst hc hp ht => ?force, exec_captureMark_of_form,
    exec_captureMark_unflushed⟩
  case stop =>
    obtain ⟨l, hstall⟩ := stopAwaited_stall s t
    refine ⟨_, exec_captureStop_of_some h hr (by rw [hc]; rfl), stopCapture_of_armed (c := withStop s t c) ?_ hp he ?_ ?_⟩
    · rw [hstall, hc]; rfl
    · rw [hstall]; exact hst
    · rw [hstall]; exact hh
  case force =>
    obtain ⟨d, x, hd, htrig⟩ := forceTrigger_open (s := freed s) hc hp ht
    exact ⟨_, d, x, exec_captureForce_of_capturing h hr hst, (completeAt_cap _ _ _ _ _).trans hd, htrig⟩

end Sys2Proof.Machine
end

section
/-! SUPPORT. UPLOAD and UPLOAD_CANCEL on the command in hand (R207, R324, R326, R433, R435, R436). -/

open Sys2Proof.Claims

namespace Sys2Proof.Machine

/-- The job of an UPLOAD waits for its list, its bales fixed (R324, R433). -/
def uploadQueued (s : State) (t : Taken) (bales : List BalePlan) : State :=
  let u := handOff (freed s) t .upload (bales.map fun b => 144 * b.blocks.length).sum
  { u with jobs := { u.jobs with uploads := u.jobs.uploads ++ [{
    fn := t.fn, stall := t.fn, tag := tagOf t.e, mode := BitVec.ofNat 2 (bits (dw t.e 2) 21 20), bales := bales
    sglAt := wide t.e 6, crc := 0xFFFFFFFF }] } }

/-- UPLOAD of closed segments, in form and with the share that its mode needs: the job is queued and its list is read (R324, R433). -/
theorem exec_upload_of_form {s : State} {t : Taken} {i : Nat} (h : InHand s t 0x40)
    (hi : newestWith (nameable (freed s) t.fn) (bits (dw t.e 2) 19 0) = some i)
    (hclosed : ∀ x ∈ ((nameable (freed s) t.fn).drop i).take (max 1 (bits (dw t.e 3) 20 0)), x.closed = true)
    (hform : uploadFault (freed s) t.fn t.e (nameable (freed s) t.fn) (some i) = none)
    (hmode : bits (dw t.e 2) 21 20 = 0 ∨ s.stalls[t.fn].grant.share ≠ 0) :
    exec .upload s = .next (issueRead
      (uploadQueued s t (jobBales (freed s) t.fn (nameable (freed s) t.fn) i (bits (dw t.e 3) 20 0) (bits (dw t.e 4) 15 0)))
      t.fn (tagOf t.e) .sgl (wide t.e 6) (16 * bits (dw t.e 5) 15 0)) := by
  have hbusy : ¬ ((((nameable (freed s) t.fn).drop i).take (max 1 (bits (dw t.e 3) 20 0))).any fun x => !x.closed) = true := by
    simpa using hclosed
  have hshare : ¬ (bits (dw t.e 2) 21 20 ≠ 0 ∧ (freed s).stalls[t.fn].grant.share = 0) := fun k => hmode.elim k.1 fun hne => hne k.2
  refine congrArg Host.Outcome.next ((withCmd_inHand h).trans ?_)
  dsimp only
  rw [hi]
  refine (if_neg hbusy).trans ?_
  rw [hform]
  exact if_neg hshare

/-- What UPLOAD_CANCEL does with the job that it finds: one that is over is reported as such, and one that is not stops, with the cancel waiting
for its end (R326, R436). -/
def cancelFound (s : State) (t : Taken) : Option UploadJob → State
  | none => completeAt (freed s) t .ok { p4 := 1 }
  | some u => stopUploads (putJob (handOff (freed s) t .cancel 0) u { u with cancel := u.cancel ++ [(tagOf t.e, t.fn)] })
      (fun x => x == { u with cancel := u.cancel ++ [(tagOf t.e, t.fn)] }) .aborted

/-- A cancel that names an upload still outstanding comes to that upload's job (R436). -/
theorem exec_uploadCancel_of_outst {s : State} {t : Taken} (h : InHand s t 0x41) (hr : reservedBit t.e [0xFFFF] = none)
    (ho : ((findOutst s t.fn (BitVec.ofNat 16 (bits (dw t.e 2) 15 0))).any fun o => o.op == 0x40) = true) :
    exec .uploadCancel s = .next (cancelFound s t (findUpload s t.fn (BitVec.ofNat 16 (bits (dw t.e 2) 15 0)))) := by
  have hout : ¬ (!((findOutst (freed s) t.fn (BitVec.ofNat 16 (bits (dw t.e 2) 15 0))).any fun o => o.op == 0x40)) = true := by
    rw [show ((findOutst (freed s) t.fn _).any fun o => o.op == 0x40) = true from ho]
    exact Bool.false_ne_true
  refine congrArg Host.Outcome.next ((withCmd_inHand h).trans ?_)
  rw [hr]
  exact if_neg hout

/-- Settles O22: the checks of UPLOAD and of UPLOAD_CANCEL in their order, each passed by one hypothesis. -/
theorem uploadsAreQueuedAndCancelled : Obligations.UploadsAreQueuedAndCancelled := by
  intro s t
  refine ⟨?upload, ?cancel⟩
  case upload =>
    rintro _ i _ h rfl hi hclosed hform hmode rfl
    exact exec_upload_of_form h hi hclosed hform hmode
  case cancel =>
    rintro _ h hr rfl ho
    have hx := exec_uploadCancel_of_outst h hr ho
    refine ⟨fun hn => hx.trans ?_, fun u hu => hx.trans ?_⟩
    · rw [hn]; rfl
    · rw [hu]; rfl

end Sys2Proof.Machine
end

section
/-! SUPPORT. Which commands leave DRAM, and which the scratchpads, alone (R220, R350, R401, R402, R531). -/

open Sys2Proof.Claims

namespace Sys2Proof.Machine

/-- A change that leaves DRAM alone. -/
def keepsDram (s t : State) : Prop := t.dram.mem = s.dram.mem

/-- A change that leaves the scratchpads alone. -/
def keepsScratch (s t : State) : Prop := t.scratch = s.scratch

theorem keepsDram_of_scratchOnly {s t : State} (h : scratchOnly s t) : keepsDram s t := h.2.1

theorem keepsDram_of_timeOnly {s t : State} (h : timeOnly s t) : keepsDram s t := h.2.1

theorem keepsScratch_of_dramOnly {s t : State} (h : dramOnly s t) : keepsScratch s t := h.2.1

theorem keepsScratch_of_timeOnly {s t : State} (h : timeOnly s t) : keepsScratch s t := h.1

/-- The rows that write a scratchpad or system time, but no DRAM, leave DRAM alone. -/
theorem exec_keepsDram_of_writesKept (c : Instr) (s : State) (hw : writesKept c = true) (hd : writesDram c = false) :
    relBy keepsDram s (exec c s) :=
  match c, hw, hd with
  | .identify, _, _ => relBy_mono (execIdentify_scratch s) keepsDram_of_scratchOnly
  | .getHealth, _, _ => relBy_mono (execGetHealth_scratch s) keepsDram_of_scratchOnly
  | .attest, _, _ => relBy_mono (execAttest_scratch s) keepsDram_of_scratchOnly
  | .stallCreate, _, _ => relBy_mono (execStallCreate_scratch s) keepsDram_of_scratchOnly
  | .probeQuery, _, _ => relBy_mono (execProbeQuery_scratch s) keepsDram_of_scratchOnly
  | .courseQuery, _, _ => relBy_mono (execCourseQuery_scratch s) keepsDram_of_scratchOnly
  | .queraStatus, _, _ => relBy_mono (execQueraStatus_scratch s) keepsDram_of_scratchOnly
  | .journalRead readOk, _, _ => relBy_mono (execJournalRead_scratch readOk s) keepsDram_of_scratchOnly
  | .scratchWrite f off data be collide, _, _ => relBy_mono (execScratchWrite_scratch f off data be collide s) keepsDram_of_scratchOnly
  | .scratchBitSet f off data be port, _, _ => relBy_mono (execScratchBitSet_scratch f off data be port s) keepsDram_of_scratchOnly
  | .scratchBitClear f off data be port, _, _ => relBy_mono (execScratchBitClear_scratch f off data be port s) keepsDram_of_scratchOnly
  | .stallResetRelease st, _, _ => relBy_mono (execStallResetRelease_scratch st s) keepsDram_of_scratchOnly
  | .queraTimeStep, _, _ => relBy_mono (execQueraTimeStep_time s) keepsDram_of_timeOnly

/-- The rows that write DRAM or system time, but no scratchpad, leave the scratchpads alone. -/
theorem exec_keepsScratch_of_writesKept (c : Instr) (s : State) (hw : writesKept c = true) (hs : writesScratch c = false) :
    relBy keepsScratch s (exec c s) :=
  match c, hw, hs with
  | .writeAck l id, _, _ => relBy_mono (execWriteAck_dram l id s) keepsScratch_of_dramOnly
  | .softRepairEnd flips, _, _ => relBy_mono (execSoftRepairEnd_dram flips s) keepsScratch_of_dramOnly
  | .dikewatchWakeDone ecc lost bad seed, _, _ => relBy_mono (execDikewatchWakeDone_dram ecc lost bad seed s) keepsScratch_of_dramOnly
  | .queraTimeStep, _, _ => relBy_mono (execQueraTimeStep_time s) keepsScratch_of_timeOnly

/-- A command outside `writesDram` leaves DRAM alone. -/
theorem exec_keepsDram (c : Instr) (s : State) (h : writesDram c = false) : relBy keepsDram s (exec c s) := by
  cases hw : writesKept c with
  | false => exact relBy_of_keptBy (exec_kept c s hw) kept_mem
  | true => exact exec_keepsDram_of_writesKept c s hw h

/-- A command outside `writesScratch` leaves the scratchpads alone. -/
theorem exec_keepsScratch (c : Instr) (s : State) (h : writesScratch c = false) : relBy keepsScratch s (exec c s) := by
  cases hw : writesKept c with
  | false => exact relBy_of_keptBy (exec_kept c s hw) kept_scratch
  | true => exact exec_keepsScratch_of_writesKept c s hw h

/-- Settles O6: a command keeps both memories (`exec_kept`), or writes the other memory or system time alone. -/
theorem onlyNamedCommandsChangeTheMemories : Obligations.OnlyNamedCommandsChangeTheMemories :=
  ⟨fun c s _ hd he => relBy_elim (exec_keepsDram c s hd) he, fun c s _ hs he => relBy_elim (exec_keepsScratch c s hs) he⟩

end Sys2Proof.Machine
end

section
/-! SUPPORT. The bytes of a block in DRAM, the acknowledgement of a write, and a read whose beats come without a flipped bit (R10, R220,
R243, R253, R266, R269, R276). -/

namespace Sys2Proof.Machine

/-! ## Blocks in DRAM -/

/-- The bytes of a number, lowest first, spell it up to their count (R9). -/
theorem leNat_bytes (x k : Nat) : leNat ((List.range k).map fun i => BitVec.ofNat 8 (x / 2 ^ (8 * i))) = x % 2 ^ (8 * k) := by
  induction k generalizing x with
  | zero => simp [leNat, Nat.mod_one]
  | succ k ih =>
    have hshift : ∀ i, x / 2 ^ (8 * (i + 1)) = x / 256 / 2 ^ (8 * i) := fun i => by
      rw [Nat.div_div_eq_div_mul, Nat.mul_succ, Nat.pow_add, Nat.mul_comm]
    rw [List.range_succ_eq_map, List.map_cons, List.map_map, leNat]
    simp only [Function.comp_def, hshift, ih, BitVec.toNat_ofNat]
    rw [Nat.mul_succ, Nat.pow_add, Nat.mul_comm (2 ^ (8 * k)), Nat.mod_mul]
    simp

theorem leNat_leBytes_record (r : Rec) : BitVec.ofNat 72 (leNat (leBytes r 9)) = r := by
  rw [leBytes, leNat_bytes, Nat.mod_eq_of_lt r.isLt]
  rw [BitVec.ofNat_toNat, BitVec.setWidth_eq]

/-- A byte of a concatenation of pieces of one length. -/
theorem getElem?_flatMap_of_length {α β : Type} {f : α → List β} {n : Nat} (hf : ∀ a, (f a).length = n) (l : List α) {k i : Nat} (hi : i < n) :
    (l.flatMap f)[n * k + i]? = (l[k]?.bind fun a => (f a)[i]?) := by
  induction l generalizing k with
  | nil => rfl
  | cons a l ih =>
    rw [List.flatMap_cons]
    cases k with
    | zero => rw [Nat.mul_zero, Nat.zero_add, List.getElem?_append_left (by rw [hf]; exact hi)]; rfl
    | succ k =>
      have hsplit : n * (k + 1) + i - (f a).length = n * k + i := by rw [hf, Nat.mul_succ]; omega
      rw [List.getElem?_append_right (by rw [hf, Nat.mul_succ]; omega), hsplit]
      exact ih

theorem leBytes_length {n : Nat} (w : BitVec n) (k : Nat) : (leBytes w k).length = k := by
  rw [leBytes, List.length_map, List.length_range]

theorem flatMap_leBytes_length (l : List Rec) : (l.flatMap fun r => leBytes r 9).length = 9 * l.length := by
  simp [List.length_flatMap, leBytes_length, Nat.mul_comm]

/-- The bytes of record k of a block after the block was stored. -/
theorem memReadList_blockWrite {m : Memory} (w : memWf m = true) (b : Nat) {l : List Rec} {k : Nat} (hk : k < l.length) :
    memReadList (blockWrite m b l) (144 * b + 9 * k) 9 = leBytes l[k] 9 := by
  refine List.ext_getElem (by simp [memReadList, leBytes]) fun i hi _ => ?_
  have hi9 : i < 9 := by simpa [memReadList] using hi
  have hin : 144 * b ≤ 144 * b + 9 * k + i ∧ 144 * b + 9 * k + i < 144 * b + (l.flatMap fun r => leBytes r 9).length := by
    rw [flatMap_leBytes_length]
    omega
  simp only [memReadList, List.getElem_map, List.getElem_range]
  rw [blockWrite, memRead_memWriteList _ _ _ w, if_pos hin, List.getD_eq_getElem?_getD,
    show 144 * b + 9 * k + i - 144 * b = 9 * k + i by omega,
    getElem?_flatMap_of_length (fun r => leBytes_length r 9) l hi9, List.getElem?_eq_getElem hk]
  simp [leBytes_length, hi9]

/-- A block stored reads back (R10). -/
theorem blockRead_blockWrite {m : Memory} (w : memWf m = true) (b : Nat) {l : List Rec} (hl : l.length = 16) :
    blockRead (blockWrite m b l) b = l := by
  refine List.ext_getElem (by simp [blockRead, hl]) fun k _ hk => ?_
  simp only [blockRead, List.getElem_map, List.getElem_range]
  rw [memReadList_blockWrite w b hk, leNat_leBytes_record]

/-- A store of a block leaves the bytes outside the block. -/
theorem memRead_blockWrite_outside {m : Memory} (w : memWf m = true) (b : Nat) {l : List Rec} (hl : l.length = 16) {a : Nat}
    (ha : a < 144 * b ∨ 144 * b + 144 ≤ a) : memRead (blockWrite m b l) a = memRead m a := by
  rw [blockWrite, memRead_memWriteList _ _ _ w, if_neg (by rw [flatMap_leBytes_length, hl]; omega)]

/-! ## What is not acknowledged yet -/

/-- Of each lane, the commands that its retry buffer holds. -/
def retries (s : State) : Vector (List LaneCmd) 4 := s.lanes.map Lane.retry

theorem retry_of_retries {s t : State} (h : retries t = retries s) (l : Fin 4) : t.lanes[l].retry = s.lanes[l].retry := by
  have hl := congrArg (fun x => x[l]) h
  simpa [retries] using hl

theorem told_lanes {s t : State} (h : told s t) : t.lanes = s.lanes := by rw [h.1]

theorem retries_of_told {s t : State} (h : told s t) : retries t = retries s := congrArg (fun x => x.map Lane.retry) (told_lanes h)

theorem giveDecs_retries (s : State) : retries (giveDecs s) = retries s := by
  refine foldl_same (g := retries) (fun s d => ?_) _ s
  refine ite_same (g := retries) rfl ?_
  split <;> rfl

theorem dropLoadWrites_retries (s : State) (n : Stall) : retries (dropLoadWrites s n) = retries s := by
  simp only [retries, dropLoadWrites, Vector.map_map]
  rfl

theorem endLoad_retries (s : State) (j : LoadJob) (st : Status) (p : Pay) : retries (endLoad s j st p) = retries s :=
  (retries_of_told (told_of_answersOnly (completeTag_answers _ _ _ _ _))).trans (dropLoadWrites_retries s j.stall)

theorem finishLoad_retries (s : State) (j : LoadJob) : retries (finishLoad s j) = retries s :=
  ite_same (g := retries) rfl ((giveDecs_retries _).trans (endLoad_retries _ _ _ _))

theorem ackLoad_retries (s : State) (n : Stall) : retries (ackLoad s n) = retries s := by
  unfold ackLoad
  split
  · rfl
  · exact finishLoad_retries _ _

theorem ackOwner_retries (s : State) (o : WrOwner) : retries (ackOwner s o) = retries s :=
  match o with
  | .data _ _ => rfl
  | .header _ _ => ite_same (g := retries) rfl rfl
  | .wipe _ => rfl
  | .load n => ackLoad_retries s n
  | .scrub => rfl

/-! ## The acknowledgement -/

theorem modLane_at (s : State) (l : Fin 4) (f : Lane → Lane) : (modLane s l f).lanes[l] = f s.lanes[l] := vmod_same _ _ _

theorem modLane_other (s : State) {l k : Fin 4} (h : k ≠ l) (f : Lane → Lane) : (modLane s l f).lanes[k] = s.lanes[k] :=
  vmod_ne _ (Ne.symm h) _

theorem modLane_congr {s : State} {l : Fin 4} {f g : Lane → Lane} (h : f s.lanes[l] = g s.lanes[l]) : modLane s l f = modLane s l g := by
  unfold modLane
  rw [vmod_congr h]

theorem modRef_congr {s : State} {n : Stall} {f g : Reference → Reference} (h : f s.stalls[n].ref = g s.stalls[n].ref) :
    modRef s n f = modRef s n g :=
  congrArg (fun v => { s with stalls := v }) (vmod_congr (f := fun x => { x with ref := f x.ref }) (g := fun x => { x with ref := g x.ref })
    (congrArg (fun r => { s.stalls[n] with ref := r }) h))

/-- The lane no longer holds a command (R266). -/
def released (s : State) (l : Fin 4) (id : Nat) (w : WrReq) : State :=
  modLane (noteWritten s l w) l fun x => { x with retry := x.retry.filter fun c => c.id != id }

theorem released_dram (s : State) (l : Fin 4) (id : Nat) (w : WrReq) : (released s l id w).dram = s.dram := rfl

theorem mem_released_retry {s : State} {l : Fin 4} {id : Nat} {w : WrReq} {k : LaneCmd} (h : k ∈ (released s l id w).lanes[l].retry) :
    k.id ≠ id := by
  rw [released, modLane_at] at h
  simpa using (List.mem_filter.1 h).2

/-- WRITE_ACK of a write whose 40 ns have passed, with no older write of its block (R220, R266, R276). -/
theorem exec_writeAck_of_past {s : State} {l : Fin 4} {id : Nat} {c : LaneCmd} {w : WrReq}
    (hf : (s.lanes[l].retry.find? fun c => c.id == id) = some c) (hw : c.wr = some w) (ha : s.lanes[l].alert = false)
    (hr : s.lanes[l].replaying.contains id = false) (hb : beatsPast s.tb.now s.lanes[l] c = true)
    (ho : ∀ d ∈ s.lanes[l].retry, d.id < id → ∀ v, d.wr = some v → v.blk ≠ w.blk) : exec (.writeAck l id) s =
    .next (ackOwner (if s.lanes[l].failed then released s l id w else storeBlock (released s l id w) w) w.owner) := by
  have holder : (s.lanes[l].retry.any fun d => d.id < id && d.wr.any fun v => v.blk == w.blk) = false := by
    refine List.any_eq_false.2 fun d hd hx => ?_
    obtain ⟨hlt, hblk⟩ := Bool.and_eq_true_iff.1 hx
    obtain ⟨v, hv, hvw⟩ := (Option.any_eq_true _ _).1 hblk
    exact ho d hd (of_decide_eq_true hlt) v hv (beq_iff_eq.1 hvw)
  refine congrArg Host.Outcome.next ?_
  dsimp only
  rw [hf]
  dsimp only
  rw [hw]
  refine if_neg ?_
  simp only [ha, hr, hb, holder]
  decide

/-- An acknowledged write has left the retry buffer, and is in DRAM unless the lane has failed (R220, R276). -/
theorem writeAck_next {s : State} {l : Fin 4} {id : Nat} {w : WrReq} {u : State}
    (hu : u = ackOwner (if s.lanes[l].failed then released s l id w else storeBlock (released s l id w) w) w.owner) :
    (∀ k ∈ u.lanes[l].retry, k.id ≠ id) ∧ (s.lanes[l].failed = true → u.dram.mem = s.dram.mem) ∧
      (s.lanes[l].failed = false → u.dram.mem = blockWrite s.dram.mem w.blk w.recs) := by
  subst hu
  refine ⟨fun k hk => ?_, fun hf => ?_, fun hf => ?_⟩
  · rw [retry_of_retries (ackOwner_retries _ _)] at hk
    refine mem_released_retry (s := s) (l := l) (w := w) ?_
    split at hk <;> exact hk
  · rw [kept_mem (ackOwner_kept _ _), hf]
    rfl
  · rw [kept_mem (ackOwner_kept _ _), hf]
    rfl

/-! ## A clean read -/

/-- Beats of which no bit has flipped give what the block holds (R243). -/
theorem readBeats_nil (l : List Rec) : readBeats l [] = (l, .clean) := by
  have hbeat : ∀ x : Rec × Nat, readBeat x.1 (([] : List (BitVec 80)).getD x.2 0) = (x.1, Ecc.clean) := fun x => by
    rw [List.getD_nil]
    rfl
  have hbeats : l.zipIdx.map (fun x => readBeat x.1 (([] : List (BitVec 80)).getD x.2 0)) = l.map fun r => (r, Ecc.clean) :=
    (List.map_congr_left fun x _ => hbeat x).trans <| List.map_map.symm.trans (congrArg (List.map fun r => (r, Ecc.clean)) (List.zipIdx_map_fst 0 l))
  unfold readBeats
  rw [hbeats]
  simp [Function.comp_def]

section
variable {s u : State} {l : Fin 4} {c : LaneCmd} {q : RdReq} (hl : laneRuns s l = true) (ha : s.lanes[l].answered = [])
  (hf : (s.lanes[l].retry.find? fun c => c.rd.isSome && !c.done) = some c) (hq : c.rd = some q) (hal : s.lanes[l].alert = false)
  (hre : s.lanes[l].replaying.contains c.id = false) (hfa : s.lanes[l].failed = false) (hbad : s.dram.bad.contains q.blk = false)
  (hu : u = modLane s l fun x => { x with retry := x.retry.map fun k => if k.id = c.id then { k with done := true } else k })
include hl ha hf hq hal hre hfa hbad hu

/-- DRAM_READ_DATA of an issued read whose beats come whole: the records of its block go to its requester (R243, R269). -/
theorem exec_dramReadData_whole : exec (.dramReadData l []) s = .next (deliver u l q (some (blockRead s.dram.mem q.blk))) := by
  have hlane : u.lanes[l].failed = false := by rw [hu, modLane_at]; exact hfa
  have hdram : u.dram = s.dram := by rw [hu]; rfl
  have hback : readBack u l q [] = deliver u l q (some (blockRead s.dram.mem q.blk)) := by
    unfold readBack
    rw [hlane, hdram, readBeats_nil, hbad]
    rfl
  refine congrArg Host.Outcome.next (Eq.trans ?_ hback)
  dsimp only
  rw [hl, ha]
  dsimp only [Bool.not_true]
  rw [hf]
  dsimp only
  rw [hq]
  dsimp only
  rw [hal, hre, hu]
  rfl

theorem exec_dramReadData_scrub (ho : q.owner = .scrub) : exec (.dramReadData l []) s = .next (scrubOn u l) := by
  rw [exec_dramReadData_whole hl ha hf hq hal hre hfa hbad hu, deliver, ho]

/-- A dense block that playback asked for, and that has not come yet, is staged (R340). -/
theorem exec_dramReadData_play {n : Stall} {k : Nat} (ho : q.owner = .play n k) (hk : k < s.stalls[n].ref.asked)
    (hc : s.stalls[n].ref.came.any (fun b => b.k == k) = false) (hsl : s.stalls[n].ref.slice.any (fun b => b.k == k) = false) :
    exec (.dramReadData l []) s = .next (modRef u n fun r =>
      { r with came := r.came ++ [{ k := k, recs := blockRead s.dram.mem q.blk, bad := false }] }) := by
  rw [exec_dramReadData_whole hl ha hf hq hal hre hfa hbad hu, deliver, ho]
  have hst : u.stalls[n].ref = s.stalls[n].ref := by rw [hu]; rfl
  refine congrArg Host.Outcome.next (modRef_congr (if_neg ?_))
  rw [hst, hc, hsl]
  simpa using hk

end

/-- Settles O49: the write is the only change to DRAM (`writeAck_next`), and beats without a flipped bit are what the block holds
(`readBeats_nil`). -/
theorem acknowledgedWritesReadBack : Obligations.AcknowledgedWritesReadBack := by
  intro s l c
  refine ⟨?ack, ?read⟩
  case ack =>
    intro id w hf hw ha hr hb ho hwf hlen
    obtain ⟨hgone, hfailed, hstored⟩ := writeAck_next (s := s) (l := l) (id := id) (w := w) rfl
    refine ⟨_, exec_writeAck_of_past hf hw ha hr hb ho, hgone, hfailed, fun hok => ?_⟩
    rw [hstored hok]
    exact ⟨blockRead_blockWrite hwf w.blk hlen, fun a => memRead_blockWrite_outside hwf w.blk hlen⟩
  case read =>
    intro q hl ha hf hq hal hre hfa hbad u hu
    exact ⟨exec_dramReadData_whole hl ha hf hq hal hre hfa hbad hu, exec_dramReadData_scrub hl ha hf hq hal hre hfa hbad hu,
      fun n k => exec_dramReadData_play hl ha hf hq hal hre hfa hbad hu⟩

end Sys2Proof.Machine
end

section
/-! SUPPORT. The references and the load jobs: what events, the end of uploads and the deletion of held segments leave alone of them
(R207, R233, R326). -/

namespace Sys2Proof.Machine

/-- The reference of each stall, and the load jobs. -/
def loadView (s : State) : Vector Reference 64 × List LoadJob := (s.stalls.map StallState.ref, s.jobs.loads)

theorem ref_of_loadView {s t : State} (h : loadView t = loadView s) (n : Stall) : t.stalls[n].ref = s.stalls[n].ref := by
  have hn := congrArg (fun x => x.1[n]) h
  simpa [loadView] using hn

theorem loads_of_loadView {s t : State} (h : loadView t = loadView s) : t.jobs.loads = s.jobs.loads := congrArg Prod.snd h

theorem loadView_of_refs {s t : State} (h : ∀ n : Stall, t.stalls[n].ref = s.stalls[n].ref) (hj : t.jobs.loads = s.jobs.loads) :
    loadView t = loadView s := by
  refine Prod.ext (Vector.ext fun i hi => ?_) hj
  simpa [loadView] using h ⟨i, hi⟩

theorem loadView_of_eq {s t : State} (h : t.stalls = s.stalls) (hj : t.jobs.loads = s.jobs.loads) : loadView t = loadView s := by
  unfold loadView
  rw [h, hj]

theorem told_jobs {s t : State} (h : told s t) : t.jobs = s.jobs := by rw [h.1]

theorem told_ref {s t : State} (h : told s t) (n : Stall) : t.stalls[n].ref = s.stalls[n].ref := by rw [h.2 n]

theorem loadView_of_told {s t : State} (h : told s t) : loadView t = loadView s :=
  loadView_of_refs (told_ref h) (congrArg Jobs.loads (told_jobs h))

theorem completeTag_loadView (s : State) (f : Fn) (tag : BitVec 16) (st : Status) (p : Pay) :
    loadView (completeTag s f tag st p) = loadView s := loadView_of_told (told_of_answersOnly (completeTag_answers s f tag st p))

theorem modStall_loadView (s : State) (n : Stall) {f : StallState → StallState} (h : ∀ x, (f x).ref = x.ref := by exact fun _ => rfl) :
    loadView (modStall s n f) = loadView s :=
  loadView_of_refs (fun m => modStall_view s n m h) rfl

/-! ## The end of uploads -/

theorem readChunk_loads (s : State) (u : UploadJob) : (readChunk s u).jobs.loads = s.jobs.loads := by
  unfold readChunk
  refine foldl_same (g := fun s : State => s.jobs.loads) (fun s x => ?_) _ s
  dsimp only
  split <;> rfl

theorem issueChunks_loads (k : Nat) (s : State) : (issueChunks k s).jobs.loads = s.jobs.loads := by
  induction k generalizing s with
  | zero => rfl
  | succ k ih =>
    unfold issueChunks
    split
    · rfl
    · exact (ih _).trans (readChunk_loads _ _)

theorem takeComp_loads (s : State) (k : Fin 4) : (takeComp s k).jobs.loads = s.jobs.loads := by
  unfold takeComp
  refine ite_same (g := fun s : State => s.jobs.loads) rfl ?_
  split
  · rfl
  · split <;> rfl

theorem startUploads_loadView (s : State) : loadView (startUploads s) = loadView s :=
  loadView_of_eq (startUploads_stalls s)
    ((foldl_same (g := fun s : State => s.jobs.loads) takeComp_loads _ _).trans (issueChunks_loads _ _))

theorem endUpload_loadView (s : State) (u : UploadJob) (st : Status) : loadView (endUpload s u st) = loadView s := by
  unfold endUpload
  dsimp only
  split
  · exact startUploads_loadView _
  · refine (startUploads_loadView _).trans ((foldl_same (g := loadView) (fun s c => ?_) _ _).trans ?_)
    · exact completeTag_loadView _ _ _ _ _
    · exact completeTag_loadView _ _ _ _ _

theorem killUploads_loadView (p : UploadJob → Bool) (k : Nat) (s : State) : loadView (killUploads p k s) = loadView s := by
  induction k generalizing s with
  | zero => rfl
  | succ k ih =>
    unfold killUploads
    split
    · rfl
    · exact (ih _).trans (endUpload_loadView _ _ _)

theorem deleteHeld_loadView (s : State) (n : Stall) (keep : Seg → Bool) : loadView (deleteHeld s n keep) = loadView s :=
  (killUploads_loadView _ _ _).trans (modStall_loadView _ _)

theorem changePolder_loadView (s : State) (n : Stall) (parcels refArea : List Nat) :
    loadView (changePolder s n parcels refArea).1 = loadView s :=
  (modStall_loadView _ _).trans (deleteHeld_loadView _ _ _)

theorem changePolder_refArea (s : State) (n : Stall) (parcels refArea : List Nat) :
    (changePolder s n parcels refArea).1.stalls[n].grant.refArea = refArea := by
  unfold changePolder
  dsimp only
  rw [modStall_stalls, vmod_same]

theorem modRef_at (s : State) (n : Stall) (f : Reference → Reference) :
    (modRef s n f).stalls[n] = { s.stalls[n] with ref := f s.stalls[n].ref } := vmod_same _ _ _

/-- The area that a load takes; the reference stays as the load left it (R329). -/
theorem takeArea_stall (s : State) (n : Stall) (k : Nat) : (takeArea s n k).1.stalls[n].ref = s.stalls[n].ref ∧
    (takeArea s n k).1.stalls[n].grant.refArea = (areaGrant s n k).refArea := by
  unfold takeArea
  dsimp only
  split
  · exact ⟨ref_of_loadView (changePolder_loadView _ _ _ _) n, changePolder_refArea _ _ _ _⟩
  · simp only [modStall_stalls, vmod_same, and_self]

end Sys2Proof.Machine
end

section
/-! SUPPORT. REFERENCE_LOAD and REFERENCE_SELECT on the command in hand (R230, R329, R330, R333, R335, R336, R414, R437, R438). -/

open Sys2Proof.Claims

namespace Sys2Proof.Machine

/-! ## REFERENCE_LOAD -/

theorem giveDecs_stalls (s : State) : (giveDecs s).stalls = s.stalls := by
  refine foldl_same (g := State.stalls) (fun s d => ite_same (g := State.stalls) rfl ?_) _ s
  split <;> rfl

theorem giveDecs_groom (s : State) : (giveDecs s).groom = s.groom := by
  refine foldl_same (g := State.groom) (fun s d => ite_same (g := State.groom) rfl ?_) _ s
  split <;> rfl

/-- The parcels of the area that a load's content needs (R329, R437). -/
def declaredArea (t : Taken) : Nat := ceilDiv (field40 t.e 6) (144 * parcelBlocks)

/-- The command is handed off, and its stall's reference is loading (R330). -/
def loadMarked (s : State) (t : Taken) : State :=
  modRef (handOff s t .load (field40 t.e 6)) t.fn fun r => { r with loading := true }

/-- The job of a load waits for a decompressor (R331). -/
def loadQueued (s : State) (t : Taken) (short : Bool) (deleted : Nat) : State :=
  { loadMarked s t with jobs := { s.jobs with loads := s.jobs.loads ++ [{
    fn := t.fn, stall := t.fn, tag := tagOf t.e, declared := field40 t.e 6, short := short, area := declaredArea t, deleted := deleted }] } }

/-- A load begins on a stall whose reference is lost and whose area is taken: its job is queued, and its buffer is read (R329 to R331). -/
def loadBegun (s : State) (t : Taken) (short : Bool) (deleted : Nat) : State :=
  issueRead (giveDecs (loadQueued s t short deleted)) t.fn (tagOf t.e) .bales (wide t.e 2) (field40 t.e 4)

theorem issueRead_reads (s : State) (f : Fn) (tag : BitVec 16) (w : ReadFor) (addr : BitVec 64) (len : Nat) :
    (issueRead s f tag w addr len).groom.reads =
    s.groom.reads ++ [{ id := s.groom.nextRead, fn := f, stall := f, tag := tag, purpose := w, addr := addr, len := len }] := rfl

theorem loadMarked_stall (s : State) (t : Taken) : ∃ l, (loadMarked s t).stalls[t.fn] =
    { s.stalls[t.fn] with outst := l, ref := { s.stalls[t.fn].ref with loading := true } } := by
  obtain ⟨l, hl⟩ := handOff_stall s t .load (field40 t.e 6)
  refine ⟨l, ?_⟩
  rw [loadMarked, modRef_at, hl]

theorem loadBegun_stall (s : State) (t : Taken) (short : Bool) (deleted : Nat) : ∃ l, (loadBegun s t short deleted).stalls[t.fn] =
    { s.stalls[t.fn] with outst := l, ref := { s.stalls[t.fn].ref with loading := true } } := by
  have hstalls : (loadBegun s t short deleted).stalls = (loadMarked s t).stalls := giveDecs_stalls (loadQueued s t short deleted)
  rw [hstalls]
  exact loadMarked_stall s t

theorem loadBegun_reads (s : State) (t : Taken) (short : Bool) (deleted : Nat) : (loadBegun s t short deleted).groom.reads =
    s.groom.reads ++ [{ id := s.groom.nextRead, fn := t.fn, stall := t.fn, tag := tagOf t.e, purpose := .bales, addr := wide t.e 2,
                        len := field40 t.e 4 }] := by
  rw [loadBegun, issueRead_reads, giveDecs_groom]
  rfl

theorem loseReference_stall (s : State) (n : Stall) : (loseReference s n).stalls[n] = { s.stalls[n] with
    ref := { ({} : Reference) with
      loading := s.stalls[n].ref.loading, timed := s.stalls[n].ref.timed, lagSent := s.stalls[n].ref.lagSent } } := modRef_at _ _ _

theorem areaGrant_loseReference (s : State) (n : Stall) (k : Nat) : areaGrant (loseReference s n) n k = areaGrant s n k := by
  unfold areaGrant
  rw [loseReference_stall]
  rfl

section
variable {s : State} {t : Taken} (h : InHand s t 0x48)
include h

theorem exec_referenceLoad_of_busy (hb : loadBusy (freed s) t.fn (declaredArea t) = true) :
    exec .referenceLoad s = .next (complete (freed s) t .busy) :=
  congrArg Host.Outcome.next ((withCmd_inHand h).trans (if_pos hb))

section
variable (hb : loadBusy (freed s) t.fn (declaredArea t) = false)
include hb

/-- A form at fault completes `invalid`, and drops the reference unless a reserved bit is set (R13, R333, R408; log entry 173). -/
theorem exec_referenceLoad_of_fault {d b : Nat} (hf : loadFault t.e = some (d, b)) : exec .referenceLoad s = .next
    (completeAt (if (reservedBit t.e loadBits).isSome then freed s else loseReference (freed s) t.fn) t .invalid
      (refInvalid (fieldPay d b) 0xFFFFFFFF)) := by
  refine congrArg Host.Outcome.next ((withCmd_inHand h).trans ((if_neg (ne_true_of_eq_false hb)).trans ?_))
  rw [hf]

/-- A load in form begins: on the area the grant holds, or, where the grant is too small, on the reference lost alone (R329, R330, R333). -/
theorem exec_referenceLoad_of_form (hf : loadFault t.e = none) {short : Bool} {r : State × Nat}
    (hs : decide ((areaGrant (freed s) t.fn (declaredArea t)).parcels.length < declaredArea t) = short)
    (hr : (if short then (loseReference (freed s) t.fn, 0) else takeArea (loseReference (freed s) t.fn) t.fn (declaredArea t)) = r) :
    exec .referenceLoad s = .next (loadBegun r.1 t short r.2) := by
  refine congrArg Host.Outcome.next ((withCmd_inHand h).trans ((if_neg (ne_true_of_eq_false hb)).trans ?_))
  unfold declaredArea at hs hr
  rw [hf]
  dsimp only
  rw [hs, hr]
  rfl

variable (hf : loadFault t.e = none)
include hf

theorem referenceLoad_of_short_grant (hs : (areaGrant (freed s) t.fn (declaredArea t)).parcels.length < declaredArea t) :
    ∃ u, exec .referenceLoad s = .next u ∧ u.stalls[t.fn].ref.valid = false ∧ u.stalls[t.fn].ref.loading = true ∧
      u.groom.reads = s.groom.reads ++ [{ id := s.groom.nextRead, fn := t.fn, stall := t.fn, tag := tagOf t.e, purpose := .bales,
                                          addr := wide t.e 2, len := field40 t.e 4 }] := by
  have hx := exec_referenceLoad_of_form h hb hf (decide_eq_true hs) (if_pos rfl)
  obtain ⟨l, hl⟩ := loadBegun_stall (loseReference (freed s) t.fn) t true 0
  refine ⟨_, hx, ?_, ?_, loadBegun_reads _ _ _ _⟩
  · rw [hl, loseReference_stall]
  · rw [hl]

theorem referenceLoad_of_grant (hs : declaredArea t ≤ (areaGrant (freed s) t.fn (declaredArea t)).parcels.length) :
    ∃ u, exec .referenceLoad s = .next u ∧ u.stalls[t.fn].ref.valid = false ∧ u.stalls[t.fn].ref.loading = true ∧
      u.stalls[t.fn].grant.refArea = (areaGrant (freed s) t.fn (declaredArea t)).refArea ∧
      ∃ k, u.groom.reads.getLast? = some { id := k, fn := t.fn, stall := t.fn, tag := tagOf t.e, purpose := .bales,
                                           addr := wide t.e 2, len := field40 t.e 4 } := by
  have hx := exec_referenceLoad_of_form h hb hf (decide_eq_false (Nat.not_lt.2 hs)) (if_neg Bool.false_ne_true)
  obtain ⟨href, harea⟩ := takeArea_stall (loseReference (freed s) t.fn) t.fn (declaredArea t)
  obtain ⟨l, hl⟩ := loadBegun_stall (takeArea (loseReference (freed s) t.fn) t.fn (declaredArea t)).1 t false
    (takeArea (loseReference (freed s) t.fn) t.fn (declaredArea t)).2
  refine ⟨_, hx, ?_, ?_, ?_, ?_⟩
  · rw [hl, href, loseReference_stall]
  · rw [hl]
  · rw [hl, harea, areaGrant_loseReference]
  · exact ⟨_, (congrArg List.getLast? (loadBegun_reads _ _ _ _)).trans List.getLast?_concat⟩

end

end

/-! ## REFERENCE_SELECT -/

theorem askDense_stalls (s : State) (n : Stall) (k : Nat) : (askDense s n k).stalls = s.stalls := by
  unfold askDense
  dsimp only
  split <;> rfl

/-- Filling the slice leaves the reference but for what has been asked for and has come (R340). -/
theorem fillSlice_ref (s : State) (n : Stall) : ∃ k, (fillSlice s n).stalls[n].ref =
    { s.stalls[n].ref with asked := k, came := [], slice := [] } := by
  unfold fillSlice askUpto
  dsimp only
  rw [modRef_at, foldl_same (g := State.stalls) (fun s k => askDense_stalls s n k), modRef_at]
  exact ⟨_, rfl⟩

theorem modCap_ref (s : State) (n : Stall) (f : Capture → Capture) : (modCap s n f).stalls[n].ref = s.stalls[n].ref := by
  rw [modCap_stall]

/-- The timed start of a selection, if it gives a time (R336). -/
def selectTimed (t : Taken) : Option TimedStart :=
  if wide t.e 10 = 0 then none else some { when := selectStart t, value := (selectParams t.e).select }

/-- The parameters of a selection and its timed start, with its charge (R230, R335, R336). -/
def selected (s : State) (t : Taken) : State :=
  modCap (modRef s t.fn fun r => { r with params := some (selectParams t.e), timed := selectTimed t }) t.fn fun c =>
    if c.charged then c else { c with play := if (selectTimed t).isNone then 0 else refCharge s t.fn }

theorem applySelect_eq (s : State) (t : Taken) :
    applySelect s t = if (selectTimed t).isNone then selected s t else fillSlice (selected s t) t.fn := rfl

theorem selected_ref (s : State) (t : Taken) : (selected s t).stalls[t.fn].ref =
    { s.stalls[t.fn].ref with params := some (selectParams t.e), timed := selectTimed t } := by
  rw [selected, modCap_ref, modRef_at]

/-- A selection's parameters and its timed start take hold (R335, R336). -/
theorem applySelect_ref (s : State) (t : Taken) : ∃ k x y, (applySelect s t).stalls[t.fn].ref =
    { s.stalls[t.fn].ref with params := some (selectParams t.e), timed := selectTimed t, asked := k, came := x, slice := y } := by
  rw [applySelect_eq]
  split
  · exact ⟨_, _, _, selected_ref s t⟩
  · obtain ⟨k, hk⟩ := fillSlice_ref (selected s t) t.fn
    refine ⟨k, [], [], ?_⟩
    rw [hk, selected_ref]

/-- A selection of a valid reference that does not play, in form, in time or with a policy, and admitted, takes hold (R335, R336, R414). -/
theorem exec_referenceSelect_of_form {s : State} {t : Taken} (h : InHand s t 0x49) (hp : s.stalls[t.fn].ref.play = none)
    (hv : s.stalls[t.fn].ref.valid = true) (hf : selectFault s.stalls[t.fn].ref t.e = none) (hl : selectLate t = false ∨ latePolicy t.e ≠ 0)
    (hr : startRefused (freed s) t = false) : exec .referenceSelect s = .next (completeAt (applySelect (freed s) t) t .ok
      { p4 := (timePay (if wide t.e 10 = 0 then 0 else selectStart t)).1, p5 := (timePay (if wide t.e 10 = 0 then 0 else selectStart t)).2
        p6 := flag (selectLate t) 0 }) := by
  have hplay : ¬ (freed s).stalls[t.fn].ref.play.isSome = true := by
    change ¬ s.stalls[t.fn].ref.play.isSome = true
    rw [hp]
    exact Bool.false_ne_true
  have hvalid : ¬ (!(freed s).stalls[t.fn].ref.valid) = true := by
    change ¬ (!s.stalls[t.fn].ref.valid) = true
    rw [hv]
    exact Bool.false_ne_true
  have hfault : selectFault (freed s).stalls[t.fn].ref t.e = none := hf
  have hlate : ¬ (selectLate t && latePolicy t.e == 0) = true := by
    obtain hl | hl := hl <;> simp [hl]
  refine congrArg Host.Outcome.next ((withCmd_inHand h).trans ((if_neg hplay).trans ((if_neg hvalid).trans ?_)))
  rw [hfault]
  exact (if_neg hlate).trans (if_neg (ne_true_of_eq_false hr))

theorem completeAt_ref (s : State) (t : Taken) (st : Status) (p : Pay) (n : Stall) : (completeAt s t st p).stalls[n].ref = s.stalls[n].ref :=
  told_ref (told_of_answersOnly (completeAt_answers s t st p)) n

/-- Settles O23: a load in form begins on the reference lost (`loadBegun`), and a selection that passes its checks takes hold
(`applySelect_ref`). -/
theorem referencesAreLoadedAndSelected : Obligations.ReferencesAreLoadedAndSelected := by
  intro s t
  refine ⟨?load, ?busy, ?select⟩
  case load =>
    rintro _ _ h rfl rfl hb
    refine ⟨fun hf => referenceLoad_of_short_grant h hb hf, fun hf => referenceLoad_of_grant h hb hf, fun d b hf hr => ?_, fun d b hf hr => ?_⟩
    · rw [exec_referenceLoad_of_fault h hb hf, hr]
      rfl
    · rw [exec_referenceLoad_of_fault h hb hf, hr]
      rfl
  case busy =>
    rintro _ h rfl hb
    exact exec_referenceLoad_of_busy h hb
  case select =>
    rintro _ h hp hv hf hl hr rfl
    obtain ⟨k, x, y, href⟩ := applySelect_ref (freed s) t
    have hx := exec_referenceSelect_of_form h hp hv hf hl hr
    refine ⟨hx, _, hx, ?_⟩
    rw [completeAt_ref, href]
    refine ⟨rfl, hv, fun hz => if_pos hz, fun hz => if_neg hz⟩

end Sys2Proof.Machine
end

section
/-! SUPPORT. The lanes at work: the block that goes to its bank queue, and a slot that serves the choice of the controller (R212, R218, R219,
R245, R248, R249, R254, R404). -/

namespace Sys2Proof.Machine

/-! ## A block goes to its bank queue -/

/-- The block with its credit given back: the slice goes on with the next, and the capture's count is one less (R213). -/
def creditBack (s : State) (l : Fin 4) (b : FbBlock) (rest : List FbBlock) : State :=
  let u := { s with fbd := { s.fbd with slices := s.fbd.slices.set l rest } }
  if b.part = .credit then modCap u b.stall fun c => { c with inUse := vmod c.inUse l fun k => k - 1 } else u

theorem creditBack_eq (s : State) (l : Fin 4) (b : FbBlock) (rest : List FbBlock) :
    creditBack s l b rest = { s with
      stalls := (creditBack s l b rest).stalls, fbd := { s.fbd with slices := s.fbd.slices.set l rest } } := by
  unfold creditBack
  dsimp only
  split <;> rfl

theorem bankOf_congr {s t : State} (hl : t.lanes = s.lanes) (hd : t.dram = s.dram) (l : Fin 4) (blk : Nat) : bankOf t l blk = bankOf s l blk := by
  unfold bankOf placeOn laneAddr usableLanes
  rw [hl, hd]

/-- What a block's write adds to its lane. -/
def bankPut (now : Time) (k : Fin 16) (w : WrReq) (x : Lane) : Lane :=
  { x with banks := vmod x.banks k fun q => q ++ [w], lastIssue := now }

/-- The write that a freeboard block becomes (R213, R404). -/
def blockWr (s : State) (b : FbBlock) (bad : Bool) : WrReq := { blk := b.blk, recs := b.recs, owner := fbOwner b, bad := bad, when := s.tb.now }

theorem issueBlock_eq (s : State) (l : Fin 4) (b : FbBlock) (rest : List FbBlock) (bad : Bool) : issueBlock s l b rest bad =
    modLane (creditBack s l b rest) l (bankPut s.tb.now (bankOf s l b.blk) (blockWr s b bad)) := by
  have hb : bankOf (creditBack s l b rest) l b.blk = bankOf s l b.blk :=
    bankOf_congr (by rw [creditBack_eq]) (by rw [creditBack_eq]) l b.blk
  have ht : (creditBack s l b rest).tb = s.tb := by rw [creditBack_eq]
  have hu : issueBlock s l b rest bad = modLane (creditBack s l b rest) l (bankPut (creditBack s l b rest).tb.now
      (bankOf (creditBack s l b rest) l b.blk) (blockWr (creditBack s l b rest) b bad)) := rfl
  rw [hu, hb, blockWr, ht]
  rfl

/-- The block is the newest of its bank queue, its slice goes on with the next, and the other lanes and slices stand (R213, R249). -/
theorem issueBlock_next (s : State) (l : Fin 4) (b : FbBlock) (rest : List FbBlock) (bad : Bool) {u : State}
    (hu : u = issueBlock s l b rest bad) : u.fbd.slices[l] = rest ∧ u.lanes[l].lastIssue = s.tb.now ∧
      u.lanes[l].banks[bankOf s l b.blk] = s.lanes[l].banks[bankOf s l b.blk] ++ [blockWr s b bad] ∧
      ∀ k : Fin 4, k ≠ l → u.lanes[k] = s.lanes[k] ∧ u.fbd.slices[k] = s.fbd.slices[k] := by
  have hlanes : (creditBack s l b rest).lanes = s.lanes := by rw [creditBack_eq]
  have hslices : u.fbd.slices = s.fbd.slices.set l rest := by
    rw [hu, issueBlock_eq, modLane_fbd, creditBack_eq]
  have hlane : u.lanes[l] = bankPut s.tb.now (bankOf s l b.blk) (blockWr s b bad) s.lanes[l] := by
    rw [hu, issueBlock_eq, modLane_at, hlanes]
  refine ⟨?_, ?_, ?_, fun k hk => ⟨?_, ?_⟩⟩
  · rw [hslices]
    exact Vector.getElem_set_self _
  · rw [hlane]
    rfl
  · rw [hlane]
    exact vmod_same _ _ _
  · rw [hu, issueBlock_eq, modLane_other _ hk, hlanes]
  · rw [hslices]
    exact Vector.getElem_set_ne _ _ fun e => hk (Fin.ext e.symm)

section
variable {s : State} {l : Fin 4} {b : FbBlock} {rest : List FbBlock} (hs : s.fbd.slices[l] = b :: rest)
include hs

/-- A header waits for the data of its segment (R219). -/
theorem exec_laneWriteIssue_of_waiting (ecc : Ecc) (hh : b.part = .header) (hw : dataWaits s b.stall b.uid = true) :
    exec (.laneWriteIssue l ecc) s = .next s := by
  change execLaneWriteIssue l ecc s = _
  unfold execLaneWriteIssue
  rw [hs]
  exact if_pos (by simp [hh, hw])

section
variable (hr : laneRuns s l = true) (hq : s.lanes[l].banks[bankOf s l b.blk].length < 8)
  (hh : b.part = .header → dataWaits s b.stall b.uid = false)
include hr hq hh

/-- The oldest block may go: it does, unless its lane has no such block (R212, R218, R219, R249). -/
theorem exec_laneWriteIssue_of_room (ecc : Ecc) : exec (.laneWriteIssue l ecc) s =
    if laneSize s.lanes[l] ≤ laneAddr s b.blk then .fault .noSuchBlock
    else .next (issueBlock (if ecc = .corrected then countSram s 0 else s) l b rest (ecc = .uncorrectable)) := by
  have hwait : (b.part == .header && dataWaits s b.stall b.uid) = false := by
    by_cases e : b.part = .header
    · rw [hh e, Bool.and_false]
    · rw [beq_false_of_ne e, Bool.false_and]
  change execLaneWriteIssue l ecc s = _
  unfold execLaneWriteIssue
  rw [hs]
  refine if_neg ?_
  rw [hr, hwait, decide_eq_false (Nat.not_le.2 hq)]
  decide

theorem laneWriteIssue_next (ha : laneAddr s b.blk < laneSize s.lanes[l]) (ecc : Ecc) :
    ∃ u, exec (.laneWriteIssue l ecc) s = .next u ∧ u.fbd.slices[l] = rest ∧ u.lanes[l].lastIssue = s.tb.now ∧
      u.lanes[l].banks[bankOf s l b.blk] = s.lanes[l].banks[bankOf s l b.blk] ++ [blockWr s b (decide (ecc = .uncorrectable))] ∧
      ∀ k : Fin 4, k ≠ l → u.lanes[k] = s.lanes[k] ∧ u.fbd.slices[k] = s.fbd.slices[k] := by
  have hx := exec_laneWriteIssue_of_room hs hr hq hh ecc
  rw [if_neg (Nat.not_le.2 ha)] at hx
  refine ⟨_, hx, ?_⟩
  split
  · exact issueBlock_next (countSram s 0) l b rest _ rfl
  · exact issueBlock_next s l b rest _ rfl

end

end

/-! ## A slot -/

theorem modLane_modLane (s : State) (l : Fin 4) (f g : Lane → Lane) : modLane (modLane s l f) l g = modLane s l fun x => g (f x) := by
  have h : vmod (vmod s.lanes l f) l g = vmod s.lanes l fun x => g (f x) := by
    refine Vector.ext fun i hi => ?_
    by_cases e : l.val = i
    · subst e
      rw [vmod_at, vmod_at, vmod_at]
    · have hne : l ≠ ⟨i, hi⟩ := fun x => e (congrArg Fin.val x)
      exact (vmod_ne _ hne _).trans ((vmod_ne _ hne _).trans (vmod_ne _ hne _).symm)
  exact congrArg (fun v => { s with lanes := v }) h

theorem countRow_eq (t : Nat) (row : BitVec 21) (x : Lane) : ∃ a b c, countRow t row x = { x with nrTable := a, nrDue := b, nrFloor := c } := by
  have bump (i : Nat) (e : NrEntry) (y : Lane) : ∃ a b, bumpEntry t i e y = { y with nrTable := a, nrDue := b } := by
    unfold bumpEntry
    split
    · exact ⟨_, _, rfl⟩
    · exact ⟨_, _, rfl⟩
  unfold countRow
  split
  · obtain ⟨a, b, h⟩ := bump _ _ x
    exact ⟨a, b, _, h⟩
  · split
    · obtain ⟨a, b, h⟩ := bump x.nrTable.length { row := row, count := x.nrFloor + 1 } { x with nrTable := x.nrTable ++ [{ row := row }] }
      exact ⟨a, b, _, h⟩
    · obtain ⟨a, b, h⟩ := bump (leastEntry x.nrTable) { row := row, count := (x.nrTable.getD (leastEntry x.nrTable) {}).count + 1 }
        { x with nrFloor := (x.nrTable.getD (leastEntry x.nrTable) {}).count }
      exact ⟨a, b, _, h⟩

/-- A write that is issued stands last in the retry buffer, and its lane is out of read mode (R250, R266). -/
theorem issueWrite_lane (s : State) (l : Fin 4) (w : WrReq) : (issueWrite s l w).lanes[l].banks = s.lanes[l].banks ∧
    (issueWrite s l w).lanes[l].bankRot = s.lanes[l].bankRot ∧ (issueWrite s l w).lanes[l].reading = false ∧
    (issueWrite s l w).lanes[l].retry = s.lanes[l].retry ++ [{ id := s.lanes[l].nextId, wr := some w, rd := none, when := s.tb.now }] := by
  unfold issueWrite pushCmd access
  dsimp only
  rw [modLane_at, modLane_at, modLane_at]
  generalize rowOfBlock _ l w.blk = row
  obtain ⟨a, b, c, h⟩ := countRow_eq s.dram.nrThreshold row (pushAct { s.lanes[l] with reading := false, readRun := 0 })
  rw [modLane_dram, h]
  exact ⟨rfl, rfl, rfl, rfl⟩

theorem issueWrite_other (s : State) {l k : Fin 4} (h : k ≠ l) (w : WrReq) : (issueWrite s l w).lanes[k] = s.lanes[k] := by
  unfold issueWrite pushCmd access
  rw [modLane_other _ h, modLane_other _ h, modLane_other _ h]

section
variable {v w : State} {l : Fin 4} (hw : modLane v l (settled v.tb.now) = w)
include hw

/-- No activate may go (R248). -/
theorem slotStep_of_full (ha : mayActivate w.lanes[l] = false) : slotStep v l = w := by
  unfold slotStep
  dsimp only
  rw [hw, ha]
  rfl

section
variable (ha : mayActivate w.lanes[l] = true) (hr : w.lanes[l].replaying = [])
include ha hr

/-- A neighbour refresh that is due keeps the slot (R252). -/
theorem slotStep_of_due (hn : w.lanes[l].nrDue ≠ []) : slotStep v l = w := by
  unfold slotStep
  dsimp only
  rw [hw, ha, hr]
  exact if_pos (Or.inl hn)

/-- The slot serves the controller's choice (R252). -/
theorem slotStep_of_free (hn : w.lanes[l].nrDue = []) (hb : w.lanes[l].retry.length < 64) (hm : leavesRead w l = false) :
    slotStep v l = serve w l (pick w l) := by
  unfold slotStep
  dsimp only
  rw [hw, ha, hr]
  refine (if_neg (not_or.2 ⟨not_not_intro hn, Nat.not_le.2 hb⟩)).trans ?_
  rw [hm]
  rfl

end

end

/-- A bank queue that is served loses its oldest write, which is issued, and the rotation moves on (R249, R266). -/
theorem serve_bank {s : State} {l : Fin 4} {i : Fin 16} {w : WrReq} {q : List WrReq} (h : s.lanes[l].banks[i] = w :: q) {u : State}
    (hu : u = serve s l (.bank i)) : u.lanes[l].banks[i] = q ∧ u.lanes[l].bankRot = (i.val + 1) % 16 ∧ u.lanes[l].reading = false ∧
      u.lanes[l].retry = s.lanes[l].retry ++ [{ id := s.lanes[l].nextId, wr := some w, rd := none, when := s.tb.now }] ∧
      ∀ k : Fin 4, k ≠ l → u.lanes[k] = s.lanes[k] := by
  have hserve : u = issueWrite (modLane s l fun x => { x with banks := x.banks.set i q, bankRot := (i.val + 1) % 16 }) l w := by
    rw [hu]
    unfold serve
    dsimp only
    rw [h]
  obtain ⟨hbanks, hrot, hread, hretry⟩ :=
    issueWrite_lane (modLane s l fun x => { x with banks := x.banks.set i q, bankRot := (i.val + 1) % 16 }) l w
  rw [modLane_at] at hbanks hrot hretry
  rw [hserve]
  refine ⟨?_, hrot, hread, hretry, fun k hk => ?_⟩
  · rw [hbanks]
    exact Vector.getElem_set_self _
  · rw [issueWrite_other _ hk, modLane_other _ hk]

theorem exec_dramSchedule_of_closed {s : State} {l : Fin 4} (h : laneOpen s l = false) : exec (.dramSchedule l) s = .next s :=
  congrArg Host.Outcome.next (if_neg (ne_true_of_eq_false h))

theorem exec_dramSchedule_of_open {s : State} {l : Fin 4} (h : laneOpen s l = true) :
    exec (.dramSchedule l) s = .next (slotStep (modLane s l fun x => { x with slot := x.slot + 1 }) l) :=
  congrArg Host.Outcome.next (if_pos h)

/-- Settles O48: the oldest block of a slice goes to its bank queue (`issueBlock_next`), and the slot of an open lane serves the choice
(`slotStep_of_free`, `serve_bank`). -/
theorem lanesTakeTheirWritesInOrder : Obligations.LanesTakeTheirWritesInOrder := by
  intro s l
  refine ⟨?room, ?wait, ?slot, exec_dramSchedule_of_closed⟩
  case room =>
    intro b rest hs hr hq hh
    have hx := exec_laneWriteIssue_of_room hs hr hq hh
    refine ⟨fun ha => ?_, fun ha ecc => (hx ecc).trans (if_pos ha)⟩
    have hgo (ecc : Ecc) := (hx ecc).trans (if_neg (Nat.not_le.2 ha))
    exact ⟨hgo .clean, hgo .corrected, hgo .uncorrectable, laneWriteIssue_next hs hr hq hh ha⟩
  case wait => exact fun b rest ecc hs hh hw => exec_laneWriteIssue_of_waiting hs ecc hh hw
  case slot =>
    intro ho
    have hx := exec_dramSchedule_of_open ho
    refine ⟨hx, ?_⟩
    rintro x hdef
    have hw : modLane (modLane s l fun x => { x with slot := x.slot + 1 }) l (settled s.tb.now) = modLane s l fun _ => x := by
      rw [modLane_modLane]
      exact modLane_congr hdef.symm
    have hlane : (modLane s l fun _ => x).lanes[l] = x := modLane_at _ _ _
    rw [hx]
    refine ⟨fun ha => ?_, fun ha hr hn => ?_, fun i w q ha hr hn hb hm hp hi => ⟨_, rfl, ?_⟩⟩
    · rw [slotStep_of_full hw (by rw [hlane]; exact ha)]
    · rw [slotStep_of_due hw (by rw [hlane]; exact ha) (by rw [hlane]; exact hr) (by rw [hlane]; exact hn)]
    · rw [slotStep_of_free hw (by rw [hlane]; exact ha) (by rw [hlane]; exact hr) (by rw [hlane]; exact hn) (by rw [hlane]; exact hb) hm, hp]
      obtain ⟨hbanks, hrot, hread, hretry, hother⟩ := serve_bank (s := modLane s l fun _ => x) (by rw [hlane]; exact hi) rfl
      rw [hlane] at hretry
      exact ⟨hbanks, hrot, hread, hretry, fun k hk => (hother k hk).trans (modLane_other _ hk _)⟩

end Sys2Proof.Machine
end

section
/-! SUPPORT. What the controller does beside its accesses: refresh, temperature, the activate table, neighbour refresh, the drift check and the
fault of a lane (R217, R252, R255 to R257, R259, R261, R263, R264, R281). -/

namespace Sys2Proof.Machine

/-! ## Refresh -/

section
variable {s : State} {l : Fin 4}

/-- A refresh that is due (R255). -/
theorem exec_dramRefresh_of_due (hu : s.lanes[l].usable = true) (hsr : s.dram.selfRefresh = false) (ha : s.lanes[l].alert = false)
    (hr : s.lanes[l].replaying = []) (hp : past s.tb.now s.lanes[l].nextRefresh = false) :
    exec (.dramRefresh l) s = .next (modLane s l fun x => { x with
      refreshes := x.refreshes + 1, nextRefresh := refreshPoint s.dram.refreshBase l x.hot (x.nextRefresh + BitVec.ofNat 64 (refi x.hot))
      stopUntil := s.tb.now + refreshStop x, reading := false, readRun := 0 }) := by
  refine congrArg Host.Outcome.next (if_neg ?_)
  rw [hu, hsr, ha, hr, hp]
  decide

theorem exec_dramRefresh_of_past (hp : past s.tb.now s.lanes[l].nextRefresh = true) : exec (.dramRefresh l) s = .next s := by
  refine congrArg Host.Outcome.next (if_pos ?_)
  rw [hp, Bool.or_true]

/-! ## Temperature -/

theorem all_toList_iff {α : Type} {n : Nat} (v : Vector α n) (p : α → Bool) : v.toArray.toList.all p = true ↔ ∀ i : Fin n, p v[i] = true := by
  rw [List.all_eq_true]
  refine ⟨fun h i => h _ (by simp), fun h x hx => ?_⟩
  obtain ⟨i, hi, rfl⟩ := List.getElem_of_mem hx
  simpa using h ⟨i, by simpa using hi⟩

theorem exec_mr4Read_of_closed (temps : Vector CompTemp 5) (h : laneOpen s l = false ∨ s.lanes[l].replaying ≠ []) :
    exec (.mr4Read l temps) s = .next s := by
  refine congrArg Host.Outcome.next (if_pos ?_)
  obtain h | h := h
  · rw [h]
    rfl
  · rw [decide_eq_true h, Bool.or_true]

theorem exec_mr4Read_of_open {temps : Vector CompTemp 5} (ho : laneOpen s l = true) (hr : s.lanes[l].replaying = [])
    (hb : ∀ i : Fin 5, temps[i] ≠ .beyond) : exec (.mr4Read l temps) s = .next (modLane s l fun x =>
      { (if temps.toArray.toList.all (fun c => c == .normal) then makeCool s x else makeHot s x) with slot := x.slot + 5 }) := by
  have hclosed : ¬ (!laneOpen s l || decide (s.lanes[l].replaying ≠ [])) = true := by rw [ho, hr]; decide
  have hbeyond : ¬ (temps.toArray.toList.any fun c => c == .beyond) = true := by
    rw [List.any_eq_not_all_not, (all_toList_iff temps _).2 fun i => by simpa using hb i]
    exact Bool.false_ne_true
  exact congrArg Host.Outcome.next ((if_neg hclosed).trans (if_neg hbeyond))

/-- A lane that is not hot, and has not been, has no interval to take back (R256). -/
theorem makeCool_of_cool {x : Lane} (hh : x.hot = false) (hc : x.coolSince = none) : makeCool s x = x := by
  rw [makeCool, hc, hh]
  rfl

theorem makeHot_hot (x : Lane) : (makeHot s x).hot = true ∧ (makeHot s x).coolSince = none := by
  unfold makeHot
  split
  · next h => exact ⟨h, rfl⟩
  · exact ⟨rfl, rfl⟩

section
variable {temps : Vector CompTemp 5} (ho : laneOpen s l = true) (hr : s.lanes[l].replaying = []) (hb : ∀ i : Fin 5, temps[i] ≠ .beyond)
include ho hr hb

theorem exec_mr4Read_of_normal (hn : ∀ i : Fin 5, temps[i] = .normal) :
    exec (.mr4Read l temps) s = .next (modLane s l fun x => { makeCool s x with slot := x.slot + 5 }) := by
  rw [exec_mr4Read_of_open ho hr hb, (all_toList_iff temps _).2 fun i => by rw [hn i]; rfl]
  rfl

theorem exec_mr4Read_of_hot (hn : ∃ i : Fin 5, temps[i] ≠ .normal) :
    exec (.mr4Read l temps) s = .next (modLane s l fun x => { makeHot s x with slot := x.slot + 5 }) := by
  obtain ⟨i, hi⟩ := hn
  have hall : (temps.toArray.toList.all fun c => c == .normal) = false :=
    Bool.eq_false_iff.2 fun h => hi (eq_of_beq ((all_toList_iff temps _).1 h i))
  rw [exec_mr4Read_of_open ho hr hb, hall]
  rfl

end

/-! ## Neighbour refresh -/

/-- The oldest due row's neighbours are activated (R252, R259, R261). -/
theorem neighbourRefresh_next {row : BitVec 21} {rest : List (BitVec 21)} (hd : s.lanes[l].nrDue = row :: rest) (ho : laneOpen s l = true)
    (hr : s.lanes[l].replaying = [])
    (ha : (s.lanes[l].acts.filter fun k => s.lanes[l].slot < k + 25).length + (neighbours (rowsOf s.lanes[l]) (bits row 16 0)).length ≤ 22) :
    ∃ u, exec (.neighbourRefresh l) s = .next u ∧ u.lanes[l].nrDue = rest ∧ u.lanes[l].nrCount = satAdd 32 s.lanes[l].nrCount 1 ∧
      u.lanes[l].slot = s.lanes[l].slot + 8 ∧ ∀ k : Fin 4, k ≠ l → u.lanes[k] = s.lanes[k] := by
  have hx : exec (.neighbourRefresh l) s = .next (modLane s l fun x => { x with
      nrDue := rest, nrCount := satAdd 32 x.nrCount 1, slot := x.slot + 8
      acts := (((List.range (neighbours (rowsOf s.lanes[l]) (bits row 16 0)).length).map fun k => x.slot + 2 * k).reverse ++ x.acts).take 22 }) := by
    refine congrArg Host.Outcome.next ?_
    dsimp only
    rw [hd]
    refine if_neg ?_
    rw [ho, hr, decide_eq_false (Nat.not_lt.2 ha)]
    decide
  refine ⟨_, hx, ?_, ?_, ?_, fun k hk => modLane_other s hk _⟩
  · rw [modLane_at]
  · rw [modLane_at]
  · rw [modLane_at]

/-! ## The drift check -/

/-- A correction that is due takes its stop (R257, R263). -/
theorem exec_dqsOscCheck_of_fix (drift : Rat) {t : Time} (hf : s.lanes[l].fixAt = some t) (hp : past s.tb.now t = false)
    (hm : mayMaintain s l 400 = true) : exec (.dqsOscCheck l drift) s = .next (modLane s l (correctLane s.tb.now)) := by
  refine congrArg Host.Outcome.next (if_pos ?_)
  rw [hf, Option.any_some, hp, hm]
  rfl

section
variable (drift : Rat) (hfix : ∀ t, s.lanes[l].fixAt = some t → past s.tb.now t = true ∨ mayMaintain s l 400 = false)
include hfix

/-- No correction is due, or none may begin. -/
theorem fix_not_begun : ¬ ((s.lanes[l].fixAt.any fun t => !past s.tb.now t) && mayMaintain s l 400) = true := by
  intro h
  obtain ⟨hany, hm⟩ := Bool.and_eq_true_iff.1 h
  obtain ⟨t, ht, hp⟩ := (Option.any_eq_true _ _).1 hany
  obtain hpast | hno := hfix t ht
  · rw [hpast] at hp
    exact Bool.false_ne_true hp
  · rw [hm] at hno
    exact Bool.false_ne_true hno.symm

theorem exec_dqsOscCheck_of_wait (h : past s.tb.now s.lanes[l].nextDqs = true ∨ mayMaintain s l 120 = false) :
    exec (.dqsOscCheck l drift) s = .next s := by
  refine congrArg Host.Outcome.next ((if_neg (fix_not_begun hfix)).trans (if_pos ?_))
  obtain h | h := h
  · rw [h]
    rfl
  · rw [h, Bool.not_false, Bool.or_true]

/-- The check takes its stop; within 1/4 of a unit interval since the last full training the lane stays stable (R257, R263, R264). -/
theorem exec_dqsOscCheck_of_due (hp : past s.tb.now s.lanes[l].nextDqs = false) (hm : mayMaintain s l 120 = true)
    (hhi : s.lanes[l].driftTrain + drift ≤ 1 / 4) (hlo : -1 / 4 ≤ s.lanes[l].driftTrain + drift) :
    exec (.dqsOscCheck l drift) s = .next (modLane s l (checkLane s.tb.now drift)) := by
  have hdue : ¬ (past s.tb.now s.lanes[l].nextDqs || !mayMaintain s l 120) = true := by rw [hp, hm]; decide
  refine congrArg Host.Outcome.next ((if_neg (fix_not_begun hfix)).trans ((if_neg hdue).trans (if_neg ?_)))
  rw [modLane_at]
  exact not_or.2 ⟨not_lt.2 hhi, not_lt.2 hlo⟩

end

end

/-! ## A lane's fault -/

/-- A lane's slice holds headers alone. -/
def headersOnly (l : Fin 4) (s : State) : Prop := ∀ b ∈ s.fbd.slices[l], b.part = .header

theorem headersOnly_of_slices {l : Fin 4} {s t : State} (h : t.fbd.slices = s.fbd.slices) (hs : headersOnly l s) : headersOnly l t := by
  unfold headersOnly
  rw [h]
  exact hs

theorem foldl_headersOnly {α : Type} {l : Fin 4} {f : State → α → State} (h : ∀ s a, headersOnly l s → headersOnly l (f s a)) (m : List α)
    (s : State) (hs : headersOnly l s) : headersOnly l (m.foldl f s) := by
  induction m generalizing s with
  | nil => exact hs
  | cons a m ih => exact ih _ (h s a hs)

theorem putSlice_headersOnly {l : Fin 4} {s : State} (k : Fin 4) {b : FbBlock} (hb : b.part = .header) (hs : headersOnly l s) :
    headersOnly l (putSlice s k b) := by
  have hfbd : (putSlice s k b).fbd.slices = vmod s.fbd.slices k fun q => q ++ [b] := by
    unfold putSlice
    dsimp only
    split <;> rfl
  unfold headersOnly
  rw [hfbd]
  by_cases e : k = l
  · subst e
    rw [vmod_same]
    intro x hx
    obtain hx | hx := List.mem_append.1 hx
    · exact hs x hx
    · rw [List.mem_singleton.1 hx, hb]
  · rw [vmod_ne _ e]
    exact hs

theorem renewHeader_headersOnly {l : Fin 4} {s : State} (n : Stall) (x : Seg) (hs : headersOnly l s) : headersOnly l (renewHeader n s x) := by
  unfold renewHeader
  split
  · exact hs
  · unfold placeHeader
    dsimp only
    split
    · exact headersOnly_of_slices (s := s) rfl hs
    · unfold putBlock
      dsimp only
      rw [if_pos rfl]
      split
      · exact putSlice_headersOnly _ rfl (headersOnly_of_slices (s := s) rfl hs)
      · exact headersOnly_of_slices (s := s) rfl hs

theorem syncHeaders_headersOnly {l : Fin 4} {s : State} (hs : headersOnly l s) : headersOnly l (syncHeaders s) := by
  intro b hb
  have hmap : (syncHeaders s).fbd.slices[l] = s.fbd.slices[l].map fun b =>
      if b.part = .header then { b with recs := heldHeader s b.stall b.uid b.recs } else b := Vector.getElem_map ..
  rw [hmap] at hb
  obtain ⟨c, hc, rfl⟩ := List.mem_map.1 hb
  rw [if_pos (hs c hc)]
  exact hs c hc

theorem cutHeld_headersOnly {l : Fin 4} {s : State} (hs : headersOnly l s) : headersOnly l (cutHeld s) := by
  unfold cutHeld
  refine foldl_headersOnly (fun s n h => foldl_headersOnly (fun s x h => renewHeader_headersOnly n x h) _ _ h) _ _ ?_
  exact syncHeaders_headersOnly (headersOnly_of_slices (s := s) rfl hs)

theorem loseBlock_headersOnly {l : Fin 4} {s : State} (n : Stall) (uid blk : Nat) (hs : headersOnly l s) :
    headersOnly l (loseBlock s n uid blk) := headersOnly_of_slices (s := s) rfl hs

/-- A lane that gives up its data blocks keeps headers alone (R217). -/
theorem giveUp_headersOnly (s : State) (l : Fin 4) : headersOnly l (giveUp s l) := by
  unfold giveUp
  dsimp only
  refine cutHeld_headersOnly (foldl_headersOnly (fun s w h => ?_) _ _ (foldl_headersOnly (fun s b h => loseBlock_headersOnly _ _ _ h) _ _ ?_))
  · split
    · exact loseBlock_headersOnly _ _ _ h
    · exact h
  · intro b hb
    rw [modLane_fbd] at hb
    dsimp only at hb
    rw [vmod_same] at hb
    simpa using (List.mem_filter.1 hb).2

theorem dramEvent_fbd (s : State) (who : List Stall) (cause : Nat) (l : Fin 4) (detail : Nat) : (dramEvent s who cause l detail).fbd = s.fbd := by
  have h : told s (dramEvent s who cause l detail) := sendRated_told _ _ _ _
  rw [h.1]

/-- A lane that has not written for 20 µs while blocks wait is reported, with its data given up (R217, R281). -/
theorem laneFault_next {s : State} {l : Fin 4} (hu : s.lanes[l].usable = true) (hsr : s.dram.selfRefresh = false) (hs : s.fbd.slices[l] ≠ [])
    (hp : passed s.tb.now s.lanes[l].lastIssue 20000 = true) : ∃ u, exec (.laneFault l) s = .next u ∧
      u = dramEvent (giveUp (closeAll s 0x08 7) l) (armedStalls s) 1 l 0 ∧ ∀ b ∈ u.fbd.slices[l], b.part = .header := by
  refine ⟨_, congrArg Host.Outcome.next (if_neg ?_), rfl, headersOnly_of_slices (congrArg Freeboard.slices (dramEvent_fbd _ _ _ _ _)) (giveUp_headersOnly _ l)⟩
  rw [hu, hsr, hp, List.isEmpty_eq_false_iff.2 hs]
  decide

/-- Settles O50: each row acts when its conditions hold, and a lane with a fault keeps headers alone (`giveUp_headersOnly`). -/
theorem lanesAreRefreshedAndWatched : Obligations.LanesAreRefreshedAndWatched := by
  intro s l
  refine ⟨exec_dramRefresh_of_due, exec_dramRefresh_of_past, fun temps => ⟨exec_mr4Read_of_closed temps, fun ho hr hb => ⟨fun hn => ?cool, fun hn => ?hot⟩⟩,
    rfl, fun row rest => neighbourRefresh_next, ?drift, laneFault_next⟩
  case cool =>
    have hx := exec_mr4Read_of_normal ho hr hb hn
    refine ⟨hx, fun hh hc => ⟨_, hx, ?_⟩⟩
    rw [modLane_at, makeCool_of_cool hh hc]
  case hot =>
    refine ⟨_, exec_mr4Read_of_hot ho hr hb hn, rfl, ?_⟩
    rw [modLane_at]
    exact makeHot_hot _
  case drift =>
    rintro drift _ rfl
    refine ⟨fun t => exec_dqsOscCheck_of_fix drift, fun hfix => ⟨exec_dqsOscCheck_of_wait drift hfix, fun hp hm hhi hlo => ?_⟩⟩
    exact (exec_dqsOscCheck_of_due drift hfix hp hm hhi hlo).trans (congrArg Host.Outcome.next (modLane_congr rfl))

end Sys2Proof.Machine
end

section
/-! SUPPORT. What the topology of a Quera ring, as it settles after a change of ports, leaves alone: DRAM, the power state and the flash (R482 to
R490, R496 to R498). -/

namespace Sys2Proof.Machine

/-- The state of DRAM, the power state and the flash. -/
def footed (s : State) : Dram × Power × Flash := (s.dram, s.power, s.flash)

theorem footed_of_told {s t : State} (h : told s t) : footed t = footed s := by
  unfold footed
  rw [h.1]

theorem sendMsg_footed (s : State) (p : Fin 4) (v : Nat) : footed (sendMsg s p v) = footed s := rfl

theorem topoEvent_footed (s : State) (cause port : Nat) (far : BitVec 12) : footed (topoEvent s cause port far) = footed s :=
  footed_of_told (sendRated_told _ _ _ _)

theorem setFreeRunning_footed (s : State) : footed (setFreeRunning s) = footed s :=
  ite_same (g := footed) ((foldl_same (g := footed) (f := fun s n => noteOpen s n fun c => { c with freeRun := true }) (fun _ _ => rfl) _ _).trans rfl)
    rfl

theorem follow_footed (s : State) (m : BitVec 12) : footed (follow_ s m) = footed s := by
  unfold follow_
  split <;> rfl

theorem electNew_footed (s : State) : footed (electNew s) = footed s := by
  unfold electNew
  dsimp only
  split
  · exact follow_footed _ _
  · exact follow_footed _ _
  · exact ite_same (g := footed) rfl rfl

theorem elect_footed (s : State) : footed (elect s) = footed s := by
  have cut (b : Bool) : footed { s with quera := { s.quera with cut := b } } = footed s := rfl
  have joined (m : BitVec 12) : footed (follow_ { s with quera := { s.quera with cut := false } } m) = footed s :=
    (follow_footed _ _).trans (cut _)
  have orphaned : footed (electNew { s with quera := { s.quera with cut := true } }) = footed s := (electNew_footed _).trans (cut _)
  unfold elect
  refine ite_same (g := footed) rfl ?_
  dsimp only
  split
  · split
    · split
      · exact ite_same (joined _) rfl
      · exact ite_same (joined _) rfl
    · exact ite_same (joined _) (ite_same orphaned (follow_footed _ _))
  · exact ite_same rfl orphaned
  · exact electNew_footed _

theorem trackEpoch_footed (s : State) : footed (trackEpoch s) = footed s := by
  have adopted (u : State) : footed (adopt u) = footed u := by
    unfold adopt
    split
    · rfl
    · exact (topoEvent_footed _ _ _ _).trans ((setFreeRunning_footed _).trans rfl)
  unfold trackEpoch
  split
  · rfl
  · exact ite_same (g := footed) rfl (ite_same (g := footed) ((adopted _).trans rfl) rfl)

theorem ringTurned_footed (s : State) (root : Bool) : footed (ringTurned s root) = footed s :=
  ite_same (g := footed) ((ite_same (g := footed) rfl (sendMsg_footed _ _ _)).trans (ite_same (g := footed) rfl rfl)) rfl

theorem settleRings_footed (old s : State) (port : Fin 4) : footed (settleRings old s port) = footed s := by
  have then_ {p : Prop} [Decidable p] {u v : State} (h : footed v = footed u) : footed (if p then v else u) = footed u := ite_same h rfl
  have else_ {p : Prop} [Decidable p] {u v : State} (h : footed v = footed u) : footed (if p then u else v) = footed u := ite_same rfl h
  unfold settleRings
  refine else_ ?_
  refine Eq.trans (then_ (ringTurned_footed _ _)) (Eq.trans (then_ (ringTurned_footed _ _)) ?_)
  refine Eq.trans (else_ (topoEvent_footed _ _ _ _)) (Eq.trans (else_ (topoEvent_footed _ _ _ _)) (Eq.trans (setFreeRunning_footed _) ?_))
  exact Eq.trans (then_ rfl) (Eq.trans (then_ rfl) (then_ rfl))

theorem reconverge_footed (old s : State) (port : Fin 4) : footed (reconverge old s port) = footed s :=
  (setFreeRunning_footed _).trans ((trackEpoch_footed _).trans ((settleRings_footed _ _ _).trans ((elect_footed _).trans
    (ite_same (g := footed) rfl rfl))))

/-- The links of the ring go down (R501). -/
theorem queraDown_footed (s : State) : footed (queraDown s) = footed s :=
  ite_same (g := footed) ((reconverge_footed _ _ _).trans rfl) rfl

end Sys2Proof.Machine
end

section
/-! SUPPORT. The stages of a supply sag: their events, what their actions leave of the power state, and stage 4 (R238, R520 to R523, R527). -/

namespace Sys2Proof.Machine

/-! ## The event of a stage -/

/-- The event tells the effective stage, and the power state notes it (R463, R522). -/
theorem shedEvent_told (s : State) (src : Nat) : told { s with power := { s.power with told := shedStage s } } (shedEvent s src) := by
  unfold shedEvent
  dsimp only
  split
  · next h =>
    rw [show ({ s with power := { s.power with told := shedStage s } } : State) = s by rw [h]]
    exact told_refl s
  · exact sendEvents_told _ _

theorem shedEvent_power (s : State) (src : Nat) : (shedEvent s src).power = { s.power with told := shedStage s } :=
  told_power (shedEvent_told s src)

theorem shedEvent_stage (s : State) (src : Nat) : shedStage (shedEvent s src) = shedStage s := by
  unfold shedStage
  rw [shedEvent_power]

theorem shedEvent_jobs (s : State) (src : Nat) : (shedEvent s src).jobs = s.jobs := (told_jobs (shedEvent_told s src)).trans rfl

theorem shedEvent_chains (s : State) (src : Nat) : (shedEvent s src).chains = s.chains := (told_chains (shedEvent_told s src)).trans rfl

/-! ## The actions -/

theorem shedMarkers_still (s : State) (stage : Nat) : still (shedMarkers s stage) = still s :=
  foldl_same (g := still) (fun s n => still_of_placed (marker_placed s n _ _ _)) _ _

theorem stageOne_power (s : State) : (stageOne s).power = s.power := by
  unfold stageOne
  refine still_power ((shedMarkers_still _ _).trans ((foldl_same (g := still) (fun s j => ?_) _ _).trans ?_))
  · exact still_of_placed (endLoad_placed s j _ _)
  · exact still_of_placed (stopUploads_placed s _ _)

theorem cancelStarts_still (s : State) (n : Stall) : still (cancelStarts s n) = still s := by
  have fault (s : State) (t : Time) : still (refFault s n 3 0 t) = still s := still_of_placed (refFault_placed _ _ _ _ _)
  unfold cancelStarts
  dsimp only
  split
  · split
    · exact (fault _ _).trans (fault _ _)
    · exact fault _ _
  · split
    · exact fault _ _
    · rfl

theorem stopChains_power (s : State) (chains : BitVec 8) : (stopChains s chains).power = s.power := rfl

theorem stageTwo_power (s : State) : (stageTwo s).power = s.power := by
  have hstarts : still (allStalls.foldl (fun s n => cancelStarts (abortPlayback s n 3) n) s) = still s :=
    foldl_same (g := still) (fun s n => (cancelStarts_still _ n).trans (still_of_placed (abortPlayback_placed s n 3))) _ _
  exact (still_power (shedMarkers_still _ _)).trans ((stopChains_power _ _).trans (still_power hstarts))

theorem shedClose_still (s : State) (stage cause reason : Nat) : still (shedClose s stage cause reason) = still s :=
  (closeAll_still _ _ _).trans (foldl_same (g := still) (fun s n => still_of_placed (marker_placed s n _ _ _)) _ _)

theorem stageThree_power (s : State) (heat : Bool) : (stageThree s heat).power = { s.power with stage3At := s.tb.now } :=
  ite_same (g := State.power) (still_power (shedClose_still _ _ _ _)) (still_power (shedClose_still _ _ _ _))

/-- An action notes that it is done, and that of stage 3 its time. -/
theorem stageAction_power (heat : Bool) (s : State) (k : Nat) : ∃ x, (stageAction heat s k).power = { s.power with done := k, stage3At := x } := by
  unfold stageAction
  dsimp only
  split
  · exact ⟨_, stageOne_power _⟩
  · split
    · exact ⟨_, stageTwo_power _⟩
    · exact ⟨_, stageThree_power _ _⟩

theorem stageActions_power (heat : Bool) (l : List Nat) (s : State) :
    ∃ x, (l.foldl (stageAction heat) s).power = { s.power with done := l.getLastD s.power.done, stage3At := x } := by
  induction l generalizing s with
  | nil => exact ⟨_, rfl⟩
  | cons k l ih =>
    obtain ⟨x, hx⟩ := stageAction_power heat s k
    obtain ⟨y, hy⟩ := ih (stageAction heat s k)
    refine ⟨y, hy.trans ?_⟩
    rw [hx, List.getLastD_cons]

/-- The last of the stages up to a stage that are not yet done. -/
theorem getLastD_stages_due (done stage : Nat) :
    ([1, 2, 3].filter fun k => decide (done < k) && decide (k ≤ stage)).getLastD done = max done (min 3 stage) := by
  simp only [List.filter_cons, List.filter_nil, Bool.and_eq_true, decide_eq_true_eq]
  split <;> split <;> split <;> simp only [List.getLastD_cons, List.getLastD_nil] <;> omega

/-- The actions up to the effective stage are done (R521). -/
theorem runStages_power (s : State) (heat : Bool) :
    ∃ x, (runStages s heat).power = { s.power with done := max s.power.done (min 3 (shedStage s)), stage3At := x } := by
  obtain ⟨x, hx⟩ := stageActions_power heat ([1, 2, 3].filter fun k => s.power.done < k && k ≤ shedStage s) s
  exact ⟨x, hx.trans (by rw [getLastD_stages_due])⟩

/-! ## A stage entered or left -/

/-- The monitor has entered a stage (R520). -/
def entered (s : State) (n : Fin 5) (src : BitVec 4) (mv : BitVec 16) : State := { s with power := { s.power with
  vdd := mv, supply := n.val, supplySrc := if s.power.supply = 0 ∨ n.val = 4 then src else s.power.supplySrc } }

section
variable {s : State} {n : Fin 5} (src : BitVec 4) (mv : BitVec 16) (h : s.power.supply < n.val)
include h

theorem exec_shedStageEnter_of_awake (ha : awake s = true) :
    exec (.shedStageEnter n src mv) s = .next (runStages (shedEvent (entered s n src mv) src.toNat) false) :=
  congrArg Host.Outcome.next ((if_neg (Nat.not_le.2 h)).trans (if_pos ha))

theorem exec_shedStageEnter_of_asleep (ha : awake s = false) : exec (.shedStageEnter n src mv) s = .next (entered s n src mv) :=
  congrArg Host.Outcome.next ((if_neg (Nat.not_le.2 h)).trans (if_neg (ne_true_of_eq_false ha)))

end

/-- A stage that is entered stands with its supply, and its actions are done (R520, R521). -/
theorem runStages_entered (s : State) (n : Fin 5) (src : BitVec 4) (mv : BitVec 16) {v : State}
    (hv : v = runStages (shedEvent (entered s n src mv) src.toNat) false) :
    v.power.supply = n.val ∧ v.power.vdd = mv ∧ v.power.done = max s.power.done (min 3 (shedStage v)) := by
  obtain ⟨x, hx⟩ := runStages_power (shedEvent (entered s n src mv) src.toNat) false
  have hpower := (congrArg State.power hv).trans hx
  have hstage : shedStage v = shedStage (shedEvent (entered s n src mv) src.toNat) := by
    unfold shedStage
    rw [hpower]
  rw [hstage, hpower, shedEvent_power]
  exact ⟨rfl, rfl, rfl⟩

/-- The supply has fallen to a stage, and what is above it is to be done again (R521). -/
def lowered (s : State) (n : Fin 4) (mv : BitVec 16) : State := undone { s with power := { s.power with vdd := mv, supply := n.val } }

theorem exec_shedStageLeave_of_left {s : State} {n : Fin 4} (mv : BitVec 16) (hn : n.val < s.power.supply) (h4 : s.power.supply < 4) :
    exec (.shedStageLeave n mv) s = .next (if awake (lowered s n mv)
      then shedEvent (lowered s n mv) (if s.power.supply = 1 then s.power.supplySrc.toNat else 2) else lowered s n mv) :=
  congrArg Host.Outcome.next (if_neg (by omega))

/-- A lower stage stands with its supply, and what is above it is to be done again (R521, R522). -/
theorem shedStageLeave_next {s : State} {n : Fin 4} (mv : BitVec 16) (hn : n.val < s.power.supply) (h4 : s.power.supply < 4) :
    ∃ u, exec (.shedStageLeave n mv) s = .next u ∧ u.power.supply = n.val ∧ u.power.vdd = mv ∧
      u.power.done = min s.power.done (shedStage u) ∧ u.jobs = s.jobs ∧ u.chains = s.chains := by
  refine ⟨_, exec_shedStageLeave_of_left mv hn h4, ?_⟩
  split
  · generalize (if s.power.supply = 1 then s.power.supplySrc.toNat else 2) = k
    rw [shedEvent_stage, shedEvent_power, shedEvent_jobs, shedEvent_chains]
    exact ⟨rfl, rfl, rfl, rfl, rfl⟩
  · exact ⟨rfl, rfl, rfl, rfl, rfl⟩

theorem exec_shedStageLeave_of_not_left {s : State} {n : Fin 4} (mv : BitVec 16) (h : s.power.supply ≤ n.val ∨ s.power.supply = 4) :
    exec (.shedStageLeave n mv) s = .next s := congrArg Host.Outcome.next (if_pos h)

/-! ## Stage 4 -/

theorem completeJob_footed (s : State) (ended : Bool) (tag : BitVec 16) (st : Status) (p : Pay) :
    footed (completeJob s ended tag st p) = footed s :=
  ite_same (g := footed) rfl (footed_of_told (told_of_answersOnly (completeTag_answers _ _ _ _ _)))

theorem queueJournal_upd (s : State) (kind : BitVec 8) (detail : Dword) (w : Work) :
    (queueJournal s kind detail w).dram = s.dram ∧ (queueJournal s kind detail w).power = s.power ∧
      (queueJournal s kind detail w).flash.upd = s.flash.upd := by
  unfold queueJournal
  split
  · exact ⟨rfl, rfl, rfl⟩
  · exact ⟨rfl, rfl, rfl⟩

/-- An update that is aborted is over (R446). -/
theorem abortUpdate_upd (s : State) : (abortUpdate s).dram = s.dram ∧ (abortUpdate s).power = s.power ∧ (abortUpdate s).flash.upd = none := by
  unfold abortUpdate
  split
  · next h => exact ⟨rfl, rfl, h⟩
  · next u h =>
    have hfoot := completeJob_footed (setUpd (setSlot (modGroom { s with flash := { s.flash with
      ops := s.flash.ops.filter fun o => o.work != .update } } fun g => { g with reads := g.reads.filter fun r => r.purpose != .firmware })
      u.slotB { slotOf s u.slotB with valid := false }) none) u.ended u.tag .aborted {}
    exact ⟨congrArg (fun x => x.1) hfoot, congrArg (fun x => x.2.1) hfoot, congrArg (fun x => x.2.2.upd) hfoot⟩

/-- The flash at stage 4 (R446, R527). -/
theorem shedFlash_upd (s : State) : (shedFlash s).dram = s.dram ∧ (shedFlash s).power = s.power ∧ (shedFlash s).flash.upd = none := by
  obtain ⟨hdram, hpower, hupd⟩ := abortUpdate_upd s
  unfold shedFlash
  dsimp only
  split
  · obtain ⟨hd, hp, hu⟩ := queueJournal_upd { abortUpdate s with flash := { (abortUpdate s).flash with
      ops := (abortUpdate s).flash.ops.filter fun o => o.entry.isSome } } 3
      (fld 4 0 ||| fld (abortUpdate s).power.supplySrc.toNat 4 ||| fld (abortUpdate s).power.vdd.toNat 16) .none
    exact ⟨hd.trans hdram, hp.trans hpower, hu.trans hupd⟩
  · exact ⟨hdram, hpower, hupd⟩

/-- The transition to Dormant of stage 4, the lanes in self-refresh (R238, R527). -/
def stage4Begun (s : State) : State := { s with
  dram := { s.dram with selfRefresh := true }, power := { s.power with target := some { dest := .dormant, when := s.tb.now } } }

theorem exec_stage4Begin_of_closed {s : State} (h4 : s.power.supply = 4) (ha : awake s = true) (ht : s.power.tripped = false)
    (hc : closuresOver s = true) (hn : s.power.target = none) : exec .stage4Begin s = .next (shedFlash (queraDown (stage4Begun s))) := by
  have hbegins : ¬ (s.power.supply ≠ 4 ∨ ¬ awake s ∨ s.power.tripped ∨ ¬ closuresOver s ∨
      s.power.target.any (fun p => p.dest == .dormant && !p.cmd)) := by
    simp [h4, ha, ht, hc, hn]
  refine congrArg Host.Outcome.next ((if_neg hbegins).trans ?_)
  unfold dormantTarget overtake
  rw [hn]
  rfl

theorem stage4Begin_next {s : State} (h4 : s.power.supply = 4) (ha : awake s = true) (ht : s.power.tripped = false)
    (hc : closuresOver s = true) (hn : s.power.target = none) : ∃ u, exec .stage4Begin s = .next u ∧ u.dram.selfRefresh = true ∧
      u.flash.upd = none ∧ (u.power.target.map fun p => (p.dest, p.when, p.cmd)) = some (.dormant, s.tb.now, false) := by
  obtain ⟨hdram, hpower, hupd⟩ := shedFlash_upd (queraDown (stage4Begun s))
  have hfoot := queraDown_footed (stage4Begun s)
  have hself : (queraDown (stage4Begun s)).dram = (stage4Begun s).dram := congrArg (fun x => x.1) hfoot
  have htarget : (queraDown (stage4Begun s)).power = (stage4Begun s).power := congrArg (fun x => x.2.1) hfoot
  refine ⟨_, exec_stage4Begin_of_closed h4 ha ht hc hn, ?_, hupd, ?_⟩
  · rw [hdram, hself]
    rfl
  · rw [hpower, htarget]
    rfl

end Sys2Proof.Machine
end

section
/-! SUPPORT. Stage 1: every upload stops at its next chunk boundary, and every load ends at once (R326, R330, R521). -/

namespace Sys2Proof.Machine

/-! ## Uploads -/

/-- Every upload stops at its next chunk boundary, or has been told to. -/
def stopping (s : State) : Prop := ∀ x ∈ s.jobs.uploads, x.stop.isSome = true

theorem stopping_of_jobs {s t : State} (h : t.jobs = s.jobs) (hs : stopping s) : stopping t := by
  unfold stopping
  rw [h]
  exact hs

/-- An upload that stops asks for no chunk. -/
theorem issueChunks_of_stopping {s : State} (h : stopping s) (k : Nat) : issueChunks k s = s := by
  cases k with
  | zero => rfl
  | succ k =>
    unfold issueChunks
    split
    · rfl
    · next u hfound =>
      obtain ⟨n, -, hn⟩ := List.exists_of_findSome?_eq_some hfound
      have hgoes := List.find?_some hn
      have hstop := h u (List.mem_of_find?_eq_some hn)
      simp [wantsChunk, Option.isSome_iff_ne_none.1 hstop] at hgoes

/-- An upload that stops waits for no compressor. -/
theorem takeComp_of_stopping {s : State} (h : stopping s) (k : Fin 4) : takeComp s k = s := by
  unfold takeComp
  split
  · rfl
  · split
    · rfl
    · split
      · rfl
      · next u hu =>
        have hwaits := List.find?_some hu
        have hstop := h u (List.mem_of_find?_eq_some hu)
        simp [waitsComp, Option.isSome_iff_ne_none.1 hstop] at hwaits

theorem startUploads_stopping {s : State} (h : stopping s) : stopping (startUploads s) := by
  unfold startUploads giveComps
  dsimp only
  generalize hu : ({ s with jobs := _ } : State) = u
  have hstop : stopping u := by
    rw [← hu]
    intro x hx
    obtain ⟨y, hy, rfl⟩ := List.mem_map.1 hx
    split
    · exact h y hy
    · exact h y hy
  rw [issueChunks_of_stopping hstop, foldl_eq_self fun k _ => takeComp_of_stopping hstop k]
  exact hstop

theorem completeTag_jobs (s : State) (f : Fn) (tag : BitVec 16) (st : Status) (p : Pay) : (completeTag s f tag st p).jobs = s.jobs :=
  told_jobs (told_of_answersOnly (completeTag_answers s f tag st p))

theorem endUpload_stopping {s : State} (u : UploadJob) (st : Status) (h : stopping s) : stopping (endUpload s u st) := by
  have hleft : ∀ x ∈ s.jobs.uploads.filter fun x => x != u, x.stop.isSome = true := fun x hx => h x (List.mem_filter.1 hx).1
  unfold endUpload
  dsimp only
  split
  · exact startUploads_stopping hleft
  · refine startUploads_stopping ?_
    unfold stopping
    rw [foldl_same (g := State.jobs) (fun s c => completeTag_jobs s _ _ _ _), completeTag_jobs]
    exact hleft

theorem reapUploads_stopping {s : State} (k : Nat) (h : stopping s) : stopping (reapUploads k s) := by
  induction k generalizing s with
  | zero => exact h
  | succ k ih =>
    unfold reapUploads
    split
    · exact h
    · exact ih (endUpload_stopping _ _ h)

theorem stopUploads_all_stopping (s : State) (st : Status) : stopping (stopUploads s (fun _ => true) st) := by
  refine reapUploads_stopping _ fun x hx => ?_
  obtain ⟨y, -, rfl⟩ := List.mem_map.1 hx
  dsimp only
  rw [Bool.true_and]
  split
  · rfl
  · next h => simpa [Option.isSome_iff_ne_none] using h

theorem reapUploads_loadView (k : Nat) (s : State) : loadView (reapUploads k s) = loadView s := by
  induction k generalizing s with
  | zero => rfl
  | succ k ih =>
    unfold reapUploads
    split
    · rfl
    · exact (ih _).trans (endUpload_loadView _ _ _)

theorem stopUploads_loadView (s : State) (p : UploadJob → Bool) (st : Status) : loadView (stopUploads s p st) = loadView s :=
  (reapUploads_loadView _ _).trans rfl

/-! ## Loads -/

theorem endLoad_jobs (s : State) (j : LoadJob) (st : Status) (p : Pay) :
    (endLoad s j st p).jobs = { s.jobs with loads := s.jobs.loads.filter fun x => x != j } := completeTag_jobs _ _ _ _ _

theorem endLoad_loading (s : State) (j : LoadJob) (st : Status) (p : Pay) (n : Stall) :
    (endLoad s j st p).stalls[n].ref.loading = if j.stall = n then false else s.stalls[n].ref.loading := by
  refine (congrArg Reference.loading (told_ref (told_of_answersOnly (completeTag_answers _ _ _ _ _)) n)).trans ?_
  split
  · next h =>
    subst h
    exact congrArg (fun x => x.ref.loading) (modRef_at _ _ _)
  · next h => exact congrArg (fun x : StallState => x.ref.loading) (vmod_ne _ h _)

section
variable (st : Status) (p : Pay)

theorem endLoads_uploads (l : List LoadJob) (s : State) : (l.foldl (fun s j => endLoad s j st p) s).jobs.uploads = s.jobs.uploads :=
  foldl_same (g := fun s : State => s.jobs.uploads) (fun s j => (congrArg Jobs.uploads (endLoad_jobs s j st p)).trans rfl) l s

theorem mem_endLoads {l : List LoadJob} {s : State} {x : LoadJob} (h : x ∈ (l.foldl (fun s j => endLoad s j st p) s).jobs.loads) :
    x ∈ s.jobs.loads ∧ x ∉ l := by
  induction l generalizing s with
  | nil => exact ⟨h, List.not_mem_nil⟩
  | cons j l ih =>
    obtain ⟨hin, hnot⟩ := ih h
    rw [endLoad_jobs] at hin
    obtain ⟨hloads, hne⟩ := List.mem_filter.1 hin
    exact ⟨hloads, List.not_mem_cons_of_ne_of_not_mem (by simpa using hne) hnot⟩

theorem endLoads_loading {l : List LoadJob} {s : State} {n : Stall} (h : s.stalls[n].ref.loading = false ∨ ∃ j ∈ l, j.stall = n) :
    (l.foldl (fun s j => endLoad s j st p) s).stalls[n].ref.loading = false := by
  induction l generalizing s with
  | nil => exact h.resolve_right fun ⟨_, hj, _⟩ => List.not_mem_nil hj
  | cons j l ih =>
    refine ih ?_
    rw [endLoad_loading]
    obtain h | ⟨k, hk, rfl⟩ := h
    · left
      split
      · rfl
      · exact h
    · obtain rfl | hk := List.mem_cons.1 hk
      · exact .inl (if_pos rfl)
      · exact .inr ⟨k, hk, rfl⟩

end

/-! ## The stage -/

theorem queueRecs_jobs (s : State) (n : Stall) (l : List Rec) : (queueRecs s n l).jobs = s.jobs := by
  unfold queueRecs
  exact ite_same (g := State.jobs) rfl rfl

theorem queueRecs_loadView (s : State) (n : Stall) (l : List Rec) : loadView (queueRecs s n l) = loadView s := by
  unfold queueRecs
  exact ite_same (g := loadView) (modStall_loadView _ _) (modStall_loadView _ _)

theorem shedMarkers_jobs (s : State) (stage : Nat) : (shedMarkers s stage).jobs = s.jobs :=
  foldl_same (g := State.jobs) (fun s n => ite_same (g := State.jobs) (queueRecs_jobs s n _) rfl) _ _

theorem shedMarkers_loadView (s : State) (stage : Nat) : loadView (shedMarkers s stage) = loadView s :=
  foldl_same (g := loadView) (fun s n => ite_same (g := loadView) (queueRecs_loadView s n _) rfl) _ _

/-- The actions of stage 1: no load is left, no stall loads, and every upload stops (R326, R330, R521). -/
theorem stageOne_stops (s : State) : (stageOne s).jobs.loads = [] ∧ (∀ j ∈ s.jobs.loads, (stageOne s).stalls[j.stall].ref.loading = false) ∧
    stopping (stageOne s) := by
  have hview := stopUploads_loadView s (fun _ => true) .shed
  unfold stageOne
  dsimp only
  generalize hu : stopUploads s (fun _ => true) .shed = u at hview ⊢
  have hloads : u.jobs.loads = s.jobs.loads := loads_of_loadView hview
  refine ⟨?_, fun j hj => ?_, ?_⟩
  · rw [shedMarkers_jobs]
    refine List.eq_nil_iff_forall_not_mem.2 fun x hx => ?_
    obtain ⟨hin, hnot⟩ := mem_endLoads _ _ hx
    exact hnot hin
  · rw [ref_of_loadView (shedMarkers_loadView _ _)]
    exact endLoads_loading _ _ (.inr ⟨j, hloads ▸ hj, rfl⟩)
  · refine stopping_of_jobs (shedMarkers_jobs _ _) ?_
    unfold stopping
    rw [endLoads_uploads]
    exact hu ▸ stopUploads_all_stopping s .shed

/-- The power state notes that a stage's action is done (R521). -/
def noted (s : State) (k : Nat) : State := { s with power := { s.power with done := k } }

theorem noted_jobs (s : State) (k : Nat) : (noted s k).jobs = s.jobs := rfl

theorem stageAction_one (heat : Bool) (s : State) : stageAction heat s 1 = stageOne (noted s 1) := by
  unfold stageAction
  dsimp only
  rw [if_pos rfl, noted]

/-- The first stage has its own action alone (R521). -/
theorem runStages_of_one {s : State} (hd : s.power.done = 0) (h : shedStage s = 1) : runStages s false = stageOne (noted s 1) := by
  have hdue : ([1, 2, 3].filter fun k => decide (0 < k) && decide (k ≤ 1)) = [1] := by decide
  unfold runStages
  rw [hd, h, hdue, List.foldl_cons, List.foldl_nil, stageAction_one]

/-- Once the first stage has been entered its action is done: nothing loads, and every upload stops (R521). -/
theorem runStages_one_stops {s : State} (hd : s.power.done = 0) (h : shedStage s = 1) :
    (runStages s false).power.done = 1 ∧ (runStages s false).jobs.loads = [] ∧
      (∀ j ∈ s.jobs.loads, (runStages s false).stalls[j.stall].ref.loading = false) ∧ stopping (runStages s false) := by
  have hstops := stageOne_stops (noted s 1)
  have hpower := stageOne_power (noted s 1)
  rw [← runStages_of_one hd h, noted_jobs] at hstops
  rw [← runStages_of_one hd h] at hpower
  exact ⟨congrArg Power.done hpower, hstops⟩

/-- Settles O56: the actions run up to the effective stage (`runStages_power`), that of stage 1 ends what loads and stops what uploads
(`stageOne_stops`), and stage 4 begins the transition to Dormant. -/
theorem supplyStagesAreEnteredAndLeft : Obligations.SupplyStagesAreEnteredAndLeft := by
  refine ⟨fun s => ⟨?enter, fun n mv => ⟨shedStageLeave_next mv, exec_shedStageLeave_of_not_left mv⟩, stage4Begin_next⟩, ?one⟩
  case enter =>
    rintro n src mv _ h rfl
    have hx := exec_shedStageEnter_of_awake src mv h
    exact ⟨fun ha => ⟨hx ha, _, hx ha, runStages_entered s n src mv rfl⟩, exec_shedStageEnter_of_asleep src mv h⟩
  case one =>
    intro s n src mv hs ht hd hn hb hp
    have hup : s.power.supply < n.val := by omega
    have ha : awake s = true := by simp [awake, hb, hp]
    have hdone : (shedEvent (entered s n src mv) src.toNat).power.done = 0 := by
      rw [shedEvent_power]
      exact hd
    have hstage : shedStage (shedEvent (entered s n src mv) src.toNat) = 1 := by
      rw [shedEvent_stage, shedStage, entered, ht, hn]
      rfl
    obtain ⟨hone, hloads, hloading, hstop⟩ := runStages_one_stops hdone hstage
    rw [shedEvent_jobs] at hloading
    exact ⟨_, exec_shedStageEnter_of_awake src mv hup ha, (runStages_entered s n src mv rfl).1.trans hn, hone, hloads, hloading, hstop⟩

end Sys2Proof.Machine
end

section
/-! SUPPORT. CAPTURE_ARM on the command in hand, and what an arm sets of its stall (R189, R209, R272, R340, R429). -/

open Sys2Proof.Claims

namespace Sys2Proof.Machine

/-! ## What an arm sets -/

/-- Filling the slice changes of its stall the reference alone (R340). -/
theorem fillSlice_stall (s : State) (n : Stall) : ∃ r, (fillSlice s n).stalls[n] = { s.stalls[n] with ref := r } := by
  unfold fillSlice askUpto
  dsimp only
  rw [modRef_at, foldl_same (g := State.stalls) (fun s k => askDense_stalls s n k), modRef_at]
  exact ⟨_, rfl⟩

/-- The capture of an arm: its parameters, the time of its first open, and what it demands and is granted (R189, R209, R213, R222, R234). -/
def armCapture (s : State) (n : Stall) (a : ArmParams) (when_ : Time) : Capture := {
  arm := a, phase := .armed, openAt := firstOpen a when_, late := armLate a when_, teams := s.stalls[n].grant.teams
  chains := maskOf 8 fun k => bit s.stalls[n].grant.chains k && chainEnable s.chains[Fin.ofNat 8 k].setting
  demand := laneDemand s n a, play := playCharge s n, charged := playCharge s n != 0, refAtArm := s.stalls[n].ref.valid
  credit := creditOf s (laneDemand s n a), sideBlocks := armSide s n a }

/-- A stall armed with a capture counts from nothing (R189, R201). -/
def withArm (c : Capture) (x : StallState) : StallState := { x with
  st := .armed, cap := some c, missedLog := [], masked := 0, missedTotal := 0, segsClosed := 0, armSegs := 0, fbPeak := 0 }

/-- An arm that takes hold sets its stall so once the latches are cleared; the slice that it may fill is the reference's (R42, R189, R340). -/
theorem armApply_stall (s : State) (n : Stall) (a : ArmParams) (w : Time) : ∃ r, (armApply s n a w).stalls[n] =
    { withArm (armCapture s n a w) (clearStall s n).stalls[n] with ref := r } := by
  have harmed : (modStall (clearStall s n) n (withArm (armCapture s n a w))).stalls[n] =
      withArm (armCapture s n a w) (clearStall s n).stalls[n] := vmod_same _ _ _
  unfold armApply
  dsimp only
  split
  · obtain ⟨r, hr⟩ := fillSlice_stall (modStall (clearStall s n) n (withArm (armCapture s n a w))) n
    rw [harmed] at hr
    exact ⟨r, hr⟩
  · exact ⟨_, harmed⟩

/-! ## The command -/

/-- A `capture_arm` that waits behind a soft repair (R272). -/
theorem exec_captureArm_of_repairing {s : State} {t : Taken} (h : InHand s t 0x38) (hr : s.dram.repairing.isSome = true) :
    exec .captureArm s = .next { freed s with jobs := { s.jobs with waitArms := s.jobs.waitArms ++ [t] } } :=
  congrArg Host.Outcome.next ((withCmd_inHand h).trans (if_pos hr))

/-- Without a soft repair in progress a `capture_arm` is decided at once (R272, R429). -/
theorem exec_captureArm_decided {s : State} {t : Taken} (h : InHand s t 0x38) (hr : s.dram.repairing = none) :
    exec .captureArm s = .next (decideArm (freed s) t) := by
  have hidle : ¬ (freed s).dram.repairing.isSome = true := by
    rw [show (freed s).dram.repairing = none from hr]
    exact Bool.false_ne_true
  exact congrArg Host.Outcome.next ((withCmd_inHand h).trans (if_neg hidle))

theorem decideArm_of_busy {s : State} {t : Taken} (hb : armBusy s t.fn = true) : decideArm s t = complete s t .busy := if_pos hb

/-- A `capture_arm` that nothing refuses takes hold, and its stall keeps its parameters (R429, R445). -/
theorem decideArm_of_free {s : State} {t : Taken} (hb : armBusy s t.fn = false) (hr : armRefused s t.fn (armParams t.e) (latePolicy t.e = 1) t.when
      ((reservedBit t.e armBits).map fun x => fieldPay x.1 x.2) = none) : decideArm s t = completeAt
    (modStall (armApply s t.fn (armParams t.e) t.when) t.fn fun x => { x with lastArm := some (armParams t.e) }) t .ok
    (armPay s t.fn (armParams t.e) t.when) := by
  refine (if_neg (ne_true_of_eq_false hb)).trans ?_
  rw [hr]

/-- A completion leaves its stall but for the completion store, the outstanding commands and the dropped events (R363, R383). -/
theorem completeAt_stall (s : State) (t : Taken) (st : Status) (p : Pay) (n : Stall) : (completeAt s t st p).stalls[n] = { s.stalls[n] with
    store := (completeAt s t st p).stalls[n].store, outst := (completeAt s t st p).stalls[n].outst
    eventsDropped := (completeAt s t st p).stalls[n].eventsDropped } :=
  (told_of_answersOnly (completeAt_answers s t st p)).2 n

/-- Settles O20: a `capture_arm` that does not wait is decided at once, and one that nothing refuses takes hold (`armApply_stall`). -/
theorem captureArmArmsTheStall : Obligations.CaptureArmArmsTheStall := by
  intro s t h
  refine ⟨exec_captureArm_of_repairing h, fun hr hb => ?busy, fun hr hb hf => ?free⟩
  case busy => rw [exec_captureArm_decided h hr, decideArm_of_busy hb]
  case free =>
    have hx := exec_captureArm_decided h hr
    rw [decideArm_of_free hb hf] at hx
    obtain ⟨r, hstall⟩ := armApply_stall (freed s) t.fn (armParams t.e) t.when
    refine ⟨hx, _, armCapture (freed s) t.fn (armParams t.e) t.when, hx, ?_⟩
    rw [completeAt_stall, modStall_stalls, vmod_same, hstall]
    exact ⟨rfl, rfl, rfl, rfl, rfl, rfl, rfl, rfl, rfl, rfl, rfl⟩

end Sys2Proof.Machine
end

section
/-! SUPPORT. What a DRAM lane undergoes in service: ALERT_n and the replay, demotion, soft repair, the wipe and the patrol (R253, R254, R267 to
R276, R371). -/

namespace Sys2Proof.Machine

/-! ## ALERT_n -/

/-- A lane whose ALERT_n falls: it stops, and a replay is broken off (R267). -/
def alertFallen (now : Time) (x : Lane) : Lane := { x with
  alert := true, reading := false, readRun := 0, replaying := []
  retry := (settled now x).retry.map fun c => if x.replaying.contains c.id then { c with again := 0 } else c }

theorem mem_settled_retry {now : Time} {x : Lane} {c : LaneCmd} (h : c ∈ (settled now x).retry) : c ∈ x.retry := by
  unfold settled at h
  split at h
  · exact h
  · exact (List.mem_filter.1 h).1

/-- No command is re-issued more often by a fall (R268). -/
theorem alertFallen_again {now : Time} {x : Lane} (h : ∀ c ∈ x.retry, c.again < 3) : ∀ c ∈ (alertFallen now x).retry, c.again < 3 := by
  intro c hc
  obtain ⟨d, hd, rfl⟩ := List.mem_map.1 hc
  split
  · exact Nat.zero_lt_succ 2
  · exact h d (mem_settled_retry hd)

theorem laneOpen_of_alert {s : State} {l : Fin 4} (h : s.lanes[l].alert = true) : laneOpen s l = false := by
  unfold laneOpen
  rw [h, Bool.not_true, Bool.and_false, Bool.false_and]

section
variable {s : State} {l : Fin 4}

/-- ALERT_n falls at a lane that runs, none of whose commands has been re-issued in three replays (R267, R268). -/
theorem exec_alertNFall_of_running (hr : laneRuns s l = true) (ha : s.lanes[l].alert = false) (hn : ∀ c ∈ s.lanes[l].retry, c.again < 3) :
    exec (.alertNFall l) s = .next (modLane s l (alertFallen s.tb.now)) := by
  have hlive : ¬ (!laneRuns s l || s.lanes[l].alert) = true := by rw [hr, ha]; decide
  have hfew : ¬ ((modLane s l (alertFallen s.tb.now)).lanes[l].retry.any fun c => 3 ≤ c.again) = true := by
    rw [modLane_at]
    simpa using alertFallen_again hn
  exact congrArg Host.Outcome.next ((if_neg hlive).trans (if_neg hfew))

/-- A lane whose ALERT_n rises: what is not acknowledged is replayed, oldest first (R267, R280). -/
def alertRisen (now : Time) (x : Lane) : Lane := { x with
  alert := false, replaying := x.retry.map fun c => c.id, replays := satAdd 32 x.replays 1
  replayTimes := now :: x.replayTimes.filter fun t => !passed now t ms }

/-- The lane after a rise: without a command to replay its recovery is over (R257). -/
def recovering (now : Time) (x : Lane) : Lane := if x.retry = [] then endRecovery now (alertRisen now x) else alertRisen now x

/-- The end of a recovery is a stop, and no more (R257). -/
theorem recovering_eq (now : Time) (x : Lane) : ∃ t, recovering now x = { alertRisen now x with stopUntil := t } := by
  unfold recovering endRecovery
  split
  · split
    · exact ⟨_, rfl⟩
    · exact ⟨_, rfl⟩
  · exact ⟨_, rfl⟩

/-- A rise of ALERT_n that is not the 33rd within 1 ms (R267, R268). -/
theorem exec_alertNRise_of_alert (ha : s.lanes[l].alert = true)
    (hn : (s.lanes[l].replayTimes.filter fun t => !passed s.tb.now t ms).length < 32) :
    exec (.alertNRise l) s = .next (modLane s l (recovering s.tb.now)) := by
  have hlow : ¬ (!s.lanes[l].alert) = true := by rw [ha]; decide
  have hfew : ¬ 32 < (modLane s l (recovering s.tb.now)).lanes[l].replayTimes.length := by
    obtain ⟨t, ht⟩ := recovering_eq s.tb.now s.lanes[l]
    rw [modLane_at, ht]
    exact Nat.not_lt.2 hn
  exact congrArg Host.Outcome.next ((if_neg hlow).trans (if_neg hfew))

theorem alertNRise_next (ha : s.lanes[l].alert = true)
    (hn : (s.lanes[l].replayTimes.filter fun t => !passed s.tb.now t ms).length < 32) :
    ∃ u, exec (.alertNRise l) s = .next u ∧ u.lanes[l].alert = false ∧ u.lanes[l].replays = satAdd 32 s.lanes[l].replays 1 ∧
      u.lanes[l].replaying = (s.lanes[l].retry.map fun c => c.id) ∧ u.lanes[l].retry = s.lanes[l].retry ∧
      ∀ k : Fin 4, k ≠ l → u.lanes[k] = s.lanes[k] := by
  obtain ⟨t, ht⟩ := recovering_eq s.tb.now s.lanes[l]
  refine ⟨_, exec_alertNRise_of_alert ha hn, ?_⟩
  rw [modLane_at, ht]
  exact ⟨rfl, rfl, rfl, rfl, fun k hk => modLane_other s hk _⟩

/-! ## Demotion -/

theorem told_dram {s t : State} (h : told s t) : t.dram = s.dram := by rw [h.1]

/-- The report of a lane's change, and of the guarantee if it has changed (R231, R281). -/
theorem laneReport_told (s : State) (who : List Stall) (cause : Nat) (l : Fin 4) (old : Nat) :
    told s (noteG (dramEvent s who cause l 0) old) :=
  told_trans (sendRated_told _ _ _ _) (told_ite (told_refl _) (sendRated_told _ _ _ _))

theorem queueJournal_lanes (s : State) (kind : BitVec 8) (detail : Dword) (w : Work) : (queueJournal s kind detail w).lanes = s.lanes :=
  ite_same (g := State.lanes) rfl rfl

/-- A lane that fails in service ends the admission of captures (R276). -/
theorem failLane_next (s : State) (l : Fin 4) : (failLane s l).lanes[l].failed = true ∧ (failLane s l).dram.admFail = true := by
  unfold failLane
  dsimp only
  rw [told_lanes (laneReport_told _ _ _ _ _), told_dram (laneReport_told _ _ _ _ _), queueJournal_lanes, (queueJournal_upd _ _ _ _).1, modLane_at]
  exact ⟨rfl, rfl⟩

/-- A lane trained at a lower grade is stable again (R275). -/
theorem slowLane_next (s : State) (l : Fin 4) (v : BitVec 2) : (slowLane s l v).lanes[l].speed = v ∧ (slowLane s l v).lanes[l].unstable = false := by
  unfold slowLane
  dsimp only
  rw [told_lanes (laneReport_told _ _ _ _ _), modLane_at]
  exact ⟨rfl, rfl⟩

section
variable (hr : laneRuns s l = true) (hu : s.lanes[l].unstable = true) (hf : s.lanes[l].failed = false) (hd : drained s = true)
include hr hu hf hd

/-- An unstable lane whose freeboard has drained is not passed over (R275). -/
theorem demotion_due : ¬ (!laneRuns s l || !s.lanes[l].unstable || s.lanes[l].failed || !drained s) = true := by
  rw [hr, hu, hf, hd]
  decide

/-- A lane that passes at no grade fails (R276). -/
theorem exec_laneDemote_none : exec (.laneDemote l none) s = .next (failLane s l) :=
  congrArg Host.Outcome.next (if_neg (demotion_due hr hu hf hd))

/-- A lane that passes at a lower grade goes on at it (R275). -/
theorem exec_laneDemote_some {v : BitVec 2} (hv : v < s.lanes[l].speed) : exec (.laneDemote l (some v)) s = .next (slowLane s l v) :=
  congrArg Host.Outcome.next ((if_neg (demotion_due hr hu hf hd)).trans (if_pos hv))

end

/-! ## Soft repair -/

/-- The oldest repair starts when nothing holds it back (R252, R272). -/
theorem exec_softRepair_of_idle {r : Repair} {rest : List Repair} (hq : s.dram.repairQ = r :: rest) (hn : s.dram.repairing = none)
    (hs : ∀ n : Stall, capturing s n = false ∧ opensSoon s n = false ∧ s.stalls[n].ref.play = none) (hr : laneRuns s r.lane = true)
    (ha : s.lanes[r.lane].alert = false) (hw : repairWaits s r = false) :
    exec .softRepair s =
      .next (rowToBuffer { s with dram := { s.dram with repairing := some r, repairQ := rest } } r.lane r.row) := by
  have hquiet : (allStalls.any fun n => capturing s n || opensSoon s n || s.stalls[n].ref.play.isSome) = false := by
    refine List.any_eq_false.2 fun n _ => ?_
    obtain ⟨hcap, hopen, hplay⟩ := hs n
    rw [hcap, hopen, hplay]
    decide
  refine congrArg Host.Outcome.next ?_
  rw [hq]
  refine if_neg ?_
  rw [hn, hquiet, hr, ha, hw]
  decide

/-- The state without what DRAM holds. -/
def sansContent (s : State) : State := { s with dram := { s.dram with mem := [], bad := [] } }

theorem putBack_sansContent (l : Fin 4) (row : BitVec 21) (s : State) (x : BufBlock × Nat) :
    sansContent (putBack l row s x) = sansContent s :=
  ite_same (g := sansContent) (ite_same (g := sansContent) rfl rfl) rfl

/-- The repair buffer that goes back changes what DRAM holds, and the buffer is empty (R272). -/
theorem bufferToRow_sansContent (s : State) (l : Fin 4) (row : BitVec 21) :
    sansContent (bufferToRow s l row) = modLane (sansContent s) l fun x => { x with repairBuf := [] } :=
  congrArg (fun u => modLane u l fun x => { x with repairBuf := [] })
    (foldl_same (g := sansContent) (putBack_sansContent l row) (s.lanes[l].repairBuf.zipIdx) s)

/-- A new entry of the breach map changes the flash alone (R274). -/
theorem putBreach_eq (s : State) (e : BreachEntry) : putBreach s e = { s with flash := (putBreach s e).flash } := by
  unfold putBreach queueBreach
  dsimp only
  split <;> rfl

theorem queueBreach_breach (s : State) : (queueBreach s).flash.breach = s.flash.breach :=
  ite_same (g := fun s : State => s.flash.breach) rfl rfl

/-- The breach map tells of a row, in the row's entry or in a new one if it has room (R274). -/
theorem mem_putBreach {s : State} (e : BreachEntry) (h : s.flash.breach.length < 1024) : e ∈ (putBreach s e).flash.breach := by
  unfold putBreach
  rw [queueBreach_breach]
  dsimp only
  split
  · next hany =>
    obtain ⟨b, hb, hat⟩ := List.any_eq_true.1 hany
    exact List.mem_map.2 ⟨b, hb, if_pos hat⟩
  · exact List.mem_append_right _ (List.mem_singleton.2 rfl)

/-- The cause for which the breach map holds a row, 0 for none (R274). -/
def breachCause (s : State) (r : Repair) : BitVec 3 :=
  ((s.flash.breach.find? fun b => b.lane == r.lane && b.row == r.row).map fun b => b.cause).getD 0

/-- No repair is in progress, and the row is back as it was read (R272). -/
def rowBack (s : State) (r : Repair) (flips : List (List (BitVec 80))) : State :=
  bufferToRow (modLane { s with dram := { s.dram with repairing := none } } r.lane (bufferRead flips)) r.lane r.row

/-- The row is back, and the breach map tells of the repair (R272, R274). -/
def repaired (s : State) (r : Repair) (flips : List (List (BitVec 80))) : State :=
  putBreach (rowBack s r flips) { lane := r.lane, row := r.row, state := 1, cause := breachCause s r }

theorem rowBack_sansContent (s : State) (r : Repair) (flips : List (List (BitVec 80))) : sansContent (rowBack s r flips) =
    modLane (modLane (sansContent { s with dram := { s.dram with repairing := none } }) r.lane (bufferRead flips)) r.lane
      fun x => { x with repairBuf := [] } := bufferToRow_sansContent _ _ _

theorem rowBack_next (s : State) (r : Repair) (flips : List (List (BitVec 80))) : (rowBack s r flips).dram.repairing = none ∧
    (rowBack s r flips).stalls = s.stalls ∧ (rowBack s r flips).lanes[r.lane].repairBuf = [] ∧ (rowBack s r flips).flash = s.flash ∧
    (rowBack s r flips).jobs = s.jobs := by
  have h := rowBack_sansContent s r flips
  refine ⟨congrArg (fun u => u.dram.repairing) h, (congrArg State.stalls h :), ?_, (congrArg State.flash h :), (congrArg State.jobs h :)⟩
  refine (congrArg (fun u => u.lanes[r.lane].repairBuf) h).trans ?_
  rw [modLane_at]

/-- The end of a repair that no arm and no key waits for (R272). -/
theorem exec_softRepairEnd_of_alone {r : Repair} (flips : List (List (BitVec 80))) (hr : s.dram.repairing = some r) (ha : s.jobs.waitArms = [])
    (hk : s.jobs.waitKeys = []) : exec (.softRepairEnd flips) s =
      .next { repaired s r flips with jobs := { (repaired s r flips).jobs with waitArms := [], waitKeys := [] } } := by
  have hjobs : (repaired s r flips).jobs = s.jobs := by
    obtain ⟨-, -, -, -, hjobs⟩ := rowBack_next s r flips
    rw [repaired, putBreach_eq, hjobs]
  have harms : (repaired s r flips).jobs.waitArms = [] := (congrArg Jobs.waitArms hjobs).trans ha
  have hkeys : (repaired s r flips).jobs.waitKeys = [] := (congrArg Jobs.waitKeys hjobs).trans hk
  have hx : exec (.softRepairEnd flips) s = .next ((repaired s r flips).jobs.waitKeys.foldl keyArm
      ((repaired s r flips).jobs.waitArms.foldl decideArm
        { repaired s r flips with jobs := { (repaired s r flips).jobs with waitArms := [], waitKeys := [] } })) := by
    refine congrArg Host.Outcome.next ?_
    rw [hr]
    rfl
  rw [hx, harms, hkeys, List.foldl_nil, List.foldl_nil]

theorem softRepairEnd_next {r : Repair} (flips : List (List (BitVec 80))) (hr : s.dram.repairing = some r) (ha : s.jobs.waitArms = [])
    (hk : s.jobs.waitKeys = []) : ∃ u, exec (.softRepairEnd flips) s = .next u ∧ u.dram.repairing = none ∧ u.stalls = s.stalls ∧
      u.lanes[r.lane].repairBuf = [] ∧
      (s.flash.breach.length < 1024 → ∃ b ∈ u.flash.breach, b.lane = r.lane ∧ b.row = r.row ∧ b.state = 1) := by
  obtain ⟨hdone, hstalls, hbuf, hflash, -⟩ := rowBack_next s r flips
  refine ⟨_, exec_softRepairEnd_of_alone flips hr ha hk, ?_, ?_, ?_, fun hroom => ⟨_, mem_putBreach _ (hflash ▸ hroom), rfl, rfl, rfl⟩⟩
  · rw [repaired, putBreach_eq, hdone]
  · rw [repaired, putBreach_eq, hstalls]
  · rw [repaired, putBreach_eq, hbuf]

/-! ## The wipe and the patrol -/

/-- The oldest parcel of the queue, wiped on every lane, leaves it, and DRAM stands (R371). -/
theorem wipeParcelDone_next {p : Fin 4096} {q : WipeReq} {rest : List WipeReq} (hq : s.dram.wipeQ = q :: rest) (hp : q.parcel = p.val)
    (hw : (usableLanes s).all (fun l => wipedOn s l q.parcel) = true) :
    ∃ u, exec (.wipeParcelDone p) s = .next u ∧ u.dram.wipeQ = rest ∧ u.dram.mem = s.dram.mem := by
  have hx : exec (.wipeParcelDone p) s = .next { s with
      dram := { s.dram with wipeQ := rest }, lanes := s.lanes.map fun x => { x with wiped := x.wiped.filter fun k => k != q.parcel } } := by
    refine congrArg Host.Outcome.next ?_
    rw [hq]
    exact if_neg (not_or.2 ⟨not_not_intro hp, by rw [hw]; decide⟩)
  exact ⟨_, hx, rfl, rfl⟩

/-- The patrol waits while it is still at a block (R270). -/
theorem exec_scrubStep_of_scrubbing (ago : BitVec 8) (h : s.lanes[l].scrubbing.isSome = true) : exec (.scrubStep l ago) s = .next s := by
  refine congrArg Host.Outcome.next (if_pos ?_)
  rw [h, Bool.or_true]

/-- The patrol's read of its next block waits on P3 (R251, R270). -/
theorem exec_scrubStep_of_free (ago : BitVec 8) (hr : laneRuns s l = true) (hf : s.lanes[l].failed = false) {blk : Nat}
    (hs : s.lanes[l].scrubbing = none) (hb : blk = s.lanes[l].scrubAddr * (usableLanes s).length + laneIndex s l) :
    exec (.scrubStep l ago) s = .next (modLane s l fun x =>
      { x with scrubbing := some blk, scrubStale := false, p3r := [{ blk := blk, owner := .scrub, when := s.tb.now - ago.zeroExtend 64 }] }) := by
  subst hb
  refine congrArg Host.Outcome.next (if_neg ?_)
  rw [hr, hf, hs]
  decide

end

/-- Settles O51, row by row: a fall stops the lane (`laneOpen_of_alert`), a rise replays what is not acknowledged (`recovering_eq`), an unstable
lane is trained anew or fails, and the end of a repair is told in the breach map (`mem_putBreach`). -/
theorem lanesReplayRepairAndWipe : Obligations.LanesReplayRepairAndWipe := by
  intro s l
  refine ⟨fun hr ha hn => ?fall, alertNRise_next, fun hr hu hf hd => ⟨?fail, fun v hv => ?slow⟩, fun r rest => exec_softRepair_of_idle,
    fun r flips => softRepairEnd_next flips, fun p q rest => wipeParcelDone_next,
    fun hr hf ago => ⟨exec_scrubStep_of_scrubbing ago, fun blk => exec_scrubStep_of_free ago hr hf⟩⟩
  case fall =>
    have hlane := modLane_at s l (alertFallen s.tb.now)
    have halert := congrArg Lane.alert hlane
    exact ⟨_, exec_alertNFall_of_running hr ha hn, halert, congrArg Lane.reading hlane, congrArg Lane.replaying hlane,
      laneOpen_of_alert halert, fun k hk => modLane_other s hk _⟩
  case fail => exact ⟨_, exec_laneDemote_none hr hu hf hd, rfl, failLane_next s l⟩
  case slow => exact ⟨_, exec_laneDemote_some hr hu hf hd hv, rfl, slowLane_next s l v⟩

end Sys2Proof.Machine
end

section
/-! SUPPORT. SLUICE_CONFIG on the command in hand: a chain's setting, a link's setting, and the DC operations (R283, R284, R292, R302, R424). -/

open Sys2Proof.Claims

namespace Sys2Proof.Machine

theorem completeAt_chains (s : State) (t : Taken) (st : Status) (p : Pay) : (completeAt s t st p).chains = s.chains := by
  rw [(completeAt_answers s t st p).1]

theorem completeAt_links (s : State) (t : Taken) (st : Status) (p : Pay) : (completeAt s t st p).links = s.links := by
  rw [(completeAt_answers s t st p).1]

/-- The refusal of a chain outside the grant passes over a chain of the grant. -/
theorem not_ungranted {s : State} {n : Stall} {k : Fin 8} (hg : bit s.stalls[n].grant.chains k.val = true) :
    ¬ (!bit s.stalls[n].grant.chains k.val) = true := by
  rw [hg]
  exact Bool.false_ne_true

/-! ## Chains -/

/-- A chain that takes a setting stands unanchored and without output (R292). -/
theorem putChain_same (s : State) (n : Fin 8) (w : BitVec 256) (fallback : Bool) :
    (putChain s n w fallback).chains[n].setting = w ∧ (putChain s n w fallback).chains[n].anchored = false ∧
    (putChain s n w fallback).chains[n].producing = false := by
  unfold putChain
  rw [modChain_same]
  exact ⟨rfl, rfl, rfl⟩

theorem putChain_other (s : State) {n m : Fin 8} (h : m ≠ n) (w : BitVec 256) (fallback : Bool) :
    (putChain s n w fallback).chains[m] = s.chains[m] := modChain_other s h _

/-- What an accepted chain setting reports: the fallback, the delays, the multipliers left and those taken (R299, R300, R424). -/
def chainReport (s : State) (n : Fin 8) (mults : Nat) (fallback : Bool) : Pay where
  p4 := flag fallback 31 ||| fld s.chains[n].delayO 0
  p5 := fld s.chains[n].delayD 0
  p6 := fld (1024 - multsTaken s n - mults) 16 ||| fld mults 0

/-- The named chain has the setting given, and the command completes with its report. -/
def chainTaken (s : State) (t : Taken) : State :=
  let n := namedChain t.e
  let w := chainSetting t.e
  completeAt (putChain s n w (romBad s w)) t .ok (chainReport (putChain s n w (romBad s w)) n
    (((linkOfChain s n).map fun l => multsOf l w (romBad s w)).getD 0) (romBad s w))

section
variable {s : State} {t : Taken} (h : InHand s t 0x28) (hop : sluiceOp t = 0)
include h hop

theorem sluiceConfigChain_inHand (g : State → Taken → State) :
    withCmd s (fun t => isOp 0x28 t && (sluiceOp t == 0 || sluiceOp t == 3)) g = g (freed s) t :=
  withCmd_held h.1 (by rw [isOp_of h.2, hop]; rfl)

theorem exec_sluiceConfigChain_of_ungranted (hg : bit s.stalls[t.fn].grant.chains (namedChain t.e).val = false) :
    exec .sluiceConfigChain s = .next (deny (freed s) t .notGranted 3 (namedChain t.e).val) := by
  refine congrArg Host.Outcome.next ((sluiceConfigChain_inHand h hop _).trans (if_pos ?_))
  rw [show bit (freed s).stalls[t.fn].grant.chains (namedChain t.e).val = false from hg]
  rfl

theorem exec_sluiceConfigChain_of_capturing (hg : bit s.stalls[t.fn].grant.chains (namedChain t.e).val = true)
    (hc : capturing s t.fn = true) : exec .sluiceConfigChain s = .next (complete (freed s) t .busy) :=
  congrArg Host.Outcome.next
    ((sluiceConfigChain_inHand h hop _).trans ((if_neg (not_ungranted (s := freed s) hg)).trans (if_pos hc)))

/-- A setting without a fault, whose multipliers the pool still has, is the chain's (R292, R299, R300, R424). -/
theorem exec_sluiceConfigChain_of_form (hg : bit s.stalls[t.fn].grant.chains (namedChain t.e).val = true) (hc : capturing s t.fn = false)
    (hform : chainFault (freed s) t.fn t.e (chainSetting t.e) (linkOfChain s (namedChain t.e)) (romBad s (chainSetting t.e)) = none)
    (hpool : multsTaken (freed s) (namedChain t.e) +
      ((linkOfChain s (namedChain t.e)).map fun l => multsOf l (chainSetting t.e) (romBad s (chainSetting t.e))).getD 0 ≤ 1024) :
    exec .sluiceConfigChain s = .next (if romBad s (chainSetting t.e) then firFallbackEvent (chainTaken (freed s) t) t.fn (namedChain t.e)
      else chainTaken (freed s) t) := by
  have hfree : ¬ capturing (freed s) t.fn = true := Bool.eq_false_iff.1 hc
  refine congrArg Host.Outcome.next ((sluiceConfigChain_inHand h hop _).trans ?_)
  refine (if_neg (not_ungranted (s := freed s) hg)).trans ((if_neg hfree).trans ?_)
  have hform : chainFault (freed s) t.fn t.e (chainSetting t.e) (linkOfChain (freed s) (namedChain t.e))
    (romBad (freed s) (chainSetting t.e)) = none := hform
  rw [hform]
  exact if_neg (Nat.not_lt.2 hpool)

end

/-! ## Links -/

/-- A link that takes a setting starts over (R286). -/
theorem putLink_same (s : State) (l : Fin 2) (w : BitVec 128) :
    (putLink s l w).links[l].setting = w ∧ (putLink s l w).links[l].up = false :=
  ⟨(putLink_setting s l l w).trans (if_pos rfl), congrArg JLink.up (modLink_same (stopChains s (linkAffects s l w)) l _)⟩

theorem putLink_other (s : State) {l k : Fin 2} (h : k ≠ l) (w : BitVec 128) : (putLink s l w).links[k] = s.links[k] :=
  modLink_other (stopChains s (linkAffects s l w)) h _

section
variable {s : State} {t : Taken} (h : InHand s t 0x28) (hop : sluiceOp t = 1)
include h hop

theorem sluiceConfigLink_inHand (g : State → Taken → State) :
    withCmd s (fun t => isOp 0x28 t && sluiceOp t == 1) g = g (freed s) t :=
  withCmd_held h.1 (by rw [isOp_of h.2, hop]; rfl)

theorem exec_sluiceConfigLink_of_vf (hf : t.fn ≠ 0) : exec .sluiceConfigLink s = .next (deny (freed s) t .privileged 0 0) :=
  congrArg Host.Outcome.next ((sluiceConfigLink_inHand h hop _).trans (if_pos hf))

/-- The physical function's setting without a fault is the link's, and the report is the lane rate that it gives (R283, R284, R424). -/
theorem exec_sluiceConfigLink_of_form (hf : t.fn = 0)
    (hc : anyCapturing (freed s) (linkAffects (freed s) (namedLink t.e) (linkSetting t.e)) = false)
    (hform : linkFault t.e (linkSetting t.e) (s.links[1 - namedLink t.e].setting) = none) :
    exec .sluiceConfigLink s = .next (completeAt (putLink (freed s) (namedLink t.e) (linkSetting t.e)) t .ok
      { p4 := fld ((laneRate (linkSetting t.e)).1 / (laneRate (linkSetting t.e)).2) 0 }) := by
  have hbusy : ¬ (linkNamed t.e && anyCapturing (freed s) (linkAffects (freed s) (namedLink t.e) (linkSetting t.e))) = true := by
    rw [hc, Bool.and_false]
    exact Bool.false_ne_true
  refine congrArg Host.Outcome.next ((sluiceConfigLink_inHand h hop _).trans ?_)
  refine (if_neg (not_not_intro hf)).trans ((if_neg hbusy).trans ?_)
  have hform : linkFault t.e (linkSetting t.e) ((freed s).links[1 - namedLink t.e].setting) = none := hform
  rw [hform]

theorem sluiceConfigLink_next (hf : t.fn = 0)
    (hc : anyCapturing (freed s) (linkAffects (freed s) (namedLink t.e) (linkSetting t.e)) = false)
    (hform : linkFault t.e (linkSetting t.e) (s.links[1 - namedLink t.e].setting) = none) :
    ∃ u, exec .sluiceConfigLink s = .next u ∧ u.links[namedLink t.e].setting = linkSetting t.e ∧ u.links[namedLink t.e].up = false ∧
      ∀ l, l ≠ namedLink t.e → u.links[l] = s.links[l] := by
  refine ⟨_, exec_sluiceConfigLink_of_form h hop hf hc hform, ?_⟩
  rw [completeAt_links]
  obtain ⟨hsetting, hup⟩ := putLink_same (freed s) (namedLink t.e) (linkSetting t.e)
  exact ⟨hsetting, hup, fun l hl => putLink_other (freed s) hl _⟩

end

/-! ## The DC operations -/

/-- A DC operation on a granted chain changes it, and reports whether it is then frozen (R302, R424). -/
theorem dcControl_granted {s : State} {t : Taken} (f : Chain → Chain) (hg : bit s.stalls[t.fn].grant.chains (namedChain t.e).val = true)
    (hr : reservedBit t.e [0x00000373] = none) (hd : dcOp t ≠ 3) :
    dcControl s t f = completeAt (modChain s (namedChain t.e) f) t .ok { p4 := flag (dcFrozen (f s.chains[namedChain t.e])) 0 } := by
  unfold dcControl
  dsimp only
  rw [if_neg (not_ungranted hg), hr]
  dsimp only
  rw [if_neg hd, modChain_same]

section
variable {s : State} {t : Taken} (h : InHand s t 0x28) (hop : sluiceOp t = 2)
  (hg : bit s.stalls[t.fn].grant.chains (namedChain t.e).val = true) (hr : reservedBit t.e [0x00000373] = none)
include h hop hg hr

/-- A DC row with its own operation in hand, whatever the stall's state (R302, R424). -/
theorem dcRow_granted {p : Nat → Bool} (f : Chain → Chain) (hp : p (dcOp t) = true) (hd : dcOp t ≠ 3) :
    withCmd s (fun t => isOp 0x28 t && sluiceOp t == 2 && p (dcOp t)) (fun s t => dcControl s t f) =
      completeAt (modChain (freed s) (namedChain t.e) f) t .ok { p4 := flag (dcFrozen (f s.chains[namedChain t.e])) 0 } :=
  (withCmd_held h.1 (by rw [isOp_of h.2, hop, hp]; rfl)).trans (dcControl_granted (s := freed s) f hg hr hd)

theorem exec_dcFreeze_of_granted (hd : dcOp t = 0) : exec .dcFreeze s =
    .next (completeAt (modChain (freed s) (namedChain t.e) fun c => setFreeze c true c.frozenAuto) t .ok { p4 := 1 }) :=
  congrArg Host.Outcome.next (dcRow_granted h hop hg hr (p := fun k => k == 0 || k == 3) _ (by rw [hd]; rfl) (by rw [hd]; decide))

theorem exec_dcThaw_of_granted (hd : dcOp t = 1) : exec .dcThaw s =
    .next (completeAt (modChain (freed s) (namedChain t.e) fun c => setFreeze c false c.frozenAuto) t .ok
      { p4 := flag s.chains[namedChain t.e].frozenAuto 0 }) :=
  congrArg Host.Outcome.next (dcRow_granted h hop hg hr (p := (· == 1)) _ (by rw [hd]; rfl) (by rw [hd]; decide))

theorem exec_dcReset_of_granted (hd : dcOp t = 2) : exec .dcReset s =
    .next (completeAt (modChain (freed s) (namedChain t.e) fun c => { c with est := 0 }) t .ok
      { p4 := flag (dcFrozen s.chains[namedChain t.e]) 0 }) :=
  congrArg Host.Outcome.next (dcRow_granted h hop hg hr (p := (· == 2)) _ (by rw [hd]; rfl) (by rw [hd]; decide))

end

/-- Settles O16: an accepted chain setting is `putChain` (`putChain_same`), an accepted link setting `putLink` (`putLink_same`), and a DC
operation changes the one granted chain (`dcRow_granted`). -/
theorem sluiceConfigSetsChainsLinksAndDcFilters : Obligations.SluiceConfigSetsChainsLinksAndDcFilters := by
  refine ⟨fun s t h hop => ?chain, fun s t h hop => ?link, fun s t n h hop hn hg hr => ?dc⟩
  case chain =>
    refine ⟨exec_sluiceConfigChain_of_ungranted h hop, exec_sluiceConfigChain_of_capturing h hop, ?_⟩
    rintro _ hg hc rfl hform hpool
    obtain ⟨hsetting, hanchored, hproducing⟩ := putChain_same (freed s) (namedChain t.e) (chainSetting t.e) (romBad s (chainSetting t.e))
    exact ⟨_, chainTaken (freed s) t, ⟨rfl, exec_sluiceConfigChain_of_form h hop hg hc hform hpool⟩, hsetting, hanchored, hproducing,
      fun m hm => putChain_other (freed s) hm _ _⟩
  case link =>
    exact ⟨exec_sluiceConfigLink_of_vf h hop,
      fun hf hc hform => ⟨exec_sluiceConfigLink_of_form h hop hf hc hform, sluiceConfigLink_next h hop hf hc hform⟩⟩
  case dc =>
    subst hn
    exact ⟨exec_dcFreeze_of_granted h hop hg hr, exec_dcThaw_of_granted h hop hg hr, exec_dcReset_of_granted h hop hg hr⟩

end Sys2Proof.Machine
end

section
/-! SUPPORT. Uploads, loads and playback at work: the chunk read and the chunk compressed, the bale inflated, and the start, the fill and the end
of a playback (R318, R323, R324, R331, R333, R336, R337, R340 to R342). -/

namespace Sys2Proof.Machine

/-! ## With no upload left -/

theorem stopping_of_none {s : State} (h : s.jobs.uploads = []) : stopping s := by
  unfold stopping
  rw [h]
  exact fun _ hx => absurd hx List.not_mem_nil

theorem nextChunks_of_stopping {s : State} (h : stopping s) (k : Nat) : giveComps (issueChunks k s) = s := by
  rw [issueChunks_of_stopping h]
  exact foldl_eq_self fun k _ => takeComp_of_stopping h k

theorem uploadsGoOn_of_none {s : State} (h : s.jobs.uploads = []) : uploadsGoOn s = s := by
  unfold uploadsGoOn
  rw [h]
  exact nextChunks_of_stopping (stopping_of_none h) _

theorem startUploads_of_none {s : State} (h : s.jobs.uploads = []) : startUploads s = s := by
  have hsame : ({ s with jobs := { s.jobs with uploads := [] } } : State) = s := by rw [← h]
  unfold startUploads
  rw [h]
  exact (nextChunks_of_stopping (stopping_of_none rfl) _).trans hsame

/-- The end of the only upload, with no `upload_cancel` that waits for it, leaves no job, and the lanes as they are (R327). -/
theorem endUpload_of_only {s : State} {u : UploadJob} (h : s.jobs.uploads = [u]) (hc : u.cancel = []) (he : u.ended = false) (st : Status) :
    (endUpload s u st).jobs.uploads = [] ∧ (endUpload s u st).lanes = s.lanes := by
  have hnone : s.jobs.uploads.filter (fun x => x != u) = [] := by simp [h]
  unfold endUpload
  dsimp only
  rw [he, hc, hnone, if_neg Bool.false_ne_true, List.foldl_nil, startUploads_of_none (congrArg Jobs.uploads (completeTag_jobs _ _ _ _ _))]
  exact ⟨congrArg Jobs.uploads (completeTag_jobs _ _ _ _ _), (told_lanes (told_of_answersOnly (completeTag_answers _ _ _ _ _))).trans rfl⟩

theorem endUpload_goesOn_of_only {s : State} {u : UploadJob} (h : s.jobs.uploads = [u]) (hc : u.cancel = []) (he : u.ended = false)
    (st : Status) : (uploadsGoOn (endUpload s u st)).jobs.uploads = [] ∧ (uploadsGoOn (endUpload s u st)).lanes = s.lanes := by
  have hend := endUpload_of_only h hc he st
  rw [uploadsGoOn_of_none hend.1]
  exact hend

/-! ## Chunks -/

/-- A job whose chunk has been read (R317, R318). -/
def chunkRead (u : UploadJob) : UploadJob := { u with
  reqd := 0, got := [], crc := crc32cFrom u.crc (chunkBytes u), read := u.read + (chunkBytes u).length }

/-- The job's chunk has been read, and its command has come so far. -/
def chunkTaken (s : State) (u : UploadJob) : State :=
  putJob (modOutst s u.fn u.tag fun o => { o with done := u.read + (chunkBytes u).length }) u (chunkRead u)

/-- A number of blocks of the running bale reaches its end. -/
def lastOfBale (u : UploadJob) (blocks : Nat) : Bool := u.pos + blocks == ((u.bales.head?.map fun b => b.blocks.length).getD 0)

/-- The stored block of the chunk that has come (R318). -/
def storedChunk (u : UploadJob) : List Byte := storedBlock (lastOfBale u ((chunkBytes u).length / 144)) (chunkBytes u)

/-- A job that keeps of its stream's bits those that fill no byte, and none at the end of a bale (R318). -/
def bitsKept (u : UploadJob) (last : Bool) (l : List Bool) : UploadJob := { u with bitRest := if last then [] else l.drop (l.length / 8 * 8) }

/-- Stream bytes past the end of the list end the job (R325). -/
theorem writeChunk_of_overflow {u : UploadJob} {stream : List Byte} (h : sglTotal u < u.off + 32 + u.clen + stream.length) (s : State)
    (blocks : Nat) : writeChunk s u blocks stream = endUpload s u .outputOverflow := if_pos h

section
variable {s : State} {n : Stall} {u : UploadJob} (h : chunkCome s n = some u) (he : u.ended = false)
include h he

/-- A chunk for a compressor waits (R323). -/
theorem exec_uploadChunkRead_of_compressed (hm : u.mode ≠ 0) : exec (.uploadChunkRead n) s =
    .next (uploadsGoOn (putJob (chunkTaken s u) (chunkRead u) { chunkRead u with recs := chunkBytes u })) := by
  refine congrArg Host.Outcome.next ?_
  rw [h]
  dsimp only
  rw [if_neg (ne_true_of_eq_false he), if_neg (ne_true_of_eq_false he), if_pos hm]
  rfl

/-- A stored chunk is framed and written (R318, R323). -/
theorem exec_uploadChunkRead_of_stored (hm : u.mode = 0) : exec (.uploadChunkRead n) s =
    .next (uploadsGoOn (writeChunk (chunkTaken s u) (chunkRead u) ((chunkBytes u).length / 144) (storedChunk u))) := by
  refine congrArg Host.Outcome.next ?_
  rw [h]
  dsimp only
  rw [if_neg (ne_true_of_eq_false he), if_neg (ne_true_of_eq_false he), if_neg (not_not_intro hm)]
  rfl

/-- The stored chunk of the only job, past the end of its list, ends it (R325). -/
theorem uploadChunkRead_of_overflow (hm : u.mode = 0) (hone : s.jobs.uploads = [u]) (hc : u.cancel = [])
    (ho : sglTotal u < u.off + 32 + u.clen + (storedChunk u).length) :
    ∃ w, exec (.uploadChunkRead n) s = .next w ∧ w.jobs.uploads = [] ∧ w.lanes = s.lanes := by
  have hread : (chunkTaken s u).jobs.uploads = [chunkRead u] := by
    change s.jobs.uploads.map (fun x => if x == u then chunkRead u else x) = [chunkRead u]
    simp [hone]
  refine ⟨_, exec_uploadChunkRead_of_stored h he hm, ?_⟩
  rw [writeChunk_of_overflow (u := chunkRead u) ho]
  exact endUpload_goesOn_of_only hread hc he _

end

section
variable {s : State} {k : Fin 4} {block : List Bool} {u : UploadJob}
  (h : (s.jobs.uploads.find? fun u => u.comp == some k && u.recs != []) = some u)
include h

theorem exec_compressorChunkDone_of_uncorrectable :
    exec (.compressorChunkDone k block .uncorrectable) s = .next (uploadsGoOn (endUpload s u .dataError)) := by
  refine congrArg Host.Outcome.next ?_
  rw [h]
  rfl

theorem exec_compressorChunkDone_of_unfit {last : Bool} (hl : last = lastOfBale u (u.recs.length / 144))
    (hf : chunkFits u block last = false) : exec (.compressorChunkDone k block .clean) s = .next s := by
  subst hl
  refine congrArg Host.Outcome.next ?_
  rw [h]
  refine (if_neg (by decide)).trans (if_pos ?_)
  simpa [lastOfBale] using hf

/-- A block that spells the chunk joins the stream, and its whole bytes are written (R318, R319). -/
theorem exec_compressorChunkDone_of_fit (he : u.ended = false) {last : Bool} (hl : last = lastOfBale u (u.recs.length / 144))
    (hf : chunkFits u block last = true) {l : List Bool} (hb : l = u.bitRest ++ block) :
    exec (.compressorChunkDone k block .clean) s = .next (uploadsGoOn
      (writeChunk (putJob s u (bitsKept u last l)) (bitsKept u last l) (u.recs.length / 144)
        (bytesOfBits (l.length / 8 + 1) (if last then l else l.take (l.length / 8 * 8))))) := by
  subst hl hb
  refine congrArg Host.Outcome.next ?_
  rw [h]
  refine (if_neg (by decide)).trans ((if_neg ?_).trans (if_neg ?_))
  · simpa [lastOfBale] using hf
  · simp [he]

end

/-! ## Bales -/

theorem writeRef_jobs (s : State) (n : Stall) (k : Nat) (recs : List Rec) : (writeRef s n k recs).jobs = s.jobs := by
  unfold writeRef
  dsimp only
  split <;> rfl

theorem writeOut_jobs (s : State) (n : Stall) (k : Nat) (out : List Byte) : (writeOut s n k out).jobs = s.jobs :=
  foldl_same (g := State.jobs) (fun s _ => writeRef_jobs s n _ _) _ _

/-- A load ended by a bale loads no more (R330, R333). -/
theorem giveDecs_endLoad_loading (s : State) (j : LoadJob) (st : Status) (p : Pay) :
    (giveDecs (endLoad s j st p)).stalls[j.stall].ref.loading = false := by
  rw [giveDecs_stalls, endLoad_loading, if_pos rfl]

/-- A bale taken with more to come leaves its load at the next one (R331). -/
theorem takeBale_of_more {s : State} {j : LoadJob} {bale : Nat × Nat × BitVec 32} {rest : List (Nat × Nat × BitVec 32)}
    (hj : j ∈ s.jobs.loads) (hb : j.bales = bale :: rest) (hr : rest ≠ []) (out : List Byte) :
    { j with bales := rest, clens := j.clens.drop 1, out := j.out ++ out } ∈ (takeBale s j out).jobs.loads := by
  have hrest : j.bales.drop 1 = rest := by rw [hb, List.drop_one, List.tail_cons]
  unfold takeBale
  dsimp only
  rw [hrest, if_pos hr]
  refine List.mem_map.2 ⟨j, ?_, if_pos (beq_self_eq_true j)⟩
  rw [show (modOutst (writeOut s j.stall (j.out.length / 144) out) j.fn j.tag fun o => { o with done := o.done + out.length }).jobs = s.jobs from
    writeOut_jobs _ _ _ _]
  exact hj

section
variable {s : State} {d : Fin 2} {j : LoadJob} {off ulen : Nat} {crc : BitVec 32} {rest : List (Nat × Nat × BitVec 32)}
  (h : (s.jobs.loads.find? fun j => j.dec == some d) = some j) (hb : j.bales = (off, ulen, crc) :: rest)
include h hb

theorem exec_decompressorBaleDone_of_uncorrectable :
    exec (.decompressorBaleDone d .uncorrectable) s = .next (giveDecs (endLoad s j .dataError {})) := by
  refine congrArg Host.Outcome.next ?_
  rw [h]
  dsimp only
  rw [hb]
  rfl

theorem exec_decompressorBaleDone_of_error {st : Status} (ho : baleOut ((j.data.drop off).take (j.clens.headD 0)) ulen crc = .error st) :
    exec (.decompressorBaleDone d .clean) s = .next (giveDecs (endLoad s j st {})) := by
  refine congrArg Host.Outcome.next ?_
  rw [h]
  dsimp only
  rw [hb]
  refine (if_neg (by decide)).trans ?_
  rw [ho]
  rfl

theorem exec_decompressorBaleDone_of_ok {out : List Byte} (ho : baleOut ((j.data.drop off).take (j.clens.headD 0)) ulen crc = .ok out) :
    exec (.decompressorBaleDone d .clean) s = .next (takeBale s j out) := by
  refine congrArg Host.Outcome.next ?_
  rw [h]
  dsimp only
  rw [hb]
  refine (if_neg (by decide)).trans ?_
  rw [ho]
  rfl

end

/-! ## The start of playback -/

theorem marker_loadView (s : State) (n : Stall) (kind : Nat) (t : Time) (d : BitVec 64) : loadView (marker s n kind t d) = loadView s :=
  ite_same (g := loadView) (queueRecs_loadView _ _ _) rfl

theorem refMarker_ref (s : State) (n : Stall) (what : Nat) (value : BitVec 16) (t : Time) :
    (refMarker s n what value t).stalls[n].ref = s.stalls[n].ref := ref_of_loadView (marker_loadView _ _ _ _ _) n

theorem refFault_ref (s : State) (n : Stall) (cause block : Nat) (t : Time) : (refFault s n cause block t).stalls[n].ref = s.stalls[n].ref :=
  told_ref (sendRated_told _ _ _ _) n

/-- The timed start of a stall waits no more (R336). -/
def untimed (s : State) (n : Stall) : State := modRef s n fun r => { r with timed := none }

theorem untimed_ref (s : State) (n : Stall) : (untimed s n).stalls[n].ref = { s.stalls[n].ref with timed := none } :=
  congrArg StallState.ref (modRef_at _ _ _)

theorem modRef_modRef (s : State) (n : Stall) (f g : Reference → Reference) :
    modRef (modRef s n f) n g = modRef s n fun r => g (f r) := by
  unfold modRef modStall vmod
  simp

/-- Whether a start runs does not go by the timed start that waits (R337). -/
theorem startFault_untimed (s : State) (n : Stall) : startFault (untimed s n) n = startFault s n := by
  unfold startFault segmentOpen untimed
  rw [modRef_at]

section
variable {s : State} {n : Stall} (t : TimedStart)

theorem startPlay_of_playing (h : s.stalls[n].ref.play.isSome = true) :
    startPlay s n t = modRef s n fun r => { r with ignored := satAdd 32 r.ignored 1 } := if_pos h

theorem startPlay_of_fault {k : Nat} (h : s.stalls[n].ref.play = none) (hf : startFault s n = some k) :
    startPlay s n t = refFault (refMarker s n 2 t.value t.when) n k 0 t.when := by
  unfold startPlay
  rw [h, hf]
  rfl

theorem startPlay_of_free (h : s.stalls[n].ref.play = none) (hf : startFault s n = none) : startPlay s n t = beginPlayback s n t := by
  unfold startPlay
  rw [h, hf]
  rfl

/-- A playback begins at its first compared stride (R336, R343). -/
theorem beginPlayback_ref (s : State) (n : Stall) : (beginPlayback s n t).stalls[n].ref = { s.stalls[n].ref with
    starts := satAdd 32 s.stalls[n].ref.starts 1
    play := some { first := t.when, refValue := t.value }
    lags := (ones ((s.stalls[n].ref.params.getD {}).mask)).map fun c => { chan := c, sent := bit s.stalls[n].ref.lagSent c } } := by
  refine (refMarker_ref _ _ _ _ _).trans ?_
  rw [modRef_at]

end

section
variable {s : State} {n : Stall}

theorem exec_playbackTimedStart_of_none (h : s.stalls[n].ref.timed = none) : exec (.playbackTimedStart n) s = .next s := by
  refine congrArg Host.Outcome.next ?_
  unfold runTimed
  rw [h]
  rfl

variable {t : TimedStart} (h : s.stalls[n].ref.timed = some t)
include h

theorem exec_playbackTimedStart_of_early (hp : past s.tb.now t.when = true) : exec (.playbackTimedStart n) s = .next s := by
  have hdue : startDue s.tb.now s.stalls[n].ref.timed = none := by
    rw [h]
    simp [startDue, hp]
  refine congrArg Host.Outcome.next ?_
  unfold runTimed
  rw [hdue]

variable (hp : past s.tb.now t.when = false)
include hp

theorem exec_playbackTimedStart_of_due : exec (.playbackTimedStart n) s = .next (startPlay (untimed s n) n t) := by
  have hdue : startDue s.tb.now s.stalls[n].ref.timed = some t := by
    rw [h]
    simp [startDue, hp]
  refine congrArg Host.Outcome.next ?_
  unfold runTimed
  rw [hdue]
  rfl

/-- A start while playback runs is ignored (R336). -/
theorem exec_playbackTimedStart_of_playing (hr : s.stalls[n].ref.play.isSome = true) : exec (.playbackTimedStart n) s =
    .next (modRef s n fun r => { r with timed := none, ignored := satAdd 32 r.ignored 1 }) := by
  have hplay : (untimed s n).stalls[n].ref.play.isSome = true := by
    rw [untimed_ref]
    exact hr
  rw [exec_playbackTimedStart_of_due h hp, startPlay_of_playing t hplay, untimed, modRef_modRef]

theorem playbackTimedStart_of_free (hr : s.stalls[n].ref.play = none) (hf : startFault s n = none) :
    ∃ u, exec (.playbackTimedStart n) s = .next u ∧ u.stalls[n].ref.timed = none ∧
      u.stalls[n].ref.play = some { first := t.when, refValue := t.value } ∧
      u.stalls[n].ref.starts = satAdd 32 s.stalls[n].ref.starts 1 := by
  refine ⟨_, exec_playbackTimedStart_of_due h hp, ?_⟩
  rw [startPlay_of_free t (by rw [untimed_ref]; exact hr) (by rw [startFault_untimed, hf]), beginPlayback_ref, untimed_ref]
  exact ⟨rfl, rfl, rfl⟩

theorem playbackTimedStart_of_fault {k : Nat} (hr : s.stalls[n].ref.play = none) (hf : startFault s n = some k) :
    ∃ u, exec (.playbackTimedStart n) s = .next u ∧ u.stalls[n].ref.timed = none ∧ u.stalls[n].ref.play = none := by
  refine ⟨_, exec_playbackTimedStart_of_due h hp, ?_⟩
  rw [startPlay_of_fault t (by rw [untimed_ref]; exact hr) (by rw [startFault_untimed, hf]), refFault_ref, refMarker_ref, untimed_ref]
  exact ⟨rfl, hr⟩

end

/-! ## The slice -/

theorem askUpto_ref (s : State) (n : Stall) (stop : Nat) : ∃ k, (askUpto s n stop).stalls[n].ref = { s.stalls[n].ref with asked := k } := by
  unfold askUpto
  dsimp only
  rw [modRef_at, foldl_same (g := State.stalls) (fun s k => askDense_stalls s n k)]
  exact ⟨_, rfl⟩

/-- With no playback no block leaves the slice (R340). -/
theorem drainSlice_of_still {s : State} {n : Stall} (h : s.stalls[n].ref.play = none) :
    ∃ k, (drainSlice s n).stalls[n].ref = { s.stalls[n].ref with asked := k } := by
  have hold : oldestNeeded s.stalls[n].ref = 0 := by
    unfold oldestNeeded
    rw [h]
  have hslice : (modRef s n fun r => { r with slice := r.slice.filter fun b => 0 ≤ b.k }) = s :=
    congrArg (fun v => { s with stalls := v }) (vmod_eq_self (by simp))
  unfold drainSlice
  dsimp only
  rw [hold, hslice]
  split
  · exact askUpto_ref s n _
  · exact ⟨_, rfl⟩

/-- The one block that has come, the next of the slice, moves into it (R340). -/
theorem moveStaged_of_next {r : Reference} {b : StagedBlock} (h : r.came = [b]) (hk : b.k = nextStaged r) :
    moveStaged .clean 1 r = { r with came := [], slice := r.slice ++ [b] } := by
  have hfind : (r.came.find? fun b => b.k == nextStaged r) = some b := by simp [h, hk]
  unfold moveStaged
  rw [hfind]
  dsimp only
  unfold moveStaged
  rw [h, List.erase_cons_head, show (b.bad || Ecc.clean == .uncorrectable) = b.bad from Bool.or_false _]

section
variable {s : State} {n : Stall}

theorem exec_playbackStagingRefill_of_none (h : s.stalls[n].ref.came = []) (ecc : Ecc) : exec (.playbackStagingRefill n ecc) s = .next s := by
  refine congrArg Host.Outcome.next (if_pos ?_)
  rw [h]
  rfl

/-- Blocks that came fill the slice, a corrected word being counted (R340, R404). -/
theorem exec_playbackStagingRefill_of_some (h : s.stalls[n].ref.came ≠ []) (ecc : Ecc) : exec (.playbackStagingRefill n ecc) s =
    .next (drainSlice (modRef (if ecc = .corrected then countSram s 5 else s) n fun r => moveStaged ecc r.came.length r) n) :=
  congrArg Host.Outcome.next (if_neg fun he => h (List.isEmpty_iff.1 he))

theorem playbackStagingRefill_of_next {b : StagedBlock} (h : s.stalls[n].ref.came = [b]) (hk : b.k = nextStaged s.stalls[n].ref)
    (hp : s.stalls[n].ref.play = none) : ∃ u, exec (.playbackStagingRefill n .clean) s = .next u ∧ u.stalls[n].ref.came = [] ∧
      u.stalls[n].ref.slice = s.stalls[n].ref.slice ++ [b] := by
  have hmoved : (modRef s n fun r => moveStaged .clean r.came.length r).stalls[n].ref =
      { s.stalls[n].ref with came := [], slice := s.stalls[n].ref.slice ++ [b] } := by
    rw [modRef_at]
    dsimp only
    rw [h]
    exact moveStaged_of_next h hk
  obtain ⟨k, hdrained⟩ := drainSlice_of_still (congrArg Reference.play hmoved |>.trans hp)
  refine ⟨_, exec_playbackStagingRefill_of_some (by rw [h]; exact List.cons_ne_nil _ _) .clean, ?_⟩
  rw [if_neg (by decide), hdrained, hmoved]
  exact ⟨rfl, rfl⟩

end

/-! ## The end of playback -/

theorem fillSlice_play (s : State) (n : Stall) : (fillSlice s n).stalls[n].ref.play = s.stalls[n].ref.play := by
  obtain ⟨k, hk⟩ := fillSlice_ref s n
  rw [hk]

/-- An ended playback plays no more, whether or not its slice is filled anew (R341). -/
theorem endPlayback_play (s : State) (n : Stall) : (endPlayback s n).stalls[n].ref.play = none := by
  unfold endPlayback
  split
  · next h => exact Option.isNone_iff_eq_none.1 h
  · dsimp only
    have hplay (f : Engine → Engine) : (modEng (modRef s n fun r => { r with play := none }) n f).stalls[n].ref.play = none := by
      rw [modEng_stalls, vmod_same, modRef_at]
    split
    · exact (fillSlice_play _ n).trans (hplay _)
    · exact hplay _

section
variable {s : State} {n : Stall}

theorem exec_playbackEnd_of_none (h : s.stalls[n].ref.play = none) : exec (.playbackEnd n) s = .next s := by
  refine congrArg Host.Outcome.next ?_
  unfold finishPlay
  rw [h]

variable {p : Playback} (h : s.stalls[n].ref.play = some p)
include h

theorem exec_playbackEnd_of_running (he : past s.tb.now (playStop s.stalls[n].ref p) = true) : exec (.playbackEnd n) s = .next s := by
  refine congrArg Host.Outcome.next ?_
  unfold finishPlay
  rw [h]
  exact if_pos he

/-- A reference compared to its end ends (R341). -/
theorem exec_playbackEnd_of_over (he : past s.tb.now (playStop s.stalls[n].ref p) = false) : exec (.playbackEnd n) s =
    .next (endPlayback (refMarker s n 1 p.refValue (playStop s.stalls[n].ref p)) n) := by
  refine congrArg Host.Outcome.next ?_
  unfold finishPlay
  rw [h]
  exact if_neg (ne_true_of_eq_false he)

/-- A stride compared whose data is not in the slice aborts the playback (R341, R344). -/
theorem exec_playbackUnderrun_of_missing (hf : past s.tb.now p.first = false) (hl : playSample s p < s.stalls[n].ref.length)
    (hn : p.next ≠ playSample s p + 8) {k : Nat} (hm : missingBlock s.stalls[n].ref (playSample s p) = some k) :
    exec (.playbackUnderrun n) s = .next (underrun s n p (playSample s p) k) := by
  have hcompares : comparing s n = some p := by
    unfold comparing
    rw [h]
    exact Option.filter_some_pos (by simpa [hf] using hl)
  refine congrArg Host.Outcome.next ?_
  rw [hcompares]
  dsimp only
  rw [if_neg hn, hm]

end

/-- Settles O52: the chunk read is stored or waits (`chunkTaken`), a job that is the only one leaves none (`endUpload_goesOn_of_only`), a bale ends
its load or is taken (`takeBale_of_more`), and a start, a refill and an end change the reference alone (`beginPlayback_ref`, `moveStaged_of_next`,
`endPlayback_play`). -/
theorem uploadsLoadsAndPlaybackGoOn : Obligations.UploadsLoadsAndPlaybackGoOn := by
  refine ⟨fun s => ⟨?chunk, fun k block u h => ⟨exec_compressorChunkDone_of_uncorrectable h, ?lost, ?compressed⟩,
    fun d j off ulen crc rest h hb => ⟨?error, exec_decompressorBaleDone_of_uncorrectable h hb, ?taken⟩⟩,
    fun s n => ⟨exec_playbackTimedStart_of_none, ?timed, ?fill, fun b => playbackStagingRefill_of_next, exec_playbackStagingRefill_of_none,
      exec_playbackEnd_of_none, ?play⟩⟩
  case chunk =>
    rintro n u _ _ h he rfl rfl
    exact ⟨exec_uploadChunkRead_of_compressed h he, exec_uploadChunkRead_of_stored h he, uploadChunkRead_of_overflow h he⟩
  case lost =>
    exact fun hone hc he => ⟨_, exec_compressorChunkDone_of_uncorrectable h, endUpload_goesOn_of_only hone hc he _⟩
  case compressed =>
    rintro last l bits v he hl
    refine ⟨fun hf => exec_compressorChunkDone_of_unfit h hl hf, ?_⟩
    rintro hf hb rfl rfl
    exact exec_compressorChunkDone_of_fit h he hl hf hb
  case error =>
    exact fun st ho => ⟨exec_decompressorBaleDone_of_error h hb ho, _, exec_decompressorBaleDone_of_error h hb ho,
      giveDecs_endLoad_loading _ _ _ _⟩
  case taken =>
    exact fun out ho => ⟨exec_decompressorBaleDone_of_ok h hb ho, fun hr => ⟨_, exec_decompressorBaleDone_of_ok h hb ho,
      takeBale_of_more (List.mem_of_find?_eq_some h) hb hr out⟩⟩
  case timed =>
    exact fun t h => ⟨exec_playbackTimedStart_of_early h, fun hp => ⟨exec_playbackTimedStart_of_due h hp,
      exec_playbackTimedStart_of_playing h hp, playbackTimedStart_of_free h hp, fun k => playbackTimedStart_of_fault h hp⟩⟩
  case fill =>
    exact fun h => ⟨exec_playbackStagingRefill_of_some h .clean, exec_playbackStagingRefill_of_some h .corrected,
      exec_playbackStagingRefill_of_some h .uncorrectable⟩
  case play =>
    exact fun p h => ⟨fun he => ⟨_, exec_playbackEnd_of_over h he, rfl, endPlayback_play _ _⟩, exec_playbackEnd_of_running h,
      fun k hf hl hn hm => ⟨_, exec_playbackUnderrun_of_missing h hf hl hn hm, rfl, endPlayback_play _ _⟩⟩

end Sys2Proof.Machine
end

section
/-! SUPPORT. The queue and the delivery of results: what the step and every command leave of the queue (log entry 10), and where a
result's bytes stand (R410). -/

namespace Sys2Proof.Machine

/-- Settles O1: a queue with a command in front is not empty (`step_of_cons`). -/
theorem stepRunsTheFrontCommand : Obligations.StepRunsTheFrontCommand := fun _ _ _ => step_of_cons rfl

/-- Settles O3: every command stays (`exec_stays`), of which the queue is the first half. -/
theorem commandsKeepTheQueue : Obligations.CommandsKeepTheQueue := fun c s _ h => (relBy_elim (exec_stays c s) h).1

/-- A result to the scratchpad is stored from its offset in the caller's scratchpad on (R410). -/
theorem writeResult_scratch_of_toScratch {t : Taken} (h : toScratch t.e = true) (s : State) (l : List Byte) :
    (writeResult s t l).scratch = memWriteList s.scratch (16384 * t.fn.val + (dw t.e 2).toNat) l := by
  unfold writeResult
  rw [if_pos h]

/-- A result to host memory leaves the scratchpads (R410). -/
theorem writeResult_scratch_of_host {t : Taken} (h : toScratch t.e = false) (s : State) (l : List Byte) :
    (writeResult s t l).scratch = s.scratch := by
  unfold writeResult
  rw [if_neg (ne_true_of_eq_false h), emit_scratch]

/-- A sound descriptor of a result to the scratchpad stays within its 16 KiB (R410). -/
theorem badResult_none_bound {e : SqEntry} (hs : toScratch e = true) (hb : badResult e = none) :
    (dw e 2).toNat + resultLen e ≤ 16384 := by
  unfold badResult at hb
  split at hb
  · cases hb
  split at hb
  · cases hb
  split at hb
  · cases hb
  split at hb
  · cases hb
  next h => exact Nat.le_of_not_lt fun hlt => h ⟨hs, hlt⟩

/-- Settles O9: the bytes stored are what a read gives in their range (`memRead_memWriteList`), which lies in the caller's 16 KiB
(`badResult_none_bound`). -/
theorem resultsLandInTheCallersScratchpad : Obligations.ResultsLandInTheCallersScratchpad := by
  intro s t l a hs
  refine ⟨fun h => ?_, fun h => writeResult_scratch_of_host h s l, fun h hb hl f hf i hi => ?_⟩
  · rw [writeResult_scratch_of_toScratch h, memRead_memWriteList _ _ _ hs.1]
  · have hbound := badResult_none_bound h hb
    have hne : f.val ≠ t.fn.val := fun e => hf (Fin.ext e)
    rw [writeResult_scratch_of_toScratch h, memRead_memWriteList _ _ _ hs.1, if_neg (by omega)]

end Sys2Proof.Machine
end

section
/-! SUPPORT. Stalls created, reset and released (R348 to R350, R365, R367, R418). -/

open Sys2Proof.Claims

namespace Sys2Proof.Machine

/-- The stall that a release leaves: fresh, in the state its cause gives (R350, R367). -/
theorem releaseStall_stall (s : State) (n : Stall) (r : ResetSeq) : (releaseStall s n r).stalls[n] =
    freshStall s.stalls[n] (if r.cause = 2 ∨ r.cause = 4 ∨ r.cause = 5 then .absent else .idle) (if n = 0 then 256 else 8)
      (if n = 0 then 65535 else 100) := by
  have hstalls (g : Grant) : (zeroScratch (queueWipe (dropChains (dropTeams s g.teams) g.chains) g.parcels) n).stalls = s.stalls := by
    dsimp only [zeroScratch, queueWipe, dropChains, dropTeams]
  unfold releaseStall
  dsimp only
  rw [modStall_stalls, vmod_same, hstalls]

/-- A release zeroes the stall's scratchpad and stores nothing else there (R367). -/
theorem releaseStall_scratch_eq (s : State) (n : Stall) (r : ResetSeq) :
    (releaseStall s n r).scratch = memClear s.scratch (16384 * n.val) 16384 := by
  unfold releaseStall
  dsimp only [modStall, zeroScratch, queueWipe, dropChains, dropTeams]

theorem exec_stallResetRelease_of_done {s : State} {n : Stall} {r : ResetSeq} (h : s.stalls[n].reset = some r)
    (hd : resetDone s n = true) : exec (.stallResetRelease n) s = .next (sendEvents (releaseStall s n r) ((withPf [n]).map fun f =>
      (f, resetDoneEvent (releaseStall s n r) n r
        (s.stalls[n].grant.parcels.filter fun p => !s.dram.retired.contains p).length))) := by
  refine congrArg Host.Outcome.next ?_
  rw [h]
  dsimp only
  rw [hd]
  exact if_neg Bool.false_ne_true

/-- Settles O12: the stall released is fresh (`releaseStall_stall`), and its scratchpad is cleared (`memRead_memClear`). -/
theorem resetSequencesEndInARelease : Obligations.ResetSequencesEndInARelease := by
  intro s n r h hd
  have hst := releaseStall_stall s n r
  refine ⟨exec_stallResetRelease_of_done h hd, ?_, ?_, ?_, ?_, fun hs i hi => ?_⟩
  · rw [hst]; rfl
  · rw [hst]; rfl
  · rw [hst]; rfl
  · rw [hst]; rfl
  · rw [releaseStall_scratch_eq, memRead_memClear _ _ _ hs.1, if_pos (by omega)]

section
variable {s : State} {t : Taken} {n : Stall} (ht : targetOf t.e = some n) (hr : reservedBit t.e [] = none)
include ht hr

/-- STALL_CREATE of an absent stall of a function that exists (R349). -/
theorem exec_stallCreate_of_absent (h : InHand s t 0x10) (hn : n ≠ 0) (ha : s.stalls[n].st = .absent) (he : fnExists s n = true) :
    exec .stallCreate s = .next (completeAt (modStall (zeroScratch (freed s) n) n fun x => freshStall x .idle 8 100) t .ok
      { p4 := fld (nextGen s.stalls[n].gen).toNat 0 }) := by
  have hc : ¬(n = 0 ∨ (freed s).stalls[n].st ≠ .absent ∨ ¬fnExists (freed s) n) := by
    rintro (h0 | h1 | h2)
    exacts [hn h0, h1 ha, h2 he]
  refine congrArg Host.Outcome.next ?_
  rw [withCmd_inHand h, hr, ht]
  dsimp only
  rw [if_neg hc]
  dsimp only [modStall]
  rw [vmod_same]
  rfl

/-- STALL_CREATE of stall 0, of a stall that stands, or for a function that does not exist (R348, R418). -/
theorem exec_stallCreate_of_unfit (h : InHand s t 0x10) (hc : n = 0 ∨ s.stalls[n].st ≠ .absent ∨ fnExists s n = false) :
    exec .stallCreate s = .next (invalidAt (freed s) t 1 0) := by
  have hc : n = 0 ∨ (freed s).stalls[n].st ≠ .absent ∨ ¬fnExists (freed s) n := by
    rcases hc with h0 | h1 | h2
    exacts [.inl h0, .inr (.inl h1), .inr (.inr (ne_true_of_eq_false h2))]
  refine congrArg Host.Outcome.next ?_
  rw [withCmd_inHand h, hr, ht]
  exact if_pos hc

/-- STALL_RESET starts the reset sequence with cause 1 (R365). -/
theorem exec_stallReset_of_named (h : InHand s t 0x12) :
    exec .stallReset s = .next (completeAt (startReset (freed s) n 1) t .ok { p4 := fld s.stalls[n].gen.toNat 0 }) := by
  refine congrArg Host.Outcome.next ?_
  rw [withCmd_inHand h, hr, ht]
  rfl

/-- STALL_DESTROY of any stall but stall 0 starts the reset sequence with cause 2 (R365). -/
theorem exec_stallDestroy_of_ne_zero (h : InHand s t 0x11) (hn : n ≠ 0) :
    exec .stallDestroy s = .next (completeAt (startReset (freed s) n 2) t .ok { p4 := fld s.stalls[n].gen.toNat 0 }) := by
  refine congrArg Host.Outcome.next ?_
  rw [withCmd_inHand h, hr, ht]
  exact if_neg hn

theorem exec_stallDestroy_of_zero (h : InHand s t 0x11) (hn : n = 0) :
    exec .stallDestroy s = .next (invalidAt (freed s) t 1 0) := by
  refine congrArg Host.Outcome.next ?_
  rw [withCmd_inHand h, hr, ht]
  exact if_pos hn

end

/-- Settles O10, command by command; an `invalid` only answers (`completeAt_answers`). -/
theorem stallsAreCreatedResetAndDestroyed : Obligations.StallsAreCreatedResetAndDestroyed := by
  refine ⟨fun s t n ht hr => ⟨exec_stallCreate_of_absent ht hr, fun h _ _ => exec_stallReset_of_named ht hr h,
    fun h hn _ _ => exec_stallDestroy_of_ne_zero ht hr h hn⟩, fun s t n ht hr => ⟨fun h hc => ?_, fun h hn => ?_⟩⟩
  · exact ⟨exec_stallCreate_of_unfit ht hr h hc, completeAt_answers ..⟩
  · exact ⟨exec_stallDestroy_of_zero ht hr h hn, completeAt_answers ..⟩

end Sys2Proof.Machine
end

section
/-! SUPPORT. Grants given and revoked (R233, R354, R356, R357, R419, R420). -/

open Sys2Proof.Claims

namespace Sys2Proof.Machine

theorem told_grant {s t : State} (h : told s t) (n : Stall) : t.stalls[n].grant = s.stalls[n].grant := by rw [h.2 n]

theorem completeAt_grant (s : State) (t : Taken) (st : Status) (p : Pay) (n : Stall) :
    (completeAt s t st p).stalls[n].grant = s.stalls[n].grant := told_grant (told_of_answersOnly (completeAt_answers s t st p)) n

/-- A change of the polder changes of its stall's grant the parcels and the reference area alone (R233). -/
theorem changePolder_grant (s : State) (n : Stall) (parcels refArea : List Nat) :
    (changePolder s n parcels refArea).1.stalls[n].grant = { s.stalls[n].grant with parcels := parcels, refArea := refArea } := by
  unfold changePolder
  dsimp only
  rw [modStall_stalls, vmod_same]

/-! ## STALL_GRANT -/

/-- The teams, chains and engine of an entry added to a grant (R419). -/
def grantedUnits (s : State) (e : SqEntry) (g : Grant) : Grant := { g with
  teams := g.teams ||| grantTeams e, chains := g.chains ||| grantChains e
  engine := if bit (dw e 2) 8 then freeEngine s else g.engine }

/-- The limits of an entry with `set_limits` written into a grant (R419). -/
def grantedLimits (e : SqEntry) (g : Grant) : Grant :=
  if bit (dw e 2) 0 then { g with
    share := bits (dw e 4) 31 24, trigOut := bit (dw e 4) 16, outstanding := bits (dw e 4) 8 0, rate := bits (dw e 5) 15 0 } else g

/-- The parcels of an entry added to a grant (R419). -/
def grantedParcels (s : State) (e : SqEntry) (g : Grant) : Grant :=
  if (freeParcels s).take (bits (dw e 3) 12 0) = [] then g
  else { g with parcels := sortParcels (g.parcels ++ (freeParcels s).take (bits (dw e 3) 12 0)) }

theorem grantedParcels_eq (s : State) (e : SqEntry) (g : Grant) : grantedParcels s e g = { g with
    parcels := if (freeParcels s).take (bits (dw e 3) 12 0) = [] then g.parcels
      else sortParcels (g.parcels ++ (freeParcels s).take (bits (dw e 3) 12 0)) } := by
  unfold grantedParcels
  split <;> rfl

/-- The limits of an entry leave the units and the parcels. -/
theorem grantedLimits_keeps (e : SqEntry) (g : Grant) : (grantedLimits e g).teams = g.teams ∧ (grantedLimits e g).chains = g.chains ∧
    (grantedLimits e g).engine = g.engine ∧ (grantedLimits e g).parcels = g.parcels := by
  unfold grantedLimits
  split <;> exact ⟨rfl, rfl, rfl, rfl⟩

/-- The stall has the units and the limits that the entry asks for, and its polder has not yet grown. -/
def unitsGiven (s : State) (t : Taken) (n : Stall) : State :=
  let u := modStall s n fun x => { x with grant := { x.grant with
    teams := x.grant.teams ||| grantTeams t.e, chains := x.grant.chains ||| grantChains t.e
    engine := if bit (dw t.e 2) 8 then freeEngine s else s.stalls[n].grant.engine } }
  if bit (dw t.e 2) 0 then modStall u n fun x => { x with grant := { x.grant with
    share := bits (dw t.e 4) 31 24, trigOut := bit (dw t.e 4) 16, outstanding := bits (dw t.e 4) 8 0, rate := bits (dw t.e 5) 15 0 } } else u

theorem unitsGiven_grant (s : State) (t : Taken) (n : Stall) :
    (unitsGiven s t n).stalls[n].grant = grantedLimits t.e (grantedUnits s t.e s.stalls[n].grant) := by
  unfold unitsGiven grantedLimits
  dsimp only
  by_cases hb : bit (dw t.e 2) 0 = true
  · rw [if_pos hb, if_pos hb, modStall_stalls, vmod_same, modStall_stalls, vmod_same]
    rfl
  · rw [if_neg hb, if_neg hb, modStall_stalls, vmod_same]
    rfl

/-- The polder of a stall has grown by the parcels that the entry asks for (R233). -/
theorem polderGrown_grant (s u : State) (e : SqEntry) (n : Stall) :
    (if (freeParcels s).take (bits (dw e 3) 12 0) = [] then (refreshTrigOut u, 0)
      else changePolder (refreshTrigOut u) n (sortParcels (u.stalls[n].grant.parcels ++ (freeParcels s).take (bits (dw e 3) 12 0)))
        u.stalls[n].grant.refArea).1.stalls[n].grant = grantedParcels s e u.stalls[n].grant := by
  unfold grantedParcels
  split
  · rfl
  · rw [changePolder_grant]
    rfl

/-- A grant applied is the units, the limits and the parcels, one after another. -/
theorem applyGrant_grant (s : State) (t : Taken) (n : Stall) :
    (applyGrant s t n).stalls[n].grant = grantedParcels s t.e (grantedLimits t.e (grantedUnits s t.e s.stalls[n].grant)) := by
  unfold applyGrant
  dsimp only
  rw [completeAt_grant, ← unitsGiven_grant]
  exact polderGrown_grant s (unitsGiven s t n) t.e n

theorem exec_stallGrant_of_fit {s : State} {t : Taken} {n : Stall} (ht : targetOf t.e = some n) (h : InHand s t 0x13)
    (hr : reservedBit t.e grantBits = none) (hf : grantFault s.stalls[n].grant t.e = none) (hg : grantRefused (freed s) n t.e = none) :
    exec .stallGrant s = .next (applyGrant (freed s) t n) := by
  have hf : grantFault (freed s).stalls[n].grant t.e = none := hf
  refine congrArg Host.Outcome.next ?_
  rw [withCmd_inHand h, hr, ht]
  dsimp only
  rw [hf]
  dsimp only
  rw [hg]

/-! ## STALL_REVOKE -/

theorem dropEngine_grant (s : State) (n : Stall) : (dropEngine s n).stalls[n].grant = { s.stalls[n].grant with engine := none } := by
  unfold dropEngine
  rw [modStall_stalls, vmod_same, stopEngine_stall, if_pos rfl]

theorem abortLoad_grant (s : State) (n m : Stall) : (abortLoad s n).stalls[m].grant = s.stalls[m].grant := by
  unfold abortLoad
  split
  · rfl
  · rw [giveDecs_stalls]
    unfold endLoad
    dsimp only
    rw [told_grant (told_of_answersOnly (completeTag_answers _ _ _ _ _))]
    exact modStall_view (g := StallState.grant) _ _ m fun _ => rfl

/-- The parcels dropped are the last of the grant, and the rest of it stands but for the reference area (R357). -/
theorem dropParcels_grant (s : State) (n : Stall) (k : Nat) : (dropParcels s n k).1.stalls[n].grant = { s.stalls[n].grant with
    parcels := s.stalls[n].grant.parcels.take (s.stalls[n].grant.parcels.length - k)
    refArea := (dropParcels s n k).1.stalls[n].grant.refArea } := by
  unfold dropParcels
  dsimp only
  generalize hu : (if s.stalls[n].grant.refArea.any _ then _ else s) = u
  have hgrant : u.stalls[n].grant = s.stalls[n].grant := by
    subst hu
    split
    · rw [modRef_at]
      exact abortLoad_grant s n n
    · rfl
  dsimp only [queueWipe]
  split
  · next hgone =>
    have hall := List.take_append_drop (s.stalls[n].grant.parcels.length - k) s.stalls[n].grant.parcels
    rw [hgone, List.append_nil] at hall
    rw [hall, hgrant]
  · rw [changePolder_grant, hgrant]

/-- A revocation takes the units named and the last parcels (R420). -/
theorem applyRevoke_grant (s : State) (t : Taken) (n : Stall) : (applyRevoke s t n).stalls[n].grant = { s.stalls[n].grant with
    teams := s.stalls[n].grant.teams &&& ~~~ grantTeams t.e, chains := s.stalls[n].grant.chains &&& ~~~ grantChains t.e
    engine := if bit (dw t.e 2) 8 then none else s.stalls[n].grant.engine
    parcels := s.stalls[n].grant.parcels.take (s.stalls[n].grant.parcels.length - bits (dw t.e 3) 12 0)
    refArea := (applyRevoke s t n).stalls[n].grant.refArea } := by
  unfold applyRevoke
  dsimp only
  rw [completeAt_grant]
  rw [dropParcels_grant]
  have hstalls : (dropChains (dropTeams s (grantTeams t.e)) (grantChains t.e)).stalls = s.stalls := by
    dsimp only [dropChains, dropTeams]
  split
  · rw [dropEngine_grant]
    simp only [modStall_stalls, vmod_same, hstalls]
  · simp only [modStall_stalls, vmod_same, hstalls]

theorem exec_stallRevoke_of_held {s : State} {t : Taken} {n : Stall} (ht : targetOf t.e = some n) (h : InHand s t 0x14)
    (hr : reservedBit t.e [0xFFFF0100, 0x1FFF] = none) (hf : revokeFault s.stalls[n].grant t.e = none)
    (hc : armedOrCapturing s n = false) : exec .stallRevoke s = .next (applyRevoke (freed s) t n) := by
  have hf : revokeFault (freed s).stalls[n].grant t.e = none := hf
  have hc : armedOrCapturing (freed s) n = false := hc
  refine congrArg Host.Outcome.next ?_
  rw [withCmd_inHand h, hr, ht]
  dsimp only
  rw [hf]
  dsimp only
  rw [hc]
  rfl

/-- Settles O11: the stall's grant after each command is `applyGrant_grant` or `applyRevoke_grant`. -/
theorem grantsAreGivenAndRevoked : Obligations.GrantsAreGivenAndRevoked := by
  refine fun s t n ht => ⟨fun h hr hf hg => ⟨exec_stallGrant_of_fit ht h hr hf hg, _, exec_stallGrant_of_fit ht h hr hf hg, ?_⟩,
    fun h hr hf hc => ⟨exec_stallRevoke_of_held ht h hr hf hc, _, exec_stallRevoke_of_held ht h hr hf hc, ?_⟩⟩
  · obtain ⟨hteams, hchains, hengine, hparcels⟩ := grantedLimits_keeps t.e (grantedUnits (freed s) t.e s.stalls[n].grant)
    rw [applyGrant_grant, grantedParcels_eq]
    refine ⟨hteams, hchains, hengine, ?_, fun hb => ?_, fun hb => ?_⟩
    · exact congrArg (fun l => if (freeParcels (freed s)).take (bits (dw t.e 3) 12 0) = [] then l
        else sortParcels (l ++ (freeParcels (freed s)).take (bits (dw t.e 3) 12 0))) hparcels
    · unfold grantedLimits
      rw [if_pos hb]
      exact ⟨rfl, rfl, rfl, rfl⟩
    · unfold grantedLimits
      rw [if_neg (ne_true_of_eq_false hb)]
      exact ⟨rfl, rfl, rfl, rfl⟩
  · rw [applyRevoke_grant]
    exact ⟨rfl, rfl, rfl, rfl⟩

end Sys2Proof.Machine
end

section
/-! SUPPORT. The result commands on the command in hand (R411, R415 to R417, R448, R547). -/

open Sys2Proof.Claims

namespace Sys2Proof.Machine

section
variable {s : State} {t : Taken} (hr : reservedBit t.e resultBits = none) (hb : badResult t.e = none)
include hr hb

/-- A command that takes a result descriptor alone writes the result that fits (R411). -/
theorem withCmd_result_fits {op : Nat} {l : State → Taken → List Byte} (h : InHand s t op)
    (hl : (l (freed s) t).length ≤ resultLen t.e) : withCmd s (isOp op) (fun s t => resultCommand s t (l s t) {}) =
      completeAt (writeResult (freed s) t (l (freed s) t)) t .ok {} := by
  rw [withCmd_inHand h]
  exact resultCommand_fits hr hb hl

/-- The payload of IDENTIFY: the first four dwords of its result (R415). -/
def identifyPay (s : State) (f : Fn) : Pay where
  p4 := (identifyDwords s f).getD 0 0
  p5 := (identifyDwords s f).getD 1 0
  p6 := (identifyDwords s f).getD 2 0
  p7 := (identifyDwords s f).getD 3 0

theorem exec_identify_fits (h : InHand s t 0x01) (hl : resultLen t.e = 0 ∨ (identifyResult (freed s) t.fn).length ≤ resultLen t.e) :
    exec .identify s = .next (completeAt (if resultLen t.e = 0 then freed s else writeResult (freed s) t (identifyResult (freed s) t.fn))
      t .ok (identifyPay (freed s) t.fn)) := by
  refine congrArg Host.Outcome.next ?_
  rw [withCmd_inHand h]
  dsimp only
  rw [hr, hb]
  dsimp only
  by_cases h0 : resultLen t.e = 0
  · rw [if_pos h0, if_pos h0]
    rfl
  · rw [if_neg h0, if_neg h0, giveResult_fits (hl.resolve_left h0)]
    rfl

end

/-- The certificate chain that ATTEST names (R417). -/
def certChain (s : State) (t : Taken) : List Byte :=
  if h : bits (dw t.e 13) 1 0 < 4 then s.flash.certs[bits (dw t.e 13) 1 0] else []

theorem certChain_ne_nil {s : State} {t : Taken} (h : ∀ h : bits (dw t.e 13) 1 0 < 4, s.flash.certs[bits (dw t.e 13) 1 0] ≠ []) :
    certChain s t ≠ [] := by
  have hlt : bits (dw t.e 13) 1 0 < 4 := by unfold bits; simp; omega
  unfold certChain
  rw [dif_pos hlt]
  exact h hlt

section
variable {s : State} {t : Taken} (hb : badResult t.e = none)
include hb

/-- ATTEST outside a wipe, with the keys and the chain there and the key read, writes its report (R417, R547). -/
theorem exec_attest_fits (h : InHand s t 0x03) (hu : t.secure ≠ .uncorrectable) (hr : reservedBit t.e attestBits = none)
    (hw : s.sec.wiping = none) (hl : lifecycleOf s ≠ 0) (hk : s.sec.keys = true)
    (hc : ∀ h : bits (dw t.e 13) 1 0 < 4, s.flash.certs[bits (dw t.e 13) 1 0] ≠ [])
    (hfit : (attestReport (freed s) t).length ≤ resultLen t.e) :
    exec .attest s = .next (completeAt (writeResult (noteEcc (freed s) 8 t.secure) t (attestReport (freed s) t)) t .ok {}) := by
  have hw : ¬((freed s).sec.wiping.isSome = true) := by
    rw [show (freed s).sec.wiping = none from hw]
    exact Bool.false_ne_true
  have hk : ¬(lifecycleOf (freed s) = 0 ∨ ¬(freed s).sec.keys = true) := by
    rintro (h0 | h1)
    exacts [hl h0, h1 hk]
  have hc : certChain (freed s) t ≠ [] := certChain_ne_nil hc
  refine congrArg Host.Outcome.next ?_
  rw [withCmd_inHand h]
  dsimp only
  rw [hr, hb]
  dsimp only
  unfold certChain at hc
  rw [if_neg hw, if_neg hk, if_neg hc, if_neg hu, giveResult_fits hfit]

/-- JOURNAL_READ of what it names (R448). -/
theorem exec_journalRead_fits (h : InHand s t 0x72) (hr : reservedBit t.e (resultBits ++ [3]) = none) {l : List Byte}
    (hl : bits (dw t.e 5) 1 0 = 0 ∧ l = journalResult s ∨ bits (dw t.e 5) 1 0 = 1 ∧ l = breachResult s ∨
      bits (dw t.e 5) 1 0 = 2 ∧ l = s.flash.boardRec) (hfit : l.length ≤ resultLen t.e) :
    exec (.journalRead true) s = .next (completeAt (writeResult (freed s) t l) t .ok {}) := by
  refine congrArg Host.Outcome.next ?_
  rw [withCmd_inHand h]
  dsimp only
  rw [hr, hb]
  dsimp only
  rcases hl with ⟨hw, rfl⟩ | ⟨hw, rfl⟩ | ⟨hw, rfl⟩
  · rw [hw]
    exact giveResult_fits hfit
  · rw [hw]
    exact giveResult_fits hfit
  · rw [hw]
    exact giveResult_fits hfit

end

/-- Settles O8: the commands of a descriptor alone by `withCmd_result_fits`, and IDENTIFY, ATTEST and JOURNAL_READ past their own checks. -/
theorem resultCommandsWriteTheirResults : Obligations.ResultCommandsWriteTheirResults := by
  refine ⟨fun s t op h hr hb => ⟨?health, ?course, ?probe, ?quera, ?identify⟩, fun s t hb => ⟨?attest, fun l h hr => exec_journalRead_fits hb h hr⟩⟩
  case health =>
    rintro rfl hl
    exact congrArg Host.Outcome.next (withCmd_result_fits hr hb (l := fun s t => healthResult s t.fn) h hl)
  case course =>
    rintro rfl hl
    exact congrArg Host.Outcome.next (withCmd_result_fits hr hb (l := fun s t => courseResult s t.fn) h hl)
  case probe =>
    rintro rfl hl
    exact congrArg Host.Outcome.next (withCmd_result_fits hr hb (l := fun s t => probeResult s t.fn) h hl)
  case quera =>
    rintro rfl hl
    exact congrArg Host.Outcome.next (withCmd_result_fits hr hb (l := fun s _ => queraResult s) h hl)
  case identify =>
    rintro rfl hl
    exact ⟨identifyPay (freed s) t.fn, rfl, exec_identify_fits hr hb h hl⟩
  case attest =>
    intro h hu hr hw hl hk hc hfit
    have hexec := exec_attest_fits hb h hu hr hw hl hk hc hfit
    refine ⟨fun he => ?_, fun he => ?_⟩
    · rw [hexec, he]
      rfl
    · rw [hexec, he]
      rfl

end Sys2Proof.Machine
end

section
/-! SUPPORT. The transmitter of a Quera port at a block boundary (R474, R475, R478, R484). -/

namespace Sys2Proof.Machine

theorem sendRank_lt (m : BitVec 112) : sendRank m < 5 := by
  unfold sendRank
  split
  · decide
  · split
    · split <;> decide
    · split <;> decide

/-- The ranks of R478 by the kind of the message. -/
theorem sendRank_of_kind (m : BitVec 112) : (msgKind m = 1 → sendRank m = 0) ∧ (msgKind m = 2 → sendRank m = if bit m 107 then 1 else 2) ∧
    (msgKind m = 3 → sendRank m = 3) ∧ (msgKind m = 4 ∨ msgKind m = 5 → sendRank m = 4) := by
  unfold sendRank
  refine ⟨fun h => if_pos h, fun h => ?_, fun h => ?_, fun h => ?_⟩
  · rw [h]
    rfl
  · rw [h]
    rfl
  · rcases h with h | h
    · rw [h]
      rfl
    · rw [h]
      rfl

/-- The search by rank finds nothing only in an empty list. -/
theorem nextMsg_eq_none {l : List QOut} : nextMsg l = none ↔ l = [] := by
  refine ⟨fun h => ?_, fun h => by rw [h]; rfl⟩
  refine List.eq_nil_iff_forall_not_mem.2 fun x hx => ?_
  have hrank := List.findSome?_eq_none_iff.1 h (sendRank x.msg) (List.mem_range.2 (sendRank_lt x.msg))
  exact absurd (beq_self_eq_true _) (List.find?_eq_none.1 hrank x hx)

/-- The search goes up the ranks: what it finds waits, and nothing that waits is of a rank before it (R478). -/
theorem nextMsg_eq_some {l : List QOut} {w : QOut} (h : nextMsg l = some w) :
    w ∈ l ∧ ∀ x ∈ l, sendRank w.msg ≤ sendRank x.msg := by
  obtain ⟨before, k, after, hsplit, hk, hbefore⟩ := List.findSome?_eq_some_iff.1 h
  have hwk : (sendRank w.msg == k) = true := List.find?_some (p := fun m : QOut => sendRank m.msg == k) hk
  rw [beq_iff_eq] at hwk
  refine ⟨List.mem_of_find?_eq_some hk, fun x hx => Nat.le_of_not_lt fun hlt => ?_⟩
  have hlen : before.length = k := by
    have hget : (List.range 5)[before.length]? = some k := by rw [hsplit]; simp
    simpa using (List.getElem?_eq_some_iff.1 hget).2
  have hmem : sendRank x.msg ∈ before := by
    have hget : (List.range 5)[sendRank x.msg]? = some (sendRank x.msg) := List.getElem?_range (sendRank_lt _)
    rw [hsplit, List.getElem?_append_left (by omega)] at hget
    exact List.mem_of_getElem? hget
  exact absurd (beq_self_eq_true _) (List.find?_eq_none.1 (hbefore _ hmem) x hx)

/-- What may still leave: a response whose turnaround fits its field (R484). -/
theorem mayLeave_iff {at_ : Time} {m : QOut} : mayLeave at_ m = true ↔
    ∀ t2, m.since = some t2 → past at_ t2 = true ∨ (at_ - t2).toNat ≤ 65535 := by
  unfold mayLeave
  cases m.since with
  | none => simp
  | some t => simp

theorem mem_waiting {q : QPort} {at_ : Nat} {m : QOut} : m ∈ waiting q at_ ↔ m ∈ q.queue ∧
    ∀ t2, m.since = some t2 → past (atTick at_) t2 = true ∨ (atTick at_ - t2).toNat ≤ 65535 := by
  unfold waiting
  rw [List.mem_filter, mayLeave_iff]

theorem mem_ready {q : QPort} {at_ : Nat} {m : QOut} : m ∈ ready q at_ ↔ m ∈ waiting q at_ ∧
    ∀ t, m.after = some t → later t (atTick at_) = false := by
  unfold ready
  rw [List.mem_filter]
  refine and_congr_right fun _ => ?_
  cases m.after with
  | none => simp
  | some t => simp

/-- A response leaves with its turnaround (R484). -/
theorem leaving_of_response {t3 t2 : Time} {w : QOut} (h : w.since = some t2) (hp : past t3 t2 = false) :
    leaving t3 w = withCrc (w.msg.toNat + (t3 - t2).toNat * 2 ^ 20) := by
  unfold leaving
  rw [h]
  dsimp only
  rw [hp]
  exact congrArg withCrc (congrArg (fun n => w.msg.toNat + n * 2 ^ 20) (if_neg Bool.false_ne_true))

theorem leaving_of_message {t3 : Time} {w : QOut} (h : w.since = none) : leaving t3 w = w.msg := by
  unfold leaving
  rw [h]

/-- A message that starts: it leaves the queue, takes two blocks, and a request stamps T1 (R475, R478, R484). -/
theorem startBlock_of_next {s : State} {p : Fin 4} {start : Nat} {w : QOut} (h : nextMsg (ready s.quera.ports[p] start) = some w) :
    ∃ a b : BitVec 66,
      (startBlock s p start).quera.ports[p].queue = (waiting s.quera.ports[p] start).erase w ∧
      (startBlock s p start).quera.ports[p].blockAt = start + 2 * blockTime ∧
      (sendRank (leaving (atTick start) w) = 2 → (startBlock s p start).quera.ports[p].t1 = some (atTick start)) ∧
      (startBlock s p start).out = s.out ++ [.quera p (leaving (atTick start) w) a b] := by
  unfold startBlock
  dsimp only
  rw [h]
  dsimp only
  refine ⟨_, _, ?_, ?_, fun hrank => ?_, rfl⟩
  · rw [emit_quera, modQport_same]
  · rw [emit_quera, modQport_same]
  · rw [emit_quera, modQport_same, stampRequest, if_pos hrank]

/-- Settles O55: the message of the first rank that is ready (`nextMsg_eq_some`) starts, and with none (`nextMsg_eq_none`) an idle block. -/
theorem portsSendTheFirstRank : Obligations.PortsSendTheFirstRank := by
  refine fun s p start => ⟨fun h => ?message, fun h => ?idle, fun _ => mem_waiting, fun _ => mem_ready, sendRank_of_kind⟩
  case message =>
    obtain ⟨w, hw⟩ := Option.ne_none_iff_exists'.1 (mt nextMsg_eq_none.1 h)
    obtain ⟨hmem, hfirst⟩ := nextMsg_eq_some hw
    obtain ⟨a, b, hqueue, hblock, ht1, hout⟩ := startBlock_of_next hw
    exact ⟨w, leaving (atTick start) w, a, b, hmem, hfirst, leaving_of_message, fun t2 => leaving_of_response, hqueue, hblock, ht1, hout⟩
  case idle =>
    refine ⟨(codeBlock s.quera.ports[p].scrambler idleBlock).2, (codeBlock s.quera.ports[p].scrambler idleBlock).1, ?_⟩
    unfold startBlock
    dsimp only
    rw [nextMsg_eq_none.2 h]

end Sys2Proof.Machine
end

section
/-! SUPPORT. What the election, the rings' states and the announcements leave of the settings of the Quera link, of the reference mode, and of
each port but for what waits on it (R69, R473, R482 to R490, R496 to R498). -/

namespace Sys2Proof.Machine

theorem told_quera {s t : State} (h : told s t) : t.quera = s.quera := by rw [h.1]

/-- A port but for the messages that wait on it. -/
def queueless (q : QPort) : QPort := { q with queue := [] }

/-- The settings of the link and the identity, and the reference mode. -/
def linkSet (s : State) : BitVec 2 × BitVec 2 × BitVec 4 × Bool × BitVec 12 × BitVec 12 × RefMode :=
  (s.quera.role, s.quera.refPort, s.quera.portEnable, s.quera.autoId, s.quera.configId, s.quera.deviceId, s.tb.refMode)

/-- What election and announcements leave alone. -/
def linkView (s : State) : (BitVec 2 × BitVec 2 × BitVec 4 × Bool × BitVec 12 × BitVec 12 × RefMode) × Vector QPort 4 :=
  (linkSet s, s.quera.ports.map queueless)

/-! ## Parts and composition -/

theorem linkSet_of_linkView {s t : State} (h : linkView t = linkView s) : linkSet t = linkSet s := congrArg Prod.fst h

theorem port_of_linkView {s t : State} (h : linkView t = linkView s) (p : Fin 4) :
    queueless t.quera.ports[p] = queueless s.quera.ports[p] := by
  have hp := congrArg (fun x => x.2[p]) h
  simpa [linkView] using hp

theorem linkView_of_eq {s t : State} (hq : t.quera = s.quera) (hr : t.tb.refMode = s.tb.refMode) : linkView t = linkView s := by
  unfold linkView linkSet
  rw [hq, hr]

theorem linkView_of_told {s t : State} (h : told s t) : linkView t = linkView s :=
  linkView_of_eq (told_quera h) (congrArg Timebase.refMode (told_tb h))

/-- A port changed with what waits on it alone. -/
theorem modQport_linkView (s : State) (p : Fin 4) {f : QPort → QPort} (h : ∀ q, queueless (f q) = queueless q := by exact fun _ => rfl) :
    linkView (modQport s p f) = linkView s := by
  refine Prod.ext rfl (Vector.ext fun i hi => ?_)
  simp only [linkView, Vector.getElem_map]
  by_cases e : p.val = i
  · subst e
    exact (congrArg queueless (modQport_same s p f)).trans (h _)
  · have hne : (⟨i, hi⟩ : Fin 4) ≠ p := fun x => e (congrArg Fin.val x).symm
    exact congrArg queueless (modQport_other s hne f)

theorem modQport_linkSet (s : State) (p : Fin 4) (f : QPort → QPort) : linkSet (modQport s p f) = linkSet s := rfl

/-! ## The machine's operations -/

theorem sendMsg_linkView (s : State) (p : Fin 4) (v : Nat) : linkView (sendMsg s p v) = linkView s := modQport_linkView s p

theorem announce_linkView (old s : State) : linkView (announce old s) = linkView s :=
  foldl_same (g := linkView) (fun s p => (sendMsg_linkView _ p _).trans (modQport_linkView s p)) _ s

theorem topoEvent_linkView (s : State) (cause port : Nat) (far : BitVec 12) : linkView (topoEvent s cause port far) = linkView s :=
  linkView_of_told (sendRated_told _ _ _ _)

theorem noteOpens_quera (f : Capture → Capture) (s : State) (l : List Stall) : (l.foldl (fun s n => noteOpen s n f) s).quera = s.quera :=
  foldl_same (g := State.quera) (f := fun s n => noteOpen s n f) (fun _ _ => rfl) l s

theorem setFreeRunning_quera (s : State) : (setFreeRunning s).quera = s.quera :=
  ite_same (g := State.quera) (noteOpens_quera _ _ _) rfl

theorem setFreeRunning_linkView (s : State) : linkView (setFreeRunning s) = linkView s :=
  linkView_of_eq (setFreeRunning_quera s) (by rw [setFreeRunning_tb])

theorem follow_linkView (s : State) (m : BitVec 12) : linkView (follow_ s m) = linkView s := by
  unfold follow_
  split <;> rfl

theorem becomeMaster_linkView (s : State) : linkView (becomeMaster s) = linkView s := rfl

theorem electNew_linkView (s : State) : linkView (electNew s) = linkView s := by
  unfold electNew
  dsimp only
  split
  · exact follow_linkView _ _
  · exact follow_linkView _ _
  · exact ite_same (g := linkView) rfl rfl

theorem elect_linkView (s : State) : linkView (elect s) = linkView s := by
  have cut (b : Bool) : linkView { s with quera := { s.quera with cut := b } } = linkView s := rfl
  unfold elect
  refine ite_same (g := linkView) rfl ?_
  dsimp only
  split
  · split
    · split
      · exact ite_same ((follow_linkView _ _).trans (cut _)) rfl
      · exact ite_same ((follow_linkView _ _).trans (cut _)) rfl
    · exact ite_same ((follow_linkView _ _).trans (cut _)) (ite_same ((electNew_linkView _).trans (cut _)) (follow_linkView _ _))
  · exact ite_same rfl ((electNew_linkView _).trans (cut _))
  · exact electNew_linkView _

theorem adopt_linkView (s : State) : linkView (adopt s) = linkView s := by
  unfold adopt
  split
  · rfl
  · exact (topoEvent_linkView _ _ _ _).trans ((setFreeRunning_linkView _).trans rfl)

theorem trackEpoch_linkView (s : State) : linkView (trackEpoch s) = linkView s := by
  unfold trackEpoch
  split
  · rfl
  · exact ite_same (g := linkView) rfl (ite_same (g := linkView) ((adopt_linkView _).trans rfl) rfl)

theorem startCensus_linkView (s : State) (root : Bool) : linkView (startCensus s root) = linkView s :=
  ite_same (g := linkView) rfl (sendMsg_linkView _ _ _)

theorem ringTurned_linkView (s : State) (root : Bool) : linkView (ringTurned s root) = linkView s :=
  ite_same (g := linkView) ((startCensus_linkView _ _).trans (ite_same (g := linkView) rfl rfl)) rfl

theorem settleRings_linkView (old s : State) (port : Fin 4) : linkView (settleRings old s port) = linkView s := by
  have then_ {p : Prop} [Decidable p] {u v : State} (h : linkView v = linkView u) : linkView (if p then v else u) = linkView u :=
    ite_same h rfl
  have else_ {p : Prop} [Decidable p] {u v : State} (h : linkView v = linkView u) : linkView (if p then u else v) = linkView u :=
    ite_same rfl h
  have event (s : State) (root : Bool) (port : Fin 4) : linkView (ringEvent s root port) = linkView s := topoEvent_linkView _ _ _ _
  unfold settleRings
  refine else_ ?_
  refine Eq.trans (then_ (ringTurned_linkView _ _)) (Eq.trans (then_ (ringTurned_linkView _ _)) ?_)
  refine Eq.trans (else_ (event _ _ _)) (Eq.trans (else_ (event _ _ _)) (Eq.trans (setFreeRunning_linkView _) ?_))
  exact Eq.trans (then_ rfl) (Eq.trans (then_ rfl) (then_ rfl))

/-- What follows a change of ports or identity leaves the settings, and the ports but for what waits on them. -/
theorem reconverge_linkView (old s : State) (port : Fin 4) : linkView (reconverge old s port) = linkView s :=
  (setFreeRunning_linkView _).trans ((trackEpoch_linkView _).trans ((settleRings_linkView _ _ _).trans
    ((elect_linkView _).trans (ite_same (g := linkView) rfl rfl))))

/-- A port that goes down leaves the settings (R479). -/
theorem takeDown_linkSet (s : State) (p : Fin 4) : linkSet (takeDown s p) = linkSet s :=
  ite_same (g := linkSet) rfl ((linkSet_of_linkView ((announce_linkView _ _).trans (reconverge_linkView _ _ _))).trans
    (modQport_linkSet s p portLost))

/-- A port that goes down brings no other port up (R479). -/
theorem takeDown_down {s : State} (p : Fin 4) {q : Fin 4} (h : s.quera.ports[q].up = false) : (takeDown s p).quera.ports[q].up = false := by
  by_cases e : q = p
  · rw [e]
    exact takeDown_up s p
  · unfold takeDown
    split
    · exact h
    · rw [up_of_ups ((announce_ups _ _).trans (reconverge_ups _ _ _)), modQport_other _ e, h]

theorem enterHoldover_quera (s : State) (offset : Int) : (enterHoldover s offset).quera = s.quera := by
  unfold enterHoldover
  dsimp only
  rw [told_quera (tbEvent_told _ _ _)]
  dsimp only
  exact noteOpens_quera _ _ _

theorem switchTo_quera (s : State) (r : RefSel) : (switchTo s r).quera = s.quera := by
  unfold switchTo
  dsimp only
  rw [told_quera (tbEvent_told _ _ _)]

theorem reselect_quera (s : State) : (reselect s).quera = s.quera := by
  unfold reselect
  dsimp only
  rw [setFreeRunning_quera]
  exact ite_same (g := State.quera) rfl (ite_same (g := State.quera) (enterHoldover_quera _ _) (switchTo_quera _ _))

theorem reselect_refMode (s : State) : (reselect s).tb.refMode = s.tb.refMode := congrArg (fun x => x.2.1) (reselect_judged s)

end Sys2Proof.Machine
end

section
/-! SUPPORT. QUERA_CONFIG and CROSS_TRIGGER_ROUTE on the command in hand (R353, R441, R443, R473, R479). -/

open Sys2Proof.Claims

namespace Sys2Proof.Machine

/-- A port that the settings allow: enabled, and used by the role (R473). -/
def portAllowed (s : State) (p : Fin 4) : Bool := bit s.quera.portEnable p.val && roleUses s.quera.role p

theorem portAllowed_of_linkSet {s t : State} (h : linkSet t = linkSet s) (p : Fin 4) : portAllowed t p = portAllowed s p := by
  have hrole : t.quera.role = s.quera.role := congrArg (fun x => x.1) h
  have henable : t.quera.portEnable = s.quera.portEnable := congrArg (fun x => x.2.2.1) h
  unfold portAllowed
  rw [hrole, henable]

/-- A port that is not allowed is taken down (R473, R479). -/
def dropPort (s : State) (p : Fin 4) : State := if portAllowed s p then s else takeDown s p

theorem dropPort_linkSet (s : State) (p : Fin 4) : linkSet (dropPort s p) = linkSet s := ite_same (g := linkSet) rfl (takeDown_linkSet _ _)

theorem dropPort_down {s : State} (p : Fin 4) {q : Fin 4} (h : s.quera.ports[q].up = false) : (dropPort s p).quera.ports[q].up = false := by
  unfold dropPort
  split
  · exact h
  · exact takeDown_down p h

/-- Of the ports gone through, those that are not allowed are down, and none that was down is up. -/
theorem foldl_dropPort_down (l : List (Fin 4)) {s : State} {q : Fin 4} (hq : portAllowed s q = false)
    (h : q ∈ l ∨ s.quera.ports[q].up = false) : (l.foldl dropPort s).quera.ports[q].up = false := by
  induction l generalizing s with
  | nil => exact h.resolve_left List.not_mem_nil
  | cons p l ih =>
    refine ih ((portAllowed_of_linkSet (dropPort_linkSet s p) q).trans hq) ?_
    rcases h with h | h
    · rcases List.mem_cons.1 h with rfl | h
      · refine .inr ?_
        unfold dropPort
        rw [if_neg (ne_true_of_eq_false hq)]
        exact takeDown_up _ _
      · exact .inl h
    · exact .inr (dropPort_down p h)

theorem dropPorts_linkSet (s : State) : linkSet (dropPorts s) = linkSet s := foldl_same (g := linkSet) dropPort_linkSet allPorts s

theorem dropPorts_down {s : State} {q : Fin 4} (hq : portAllowed s q = false) : (dropPorts s).quera.ports[q].up = false :=
  foldl_dropPort_down allPorts hq (.inl (List.mem_finRange q))

theorem identityChanged_linkView (old s : State) : linkView (identityChanged old s) = linkView s := by
  unfold identityChanged
  dsimp only
  refine (ite_same ((startCensus_linkView _ _).trans (startCensus_linkView _ _)) rfl).trans ((reconverge_linkView _ _ _).trans ?_)
  exact ite_same (g := linkView) (becomeMaster_linkView _) rfl

/-- The state with the reference mode that an entry asks for (R69, R441). -/
def modeSet (s : State) (e : SqEntry) : State :=
  if bit (dw e 2) 0 then reselect { s with tb := { s.tb with refMode := modeOf (bits (dw e 3) 1 0) } } else s

theorem modeSet_quera (s : State) (e : SqEntry) : (modeSet s e).quera = s.quera :=
  ite_same (g := State.quera) (reselect_quera _) rfl

theorem modeSet_refMode (s : State) (e : SqEntry) :
    (modeSet s e).tb.refMode = if bit (dw e 2) 0 then modeOf (bits (dw e 3) 1 0) else s.tb.refMode := by
  unfold modeSet
  split
  · exact reselect_refMode _
  · rfl

/-- The settings that an entry asks for, before any port goes down (R441). -/
def settingsMade (s : State) (e : SqEntry) : State := { modeSet s e with quera := queraSettings s.quera e }

theorem applyQuera_eq (s : State) (e : SqEntry) :
    applyQuera s e = announce (modeSet s e) (identityChanged (modeSet s e) (clearUnused (dropPorts (settingsMade s e)))) := by
  unfold settingsMade
  rw [← modeSet_quera s e]
  unfold applyQuera modeSet
  rfl

theorem clearUnused_linkView (s : State) : linkView (clearUnused s) = linkView s := by
  unfold clearUnused linkView linkSet
  rfl

/-- What follows the ports that go down leaves the settings and the ports. -/
theorem applyQuera_linkView (s : State) (e : SqEntry) : linkView (applyQuera s e) = linkView (dropPorts (settingsMade s e)) := by
  rw [applyQuera_eq]
  exact (announce_linkView _ _).trans ((identityChanged_linkView _ _).trans (clearUnused_linkView _))

/-- The settings after QUERA_CONFIG are those asked for (R441). -/
theorem applyQuera_linkSet (s : State) (e : SqEntry) : linkSet (applyQuera s e) = linkSet (settingsMade s e) :=
  (linkSet_of_linkView (applyQuera_linkView s e)).trans (dropPorts_linkSet _)

/-- A port that the settings after QUERA_CONFIG do not allow is down (R473, R479). -/
theorem applyQuera_down {s : State} {e : SqEntry} {p : Fin 4} (h : portAllowed (applyQuera s e) p = false) :
    (applyQuera s e).quera.ports[p].up = false := by
  rw [portAllowed_of_linkSet (applyQuera_linkSet s e)] at h
  exact (congrArg QPort.up (port_of_linkView (applyQuera_linkView s e) p)).trans (dropPorts_down h)

/-! ## QUERA_CONFIG -/

/-- Each part of the entry that is asked for (R441, R473, R480). -/
theorem queraSettings_spec (q : Quera) (e : SqEntry) :
    (queraSettings q e).role = (if bit (dw e 2) 2 then BitVec.ofNat 2 (bits (dw e 4) 7 6) else q.role) ∧
    (queraSettings q e).refPort = (if bit (dw e 2) 2 then BitVec.ofNat 2 (bits (dw e 4) 5 4) else q.refPort) ∧
    (queraSettings q e).portEnable = (if bit (dw e 2) 2 then BitVec.ofNat 4 (bits (dw e 4) 3 0) else q.portEnable) ∧
    (queraSettings q e).autoId = (if bit (dw e 2) 1 then bit (dw e 5) 31 else q.autoId) ∧
    (queraSettings q e).configId = (if bit (dw e 2) 1 then BitVec.ofNat 12 (bits (dw e 5) 11 0) else q.configId) ∧
    (queraSettings q e).deviceId = (if (queraSettings q e).autoId && (queraSettings q e).role == 0 then q.deviceId
      else (queraSettings q e).configId) := by
  unfold queraSettings
  dsimp only
  cases bit (dw e 2) 2 <;> cases bit (dw e 2) 1 <;> exact ⟨rfl, rfl, rfl, rfl, rfl, rfl⟩

theorem exec_queraConfig_of_reserved {s : State} {t : Taken} (h : InHand s t 0x60) {d b : Nat}
    (hr : reservedBit t.e queraBits = some (d, b)) : exec .queraConfig s = .next (invalidAt (freed s) t d b) := by
  refine congrArg Host.Outcome.next ?_
  rw [withCmd_inHand h, hr]

theorem exec_queraConfig_of_fault {s : State} {t : Taken} (h : InHand s t 0x60) (hr : reservedBit t.e queraBits = none) {p : Pay}
    (hf : queraFault t.e = some p) : exec .queraConfig s = .next (completeAt (freed s) t .invalid p) := by
  refine congrArg Host.Outcome.next ?_
  rw [withCmd_inHand h, hr, hf]

theorem exec_queraConfig_of_fit {s : State} {t : Taken} (h : InHand s t 0x60) (hr : reservedBit t.e queraBits = none)
    (hf : queraFault t.e = none) : exec .queraConfig s =
      .next (completeAt (applyQuera (freed s) t.e) t .ok { p4 := timebaseWord (applyQuera (freed s) t.e) }) := by
  refine congrArg Host.Outcome.next ?_
  rw [withCmd_inHand h, hr, hf]

/-- The faults that R441 names. -/
theorem queraFault_ne_none {e : SqEntry} (h : (bit (dw e 2) 0 = true ∧ bits (dw e 3) 1 0 = 3) ∨ (bit (dw e 2) 2 = true ∧ bits (dw e 4) 7 6 = 3) ∨
    bits (dw e 2) 2 0 = 0 ∨ (bit (dw e 2) 2 = true ∧ bits (dw e 4) 7 6 = 1 ∧ bits (dw e 4) 3 2 ≠ 3)) : queraFault e ≠ none := by
  intro hn
  unfold queraFault at hn
  dsimp only at hn
  split at hn
  · cases hn
  next h1 =>
  split at hn
  · cases hn
  next h2 =>
  split at hn
  · cases hn
  next h3 =>
  split at hn
  · cases hn
  next h4 =>
  rcases h with ⟨ha, hb⟩ | ⟨ha, hb⟩ | h | ⟨ha, hb, hc⟩
  · exact h1 (by simp [ha, hb])
  · exact h2 (by simp [ha, hb])
  · exact h3 h
  · exact h4 (by simp [ha, hb, hc])

/-! ## CROSS_TRIGGER_ROUTE -/

theorem exec_crossTriggerRoute_of_current {s : State} {t : Taken} {n : Stall} (h : InHand s t 0x62)
    (hr : reservedBit t.e [0x30F, 0xFFFF003F] = none) (hn : n.val = bits (dw t.e 3) 5 0) (ha : s.stalls[n].st ≠ .absent)
    (hg : s.stalls[n].gen = BitVec.ofNat 16 (bits (dw t.e 3) 31 16)) {send recv : BitVec 16}
    (hs : send = setBit (masksOf s n).1 (bits (dw t.e 2) 3 0) (bit (dw t.e 2) 9))
    (hv : recv = setBit (masksOf s n).2 (bits (dw t.e 2) 3 0) (bit (dw t.e 2) 8)) : exec .crossTriggerRoute s =
      .next (completeAt (putRoute (freed s) n send recv) t .ok { p4 := fld send.toNat 16 ||| fld recv.toNat 0 }) := by
  have ha : ¬((freed s).stalls[n].st = .absent) := ha
  have hg : ¬(BitVec.ofNat 16 (bits (dw t.e 3) 31 16) ≠ (freed s).stalls[n].gen) := not_not_intro hg.symm
  have hlt : bits (dw t.e 3) 5 0 < 64 := hn ▸ n.isLt
  obtain rfl : n = ⟨bits (dw t.e 3) 5 0, hlt⟩ := Fin.ext hn
  refine congrArg Host.Outcome.next ?_
  rw [withCmd_inHand h, hr]
  dsimp only
  rw [if_neg ha, if_neg hg, hs, hv]
  rfl

theorem completeAt_quera (s : State) (t : Taken) (st : Status) (p : Pay) : (completeAt s t st p).quera = s.quera :=
  told_quera (told_of_answersOnly (completeAt_answers s t st p))

/-- Settles O18: the settings after QUERA_CONFIG are the entry's (`applyQuera_linkSet`, `queraSettings_spec`), a port that they do not allow is
down (`applyQuera_down`), and a route is written for the stall named. -/
theorem queraCommandsWriteTheirSettings : Obligations.QueraCommandsWriteTheirSettings := by
  refine fun s t => ⟨fun d b h hr => exec_queraConfig_of_reserved h hr, fun h hr hbad => ?invalid, fun h hr hf => ?ok,
    fun n send recv h hr hn ha hg hs hv => ?route⟩
  case invalid =>
    obtain ⟨p, hp⟩ := Option.ne_none_iff_exists'.1 (queraFault_ne_none hbad)
    exact ⟨p, exec_queraConfig_of_fault h hr hp⟩
  case ok =>
    have hset := applyQuera_linkSet (freed s) t.e
    obtain ⟨hrole, href, henable, hauto, hconfig, hid⟩ := queraSettings_spec s.quera t.e
    have hrole' : (applyQuera (freed s) t.e).quera.role = (queraSettings s.quera t.e).role := congrArg (fun x => x.1) hset
    have hauto' : (applyQuera (freed s) t.e).quera.autoId = (queraSettings s.quera t.e).autoId := congrArg (fun x => x.2.2.2.1) hset
    have hconfig' : (applyQuera (freed s) t.e).quera.configId = (queraSettings s.quera t.e).configId :=
      congrArg (fun x => x.2.2.2.2.1) hset
    refine ⟨_, exec_queraConfig_of_fit h hr hf, hrole'.trans hrole, (congrArg (fun x => x.2.1) hset).trans href,
      (congrArg (fun x => x.2.2.1) hset).trans henable, hauto'.trans hauto, hconfig'.trans hconfig, ?_,
      (congrArg (fun x => x.2.2.2.2.2.2) hset).trans (modeSet_refMode _ _), fun p hp => applyQuera_down hp⟩
    rw [hrole', hauto', hconfig']
    exact (congrArg (fun x => x.2.2.2.2.2.1) hset).trans hid
  case route =>
    have hexec := exec_crossTriggerRoute_of_current h hr hn ha hg hs hv
    exact ⟨hexec, _, hexec, by rw [completeAt_quera]; rfl⟩

end Sys2Proof.Machine
end

section
/-! SUPPORT. Quera ports that come up and go down, and the topology, identify, census and cross-trigger messages (R472, R476, R479 to R483,
R489, R492, R493). -/

namespace Sys2Proof.Machine

/-- Of the whole state the Quera ports alone are changed. -/
def portsOnly (s t : State) : Prop := t = { s with quera := { s.quera with ports := t.quera.ports } }

theorem portsOnly_refl (s : State) : portsOnly s s := rfl

theorem portsOnly_trans {s t u : State} (h : portsOnly s t) (k : portsOnly t u) : portsOnly s u := by
  unfold portsOnly at h k ⊢
  rw [k, h]

theorem portsOnly_ite {c : Prop} [Decidable c] {s t u : State} (h : portsOnly s t) (k : portsOnly s u) :
    portsOnly s (if c then t else u) := by
  split <;> assumption

theorem portsOnly_foldl {α : Type} {f : State → α → State} (h : ∀ s a, portsOnly s (f s a)) (l : List α) (s : State) :
    portsOnly s (l.foldl f s) := by
  induction l generalizing s with
  | nil => exact portsOnly_refl s
  | cons a l ih => exact portsOnly_trans (h s a) (ih _)

theorem modQport_portsOnly (s : State) (p : Fin 4) (f : QPort → QPort) : portsOnly s (modQport s p f) := rfl

theorem sendMsg_portsOnly (s : State) (p : Fin 4) (v : Nat) : portsOnly s (sendMsg s p v) := modQport_portsOnly _ _ _

theorem announce_portsOnly (old s : State) : portsOnly s (announce old s) :=
  portsOnly_foldl (fun s p => portsOnly_trans (modQport_portsOnly s p _) (sendMsg_portsOnly _ p _)) _ s

theorem seeBlocks_portsOnly (s : State) (p : Fin 4) (rx : Received) : portsOnly s (seeBlocks s p rx) := modQport_portsOnly _ _ _

theorem spread_portsOnly (s : State) (root : Bool) (m : Nat → Nat) : portsOnly s (spread s root m) :=
  portsOnly_foldl (fun s p => portsOnly_ite (sendMsg_portsOnly s p _) (portsOnly_refl s)) _ s

theorem passOn_portsOnly (s : State) (p : Fin 4) (m : BitVec 112) : portsOnly s (passOn s p m) := by
  unfold passOn
  dsimp only
  generalize hu : (if 1 < bits m 83 78 ∧ portUp s (opposite p) = true then _ else s) = u
  have hsent : portsOnly s u := by
    rw [← hu]
    exact portsOnly_ite (sendMsg_portsOnly _ _ _) (portsOnly_refl s)
  refine portsOnly_trans hsent ?_
  exact portsOnly_ite (portsOnly_refl _) (portsOnly_ite (spread_portsOnly _ _ _) (portsOnly_ite (spread_portsOnly _ _ _) (portsOnly_refl _)))

section
variable {s t : State} (h : portsOnly s t)
include h

theorem portsOnly_tb : t.tb = s.tb := by rw [h]

theorem portsOnly_stalls : t.stalls = s.stalls := by rw [h]

theorem portsOnly_epoch : t.quera.epoch = s.quera.epoch := by rw [h]

theorem portsOnly_received : t.quera.received = s.quera.received := by rw [h]

theorem portsOnly_staleDropped : t.quera.staleDropped = s.quera.staleDropped := by rw [h]

theorem portsOnly_routes : t.quera.routes = s.quera.routes := by rw [h]

theorem portsOnly_rootSize : t.quera.rootSize = s.quera.rootSize := by rw [h]

theorem portsOnly_ringSize : t.quera.ringSize = s.quera.ringSize := by rw [h]

end

/-! ## Messages sent, and ports -/

theorem exec_queraTopologySend_live {s : State} {p : Fin 4} (h : portLive s p = true) :
    exec (.queraTopologySend p) s = .next (sendMsg s p (topologyMsg s p)) := congrArg Host.Outcome.next (if_pos h)

theorem sendMsg_queue (s : State) (p : Fin 4) (v : Nat) :
    (sendMsg s p v).quera.ports[p].queue = s.quera.ports[p].queue ++ [{ msg := withCrc v }] := by
  unfold sendMsg
  rw [modQport_same]

theorem exec_queraIdentifySend_up {s : State} {p : Fin 4} (h : portUp s p = true) (hs : shedStage s < 2) :
    exec (.queraIdentifySend p) s = .next (sendMsg s p (0x4 * 2 ^ 108 + s.quera.deviceId.toNat * 2 ^ 96 + p.val * 2 ^ 94 +
      s.quera.role.toNat * 2 ^ 92 + s.quera.autoId.toNat * 2 ^ 91)) := by
  refine congrArg Host.Outcome.next (if_neg ?_)
  rw [h, decide_eq_false (Nat.not_le.2 hs)]
  decide

theorem noteSelf_ups (s : State) (p : Fin 4) : ups (noteSelf s p) = ups s := modQport_ups s p

/-- A port for which R479 holds and that is wired as R472 asks comes up, and what follows leaves it up (`reconverge_ups`). -/
theorem exec_queraPortUp_of_wired {s : State} {p : Fin 4} (hl : portLive s p = true) (hu : s.quera.ports[p].up = false)
    (ht : s.quera.ports[p].topoOk = 3) (hm : s.quera.ports[p].measured = true) (hk : lockHeld s p = true)
    (hw : wiredRight s.quera.ports[p] p = true) : ∃ u, exec (.queraPortUp p) s = .next u ∧ u.quera.ports[p].up = true := by
  refine ⟨_, congrArg Host.Outcome.next (if_neg ?_), ?_⟩
  · rw [hl, hu, ht, hm, hk, hw]
    decide
  · extract_lets new t1 q t2 t3 t4
    have h1 : t1.quera.ports[p].up = true := by
      unfold t1
      rw [modQport_same]
    have h2 : ups t2 = ups t1 := ite_same (g := ups) rfl rfl
    have h3 : ups t3 = ups t2 := reconverge_ups _ _ _
    clear_value t3
    have h4 : ups t4 = ups t3 := ite_same (g := ups) rfl rfl
    exact (up_of_ups ((announce_ups s _).trans ((noteSelf_ups t4 p).trans (h4.trans (h3.trans h2)))) p).trans h1

theorem exec_queraPortUp_of_miswired {s : State} {p : Fin 4} (hw : wiredRight s.quera.ports[p] p = false) :
    exec (.queraPortUp p) s = .next s := by
  refine congrArg Host.Outcome.next (if_pos ?_)
  rw [hw]
  exact Bool.or_true _

theorem loseLock_port (s : State) (p : Fin 4) : (loseLock s p).quera.ports[p] = lockLost (takeDown s p).quera.ports[p] := modQport_same _ _ _

theorem loseLock_of_down {s : State} {p : Fin 4} (h : s.quera.ports[p].up = false) : loseLock s p = modQport s p lockLost := by
  unfold loseLock takeDown
  have hdown : (!portUp s p) = true := by
    unfold portUp
    rw [h]
    rfl
  rw [if_pos hdown]

/-! ## Messages received -/

theorem seeBlocks_other (s : State) {p q : Fin 4} (h : q ≠ p) (rx : Received) : (seeBlocks s p rx).quera.ports[q] = s.quera.ports[q] :=
  modQport_other s h _

theorem passOn_seeBlocks_portsOnly (s : State) (p : Fin 4) (rx : Received) (m : BitVec 112) :
    portsOnly s (passOn (seeBlocks s p rx) p m) := portsOnly_trans (seeBlocks_portsOnly s p rx) (passOn_portsOnly _ _ _)

/-- What the blocks leave of a port: all that its headers and its lock do not tell. -/
theorem seeBlocks_view {α : Type} {g : QPort → α} (s : State) (p : Fin 4) (rx : Received)
    (h : ∀ q a b c, g { q with headers := a, badHeaders := b, lockSince := c } = g q := by exact fun _ _ _ _ => rfl) (q : Fin 4) :
    g (seeBlocks s p rx).quera.ports[q] = g s.quera.ports[q] := by
  by_cases e : q = p
  · subst e
    rw [seeBlocks_port]
    exact h _ _ _ _
  · rw [seeBlocks_other s e]

theorem seeBlocks_portUp (s : State) (p : Fin 4) (rx : Received) (q : Fin 4) : portUp (seeBlocks s p rx) q = portUp s q :=
  seeBlocks_view (g := QPort.up) s p rx (q := q)

/-- Whether a device anchors a ring is not a matter of blocks (R480). -/
theorem seeBlocks_isAnchor (s : State) (p : Fin 4) (rx : Received) (root : Bool) : isAnchor (seeBlocks s p rx) root = isAnchor s root := by
  have hid (q : Fin 4) : (seeBlocks s p rx).quera.ports[q].farId = s.quera.ports[q].farId := seeBlocks_view (g := QPort.farId) s p rx (q := q)
  have hrole (q : Fin 4) : (seeBlocks s p rx).quera.ports[q].farRole = s.quera.ports[q].farRole :=
    seeBlocks_view (g := QPort.farRole) s p rx (q := q)
  have hauto (q : Fin 4) : (seeBlocks s p rx).quera.ports[q].farAuto = s.quera.ports[q].farAuto :=
    seeBlocks_view (g := QPort.farAuto) s p rx (q := q)
  unfold isAnchor
  simp only [seeBlocks_portUp, hid, hrole, hauto]
  rfl

theorem seeBlocks_censusHome (s : State) (p : Fin 4) (rx : Received) (ring position count : Nat) (root : Bool) :
    censusHome (seeBlocks s p rx) ring position count root = censusHome s ring position count root := by
  unfold censusHome
  rw [seeBlocks_isAnchor]
  rfl

section
variable {s : State} {p : Fin 4} {rx : Received} {msg : BitVec 112} (hl : portLive s p = true)
  (hb : breaksLock s.quera.ports[p] (lineBlocks rx) = false) (hm : received rx = some msg) (hc : crcOk msg = true)
include hl hb hm hc

/-- A good message of the row's kind, on the state that has seen its blocks. -/
theorem onMsg_of_kind {kind : Nat} (hk : msgKind msg = kind) (hlisted : 1 ≤ kind ∧ kind ≤ 5) (g : BitVec 112 → State → State) :
    onMsg s p rx kind g = announce (seeBlocks s p rx) (g msg (seeBlocks s p rx)) := by
  subst hk
  exact onMsg_of_good hl hb g hm hc (by simp [kindListed, hlisted])

/-- A topology message on a port that is not up is kept (R482, R483, R489). -/
theorem exec_queraTopologyMsg_down (hk : msgKind msg = 3) (hu : portUp s p = false) : exec (.queraTopologyMsg p rx) s =
    .next (announce (seeBlocks s p rx) (noteTopology (seeBlocks s p rx) p msg)) := by
  have hdown : portUp (noteTopology (seeBlocks s p rx) p msg) p = false :=
    (congrArg QPort.up (modQport_same (seeBlocks s p rx) p _)).trans ((seeBlocks_portUp s p rx p).trans hu)
  change Host.Outcome.next (onMsg s p rx 3 _) = _
  rw [onMsg_of_kind hl hb hm hc hk (by decide)]
  dsimp only
  rw [hdown]
  rfl

/-- An identify message on a port that is not up is kept, and nothing is announced (R472, R481). -/
theorem exec_queraIdentifyMsg_down (hk : msgKind msg = 4) (hu : portUp s p = false) : exec (.queraIdentifyMsg p rx) s =
    .next (modQport (seeBlocks s p rx) p fun q => { q with
      farId := BitVec.ofNat 12 (bits msg 107 96), farPort := some (BitVec.ofNat 2 (bits msg 95 94))
      farRole := BitVec.ofNat 2 (bits msg 93 92), farAuto := bit msg 91 }) := by
  have hdown (f : QPort → QPort) (hf : ∀ q, (f q).up = q.up) : portUp (modQport (seeBlocks s p rx) p f) p = false := by
    unfold portUp
    rw [modQport_same, hf]
    exact (seeBlocks_portUp s p rx p).trans hu
  change Host.Outcome.next (onMsg s p rx 4 _) = _
  rw [onMsg_of_kind hl hb hm hc hk (by decide)]
  dsimp only
  rw [hdown]
  · exact congrArg _ (announce_modQport _ _ fun _ => ⟨rfl, rfl⟩)
  · exact fun _ => rfl

/-- A census that has come round tells its anchor the size of the ring (R480). -/
theorem exec_queraCensusMsg_home (hk : msgKind msg = 5) (hu : portUp s p = true) (hp : p = opposite (firstPort (bit msg 88)))
    (hh : censusHome s (bits msg 107 102) (bits msg 101 96) (bits msg 95 89) (bit msg 88) = true) : exec (.queraCensusMsg p rx) s =
    .next (announce (seeBlocks s p rx) (setSize (seeBlocks s p rx) (bit msg 88) (bits msg 95 89))) := by
  change Host.Outcome.next (onMsg s p rx 5 _) = _
  rw [onMsg_of_kind hl hb hm hc hk (by decide)]
  dsimp only
  rw [seeBlocks_portUp, hu, ← hp, bne_self_eq_false, seeBlocks_censusHome, hh]
  rfl

section
variable (hk : msgKind msg = 1) (hu : portUp s p = true) (ha : isAlone s = false)
include hk hu ha

theorem onMsg_crossTrigger (g : BitVec 112 → State → State) : onMsg s p rx 1 (fun m v => if !portUp v p || isAlone v then v else g m v) =
    announce (seeBlocks s p rx) (g msg (seeBlocks s p rx)) := by
  have ha : isAlone (seeBlocks s p rx) = false := ha
  rw [onMsg_of_kind hl hb hm hc hk (by decide)]
  rw [seeBlocks_portUp, hu, ha]
  rfl

/-- A cross-trigger of the current epoch goes on and is accepted (R492, R493). -/
theorem exec_queraCrossTriggerMsg_current (he : bits msg 91 84 = bits s.quera.epoch 7 0) : exec (.queraCrossTriggerMsg p rx) s =
    .next (announce (seeBlocks s p rx) (acceptXtrig (passOn (seeBlocks s p rx) p msg) msg)) := by
  have he : bits msg 91 84 = bits (passOn (seeBlocks s p rx) p msg).quera.epoch 7 0 := by
    rw [portsOnly_epoch (passOn_seeBlocks_portsOnly s p rx msg)]
    exact he
  refine congrArg Host.Outcome.next ((onMsg_crossTrigger hl hb hm hc hk hu ha _).trans ?_)
  exact congrArg _ (if_pos he)

/-- One of another epoch goes on and is counted as stale (R493). -/
theorem exec_queraCrossTriggerMsg_stale (he : bits msg 91 84 ≠ bits s.quera.epoch 7 0) : exec (.queraCrossTriggerMsg p rx) s =
    .next (announce (seeBlocks s p rx) { passOn (seeBlocks s p rx) p msg with quera := { (passOn (seeBlocks s p rx) p msg).quera with
      staleDropped := satAdd 32 (passOn (seeBlocks s p rx) p msg).quera.staleDropped 1 } }) := by
  have he : bits msg 91 84 ≠ bits (passOn (seeBlocks s p rx) p msg).quera.epoch 7 0 := by
    rw [portsOnly_epoch (passOn_seeBlocks_portsOnly s p rx msg)]
    exact he
  refine congrArg Host.Outcome.next ((onMsg_crossTrigger hl hb hm hc hk hu ha _).trans ?_)
  exact congrArg _ (if_neg he)

end

end

/-! ## What the port and the counts hold afterwards -/

theorem noteTopology_other (s : State) {p q : Fin 4} (h : q ≠ p) (m : BitVec 112) :
    (noteTopology s p m).quera.ports[q] = s.quera.ports[q] := modQport_other s h _

/-- Two ports alike but for what waits are one port with the other's messages. -/
theorem eq_of_queueless {x y : QPort} (h : queueless x = queueless y) : { x with queue := y.queue } = y :=
  congrArg (fun q => { q with queue := y.queue }) h

theorem setSize_spec (s : State) (root : Bool) (n : Nat) : (root = true → (setSize s root n).quera.rootSize = n) ∧
    (root = false → (setSize s root n).quera.ringSize = n) := by
  unfold setSize
  refine ⟨?_, ?_⟩
  · rintro rfl
    exact ite_same (g := fun u : State => u.quera.rootSize) (s := { s with quera := { s.quera with rootSize := n } }) rfl rfl
  · rintro rfl
    exact ite_same (g := fun u : State => u.quera.ringSize) (s := { s with quera := { s.quera with ringSize := n } }) rfl rfl

/-- A cross-trigger that no stall receives is only counted (R493). -/
theorem acceptXtrig_of_unrouted {s : State} {m : BitVec 112} (h : ∀ r ∈ s.quera.routes, bit r.recv (bits m 107 104) = false) :
    acceptXtrig s m = { s with quera := { s.quera with received := satAdd 32 s.quera.received 1 } } := by
  have hnone : (s.quera.routes.filter fun r => bit r.recv (bits m 107 104)) = [] :=
    List.filter_eq_nil_iff.2 fun r hr => ne_true_of_eq_false (h r hr)
  unfold acceptXtrig
  dsimp only
  rw [hnone]
  rfl

/-- Settles O54, row by row: a port comes up and goes down whatever the ring makes of it (`reconverge_ups`), a message changes its own port
(`seeBlocks_view`, `announce_linkView`), and what is passed on changes the ports alone (`passOn_portsOnly`). -/
theorem portsExchangeTopologyAndTriggers : Obligations.PortsExchangeTopologyAndTriggers := by
  refine fun s p => ⟨fun hl => ?topology, fun hu hs => ?identify, fun hl hu ht hm hk => ⟨exec_queraPortUp_of_wired hl hu ht hm hk,
    exec_queraPortUp_of_miswired⟩, ?down, fun rx msg v hl hb hm hc hv => ?messages⟩
  case topology =>
    exact ⟨exec_queraTopologySend_live hl, _, exec_queraTopologySend_live hl, rfl, sendMsg_queue _ _ _⟩
  case identify =>
    refine ⟨exec_queraIdentifySend_up hu hs, _, exec_queraIdentifySend_up hu hs, ?_⟩
    rw [sendMsg_queue, List.length_append]
    rfl
  case down =>
    refine ⟨loseLock s p, rfl, ?_, ?_, ?_, ?_, loseLock_of_down⟩
    all_goals
      rw [loseLock_port]
      rfl
  case messages =>
    subst hv
    refine ⟨fun hk hu => ⟨exec_queraTopologyMsg_down hl hb hm hc hk hu, _, exec_queraTopologyMsg_down hl hb hm hc hk hu, ?topo⟩,
      exec_queraIdentifyMsg_down hl hb hm hc, fun hk hu hp hh => ⟨exec_queraCensusMsg_home hl hb hm hc hk hu hp hh, _,
      exec_queraCensusMsg_home hl hb hm hc hk hu hp hh, ?size⟩, fun hk hu ha => ⟨fun he =>
      ⟨exec_queraCrossTriggerMsg_current hl hb hm hc hk hu ha he, fun hr => ⟨_,
      exec_queraCrossTriggerMsg_current hl hb hm hc hk hu ha he, ?accepted⟩⟩, fun he => ⟨_,
      exec_queraCrossTriggerMsg_stale hl hb hm hc hk hu ha he, ?stale⟩⟩⟩
    case topo =>
      have hport := port_of_linkView (announce_linkView (seeBlocks s p rx) (noteTopology (seeBlocks s p rx) p msg))
      have hmine := hport p
      rw [noteTopology, modQport_same] at hmine
      refine ⟨(congrArg QPort.topoOk hmine).trans ?_, congrArg QPort.lastTopo hmine, congrArg QPort.farId hmine,
        congrArg QPort.farHops hmine, fun q hq => eq_of_queueless ?_⟩
      · exact congrArg (fun n => min 3 (n + 1)) (seeBlocks_view (g := QPort.topoOk) s p rx (q := p))
      · rw [hport q, noteTopology_other _ hq, seeBlocks_other _ hq]
    case size =>
      have hann := announce_portsOnly (seeBlocks s p rx) (setSize (seeBlocks s p rx) (bit msg 88) (bits msg 95 89))
      rw [portsOnly_rootSize hann, portsOnly_ringSize hann]
      exact setSize_spec _ _ _
    case accepted =>
      have hpass := passOn_seeBlocks_portsOnly s p rx msg
      rw [← portsOnly_routes hpass] at hr
      rw [portsOnly_received (announce_portsOnly _ _), portsOnly_stalls (announce_portsOnly _ _), acceptXtrig_of_unrouted hr]
      dsimp only
      rw [portsOnly_received hpass, portsOnly_stalls hpass]
      exact ⟨rfl, rfl⟩
    case stale =>
      have hpass := passOn_seeBlocks_portsOnly s p rx msg
      rw [portsOnly_staleDropped (announce_portsOnly _ _), portsOnly_stalls (announce_portsOnly _ _)]
      dsimp only
      rw [portsOnly_staleDropped hpass, portsOnly_stalls hpass]
      exact ⟨rfl, rfl⟩

end Sys2Proof.Machine
end

section
/-! SUPPORT. Host reads that come back or fail: those of a submission ring and those of a command (R381, R394, R396). -/

namespace Sys2Proof.Machine

/-! ## A ring -/

/-- A ring with an entry pending stops, and its head stays (R396). -/
theorem ringFailed_of_pending {s : State} {f : Fn} (h : ringPending s f = true) : ringFailed s f =
    modFn (fetchSlot s f) f fun r => { r with sqStopped := true, errStatus := r.errStatus ||| 4 } := by
  unfold ringPending at h
  unfold ringFailed
  refine if_pos ?_
  simp only [Bool.and_eq_true] at h ⊢
  obtain ⟨⟨⟨⟨⟨⟨hexists, henable⟩, hfault⟩, hstopped⟩, -⟩, -⟩, hentry⟩ := h
  exact ⟨⟨⟨⟨hexists, henable⟩, hfault⟩, hstopped⟩, hentry⟩

theorem ringPending_of_stopped {s : State} {f : Fn} (h : s.fns[f].sqStopped = true) : ringPending s f = false := by
  unfold ringPending
  dsimp only
  rw [h]
  simp

/-- No entry is taken from a ring with none pending (R394). -/
theorem exec_groomTakeCommand_of_none_pending {s : State} {f : Fn} (h : ringPending s f = false) (e : SqEntry) (ecc : TakeEcc) :
    exec (.groomTakeCommand f e ecc) s = .next s := by
  refine take_of_other_turn e ecc fun hf => ?_
  have he := turnOf_eligible hf
  unfold eligible at he
  rw [h] at he
  cases he

/-- Both rows of a failed fetch stop the ring (R396). -/
theorem exec_of_ringFailed {s : State} {f : Fn} {i : Instr}
    (h : i ∈ [Instr.hostReadComplete (.ring f) .failed, .hostReadTimeout (.ring f)]) : exec i s = .next (ringFailed s f) := by
  simp only [List.mem_cons, List.not_mem_nil, or_false] at h
  obtain rfl | rfl := h
  · exact congrArg Host.Outcome.next (if_pos rfl)
  · rfl

theorem bit_or_four (w : BitVec 9) : bit (w ||| 4) 2 = true := by
  simp [bit]

/-! ## A command's read -/

section
variable {s : State} {id : Nat} {r : HostRead} (h : (s.groom.reads.find? fun r => r.id == id) = some r)
include h

/-- The read found is outstanding no longer, and what came serves its command (R381). -/
theorem readBackJob_of_fit {data : HostData} (hf : fits r data = true) : readBackJob s id data =
    serveRead (modGroom s fun g => { g with reads := g.reads.filter fun x => x.id != id }) r data := by
  unfold readBackJob
  rw [h]
  dsimp only
  rw [hf]
  exact if_neg Bool.false_ne_true

theorem exec_hostReadComplete_of_length {l : List Byte} (hl : l.length = r.len) : exec (.hostReadComplete (.job id) (.bytes l)) s =
    .next (serveRead (modGroom s fun g => { g with reads := g.reads.filter fun x => x.id != id }) r (.bytes l)) :=
  congrArg Host.Outcome.next (readBackJob_of_fit h (beq_iff_eq.2 hl))

theorem exec_hostReadTimeout_of_found : exec (.hostReadTimeout (.job id)) s =
    .next (serveRead (modGroom s fun g => { g with reads := g.reads.filter fun x => x.id != id }) r .failed) :=
  congrArg Host.Outcome.next (readBackJob_of_fit h rfl)

end

theorem told_flash {s t : State} (h : told s t) : t.flash = s.flash := by rw [h.1]

theorem answersOnly_groom {f : Fn} {s t : State} (h : answersOnly f s t) : t.groom = s.groom := by rw [h.1]

theorem completeJob_flash (s : State) (ended : Bool) (tag : BitVec 16) (st : Status) (p : Pay) :
    (completeJob s ended tag st p).flash = s.flash :=
  ite_same (g := State.flash) rfl (told_flash (told_of_answersOnly (completeTag_answers s 0 tag st p)))

theorem completeJob_groom (s : State) (ended : Bool) (tag : BitVec 16) (st : Status) (p : Pay) :
    (completeJob s ended tag st p).groom = s.groom :=
  ite_same (g := State.groom) rfl (answersOnly_groom (completeTag_answers s 0 tag st p))

section
variable {u : State} {r : HostRead} (hd : r.dead = false)
include hd

theorem serveRead_image (hp : r.purpose = .image) (data : HostData) : serveRead u r data = imageRead u r.fn r.tag data := by
  unfold serveRead
  rw [hd, hp]
  exact if_neg Bool.false_ne_true

theorem serveRead_blob (hp : r.purpose = .blob) (data : HostData) : serveRead u r data = lifeRead u data := by
  unfold serveRead
  rw [hd, hp]
  exact if_neg Bool.false_ne_true

theorem serveRead_firmware (hp : r.purpose = .firmware) (data : HostData) : serveRead u r data = updateRead u r.len data := by
  unfold serveRead
  rw [hd, hp]
  exact if_neg Bool.false_ne_true

end

/-- A blob that could not be read ends its job (R447). -/
theorem lifeRead_failed {u : State} {j : LifeJob} (h : u.flash.life = some j) : lifeRead u .failed = endLife u j .dataError {} := by
  unfold lifeRead
  rw [h]

theorem endLife_life (u : State) (j : LifeJob) (st : Status) (p : Pay) : (endLife u j st p).flash.life = none := by
  unfold endLife
  rw [completeJob_flash]
  rfl

theorem endLife_groom (u : State) (j : LifeJob) (st : Status) (p : Pay) : (endLife u j st p).groom = u.groom := by
  unfold endLife
  rw [completeJob_groom]
  rfl

/-- A sound image of the length read is in hand (R446, R546). -/
theorem updateRead_of_sound {u : State} {j : UpdJob} {l : List Byte} {len : Nat} (h : u.flash.upd = some j) (hf : imageFormOk l = true)
    (hl : leAt l 0x10 4 + 512 = len) : updateRead u len (.bytes l) =
    setUpd (setSlot u j.slotB { parseImage l with valid := false }) (some { j with image := parseImage l, readOk := true }) := by
  unfold updateRead
  rw [h]
  dsimp only
  rw [hf]
  exact (if_neg Bool.false_ne_true).trans (if_neg (not_not_intro hl))

/-- Settles O33: a failed fetch stops its ring (`ringFailed_of_pending`), and a read found serves its command by its purpose. -/
theorem hostReadsServeRingsAndCommands : Obligations.HostReadsServeRingsAndCommands := by
  refine ⟨fun s f i hi h => ?ring, fun s id r u hr hu => ?job⟩
  case ring =>
    have hmine : (ringFailed s f).fns[f] = { s.fns[f] with sqStopped := true, errStatus := s.fns[f].errStatus ||| 4 } := by
      rw [ringFailed_of_pending h]
      exact vmod_same _ _ _
    have hnone := ringPending_of_stopped (s := ringFailed s f) (f := f) (by rw [hmine])
    refine ⟨ringFailed s f, exec_of_ringFailed hi, by rw [hmine], by rw [hmine]; exact bit_or_four _, by rw [hmine], hnone,
      exec_groomTakeCommand_of_none_pending hnone, fun g hg => ?_⟩
    rw [ringFailed_of_pending h]
    exact vmod_ne _ hg.symm _
  case job =>
    subst hu
    refine ⟨fun l => exec_hostReadComplete_of_length hr, exec_hostReadTimeout_of_found hr, fun hd hp => serveRead_image hd hp .failed,
      fun j hd hp hj => ⟨_, exec_hostReadTimeout_of_found hr, ?_⟩, fun l j hd hp hl hf hn hj => ⟨_, exec_hostReadComplete_of_length hr hl, ?_⟩⟩
    · rw [serveRead_blob hd hp, lifeRead_failed (u := modGroom s _) hj]
      exact ⟨endLife_life _ _ _ _, congrArg Groom.reads (endLife_groom _ _ _ _)⟩
    · rw [serveRead_firmware hd hp, updateRead_of_sound (u := modGroom s _) hj hf hn]
      exact ⟨rfl, rfl⟩

end Sys2Proof.Machine
end

section
/-! SUPPORT. The register window: what reports leave of a function's registers, and one rule per register write (R384 to R398). -/

namespace Sys2Proof.Machine

/-! ## A function's window -/

theorem modFn_same (s : State) (f : Fn) (g : FnState → FnState) : (modFn s f g).fns[f] = g s.fns[f] := vmod_same _ _ _

theorem modFn_other (s : State) {f k : Fn} (h : k ≠ f) (g : FnState → FnState) : (modFn s f g).fns[k] = s.fns[k] := vmod_ne _ h.symm _

theorem modFn_modFn (s : State) (f : Fn) (g k : FnState → FnState) : modFn (modFn s f g) f k = modFn s f fun r => k (g r) := by
  have hset : vmod (vmod s.fns f g) f k = vmod s.fns f fun r => k (g r) := by simp [vmod]
  unfold modFn
  rw [← hset]

/-- A change of a window that changes nothing of the contents it finds. -/
theorem modFn_of_fixed {s : State} {f : Fn} {g : FnState → FnState} (h : g s.fns[f] = s.fns[f]) : modFn s f g = s := by
  have hset : vmod s.fns f g = s.fns := by
    unfold vmod
    rw [h]
    simp
  unfold modFn
  rw [hset]

/-- A function's registers but for what an entry to its ring may change (R382, R383, R398). -/
def registers (r : FnState) : FnState :=
  { r with cqIndex := 0, cqPhase := false, cntC := 0, oldC := 0, cntE := 0, oldE := 0, msixPending := 0 }

/-- The registers of every function. -/
def windows (s : State) : Vector FnState 64 := s.fns.map registers

theorem registers_of_windows {s t : State} (h : windows t = windows s) (f : Fn) : registers t.fns[f] = registers s.fns[f] := by
  have hf := congrArg (fun v => v[f]) h
  simpa [windows] using hf

theorem windows_of_answersOnly {f : Fn} {s t : State} (h : answersOnly f s t) : windows t = windows s := by
  obtain ⟨-, hother, hmine, -, -⟩ := h
  have hall (k : Fn) : registers t.fns[k] = registers s.fns[k] := by
    by_cases e : k = f
    · subst e
      rw [hmine]
      rfl
    · rw [(hother k e).1]
  refine Vector.ext fun i hi => ?_
  simpa [windows] using hall ⟨i, hi⟩

theorem sendEvents_windows (s : State) (l : List (Fn × CqEntry)) : windows (sendEvents s l) = windows s := by
  unfold sendEvents
  exact foldl_same (g := windows) (f := fun s x => sendEvent s x.1 x.2) (fun s x => windows_of_answersOnly (sendEvent_answers s x.1 x.2)) l s

theorem sendRated_windows (s : State) (key : RateKey) (interval : Nat) (l : List (Fn × CqEntry)) :
    windows (sendRated s key interval l) = windows s := ite_same (g := windows) rfl ((sendEvents_windows _ _).trans rfl)

theorem sendMsix_windows (s : State) (f : Fn) (v : Fin 8) : windows (sendMsix s f v) = windows s :=
  windows_of_answersOnly (sendMsix_answers s f v)

theorem drain_windows (s : State) (f : Fn) : windows (drain s f) = windows s := windows_of_answersOnly (drain_answers s f)

/-! ## Faulty writes -/

/-- The registers after a write with odd parity (R387). -/
def parityRegs (off : BitVec 12) (r : FnState) : FnState := { r with
  errStatus := setBit r.errStatus 5 true, fault := true, parityCount := count32 r.parityCount
  accessLog := flag true 31 ||| fld 3 28 ||| fld off.toNat 0 }

theorem parityFault_windows (s : State) (f : Fn) (off : BitVec 12) (val : Dword) :
    windows (parityFault s f off val) = windows (modFn s f (parityRegs off)) := by
  have hset : logAccess (modFn (setErr s f 5) f fun r => { r with fault := true, parityCount := count32 r.parityCount }) f 3 off =
      modFn s f (parityRegs off) := by
    unfold logAccess setErr
    rw [modFn_modFn, modFn_modFn]
    rfl
  unfold parityFault
  dsimp only
  rw [sendRated_windows, hset]
  exact ite_same (g := windows) (sendMsix_windows _ _ _) rfl

section
variable {s : State} {f : Fn} (hr : reachable s f = true)
include hr

theorem writeRegister_of_partial (off : BitVec 12) (val : Dword) {be : BitVec 4} (hb : be ≠ 0xF) :
    writeRegister s f off val be = dropWrite s f off := by
  unfold writeRegister
  dsimp only
  rw [hr]
  exact (if_neg (by decide)).trans (if_pos hb)

theorem writeRegister_of_odd {off : BitVec 12} {val : Dword} (hw : writable (alias_ off) = true) (hp : evenParity val = false) :
    writeRegister s f off val 0xF = parityFault s f off val := by
  unfold writeRegister
  dsimp only
  rw [hr, hw, hp]
  rfl

theorem writeRegister_of_locked {off : BitVec 12} {val : Dword} (hp : evenParity val = true) (hl : s.fns[f].lock = true)
    (hh : hasLocked (alias_ off) = true) : writeRegister s f off val 0xF = lockedWrite s f off := by
  have hw : writable (alias_ off) = true := by
    unfold writable
    rw [hh]
    rfl
  unfold writeRegister
  dsimp only
  rw [hr, hw, hp, hl, hh]
  rfl

/-- A whole write with even parity to a register that is not locked and no ring's geometry takes effect (R387, R390, R395). -/
theorem writeRegister_of_sound {off : BitVec 12} {val : Dword} (hp : evenParity val = true) (hw : writable (alias_ off) = true)
    (hl : (s.fns[f].lock && hasLocked (alias_ off)) = false) (hg : geometryLocked s.fns[f] (alias_ off) = false) :
    writeRegister s f off val 0xF = applyWrite s f (alias_ off) val off := by
  unfold writeRegister
  dsimp only
  rw [hr, hw, hp, hl, hg]
  rfl

end

theorem dropWrite_eq (s : State) (f : Fn) (off : BitVec 12) : dropWrite s f off = modFn s f fun r => { r with
    errStatus := setBit r.errStatus 6 true, droppedCount := count32 r.droppedCount
    accessLog := flag true 31 ||| fld 1 28 ||| fld off.toNat 0 } := by
  unfold dropWrite logAccess setErr
  rw [modFn_modFn, modFn_modFn]

theorem lockedWrite_eq (s : State) (f : Fn) (off : BitVec 12) : lockedWrite s f off = modFn s f fun r => { r with
    errStatus := setBit r.errStatus 7 true, lockedCount := count32 r.lockedCount
    accessLog := flag true 31 ||| fld 2 28 ||| fld off.toNat 0 } := by
  unfold lockedWrite logAccess setErr
  rw [modFn_modFn, modFn_modFn]

/-- Settles O34: a write with odd parity leaves the registers of `parityRegs` (`parityFault_windows`), and the other two are one change of the
window each. -/
theorem faultyWindowWritesAreRecorded : Obligations.FaultyWindowWritesAreRecorded := by
  refine ⟨fun s f off val hr hw hp => ?odd, fun s f off val be hr => ⟨fun hb => ?partly, ?locked⟩⟩
  case odd =>
    have hregs : registers (parityFault s f off val).fns[f] = registers (parityRegs off s.fns[f]) := by
      rw [registers_of_windows (parityFault_windows s f off val), modFn_same]
    have field {α : Type} (g : FnState → α) (hg : ∀ r, g (registers r) = g r) :
        g (parityFault s f off val).fns[f] = g (parityRegs off s.fns[f]) := by
      rw [← hg, hregs, hg]
    refine ⟨_, congrArg Host.Outcome.next (writeRegister_of_odd hr hw hp), field FnState.fault fun _ => rfl, ?_,
      field FnState.parityCount fun _ => rfl, field FnState.accessLog fun _ => rfl, field FnState.winPar fun _ => rfl,
      field FnState.lock fun _ => rfl, field FnState.sqEnable fun _ => rfl, field FnState.cqEnable fun _ => rfl,
      field FnState.sqBaseLo fun _ => rfl, field FnState.sqBaseHi fun _ => rfl, field FnState.sqSize fun _ => rfl,
      field FnState.sqTail fun _ => rfl, field FnState.cqBaseLo fun _ => rfl, field FnState.cqBaseHi fun _ => rfl,
      field FnState.cqSize fun _ => rfl, field FnState.cqHead fun _ => rfl, field FnState.cqIrq fun _ => rfl⟩
    have herr : (parityFault s f off val).fns[f].errStatus = setBit s.fns[f].errStatus 5 true := field FnState.errStatus fun _ => rfl
    rw [herr, bit_setBit _ _ (by decide), if_pos rfl]
  case partly =>
    exact congrArg Host.Outcome.next ((writeRegister_of_partial hr off val hb).trans (dropWrite_eq s f off))
  case locked =>
    rintro rfl hp hl hh
    exact congrArg Host.Outcome.next ((writeRegister_of_locked hr hp hl hh).trans (lockedWrite_eq s f off))

/-! ## Doorbells -/

theorem doorbellRange_eq (s : State) (f : Fn) (off : BitVec 12) : doorbellRange s f off = modFn s f fun r => { r with
    errStatus := setBit r.errStatus 4 true, accessLog := flag true 31 ||| fld 4 28 ||| fld off.toNat 0 } := by
  unfold doorbellRange logAccess setErr
  rw [modFn_modFn]

section
variable {s : State} {f : Fn} {off : BitVec 12} {val : Dword} (hr : reachable s f = true) (hp : evenParity val = true)
include hr hp

/-- A sound doorbell of the submission ring (R393). -/
theorem exec_sqTailDoorbell_sound (ho : alias_ off = 0x1C) : exec (.sqTailDoorbell f off val 0xF) s = .next (writeTail s f val off) := by
  refine congrArg Host.Outcome.next ((if_pos ho).trans ?_)
  rw [writeRegister_of_sound hr hp (by rw [ho]; rfl) (by rw [ho]; exact Bool.and_false _) (by rw [ho]; simp [geometryLocked]), ho]
  rfl

/-- A sound doorbell of the completion ring (R398). -/
theorem exec_cqHeadDoorbell_sound (ho : alias_ off = 0x2C) : exec (.cqHeadDoorbell f off val 0xF []) s = .next (writeHead s f val off) := by
  have hecc : (if reachable s f then queueEcc s f [] else s) = s := by rw [hr]; rfl
  refine congrArg Host.Outcome.next ((if_pos ho).trans ?_)
  rw [hecc, writeRegister_of_sound hr hp (by rw [ho]; rfl) (by rw [ho]; exact Bool.and_false _) (by rw [ho]; simp [geometryLocked]), ho]
  rfl

end

theorem writeTail_of_enabled {s : State} {f : Fn} (hf : s.fns[f].fault = false) (he : s.fns[f].sqEnable = true) (val : Dword)
    (off : BitVec 12) : writeTail s f val off = if 2 ^ bits s.fns[f].sqSize 3 0 ≤ bits val 11 0 then doorbellRange s f off
      else modFn s f fun r => { r with sqTail := val &&& 0x80000FFF } := by
  unfold writeTail
  dsimp only
  rw [hf, he]
  rfl

theorem writeTail_of_disabled {s : State} {f : Fn} (he : s.fns[f].sqEnable = false) (val : Dword) (off : BitVec 12) :
    writeTail s f val off = s := by
  unfold writeTail
  dsimp only
  rw [he]
  exact if_pos (Bool.or_true _)

theorem writeHead_of_running {s : State} {f : Fn} (hf : s.fns[f].fault = false) (val : Dword) (off : BitVec 12) :
    writeHead s f val off = if 2 ^ bits s.fns[f].cqSize 3 0 ≤ bits val 11 0 then doorbellRange s f off
      else drain (modFn s f fun r => { r with cqHead := val &&& 0x80000FFF }) f := by
  unfold writeHead
  dsimp only
  rw [hf]
  rfl

/-! ## WIN.CONTROL -/

/-- What a window keeps of its completion side and its control while the submission ring is set (R389, R395). -/
def completionSide (r : FnState) : Bool × Bool × Bool × Dword × Dword := (r.lock, r.fault, r.cqEnable, r.cqSize, r.cqHead)

/-- What a window keeps of its submission side and its control while the completion ring is set (R389, R398). -/
def submissionSide (r : FnState) : Bool × Bool × Bool × BitVec 12 × Dword := (r.lock, r.fault, r.sqEnable, r.sqHead, r.sqTail)

theorem configError_eq (s : State) (f : Fn) (off : BitVec 12) : configError s f off = modFn s f fun r => { r with
    errStatus := setBit r.errStatus 3 true, accessLog := flag true 31 ||| fld 5 28 ||| fld off.toNat 0 } := by
  unfold configError logAccess setErr
  rw [modFn_modFn]

section
variable (s : State) (f : Fn) (on : Bool) (off : BitVec 12)

theorem setSqEnable_completionSide : completionSide (setSqEnable s f on off).fns[f] = completionSide s.fns[f] := by
  unfold setSqEnable
  dsimp only
  split
  · split
    · rw [modFn_same]; rfl
    · rw [configError_eq, modFn_same]; rfl
  · rw [modFn_same]; rfl

theorem setSqEnable_off : (setSqEnable s f false off).fns[f].sqEnable = false := by
  unfold setSqEnable
  exact congrArg FnState.sqEnable (modFn_same s f _)

theorem setSqEnable_rise (hold : s.fns[f].sqEnable = false) (hsize : sizeOk s.fns[f].sqSize = true) :
    (setSqEnable s f true off).fns[f].sqEnable = true ∧ (setSqEnable s f true off).fns[f].sqHead = 0 ∧
      (setSqEnable s f true off).fns[f].sqTail = 0 := by
  have hset : setSqEnable s f true off = modFn s f fun r => { r with sqEnable := true, sqHead := 0, sqTail := 0, sqStopped := false } := by
    unfold setSqEnable
    dsimp only
    rw [hold, hsize]
    rfl
  rw [hset, modFn_same]
  exact ⟨rfl, rfl, rfl⟩

theorem drain_registers : registers (drain s f).fns[f] = registers s.fns[f] := registers_of_windows (drain_windows s f) f

theorem setCqEnable_submissionSide : submissionSide (setCqEnable s f on off).fns[f] = submissionSide s.fns[f] := by
  unfold setCqEnable
  dsimp only
  split
  · split
    · refine (congrArg submissionSide (drain_registers _ f)).trans ?_
      rw [modFn_same]; rfl
    · rw [configError_eq, modFn_same]; rfl
  · rw [modFn_same]; rfl

theorem setCqEnable_off : (setCqEnable s f false off).fns[f].cqEnable = false := by
  unfold setCqEnable
  exact congrArg FnState.cqEnable (modFn_same s f _)

theorem setCqEnable_rise (hold : s.fns[f].cqEnable = false) (hsize : sizeOk s.fns[f].cqSize = true) :
    (setCqEnable s f true off).fns[f].cqEnable = true ∧ (setCqEnable s f true off).fns[f].cqHead = 0 := by
  have hset : setCqEnable s f true off =
      drain (modFn s f fun r => { r with cqEnable := true, cqIndex := 0, cqHead := 0, cqPhase := true }) f := by
    unfold setCqEnable
    dsimp only
    rw [hold, hsize]
    rfl
  have hregs := drain_registers (modFn s f fun r => { r with cqEnable := true, cqIndex := 0, cqHead := 0, cqPhase := true }) f
  rw [modFn_same] at hregs
  rw [hset]
  exact ⟨congrArg FnState.cqEnable hregs, congrArg FnState.cqHead hregs⟩

end

/-- A write of WIN.CONTROL before its enables take effect: Fault, `win_par` and `lock` (R389, R390). -/
def controlled (s : State) (f : Fn) (val : Dword) : State :=
  modFn (if s.fns[f].fault ∧ bits val 1 0 = 0 then modFn s f fun r => { r with fault := false } else s) f
    fun r => { r with winPar := bit val 30, lock := r.lock || bit val 31 }

theorem writeControl_eq (s : State) (f : Fn) (val : Dword) (off : BitVec 12) :
    writeControl s f val off = setCqEnable (setSqEnable (controlled s f val) f (bit val 0) off) f (bit val 1) off := rfl

/-- The registers of the function after `controlled`. -/
theorem controlled_regs (s : State) (f : Fn) (val : Dword) : (controlled s f val).fns[f] = { s.fns[f] with
    fault := s.fns[f].fault && !decide (bits val 1 0 = 0), winPar := bit val 30, lock := s.fns[f].lock || bit val 31 } := by
  unfold controlled
  rw [modFn_same]
  by_cases h : s.fns[f].fault = true ∧ bits val 1 0 = 0
  · rw [if_pos h, modFn_same, h.2]
    simp
  · rw [if_neg h]
    cases hf : s.fns[f].fault
    · simp [← hf]
    · simp [← hf, show ¬ bits val 1 0 = 0 from fun hb => h ⟨hf, hb⟩]

section
variable (s : State) (f : Fn) (val : Dword) (off : BitVec 12)

theorem writeControl_submissionSide :
    submissionSide (writeControl s f val off).fns[f] = submissionSide (setSqEnable (controlled s f val) f (bit val 0) off).fns[f] :=
  setCqEnable_submissionSide _ f _ off

theorem writeControl_sqEnable :
    (writeControl s f val off).fns[f].sqEnable = (setSqEnable (controlled s f val) f (bit val 0) off).fns[f].sqEnable :=
  congrArg (fun r => r.2.2.1) (writeControl_submissionSide s f val off)

theorem writeControl_control : (writeControl s f val off).fns[f].lock = (s.fns[f].lock || bit val 31) ∧
    (writeControl s f val off).fns[f].fault = (s.fns[f].fault && !decide (bits val 1 0 = 0)) := by
  have hsq := writeControl_submissionSide s f val off
  have hcq := setSqEnable_completionSide (controlled s f val) f (bit val 0) off
  have hlock := (congrArg (fun r => r.1) hsq).trans (congrArg (fun r => r.1) hcq)
  have hfault := (congrArg (fun r => r.2.1) hsq).trans (congrArg (fun r => r.2.1) hcq)
  rw [controlled_regs] at hlock hfault
  exact ⟨hlock, hfault⟩

theorem writeControl_sqRise (hbit : bit val 0 = true) (hold : s.fns[f].sqEnable = false) (hsize : sizeOk s.fns[f].sqSize = true) :
    (writeControl s f val off).fns[f].sqEnable = true ∧ (writeControl s f val off).fns[f].sqHead = 0 ∧
      (writeControl s f val off).fns[f].sqTail = 0 := by
  have hsq := writeControl_submissionSide s f val off
  have hset := setSqEnable_rise (controlled s f val) f off (by rw [controlled_regs]; exact hold) (by rw [controlled_regs]; exact hsize)
  rw [hbit] at hsq
  obtain ⟨hon, hhead, htail⟩ := hset
  exact ⟨(congrArg (fun r => r.2.2.1) hsq).trans hon, (congrArg (fun r => r.2.2.2.1) hsq).trans hhead,
    (congrArg (fun r => r.2.2.2.2) hsq).trans htail⟩

theorem writeControl_sqOff (hbit : bit val 0 = false) : (writeControl s f val off).fns[f].sqEnable = false := by
  rw [writeControl_sqEnable, hbit]
  exact setSqEnable_off _ f off

theorem writeControl_cqRise (hbit : bit val 1 = true) (hold : s.fns[f].cqEnable = false) (hsize : sizeOk s.fns[f].cqSize = true) :
    (writeControl s f val off).fns[f].cqEnable = true ∧ (writeControl s f val off).fns[f].cqHead = 0 := by
  have hside := setSqEnable_completionSide (controlled s f val) f (bit val 0) off
  rw [controlled_regs] at hside
  have hen := congrArg (fun r => r.2.2.1) hside
  have hsz := congrArg (fun r => r.2.2.2.1) hside
  rw [writeControl_eq, hbit]
  exact setCqEnable_rise _ f off (hen.trans hold) ((congrArg sizeOk hsz).trans hsize)

theorem writeControl_cqOff (hbit : bit val 1 = false) : (writeControl s f val off).fns[f].cqEnable = false := by
  rw [writeControl_eq, hbit]
  exact setCqEnable_off _ f off

end

theorem ringPending_of_disabled {s : State} {f : Fn} (h : s.fns[f].sqEnable = false) : ringPending s f = false := by
  unfold ringPending
  dsimp only
  rw [h]
  simp

theorem cqCanTake_of_disabled {s : State} {f : Fn} (h : s.fns[f].cqEnable = false) : cqCanTake s f = false := by
  unfold cqCanTake
  dsimp only
  rw [h]
  simp

theorem bit_of_bits_eq_zero {val : Dword} (h : bits val 1 0 = 0) : bit val 0 = false ∧ bit val 1 = false := by
  unfold bits at h
  constructor <;> simp only [bit, BitVec.getLsbD, Nat.testBit, Nat.shiftRight_eq_div_pow] <;> simp <;> omega

section
variable {s : State} {f : Fn} {off : BitVec 12} {val : Dword} (hr : reachable s f = true) (hp : evenParity val = true)
include hr hp

/-- A sound write of WIN.CONTROL to an unlocked function (R389). -/
theorem writeRegister_control (ho : alias_ off = 0x08) (hl : s.fns[f].lock = false) :
    writeRegister s f off val 0xF = writeControl s f val off := by
  rw [writeRegister_of_sound hr hp (by rw [ho]; rfl) (by rw [hl]; rfl) (by rw [ho]; simp [geometryLocked]), ho]
  rfl

theorem exec_errStatusClear_sound (ho : alias_ off = 0x40) : exec (.errStatusClear f off val 0xF) s =
    .next (modFn s f fun r => { r with errStatus := r.errStatus &&& ~~~ (BitVec.ofNat 9 val.toNat) }) := by
  refine congrArg Host.Outcome.next ((if_pos ho).trans ?_)
  rw [writeRegister_of_sound hr hp (by rw [ho]; rfl) (by rw [ho]; exact Bool.and_false _) (by rw [ho]; simp [geometryLocked]), ho]
  rfl

theorem exec_registerWrite_base (ho : alias_ off = 0x10) (hl : s.fns[f].lock = false) (he : s.fns[f].sqEnable = false) :
    exec (.registerWrite f off val 0xF) s = .next (modFn s f fun r => { r with sqBaseLo := val &&& 0xFFFFF001 }) := by
  refine congrArg Host.Outcome.next ?_
  rw [writeRegister_of_sound hr hp (by rw [ho]; rfl) (by rw [hl]; rfl) (by rw [ho]; unfold geometryLocked; rw [he]; simp), ho]
  rfl

end

/-- Settles O35: the doorbells by `writeTail` and `writeHead`, and each control by what `writeControl` does to its own ring. -/
theorem doorbellsAndControlsMoveTheRings : Obligations.DoorbellsAndControlsMoveTheRings := by
  refine ⟨fun s f off val hr hp hf => ⟨?tail, ?tailRange, ?tailOff, ?head, ?headRange⟩,
    fun s f off val hr hp => ⟨fun ho hl => ?control, exec_errStatusClear_sound hr hp, exec_registerWrite_base hr hp⟩⟩
  case tail =>
    intro ho he hlt
    rw [exec_sqTailDoorbell_sound hr hp ho, writeTail_of_enabled hf he, if_neg (Nat.not_le.mpr hlt)]
  case tailRange =>
    intro ho he hle
    rw [exec_sqTailDoorbell_sound hr hp ho, writeTail_of_enabled hf he, if_pos hle, doorbellRange_eq]
  case tailOff =>
    intro ho he
    rw [exec_sqTailDoorbell_sound hr hp ho, writeTail_of_disabled he]
  case head =>
    intro ho hlt
    rw [exec_cqHeadDoorbell_sound hr hp ho, writeHead_of_running hf, if_neg (Nat.not_le.mpr hlt)]
  case headRange =>
    intro ho hle
    rw [exec_cqHeadDoorbell_sound hr hp ho, writeHead_of_running hf, if_pos hle, doorbellRange_eq]
  case control =>
    have hw := writeRegister_control hr hp ho hl
    refine ⟨?sqOn, ?sqOff, ?cqOn, ?cqOff, ?locks, ?leaves⟩
    case sqOn =>
      intro hb he hsz
      exact ⟨_, congrArg Host.Outcome.next ((if_pos ⟨ho, hb, ne_true_of_eq_false he⟩).trans hw), writeControl_sqRise s f val off hb he hsz⟩
    case sqOff =>
      intro hb he
      have hoff := writeControl_sqOff s f val off hb
      exact ⟨_, congrArg Host.Outcome.next ((if_pos ⟨ho, by simp [hb], he⟩).trans hw), hoff, ringPending_of_disabled hoff⟩
    case cqOn =>
      intro hb he hsz
      have hecc : (if reachable s f then queueEcc s f [] else s) = s := by rw [hr]; rfl
      refine ⟨_, congrArg Host.Outcome.next ((if_pos ⟨ho, hb, ne_true_of_eq_false he⟩).trans ?_), writeControl_cqRise s f val off hb he hsz⟩
      rw [hecc, hw]
    case cqOff =>
      intro hb he
      have hoff := writeControl_cqOff s f val off hb
      exact ⟨_, congrArg Host.Outcome.next ((if_pos ⟨ho, by simp [hb], he⟩).trans hw), hoff, cqCanTake_of_disabled hoff⟩
    case locks =>
      intro hb
      refine ⟨_, congrArg Host.Outcome.next ((if_pos ⟨ho, hb⟩).trans hw), ?_⟩
      rw [(writeControl_control s f val off).1, hb, Bool.or_true]
    case leaves =>
      intro hb hf
      obtain ⟨h0, h1⟩ := bit_of_bits_eq_zero hb
      refine ⟨_, congrArg Host.Outcome.next ((if_pos ⟨ho, hb, hf⟩).trans hw), ?_, writeControl_sqOff s f val off h0,
        writeControl_cqOff s f val off h1⟩
      rw [(writeControl_control s f val off).2, hb]
      simp

end Sys2Proof.Machine
end

section
/-! SUPPORT. A word of the scratch window byte by byte, for the scratch views (R401 to R405). -/

namespace Sys2Proof.Machine

/-- Bytes stored under a mask: each enabled byte takes a function of its content, the others stand (R402). -/
def maskedWrites (m : Memory) (base : Nat) (be : BitVec 8) (d : Nat → Byte → Byte) (n : Nat) : Memory :=
  (List.range n).foldl (fun m i => if bit be i then memWrite m (base + i) (d i (memRead m (base + i))) else m) m

theorem maskedWrites_succ (m : Memory) (base : Nat) (be : BitVec 8) (d : Nat → Byte → Byte) (n : Nat) :
    maskedWrites m base be d (n + 1) =
      if bit be n then memWrite (maskedWrites m base be d n) (base + n) (d n (memRead (maskedWrites m base be d n) (base + n)))
      else maskedWrites m base be d n := by
  unfold maskedWrites
  rw [List.range_succ, List.foldl_append]
  rfl

theorem maskedWrites_wf {m : Memory} (w : memWf m = true) (base : Nat) (be : BitVec 8) (d : Nat → Byte → Byte) (n : Nat) :
    memWf (maskedWrites m base be d n) = true := by
  induction n with
  | zero => exact w
  | succ n ih =>
    rw [maskedWrites_succ]
    split
    · exact memWrite_wf _ _ ih
    · exact ih

/-- A byte outside the bytes stored reads as before. -/
theorem memRead_maskedWrites_outside {m : Memory} (w : memWf m = true) (base : Nat) (be : BitVec 8) (d : Nat → Byte → Byte) (n : Nat)
    {a : Nat} (h : a < base ∨ base + n ≤ a) : memRead (maskedWrites m base be d n) a = memRead m a := by
  induction n with
  | zero => rfl
  | succ n ih =>
    have hn := ih (by omega)
    rw [maskedWrites_succ]
    split
    · rw [memRead_memWrite _ _ _ (maskedWrites_wf w base be d n), if_neg (by omega), hn]
    · exact hn

/-- A byte within them takes its function of the content where its enable is set. -/
theorem memRead_maskedWrites_inside {m : Memory} (w : memWf m = true) (base : Nat) (be : BitVec 8) (d : Nat → Byte → Byte) {n k : Nat}
    (h : k < n) : memRead (maskedWrites m base be d n) (base + k) =
      if bit be k then d k (memRead m (base + k)) else memRead m (base + k) := by
  induction n with
  | zero => exact absurd h (Nat.not_lt_zero k)
  | succ n ih =>
    have hwf := maskedWrites_wf w base be d n
    rw [maskedWrites_succ]
    by_cases e : k = n
    · subst e
      have hold := memRead_maskedWrites_outside w base be d k (a := base + k) (Or.inr (Nat.le_refl _))
      split
      · rw [memRead_memWrite _ _ _ hwf, if_pos rfl, hold]
      · exact hold
    · have hk := ih (by omega)
      split
      · rw [memRead_memWrite _ _ _ hwf, if_neg (by omega), hk]
      · exact hk

theorem scratchWord_scratch_eq (s : State) (f : Fn) (off : BitVec 16) (data : BitVec 64) (be : BitVec 8) (g : Byte → Byte → Byte) :
    (scratchWord s f off data be g).scratch = maskedWrites s.scratch (16384 * f.val + bits off 13 3 * 8) be
      (fun i c => g c (BitVec.ofNat 8 (data.toNat / 2 ^ (8 * i)))) 8 := rfl

theorem scratchWrite_of_free {s : State} {f : Fn} (h : reachable s f = true) (off : BitVec 16) (data : BitVec 64) (be : BitVec 8)
    (g : Byte → Byte → Byte) : scratchWrite s f off data be false g = scratchWord s f off data be g := by
  unfold scratchWrite
  rw [h]
  rfl

theorem scratchWrite_of_collision {s : State} {f : Fn} (h : reachable s f = true) (off : BitVec 16) (data : BitVec 64) (be : BitVec 8)
    (g : Byte → Byte → Byte) : scratchWrite s f off data be true g = scratchCollision s f off := by
  unfold scratchWrite
  rw [h]
  rfl

/-- A collision is found before the word is read: a bit view reports no error of it (R405). -/
theorem exec_scratch_collides {s : State} {f : Fn} (h : reachable s f = true) (ecc : Ecc) (off : BitVec 16) (data : BitVec 64)
    (be : BitVec 8) (g : Byte → Byte → Byte) :
    scratchWrite (if reachable s f && !true then portBError s f ecc else s) f off data be true g = scratchCollision s f off := by
  have hport : (if reachable s f && !true then portBError s f ecc else s) = s := if_neg (by simp)
  rw [hport]
  exact scratchWrite_of_collision h _ _ _ _

theorem scratchCollision_registers (s : State) (f : Fn) (off : BitVec 16) : registers (scratchCollision s f off).fns[f] =
    registers { s.fns[f] with errStatus := setBit s.fns[f].errStatus 0 true, collisionCount := count32 s.fns[f].collisionCount } := by
  unfold scratchCollision
  dsimp only
  rw [registers_of_windows (sendRated_windows _ _ _ _) f]
  unfold setErr
  rw [modFn_modFn, modFn_same]

/-- The error of a word that port B reads leaves the function as reachable as it was (R404). -/
theorem reachable_setErr (s : State) (f : Fn) (k : Nat) : reachable (setErr s f k) f = reachable s f := by
  unfold reachable setErr
  rw [modFn_same]
  rfl

/-- One word of a scratch write is one masked write of the scratchpads (R401, R402). -/
theorem exec_scratch_of_free {s : State} {f : Fn} {off : BitVec 16} {data : BitVec 64} {be : BitVec 8} {i : Instr}
    {g : Byte → Byte → Byte} (hr : reachable s f = true)
    (hi : (i = .scratchWrite f off data be false ∧ viewOf off ∈ [0, 3] ∧ g = fun _ d => d) ∨
      (i = .scratchBitSet f off data be {} ∧ viewOf off = 1 ∧ g = fun c d => c ||| d) ∨
      (i = .scratchBitClear f off data be {} ∧ viewOf off = 2 ∧ g = fun c d => c &&& ~~~ d)) :
    exec i s = .next (scratchWord s f off data be g) := by
  have hport : (if reachable s f && !false then portBError s f .clean else s) = s := by rw [hr]; rfl
  rcases hi with ⟨rfl, hv, rfl⟩ | ⟨rfl, hv, rfl⟩ | ⟨rfl, hv, rfl⟩
  · refine congrArg Host.Outcome.next ((if_pos ?_).trans (scratchWrite_of_free hr _ _ _ _))
    simpa using hv
  · refine congrArg Host.Outcome.next ((if_pos hv).trans ?_)
    rw [hport]
    exact scratchWrite_of_free hr _ _ _ _
  · refine congrArg Host.Outcome.next ((if_pos hv).trans ?_)
    rw [hport]
    exact scratchWrite_of_free hr _ _ _ _

/-- A bit view whose word reads as an uncorrectable error takes all ones for the content, and reports it (R404). -/
theorem exec_scratch_of_uncorrectable {s : State} {f : Fn} {off : BitVec 16} {data : BitVec 64} {be : BitVec 8} {i : Instr}
    {g : Byte → Byte → Byte} (hr : reachable s f = true)
    (hi : (i = .scratchBitSet f off data be { ecc := .uncorrectable } ∧ viewOf off = 1 ∧ g = fun _ d => 0xFF ||| d) ∨
      (i = .scratchBitClear f off data be { ecc := .uncorrectable } ∧ viewOf off = 2 ∧ g = fun _ d => 0xFF &&& ~~~ d)) :
    exec i s = .next (scratchWord (setErr s f 8) f off data be g) := by
  have hport : (if reachable s f && !false then portBError s f .uncorrectable else s) = setErr s f 8 := by rw [hr]; rfl
  have hr8 := (reachable_setErr s f 8).trans hr
  rcases hi with ⟨rfl, hv, rfl⟩ | ⟨rfl, hv, rfl⟩
  · refine congrArg Host.Outcome.next ((if_pos hv).trans ?_)
    rw [hport]
    exact scratchWrite_of_free hr8 _ _ _ _
  · refine congrArg Host.Outcome.next ((if_pos hv).trans ?_)
    rw [hport]
    exact scratchWrite_of_free hr8 _ _ _ _

/-- What a masked write of a word leaves, where the state it starts from has the scratchpads of `s` and changed error bits alone. -/
theorem scratchWord_writes {s v : State} (w : memWf s.scratch = true) (hv : v = { s with fns := v.fns })
    (hfns : ∀ h : Fn, v.fns[h] = { s.fns[h] with errStatus := v.fns[h].errStatus })
    (f : Fn) (off : BitVec 16) (data : BitVec 64) (be : BitVec 8) (g : Byte → Byte → Byte) :
    scratchWord v f off data be g =
        { s with scratch := (scratchWord v f off data be g).scratch, fns := (scratchWord v f off data be g).fns } ∧
      (∀ h : Fn, (scratchWord v f off data be g).fns[h] = { s.fns[h] with errStatus := (scratchWord v f off data be g).fns[h].errStatus }) ∧
      (∀ k < 8, memRead (scratchWord v f off data be g).scratch (16384 * f.val + bits off 13 3 * 8 + k) =
        if bit be k then g (memRead s.scratch (16384 * f.val + bits off 13 3 * 8 + k)) (BitVec.ofNat 8 (data.toNat / 2 ^ (8 * k)))
        else memRead s.scratch (16384 * f.val + bits off 13 3 * 8 + k)) ∧
      (∀ a, a < 16384 * f.val + bits off 13 3 * 8 ∨ 16384 * f.val + bits off 13 3 * 8 + 8 ≤ a →
        memRead (scratchWord v f off data be g).scratch a = memRead s.scratch a) := by
  have hscr : v.scratch = s.scratch := by rw [hv]
  rw [scratchWord_scratch_eq, hscr]
  refine ⟨?_, hfns, fun k hk => memRead_maskedWrites_inside w _ _ _ hk, fun a ha => memRead_maskedWrites_outside w _ _ _ _ ha⟩
  unfold scratchWord
  rw [hv]
  rfl

/-- Settles O36: a free write is one masked write of the word (`scratchWord_writes`); a collision writes no scratchpad. -/
theorem scratchViewsWriteEnabledBytes : Obligations.ScratchViewsWriteEnabledBytes := by
  refine ⟨fun s f off data be i g hr w hi => ?free, fun s f off data be i hr hi => ?collision⟩
  case free =>
    by_cases hunc : i = .scratchBitSet f off data be { ecc := .uncorrectable } ∨ i = .scratchBitClear f off data be { ecc := .uncorrectable }
    · have hexec : exec i s = .next (scratchWord (setErr s f 8) f off data be g) := by
        refine exec_scratch_of_uncorrectable hr ?_
        rcases hi with ⟨rfl, -⟩ | ⟨rfl, -⟩ | ⟨rfl, -⟩ | h | h
        · simp at hunc
        · simp at hunc
        · simp at hunc
        · exact Or.inl h
        · exact Or.inr h
      have hfns (h : Fn) : (setErr s f 8).fns[h] = { s.fns[h] with errStatus := (setErr s f 8).fns[h].errStatus } := by
        by_cases e : h = f
        · subst e
          unfold setErr
          rw [modFn_same]
        · unfold setErr
          rw [modFn_other s e]
      obtain ⟨hrest, hwin, hin, hout⟩ := scratchWord_writes (v := setErr s f 8) w rfl hfns f off data be g
      refine ⟨_, hexec, hrest, hwin, fun _ => ?_, hin, hout⟩
      have herr : (setErr s f 8).fns[f].errStatus = setBit s.fns[f].errStatus 8 true := congrArg FnState.errStatus (modFn_same s f _)
      exact (congrArg (bit · 8) herr).trans ((bit_setBit _ _ (by decide)).trans (if_pos rfl))
    · have hexec : exec i s = .next (scratchWord s f off data be g) := by
        refine exec_scratch_of_free hr ?_
        rcases hi with h | h | h | ⟨rfl, -⟩ | ⟨rfl, -⟩
        · exact Or.inl h
        · exact Or.inr (Or.inl h)
        · exact Or.inr (Or.inr h)
        · exact absurd (Or.inl rfl) hunc
        · exact absurd (Or.inr rfl) hunc
      obtain ⟨hrest, hwin, hin, hout⟩ := scratchWord_writes (v := s) w rfl (fun _ => rfl) f off data be g
      exact ⟨_, hexec, hrest, hwin, fun h => absurd h hunc, hin, hout⟩
  case collision =>
    have hexec : exec i s = .next (scratchCollision s f off) := by
      rcases hi with ⟨rfl, hv⟩ | ⟨ecc, rfl, hv⟩ | ⟨ecc, rfl, hv⟩
      · refine congrArg Host.Outcome.next ((if_pos ?_).trans (scratchWrite_of_collision hr _ _ _ _))
        simpa using hv
      · exact congrArg Host.Outcome.next ((if_pos hv).trans (exec_scratch_collides hr ecc off data be _))
      · exact congrArg Host.Outcome.next ((if_pos hv).trans (exec_scratch_collides hr ecc off data be _))
    have hscr : (scratchCollision s f off).scratch = s.scratch := congrArg (fun v => v.2.1) (scratchCollision_kept s f off)
    have hregs := scratchCollision_registers s f off
    refine ⟨_, hexec, hscr, ?_, congrArg FnState.collisionCount hregs⟩
    have herr : (scratchCollision s f off).fns[f].errStatus = setBit s.fns[f].errStatus 0 true := congrArg FnState.errStatus hregs
    rw [herr, bit_setBit _ _ (by decide), if_pos rfl]

end Sys2Proof.Machine
end

section
/-! SUPPORT. The vectors' messages, merged events and progress entries (R382, R383, R413, R454). -/

namespace Sys2Proof.Machine

/-! ## Messages that wait for their vector -/

/-- A vector's message waits and nothing masks it (R382). -/
def messageDue (r : FnState) (v : Fin 8) : Bool := r.msixEnable && !r.msixFnMask && !bit r.msixMask v.val && bit r.msixPending v.val

/-- A vector's waiting message goes out where nothing masks it (R382). -/
def sendDue (f : Fn) (s : State) (v : Fin 8) : State :=
  if messageDue s.fns[f] v then sendMsix (modFn s f fun r => { r with msixPending := setBit r.msixPending v.val false }) f v else s

theorem sendPending_eq (s : State) (f : Fn) : sendPending s f = (List.finRange 8).foldl (sendDue f) s := rfl

theorem sendDue_of_not_due {s : State} {f : Fn} {v : Fin 8} (h : messageDue s.fns[f] v = false) : sendDue f s v = s :=
  if_neg (ne_true_of_eq_false h)

theorem foldl_sendDue_of_none {s : State} {f : Fn} {l : List (Fin 8)} (h : ∀ v ∈ l, messageDue s.fns[f] v = false) :
    l.foldl (sendDue f) s = s := by
  induction l with
  | nil => rfl
  | cons v l ih =>
    rw [List.foldl_cons, sendDue_of_not_due (h v (by simp))]
    exact ih fun w hw => h w (by simp [hw])

theorem sendPending_of_none {s : State} {f : Fn} (h : ∀ v, messageDue s.fns[f] v = false) : sendPending s f = s :=
  foldl_sendDue_of_none fun v _ => h v

/-- A message due goes out at once, and its vector's pending bit is clear. -/
theorem sendDue_of_due {s : State} {f : Fn} {v : Fin 8} (h : messageDue s.fns[f] v = true) : sendDue f s v =
    emit (modFn s f fun r => { r with msixPending := setBit r.msixPending v.val false })
      (.msix f v s.fns[f].msixAddr[v] s.fns[f].msixData[v] {}) := by
  refine (if_pos h).trans ?_
  unfold messageDue at h
  simp only [Bool.and_eq_true, Bool.not_eq_true'] at h
  obtain ⟨⟨⟨hen, hfm⟩, hm⟩, -⟩ := h
  unfold sendMsix
  dsimp only
  rw [modFn_same]
  dsimp only
  rw [hen, hfm, hm]
  rfl

theorem foldl_sendDue_of_one {s : State} {f : Fn} {v : Fin 8} {l : List (Fin 8)} (hl : l.Nodup) (hv : v ∈ l)
    (hdue : messageDue s.fns[f] v = true) (h : ∀ w, w ≠ v → messageDue s.fns[f] w = false) : l.foldl (sendDue f) s = sendDue f s v := by
  obtain ⟨before, after, rfl⟩ := List.append_of_mem hv
  have hbefore : ∀ w ∈ before, w ≠ v := by
    rintro w hw rfl
    exact (List.nodup_append.1 hl).2.2 w hw w (by simp) rfl
  rw [List.foldl_append, foldl_sendDue_of_none fun w hw => h w (hbefore w hw), List.foldl_cons]
  have hregs : (sendDue f s v).fns[f] = { s.fns[f] with msixPending := setBit s.fns[f].msixPending v.val false } := by
    rw [sendDue_of_due hdue]
    exact modFn_same _ _ _
  refine foldl_sendDue_of_none fun w hw => ?_
  rw [hregs]
  have hwv : w ≠ v := by
    rintro rfl
    exact (List.nodup_cons.1 (List.nodup_append.1 hl).2.1).1 hw
  have hold := h w hwv
  unfold messageDue at hold ⊢
  dsimp only
  rw [bit_setBit _ _ (by exact w.isLt), if_neg (fun e => hwv (Fin.ext e))]
  exact hold

theorem sendPending_of_one {s : State} {f : Fn} {v : Fin 8} (hdue : messageDue s.fns[f] v = true)
    (h : ∀ w, w ≠ v → messageDue s.fns[f] w = false) : sendPending s f = sendDue f s v :=
  foldl_sendDue_of_one (List.nodup_finRange 8) (List.mem_finRange v) hdue h

/-! ## A write of a vector's mask -/

theorem bar4Merge_whole (s : State) (f : Fn) (k : Nat) (val : Dword) : bar4Merge s f k val 0xF = val.toNat := by
  have hbytes : (List.range 4).map (fun i => if bit (0xF : BitVec 4) i then BitVec.ofNat 8 (val.toNat / 2 ^ (8 * i)) else bar4Byte s f (k + i)) =
      (List.range 4).map fun i => BitVec.ofNat 8 (val.toNat / 2 ^ (8 * i)) := by
    refine List.map_congr_left fun i hi => if_pos ?_
    have hlt := List.mem_range.1 hi
    interval_cases i <;> rfl
  unfold bar4Merge
  rw [hbytes, leNat_bytes]
  exact Nat.mod_eq_of_lt val.isLt

theorem bit_zero_eq (val : Dword) : (val.toNat % 2 == 1) = bit val 0 := by
  unfold bit
  rw [BitVec.getLsbD, Nat.testBit_zero]
  rfl

/-- A whole write of a vector's control dword sets its mask from bit 0 (R382). -/
theorem bar4Write_mask (s : State) (f : Fn) (v : Fin 8) (off : BitVec 32) (val : Dword) (ho : off.toNat / 4 * 4 = 16 * v.val + 12) :
    bar4Write s f off val 0xF = modFn s f fun r => { r with msixMask := setBit r.msixMask v.val (bit val 0) } := by
  have hlt : off.toNat / 4 * 4 < 128 := by omega
  have hdiv : off.toNat / 4 * 4 / 16 = v.val := by omega
  have hmod : off.toNat / 4 * 4 % 16 = 12 := by omega
  unfold bar4Write
  dsimp only
  rw [dif_pos hlt, bar4Merge_whole, hmod, bit_zero_eq]
  change (modFn s f fun r => { r with msixMask := setBit r.msixMask (off.toNat / 4 * 4 / 16) (bit val 0) }) = _
  rw [hdiv]

theorem inBar4_of_table {s : State} {f : Fn} (h : reachable s f = true) {off : BitVec 32} (ho : off.toNat < 128) :
    inBar4 s f off = true := by
  have hext : off.toNat < barExtent s f bar4 := by
    unfold barExtent bar4
    split <;> dsimp only <;> omega
  unfold inBar4
  rw [h]
  exact decide_eq_true hext

theorem msixControl_none (s : State) (f : Fn) : msixControl s f none none = s := ite_eq_right_iff.mpr fun _ => modFn_of_fixed rfl

/-- MSIX_VECTOR_UNMASK with a whole write of a vector's control dword (R382). -/
theorem exec_vectorControl {s : State} {f : Fn} (v : Fin 8) (off : BitVec 32) (val : Dword) (hr : reachable s f = true)
    (ho : off.toNat / 4 * 4 = 16 * v.val + 12) : exec (.msixVectorUnmask f off val 0xF none none) s =
      .next (sendPending (modFn s f fun r => { r with msixMask := setBit r.msixMask v.val (bit val 0) }) f) := by
  have hin := inBar4_of_table hr (off := off) (by omega)
  refine congrArg Host.Outcome.next ?_
  rw [hin, msixControl_none]
  exact congrArg (sendPending · f) (bar4Write_mask s f v off val ho)

theorem messageDue_setMask (r : FnState) (v w : Fin 8) (m : Bool) :
    messageDue { r with msixMask := setBit r.msixMask v.val m } w =
      (r.msixEnable && !r.msixFnMask && !(if w = v then m else bit r.msixMask w.val) && bit r.msixPending w.val) := by
  unfold messageDue
  dsimp only
  rw [bit_setBit _ _ (by exact w.isLt)]
  simp only [Fin.ext_iff]

/-- Settles O37: the vectors by which messages are due after the write, the rest by the branch of each row. -/
theorem messagesAndMergedEventsComeInTime : Obligations.MessagesAndMergedEventsComeInTime := by
  refine ⟨fun s f => ⟨fun v off val hr ho hen hfm hothers => ⟨?unmask, ?mask⟩, ?control, ?holdoff⟩,
    fun s => ⟨fun key r hfind hlate hdue => ?interval, ?progress⟩⟩
  case unmask =>
    intro hb hp
    have hother : ∀ w, w ≠ v → messageDue (modFn s f fun r => { r with msixMask := setBit r.msixMask v.val (bit val 0) }).fns[f] w = false := by
      intro w hw
      rw [modFn_same, messageDue_setMask, if_neg hw]
      cases hpend : bit s.fns[f].msixPending w.val
      · simp
      · rw [hothers w hw hpend]
        simp
    have hdue : messageDue (modFn s f fun r => { r with msixMask := setBit r.msixMask v.val (bit val 0) }).fns[f] v = true := by
      rw [modFn_same, messageDue_setMask, if_pos rfl, hen, hfm, hb, hp]
      rfl
    refine ⟨_, exec_vectorControl v off val hr ho, ?_⟩
    rw [sendPending_of_one hdue hother, sendDue_of_due hdue, modFn_modFn, modFn_same, hb]
    refine ⟨congrArg FnState.msixPending (modFn_same s f _), congrArg FnState.msixMask (modFn_same s f _), rfl⟩
  case mask =>
    intro hb
    rw [exec_vectorControl v off val hr ho, hb]
    refine congrArg Host.Outcome.next (sendPending_of_none fun w => ?_)
    rw [modFn_same, messageDue_setMask]
    cases hpend : bit s.fns[f].msixPending w.val
    · simp
    · by_cases hw : w = v
      · rw [if_pos hw]
        simp
      · rw [if_neg hw, hothers w hw hpend]
        simp
  case control =>
    intro enable fnMask off val hlink hcfg hex hp
    have hset : msixControl s f (some enable) (some fnMask) = modFn s f fun r => { r with msixEnable := enable, msixFnMask := fnMask } := by
      unfold msixControl
      rw [hlink, hcfg, hex]
      rfl
    have hno : (inBar4 s f off && (0 : BitVec 4) != 0) = false := Bool.and_false _
    refine congrArg Host.Outcome.next ?_
    rw [if_neg (ne_true_of_eq_false hno), hset]
    refine sendPending_of_none fun w => ?_
    rw [modFn_same]
    unfold messageDue
    dsimp only
    rw [hp]
    simp [bit]
  case holdoff =>
    exact fun event hn hirq hpassed => congrArg Host.Outcome.next (if_pos ⟨hn, hirq, hpassed⟩)
  case interval =>
    have hdue' : (!(past r.since s.tb.now || r.since == s.tb.now) || decide ((s.tb.now - r.since).toNat < r.interval.toNat)) = false := by
      have hpast : (past r.since s.tb.now || r.since == s.tb.now) = true := by
        unfold later at hlate
        cases hpast : past r.since s.tb.now
        · simpa [hpast] using hlate
        · rfl
      rw [hpast, decide_eq_false (Nat.not_lt.mpr hdue)]
      rfl
    refine ⟨fun hc => ?_, fun hc => ?_⟩
    · refine congrArg Host.Outcome.next ?_
      rw [hfind]
      exact (if_neg (ne_true_of_eq_false hdue')).trans (if_pos hc)
    · refine congrArg Host.Outcome.next ?_
      rw [hfind]
      exact (if_neg (ne_true_of_eq_false hdue')).trans (if_neg hc)
  case progress =>
    intro f tag done o ho hprog hruns hpassed
    refine congrArg Host.Outcome.next ?_
    rw [ho]
    exact if_pos ⟨hprog, hruns, hpassed⟩

end Sys2Proof.Machine
end

section
/-! SUPPORT. `power_state`: its row, the watch of a Dikewatch request and the timeout of a transition to Run (R444, R505, R511). -/

namespace Sys2Proof.Machine

open Sys2Proof.Claims

theorem told_dike {s t : State} (h : told s t) : t.dike = s.dike := by
  rw [h.1]

/-- Each of the four rows runs the `power_state` in hand whose target is its own (R444). -/
theorem exec_powerState {s : State} {t : Taken} {i : Instr} (h : InHand s t 0x68)
    (hi : (i, powerTarget t.e) ∈ [(Instr.powerStateDormant, PowerSt.dormant), (.powerStateDikewatch, .dikewatch),
      (.powerStateReady, .ready), (.powerStateRun, .run)]) : exec i s = .next (powerCommand (freed s) t) := by
  have hrow (d : PowerSt) (hd : powerTarget t.e = d) :
      withCmd s (fun t => isOp 0x68 t && powerTarget t.e == d) powerCommand = powerCommand (freed s) t := by
    refine withCmd_at h.1 ?_
    rw [isOp_of h.2, hd]
    exact beq_self_eq_true d
  simp only [List.mem_cons, List.not_mem_nil, or_false, Prod.mk.injEq] at hi
  rcases hi with ⟨rfl, hd⟩ | ⟨rfl, hd⟩ | ⟨rfl, hd⟩ | ⟨rfl, hd⟩
  · exact congrArg Host.Outcome.next (hrow .dormant hd)
  · exact congrArg Host.Outcome.next (hrow .dikewatch hd)
  · exact congrArg Host.Outcome.next (hrow .ready hd)
  · exact congrArg Host.Outcome.next (hrow .run hd)

section
variable {s : State} {t : Taken} (hf : powerFault s t.e = none)
include hf

theorem powerCommand_of_busy (hb : captureBars s = true) (hd : powerTarget t.e ≠ .run) :
    powerCommand s t = complete s t .busy := by
  unfold powerCommand
  rw [hf, hb]
  exact if_pos (by simpa using hd)

theorem powerCommand_of_free (hb : captureBars s = false ∨ powerTarget t.e = .run) (hn : s.power.target = none) :
    powerCommand s t = if s.power.st = powerTarget t.e then completeAt s t .ok (powerPay s.power.st) else beginTransition s t := by
  have hbar : (captureBars s && powerTarget t.e != .run) = false := by
    rcases hb with h | h <;> rw [h]
    · rfl
    · exact Bool.and_false _
  unfold powerCommand
  rw [hf, hn]
  exact if_neg (ne_true_of_eq_false hbar)

end

theorem setWatch_of_dikewatch {s : State} {e : SqEntry} (h : powerTarget e = .dikewatch) :
    (setWatch s e).dike.watch = watchOf e ∧ (setWatch s e).dike.period = bits (dw e 12) 23 0 + 1 := by
  have hset : setWatch s e = { s with dike := {
      stall := wakeStall s (watchTeams e), teams := watchTeams e, watch := watchOf e, period := bits (dw e 12) 23 0 + 1
      corrupted := s.dike.corrupted } } := if_neg fun hne => hne h
  rw [hset]
  exact ⟨rfl, rfl⟩

theorem setWatch_tb (s : State) (e : SqEntry) : (setWatch s e).tb = s.tb := ite_same (g := State.tb) rfl rfl

/-- The transition is timed from its command: what prepares it leaves system time (R444). -/
theorem beginTransition_eq (s : State) (t : Taken) : beginTransition s t =
    withTarget (leaveDikewatch (setWatch (handOff s t .power 0) t.e) (powerTarget t.e))
      { dest := powerTarget t.e, when := s.tb.now, tag := tagOf t.e, cmd := true } := by
  have htb := (told_tb (leaveDikewatch_told (setWatch (handOff s t .power 0) t.e) (powerTarget t.e)) :).trans (setWatch_tb _ _)
  have hnow : (leaveDikewatch (setWatch (handOff s t .power 0) t.e) (powerTarget t.e)).tb.now = s.tb.now := by rw [htb]; rfl
  unfold beginTransition withTarget
  dsimp only
  rw [hnow]

theorem exec_powerStateTimeout {s : State} {p : PowerTarget} (h : s.power.target = some p) (hd : p.dest = .run) (hc : p.cmd = true)
    (hp : passed s.tb.now p.when 400000 = true) : exec .powerStateTimeout s =
      .next (completeTag { s with power := { s.power with target := some { p with cmd := false } } } 0 p.tag .timeout {}) := by
  refine congrArg Host.Outcome.next ?_
  rw [h]
  refine if_neg ?_
  simp [hd, hc, hp]

/-- Settles O27: the four rows are one command (`exec_powerState`), which is busy, ends at once or begins the transition. -/
theorem powerStateMovesTheDevice : Obligations.PowerStateMovesTheDevice := by
  intro s t i h hf hi
  have hexec := exec_powerState h hi
  have hfreed : powerFault (freed s) t.e = none := hf
  refine ⟨fun hb hd => ?busy, fun hb hn => ⟨fun hst => ?present, fun hst => ?start⟩, fun p hp hd hc hlate => ?timeout⟩
  case busy =>
    rw [hexec, powerCommand_of_busy hfreed hb hd]
  case present =>
    rw [hexec, powerCommand_of_free hfreed hb hn]
    exact congrArg Host.Outcome.next (if_pos hst)
  case start =>
    have hbegin := hexec.trans (congrArg Host.Outcome.next ((powerCommand_of_free hfreed hb hn).trans (if_neg hst)))
    rw [beginTransition_eq] at hbegin
    refine ⟨hbegin, _, hbegin, rfl, fun hdike => ?_⟩
    have htold : (leaveDikewatch (setWatch (handOff (freed s) t .power 0) t.e) (powerTarget t.e)).dike =
        (setWatch (handOff (freed s) t .power 0) t.e).dike := told_dike (leaveDikewatch_told _ _)
    unfold withTarget
    dsimp only
    rw [htold]
    exact setWatch_of_dikewatch hdike
  case timeout =>
    have hrow := exec_powerStateTimeout hp hd hc hlate
    exact ⟨hrow, _, hrow, told_power (told_of_answersOnly (completeTag_answers _ 0 p.tag .timeout {}))⟩

end Sys2Proof.Machine
end

section
/-! SUPPORT. The panel's settings as `panel_config` writes them (R445, R519). -/

namespace Sys2Proof.Machine

open Sys2Proof.Claims

/-- `panel_config` without `set_leds` and with it run the same command (R445). -/
theorem exec_panelConfig {s : State} {t : Taken} {i : Instr} (h : InHand s t 0x69)
    (hi : i = if bit (dw t.e 6) 1 then .panelConfigLeds else .panelConfigKeys) : exec i s = .next (panelCommand (freed s) t) := by
  cases hb : bit (dw t.e 6) 1
  · rw [hb] at hi
    subst hi
    exact congrArg Host.Outcome.next (withCmd_at h.1 (by rw [isOp_of h.2, hb]; rfl))
  · rw [hb] at hi
    subst hi
    exact congrArg Host.Outcome.next (withCmd_at h.1 (by rw [isOp_of h.2, hb]; rfl))

theorem panelFault_of_sound {s : State} {e : SqEntry}
    (h : bit (dw e 6) 0 = true → ∀ k < 8, panelAction e k ≤ 4 ∧ s.stalls[panelStall e k].st ≠ .absent) : panelFault s e = none := by
  unfold panelFault
  cases hb : bit (dw e 6) 0
  · rfl
  · have hkeys := h hb
    have haction : (List.range 8).find? (fun k => decide (4 < panelAction e k)) = none := by
      refine List.find?_eq_none.2 fun k hk => ?_
      simpa using (hkeys k (List.mem_range.1 hk)).1
    have hstall : (List.range 8).find? (fun k => s.stalls[panelStall e k].st == .absent) = none := by
      refine List.find?_eq_none.2 fun k hk => ?_
      simpa using (hkeys k (List.mem_range.1 hk)).2
    rw [haction, hstall]
    rfl

theorem panelAction_lt (e : SqEntry) (k : Nat) : panelAction e k < 2 ^ 4 := by
  unfold panelAction bits
  rw [show 4 * k + 3 - 4 * k + 1 = 4 by omega]
  exact Nat.mod_lt _ (by decide)

/-- The panel with the keys' settings of the entry where it asks for them (R445). -/
def keysSet (p : Panel) (e : SqEntry) : Panel := if bit (dw e 6) 0 then { p with
  action := Vector.ofFn fun k => BitVec.ofNat 4 (panelAction e k.val)
  keyStall := Vector.ofFn fun k => BitVec.ofNat 6 (panelStall e k.val).val } else p

/-- The LEDs' mask of the entry (R445). -/
def ledMask (e : SqEntry) : BitVec 8 := BitVec.ofNat 8 (bits (dw e 5) 15 8)

/-- The panel with the LEDs of the entry where it asks for them (R445, R519). -/
def ledsSet (p : Panel) (e : SqEntry) : Panel := if bit (dw e 6) 1 then { p with
  led := (p.led &&& ~~~ ledMask e) ||| (BitVec.ofNat 8 (bits (dw e 5) 7 0) &&& ledMask e)
  blink := BitVec.ofNat 8 (bits (dw e 5) 23 16) } else p

theorem applyPanel_eq (s : State) (e : SqEntry) : applyPanel s e = { s with panel := ledsSet (keysSet s.panel e) e } := by
  unfold applyPanel ledsSet keysSet
  dsimp only
  split <;> split <;> rfl

theorem keysSet_leds (p : Panel) (e : SqEntry) : (keysSet p e).led = p.led ∧ (keysSet p e).blink = p.blink := by
  unfold keysSet
  split <;> exact ⟨rfl, rfl⟩

theorem ledsSet_keys (p : Panel) (e : SqEntry) : (ledsSet p e).action = p.action ∧ (ledsSet p e).keyStall = p.keyStall := by
  unfold ledsSet
  split <;> exact ⟨rfl, rfl⟩

theorem keysSet_of_asked {e : SqEntry} (h : bit (dw e 6) 0 = true) (p : Panel) (k : Fin 8) :
    ((keysSet p e).action[k]).toNat = panelAction e k.val ∧ ((keysSet p e).keyStall[k]).toNat = (panelStall e k.val).val := by
  unfold keysSet
  rw [if_pos h]
  dsimp only
  refine ⟨?_, ?_⟩
  · simpa using panelAction_lt e k.val
  · simp

theorem bit_ofNat {n : Nat} (x : Nat) {i : Nat} (h : i < n) : bit (BitVec.ofNat n x) i = x.testBit i := by
  unfold bit
  rw [BitVec.getLsbD_ofNat]
  simp [h]

/-- A bit of a masked write: the new one where the mask is set, else the old one. -/
theorem bit_masked {n : Nat} (old new m : BitVec n) {i : Nat} (h : i < n) :
    bit ((old &&& ~~~ m) ||| (new &&& m)) i = if bit m i then bit new i else bit old i := by
  unfold bit
  rw [BitVec.getLsbD_or, BitVec.getLsbD_and, BitVec.getLsbD_and, BitVec.getLsbD_not, decide_eq_true h]
  cases m.getLsbD i <;> simp

theorem ledsSet_of_asked {e : SqEntry} (h : bit (dw e 6) 1 = true) (p : Panel) :
    (ledsSet p e).blink = BitVec.ofNat 8 (bits (dw e 5) 23 16) ∧ ∀ k : Fin 8, bit (ledsSet p e).led k.val =
      if (bits (dw e 5) 15 8).testBit k.val then (bits (dw e 5) 7 0).testBit k.val else bit p.led k.val := by
  unfold ledsSet
  rw [if_pos h]
  refine ⟨rfl, fun k => ?_⟩
  dsimp only
  rw [bit_masked _ _ _ k.isLt, ledMask, bit_ofNat _ k.isLt, bit_ofNat _ k.isLt]

/-- Settles O28: the panel after the command is `ledsSet` of `keysSet`, and each press takes one branch of its row. -/
theorem panelSettingsAndKeysAct : Obligations.PanelSettingsAndKeysAct := by
  refine ⟨fun s t h hres hkeys i hi => ?settings, fun s k t => ⟨?acts, ?held, ?nothing, ?ignored, rfl, rfl⟩⟩
  case settings =>
    have hfault : (reservedBit t.e panelBits).or (panelFault (freed s) t.e) = none := by
      rw [hres]
      exact panelFault_of_sound hkeys
    have hcmd : panelCommand (freed s) t = complete (applyPanel (freed s) t.e) t .ok := by
      unfold panelCommand
      rw [hfault]
    obtain ⟨haction, hstall⟩ := ledsSet_keys (keysSet s.panel t.e) t.e
    obtain ⟨hled, hblink⟩ := keysSet_leds s.panel t.e
    refine ⟨_, (exec_panelConfig h hi).trans (congrArg Host.Outcome.next hcmd), ?_⟩
    rw [applyPanel_eq]
    refine ⟨rfl, fun hb => ?noKeys, fun hb k => ?keys, fun hb => ?noLeds, fun hb => ?leds⟩
    case noKeys =>
      have hsame : keysSet s.panel t.e = s.panel := if_neg (ne_true_of_eq_false hb)
      exact ⟨haction.trans (by rw [hsame]), hstall.trans (by rw [hsame])⟩
    case keys =>
      obtain ⟨ha, hs⟩ := keysSet_of_asked hb s.panel k
      exact ⟨(congrArg (fun v => (v[k]).toNat) haction).trans ha, (congrArg (fun v => (v[k]).toNat) hstall).trans hs⟩
    case noLeds =>
      have hsame : ledsSet (keysSet s.panel t.e) t.e = keysSet s.panel t.e := if_neg (ne_true_of_eq_false hb)
      exact ⟨(congrArg Panel.led hsame).trans hled, (congrArg Panel.blink hsame).trans hblink⟩
    case leds =>
      obtain ⟨hb1, hb2⟩ := ledsSet_of_asked hb (keysSet s.panel t.e)
      refine ⟨hb1, fun k => (hb2 k).trans ?_⟩
      rw [hled]
  case acts =>
    intro hr hd hst
    refine congrArg Host.Outcome.next ((if_neg ?_).trans (if_neg hst))
    rw [hr, hd]
    exact Bool.false_ne_true
  case held =>
    intro hr hd hst
    have hrow : exec (.keyPress k t) s =
        .next (holdPress { s with panel := { s.panel with down := setBit s.panel.down k.val true } } 0 k.val t) := by
      refine congrArg Host.Outcome.next ((if_neg ?_).trans (if_pos hst))
      rw [hr, hd]
      exact Bool.false_ne_true
    exact ⟨hrow, _, hrow, rfl, rfl⟩
  case nothing =>
    intro hr hd hst ha
    refine congrArg Host.Outcome.next ((if_neg ?_).trans ((if_neg hst).trans (if_pos ha)))
    rw [hr, hd]
    exact Bool.false_ne_true
  case ignored =>
    intro h
    refine congrArg Host.Outcome.next (if_pos ?_)
    rcases h with h | h <;> rw [h]
    · rfl
    · exact Bool.or_true _

end Sys2Proof.Machine
end

section
/-! SUPPORT. `firmware_update` and `lifecycle`: their start, the points of their flash work, and the flash's oldest operation (R446, R447, R537,
R546, R551). -/

namespace Sys2Proof.Machine

open Sys2Proof.Claims

/-! ## The commands -/

section
variable {s : State} {t : Taken}

theorem exec_firmwareUpdate_busy (h : InHand s t 0x70) (hb : s.flash.upd.isSome = true ∨ s.flash.life.isSome = true) :
    exec .firmwareUpdate s = .next (complete (freed s) t .busy) :=
  congrArg Host.Outcome.next ((withCmd_inHand h).trans (if_pos hb))

/-- A sound `firmware_update` that finds no flash work starts, or is aborted after a thermal trip (R446, R529). -/
theorem exec_firmwareUpdate_free (h : InHand s t 0x70) (hu : s.flash.upd = none) (hl : s.flash.life = none) (hf : updateFault t.e = none) :
    exec .firmwareUpdate s = .next (if s.flash.noMore then complete (freed s) t .aborted
      else issueRead (setUpd (handOff (freed s) t .update (dw t.e 4).toNat) (some {
          tag := tagOf t.e, slotB := !s.boot.slotB && !s.boot.romMonitor, activate := bit (dw t.e 5) 0 || s.boot.romMonitor }))
        t.fn (tagOf t.e) .firmware (wide t.e 2) (dw t.e 4).toNat) := by
  have hfree : ¬ ((freed s).flash.upd.isSome = true ∨ (freed s).flash.life.isSome = true) := by
    change ¬ (s.flash.upd.isSome = true ∨ s.flash.life.isSome = true)
    rw [hu, hl]
    simp
  refine congrArg Host.Outcome.next ((withCmd_inHand h).trans ((if_neg hfree).trans ?_))
  rw [hf]
  rfl

theorem exec_lifecycle_free (h : InHand s t 0x71) (hf : lifeFault s t.e = none) (hc : ∀ n, capturing s n = false) (hu : s.flash.upd = none)
    (hl : s.flash.life = none) : exec .lifecycle s =
      .next (issueRead (setLife (handOff (freed s) t .lifecycle 0) (some {
          tag := tagOf t.e, fromSt := lifecycleOf s, target := BitVec.ofNat 3 (bits (dw t.e 2) 2 0) }))
        t.fn (tagOf t.e) .blob (wide t.e 3) (dw t.e 5).toNat) := by
  have hfault : lifeFault (freed s) t.e = none := hf
  have hcap : (allStalls.any fun n => capturing (freed s) n) = false := List.any_eq_false.2 fun n _ => ne_true_of_eq_false (hc n)
  have hfree : ¬ ((allStalls.any fun n => capturing (freed s) n) = true ∨ (freed s).flash.upd.isSome = true ∨
      (freed s).flash.life.isSome = true) := by
    rw [hcap]
    change ¬ (false = true ∨ s.flash.upd.isSome = true ∨ s.flash.life.isSome = true)
    rw [hu, hl]
    simp
  refine congrArg Host.Outcome.next ((withCmd_inHand h).trans ?_)
  rw [hfault]
  exact if_neg hfree

end

/-- Settles O29: each clause is one branch of `exec_firmwareUpdate_free` or of the lifecycle's row. -/
theorem flashCommandsStartTheirJobs : Obligations.FlashCommandsStartTheirJobs := by
  intro s t
  refine ⟨exec_firmwareUpdate_busy, fun h hu hl hf hn => ?starts, fun h hu hl hf hn => ?aborted, exec_lifecycle_free⟩
  case starts =>
    rw [exec_firmwareUpdate_free h hu hl hf, if_neg (ne_true_of_eq_false hn)]
  case aborted =>
    rw [exec_firmwareUpdate_free h hu hl hf, if_pos hn]

/-! ## The end of an update -/

/-- The end of an update's flash work, when its image has come and no entry of it waits (R546). -/
theorem exec_firmwareUpdateDone {s : State} {u : UpdJob} (h : s.flash.upd = some u) (hr : u.readOk = true) (hc : updateCommits s = false) :
    (∀ signed, exec (.firmwareUpdateDone (.whole signed)) s = .next (verifyUpdate s u signed)) ∧
      exec (.firmwareUpdateDone .mismatch) s = .next (failUpdate s u .dataError {}) ∧
      exec (.firmwareUpdateDone .timeout) s = .next (failUpdate s u .timeout {}) := by
  have hopen : ¬ (!u.readOk || updateCommits s) = true := by
    rw [hr, hc]
    exact Bool.false_ne_true
  refine ⟨fun signed => ?_, ?_, ?_⟩
  all_goals
    refine congrArg Host.Outcome.next ?_
    rw [h]
    exact if_neg hopen

theorem verifyUpdate_of_sound {s : State} {u : UpdJob} (ha : imageAllowed s u.image = true) (hact : u.activate = false) :
    verifyUpdate s u true =
      completeJob (setUpd (setSlot s u.slotB { u.image with valid := true }) none) u.ended u.tag .ok (updatePay u) := by
  unfold verifyUpdate
  rw [ha, hact]
  rfl

theorem verifyUpdate_of_unsound {s : State} {u : UpdJob} {signed : Bool} (h : signed = false ∨ imageAllowed s u.image = false) :
    verifyUpdate s u signed = failUpdate s u .checkFailed {} := by
  refine if_pos ?_
  rcases h with h | h <;> rw [h]
  · rfl
  · exact Bool.or_true _

/-! ## The points of a lifecycle transition -/

theorem exec_lifecycleDone {s : State} {j : LifeJob} (h : s.flash.life = some j) :
    (∀ ok ecc, exec (.lifecycleDone (.credential ok ecc)) s = .next (credential s j ok ecc)) ∧
      exec (.lifecycleDone .programmed) s = .next (programSlot s j) ∧ exec (.lifecycleDone .finished) s = .next (finishLife s j) := by
  refine ⟨fun ok ecc => ?_, ?_, ?_⟩
  all_goals
    refine congrArg Host.Outcome.next ?_
    rw [h]

/-- The credential's verdict while nothing else of the job has come (R550, R551). -/
theorem credential_of_first {s : State} {j : LifeJob} (hb : blobReading s = false) (hp : j.passed = false) (hw : s.sec.wiping = none)
    (ok : Bool) (ecc : Ecc) : credential s j ok ecc =
      if ecc = .uncorrectable then endLife (readSecure s ecc) j .checkFailed {}
      else if !ok then endLife (noteEcc s 8 ecc) j .checkFailed {}
      else { setLife (noteEcc s 8 ecc) (some { j with passed := true }) with
        sec := { (noteEcc s 8 ecc).sec with wiping := some 0, keys := false, retried := false } } := by
  unfold credential
  rw [hb, hp, hw]
  rfl

/-- The lifecycle state that a job's slot gives, with the owner key of the first Deployed (R548, R551). -/
theorem programSlot_of_wiped {s : State} {j : LifeJob} (hw : j.wiped = true) (hp : j.programmed = false) : programSlot s j =
    setLife { s with sec := { s.sec with
        slots := s.sec.slots ++ [j.target], ownerHash := if j.fromSt = 1 ∧ j.target = 2 then j.owner else s.sec.ownerHash } }
      (some { j with programmed := true }) := by
  unfold programSlot
  rw [hw, hp]
  rfl

theorem programSlot_of_unwiped {s : State} {j : LifeJob} (hw : j.wiped = false) : programSlot s j = s := by
  refine if_pos ?_
  rw [hw]
  rfl

theorem queueJournal_of_more {s : State} (h : s.flash.noMore = false) (kind : BitVec 8) (detail : Dword) (w : Work) :
    queueJournal s kind detail w =
      { s with flash := { s.flash with ops := s.flash.ops ++ [{ entry := some (journalNow s kind detail), work := w }] } } :=
  if_neg (ne_true_of_eq_false h)

/-- The state with the chain of a finished transition in its certificate slot (R551). -/
def certStored (s : State) (j : LifeJob) : State := if h : j.certSlot.toNat < 4 then
  (if j.chain = [] then s else { s with flash := { s.flash with certs := s.flash.certs.set j.certSlot.toNat j.chain } }) else s

theorem certStored_flash (s : State) (j : LifeJob) : (certStored s j).flash.ops = s.flash.ops ∧
    (certStored s j).flash.noMore = s.flash.noMore := by
  unfold certStored
  split
  · split <;> exact ⟨rfl, rfl⟩
  · exact ⟨rfl, rfl⟩

/-- The end of a transition: the keys, and the entry of kind 8 for the journal (R551). -/
theorem finishLife_of_programmed {s : State} {j : LifeJob} (hp : j.programmed = true) (hc : lifeCommits s = false) (hw : s.sec.wiping = none) :
    finishLife s j = queueJournal { certStored s j with sec := { (certStored s j).sec with keys := !j.tampered } } 8
      (fld j.fromSt.toNat 0 ||| fld j.target.toNat 8) .lifecycle := by
  unfold finishLife
  rw [hp, hc, hw]
  rfl

/-! ## The flash's oldest operation -/

theorem exec_flashWriteDone {s : State} {o : FlashOp} {rest : List FlashOp} (h : s.flash.ops = o :: rest) (hr : flashReachable s = true) :
    exec (.flashWriteDone true) s =
      .next (flashWaiter (programmed { s with flash := { s.flash with ops := rest } } o true) o.work true) := by
  refine congrArg Host.Outcome.next ?_
  rw [h]
  dsimp only
  rw [hr]
  rfl

theorem clearRecord_flash (s : State) (e : JEntry) : (clearRecord s e).flash = s.flash := ite_same (g := State.flash) rfl rfl

/-- An entry that has been programmed heads the journal, committed (R537). -/
theorem programmed_entry {s : State} {o : FlashOp} {e : JEntry} (h : o.entry = some e) :
    (programmed s o true).flash.ops = s.flash.ops ∧ ∃ x, (programmed s o true).flash.journal.head? = some x ∧ x.kind = e.kind ∧
      x.detail = e.detail ∧ x.committed = true := by
  have hflash : (programmed s o true).flash = (journalAdd s (entryNow (bootAfter s o.work) e) true).flash := by
    unfold programmed
    rw [h]
    exact clearRecord_flash _ e
  rw [hflash]
  exact ⟨rfl, _, rfl, rfl, rfl, rfl⟩

/-- Settles O30: each point is the branch its verdict takes, by the lemma of that point. -/
theorem flashWorkEndsInOrderWithItsVerdict : Obligations.FlashWorkEndsInOrderWithItsVerdict := by
  refine ⟨fun s u signed h hr hc => ⟨fun hs ha hact => ?sound, fun hbad => ?unsound, ?mismatch, ?late⟩,
    fun s j h => ⟨fun hb hp hw => ⟨?passes, ?fails, fun ok => ?uncorrectable⟩, fun hw hp => ?slot, fun hw => ?early, fun hp hc hw hn => ?done⟩,
    fun s o rest h hr => ⟨exec_flashWriteDone h hr, fun e he hwork => ?oldest⟩⟩
  case sound =>
    rw [hs]
    exact ((exec_firmwareUpdateDone h hr hc).1 true).trans (congrArg Host.Outcome.next (verifyUpdate_of_sound ha hact))
  case unsound =>
    exact ((exec_firmwareUpdateDone h hr hc).1 signed).trans (congrArg Host.Outcome.next (verifyUpdate_of_unsound hbad))
  case mismatch => exact (exec_firmwareUpdateDone h hr hc).2.1
  case late => exact (exec_firmwareUpdateDone h hr hc).2.2
  case passes =>
    exact ((exec_lifecycleDone h).1 true .clean).trans (congrArg Host.Outcome.next (credential_of_first hb hp hw true .clean))
  case fails =>
    exact ((exec_lifecycleDone h).1 false .clean).trans (congrArg Host.Outcome.next (credential_of_first hb hp hw false .clean))
  case uncorrectable =>
    exact ((exec_lifecycleDone h).1 ok .uncorrectable).trans (congrArg Host.Outcome.next (credential_of_first hb hp hw ok .uncorrectable))
  case slot =>
    exact ⟨_, (exec_lifecycleDone h).2.1.trans (congrArg Host.Outcome.next (programSlot_of_wiped hw hp)), rfl, rfl, rfl⟩
  case early =>
    exact (exec_lifecycleDone h).2.1.trans (congrArg Host.Outcome.next (programSlot_of_unwiped hw))
  case done =>
    obtain ⟨hops, hmore⟩ := certStored_flash s j
    have hqueue := queueJournal_of_more (s := { certStored s j with sec := { (certStored s j).sec with keys := !j.tampered } })
      (hmore.trans hn) 8 (fld j.fromSt.toNat 0 ||| fld j.target.toNat 8) .lifecycle
    have hrow := (exec_lifecycleDone h).2.2.trans
      (congrArg Host.Outcome.next ((finishLife_of_programmed hp hc hw).trans hqueue))
    exact ⟨_, _, hrow, rfl, congrArg (· ++ _) hops, rfl, rfl⟩
  case oldest =>
    obtain ⟨hops, x, hx⟩ := programmed_entry (s := { s with flash := { s.flash with ops := rest } }) he
    refine ⟨_, x, exec_flashWriteDone h hr, ?_⟩
    rw [hwork]
    exact ⟨hops, hx⟩

end Sys2Proof.Machine
end

section
/-! SUPPORT. The wipe of the secure bank by tamper and glitch, and its record (R552, R553). -/

namespace Sys2Proof.Machine

/-- A wipe by tamper or glitch that finds no wipe and no lifecycle (R552). -/
theorem startWipe_of_quiet {s : State} (hw : s.sec.wiping = none) (hl : s.flash.life = none) (src : BitVec 2) : startWipe s src =
    { s with sec := { s.sec with
        tamper := s.sec.tamper || src != 3, glitch := s.sec.glitch || src == 3, keys := false, wiping := some src, retried := false } } := by
  unfold startWipe lifeTampered
  dsimp only
  rw [hw, hl]
  rfl

theorem exec_tamperAssert {s : State} (ha : armedTamper s = true) (hw : s.sec.wiping = none) (hl : s.flash.life = none) (which : Bool) :
    exec (.tamperAssert which) s = .next { s with sec := { s.sec with
      tamper := true, keys := false, wiping := some (if which then 2 else 1), retried := false } } := by
  refine congrArg Host.Outcome.next ((if_pos ha).trans ((startWipe_of_quiet hw hl _).trans ?_))
  cases which <;> simp

theorem exec_glitchDetect {s : State} (hc : coreRuns s = true) (hw : s.sec.wiping = none) (hl : s.flash.life = none) :
    exec .glitchDetect s = .next { s with sec := { s.sec with glitch := true, keys := false, wiping := some 3, retried := false } } := by
  refine congrArg Host.Outcome.next ((if_pos hc).trans ((startWipe_of_quiet hw hl _).trans ?_))
  simp

/-- The record of a wipe leaves what tells whether the core runs; in the secure bank it is appended (R553). -/
theorem recordWipe_keeps (s : State) (src : BitVec 2) (verified : Bool) : (recordWipe s src verified).boot = s.boot ∧
    (recordWipe s src verified).power = s.power ∧
    (recordWipe s src verified).sec = { s.sec with recTamper := s.sec.recTamper ++ [(src, verified)] } := by
  unfold recordWipe queueJournal
  dsimp only
  split
  · split <;> exact ⟨rfl, rfl, rfl⟩
  · exact ⟨rfl, rfl, rfl⟩

theorem coreRuns_congr {s t : State} (hb : t.boot = s.boot) (hp : t.power = s.power) : coreRuns t = coreRuns s := by
  unfold coreRuns armedTamper
  rw [hb, hp]

/-- A wipe by tamper or glitch whose read-back has failed twice: recorded, then the safe halt as the core allows (R553). -/
theorem wipeFailed_of_tamper {s : State} {src : BitVec 2} (h : src ≠ 0) :
    wipeFailed s src = bankHalt (recordWipe { s with sec := { s.sec with wiping := none, retried := false } } src false) := by
  unfold wipeFailed
  exact congrArg bankHalt (if_neg h)

theorem wipeVerified_of_tamper {s : State} {src : BitVec 2} (h : src ≠ 0) :
    wipeVerified s src = recordWipe { s with sec := { s.sec with wiping := none, retried := false } } src true := if_neg h

theorem exec_secureWipeDone {s : State} {src : BitVec 2} (hw : s.sec.wiping = some src) (ok : Bool) : exec (.secureWipeDone ok) s =
    .next (if ok then wipeVerified s src else if s.sec.retried then wipeFailed s src
      else { s with sec := { s.sec with retried := true } }) := by
  refine congrArg Host.Outcome.next ?_
  rw [hw]

/-- Settles O31: the start by `startWipe_of_quiet`, the end by the branch of the read-back and what the record keeps. -/
theorem tamperWipesTheSecureBank : Obligations.TamperWipesTheSecureBank := by
  intro s
  refine ⟨fun which ha hw hl => exec_tamperAssert ha hw hl which, exec_glitchDetect,
    fun src hw h0 => ⟨?verified, fun hr => ?repeated, fun hr hc => ?halts, fun hr hc => ?waits⟩⟩
  case verified =>
    exact (exec_secureWipeDone hw true).trans (congrArg Host.Outcome.next (wipeVerified_of_tamper h0))
  case repeated =>
    exact (exec_secureWipeDone hw false).trans (congrArg Host.Outcome.next (if_neg (ne_true_of_eq_false hr)))
  case halts =>
    obtain ⟨hboot, hpower, -⟩ := recordWipe_keeps { s with sec := { s.sec with wiping := none, retried := false } } src false
    have hruns := (coreRuns_congr hboot hpower).trans hc
    refine (exec_secureWipeDone hw false).trans (congrArg Host.Outcome.next ?_)
    refine (if_pos hr).trans ((wipeFailed_of_tamper h0).trans ((if_pos hruns).trans ?_))
    rw [hboot]
  case waits =>
    obtain ⟨hboot, hpower, hsec⟩ := recordWipe_keeps { s with sec := { s.sec with wiping := none, retried := false } } src false
    have hruns := (coreRuns_congr hboot hpower).trans hc
    have hhalt : wipeFailed s src = { recordWipe { s with sec := { s.sec with wiping := none, retried := false } } src false with
        sec := { (recordWipe { s with sec := { s.sec with wiping := none, retried := false } } src false).sec with wipeBad := true } } :=
      (wipeFailed_of_tamper h0).trans (if_neg (ne_true_of_eq_false hruns))
    refine ⟨_, (exec_secureWipeDone hw false).trans (congrArg Host.Outcome.next ((if_pos hr).trans hhalt)), ?_⟩
    rw [hsec]
    exact ⟨rfl, rfl, rfl⟩

end Sys2Proof.Machine
end

section
/-! SUPPORT. The flash under the actions of the stages: the end of playback, of uploads and of loads, and the close of a capture, leave it alone
(R205, R237, R521). -/

namespace Sys2Proof.Machine

theorem completeTag_flash (s : State) (f : Fn) (tag : BitVec 16) (st : Status) (p : Pay) : (completeTag s f tag st p).flash = s.flash :=
  told_flash (told_of_answersOnly (completeTag_answers s f tag st p))

theorem refFault_flash (s : State) (n : Stall) (cause block : Nat) (t : Time) : (refFault s n cause block t).flash = s.flash :=
  told_flash (sendRated_told _ _ _ _)

theorem queueRecs_flash (s : State) (n : Stall) (l : List Rec) : (queueRecs s n l).flash = s.flash := by
  unfold queueRecs
  exact ite_same (g := State.flash) rfl rfl

theorem marker_flash (s : State) (n : Stall) (kind : Nat) (t : Time) (d : BitVec 64) : (marker s n kind t d).flash = s.flash :=
  ite_same (queueRecs_flash _ _ _) rfl

theorem notePeak_flash (s : State) (n : Stall) : (notePeak s n).flash = s.flash := rfl

theorem putSlice_flash (s : State) (l : Fin 4) (b : FbBlock) : (putSlice s l b).flash = s.flash := by
  unfold putSlice
  split <;> rfl

theorem placeIn_flash (s : State) (c : Capture) (l : Fin 4) (b : FbBlock) (part : FbPart) : (placeIn s c l b part).flash = s.flash :=
  (notePeak_flash _ _).trans ((modCap_flash _ _ _).trans (putSlice_flash _ _ _))

theorem putBlock_flash (l : Fin 4) (s : State) (b : FbBlock) : (putBlock l s b).flash = s.flash := by
  have wait : State.flash { s with fbd := { s.fbd with outbox := vmod s.fbd.outbox l fun q => q ++ [b] } } = s.flash := rfl
  unfold putBlock
  dsimp only
  split
  · exact ite_same (putSlice_flash _ _ _) wait
  · split
    · exact wait
    · refine ite_same wait ?_
      split
      · exact wait
      · exact placeIn_flash _ _ _ _ _

theorem placeAt_flash (s : State) (n : Stall) (c : Capture) (blk : Nat) (recs : List Rec) (typed : Bool) :
    (placeAt s n c blk recs typed).flash = s.flash := by
  unfold placeAt
  split
  · rfl
  · exact putBlock_flash _ _ _

theorem placeBlock_flash (s : State) (n : Stall) (typed : Bool) (recs : List Rec) : (placeBlock s n typed recs).flash = s.flash := by
  unfold placeBlock
  split
  · rfl
  · exact placeAt_flash _ _ _ _ _ _

theorem addRec_flash (s : State) (n : Stall) (r : Rec) : (addRec s n r).flash = s.flash := by
  unfold addRec
  split
  · rfl
  · exact ite_same (modCap_flash _ _ _) (placeBlock_flash _ _ _ _)

theorem addRecs_flash (s : State) (n : Stall) (l : List Rec) : (addRecs s n l).flash = s.flash := foldl_same (fun s r => addRec_flash s n r) l s

theorem fillPart_flash (s : State) (n : Stall) : (fillPart s n).flash = s.flash := by
  unfold fillPart
  split
  · rfl
  · exact ite_same rfl (addRecs_flash _ _ _)

theorem writeKey_flash (s : State) (n : Stall) (cause : Nat) : (writeKey s n cause).flash = s.flash := by
  unfold writeKey
  split
  · rfl
  · refine ite_same rfl ?_
    dsimp only
    split
    · exact (addRec_flash _ _ _).trans (addRec_flash _ _ _)
    · exact (addRec_flash _ _ _).trans (addRec_flash _ _ _)
    · exact addRec_flash _ _ _

theorem dueKey_flash (s : State) (n : Stall) : (dueKey s n).flash = s.flash := by
  unfold dueKey
  split
  · rfl
  · exact ite_same (writeKey_flash _ _ _) rfl

theorem walkEnd_flash (s : State) (n : Stall) : (walkEnd s n).flash = s.flash := by
  unfold walkEnd
  split
  · rfl
  · refine ite_same rfl ?_
    have key (k : Nat) : (dueKey (modCap s n fun c => { c with walkIdx := k }) n).flash = s.flash :=
      (dueKey_flash _ _)
    dsimp only
    split
    · exact key _
    · exact ite_same (key _) ((addRec_flash _ _ _).trans ((key _)))

theorem placeHeader_flash (s : State) (n : Stall) (uid start : Nat) (recs : List Rec) : (placeHeader s n uid start recs).flash = s.flash := by
  unfold placeHeader
  dsimp only
  split
  · rfl
  · exact putBlock_flash _ _ _

theorem flushOverrun_flash (s : State) (n : Stall) : (flushOverrun s n).flash = s.flash := by
  unfold flushOverrun
  split
  · rfl
  · exact ite_same rfl (marker_flash _ _ _ _ _)

theorem sideRest_flash (s : State) (n : Stall) : (sideRest s n).1.flash = s.flash :=
  (foldl_same (fun s k => modChain_flash s k _) _ _)

theorem closeWritten_flash (s : State) (n : Stall) (c : Capture) (endT : Time) : (closeWritten s n c endT).flash = s.flash := by
  refine (fillPart_flash _ _).trans ((addRec_flash _ _ _).trans (?_))
  exact (addRecs_flash _ _ _).trans ((sideRest_flash _ _).trans (flushOverrun_flash _ _))

theorem askDense_flash (s : State) (n : Stall) (k : Nat) : (askDense s n k).flash = s.flash := by
  unfold askDense
  dsimp only
  split <;> rfl

theorem askUpto_flash (s : State) (n : Stall) (stop : Nat) : (askUpto s n stop).flash = s.flash :=
  (foldl_same (fun s k => askDense_flash s n k) _ _)

theorem fillSlice_flash (s : State) (n : Stall) : (fillSlice s n).flash = s.flash :=
  (askUpto_flash _ _ _).trans (modRef_flash _ _ _)

theorem endPlayback_flash (s : State) (n : Stall) : (endPlayback s n).flash = s.flash := by
  have stop (f : Engine → Engine) : (modEng (modRef s n fun r => { r with play := none }) n f).flash = s.flash :=
    (modEng_flash _ _ _)
  exact ite_same rfl (ite_same ((fillSlice_flash _ _).trans (stop _)) (stop _))

theorem refreshTrigOut_flash (s : State) : (refreshTrigOut s).flash = s.flash := rfl

theorem stopEngine_flash (s : State) (n : Stall) : (stopEngine s n).flash = s.flash :=
  refreshTrigOut_flash _

theorem abortPlayback_flash (s : State) (n : Stall) (cause : Nat) : (abortPlayback s n cause).flash = s.flash := by
  unfold abortPlayback
  split
  · rfl
  · exact (endPlayback_flash _ _).trans ((refFault_flash _ _ _ _ _).trans (marker_flash _ _ _ _ _))

theorem putJob_flash (s : State) (u v : UploadJob) : (putJob s u v).flash = s.flash := rfl

theorem readChunk_flash (s : State) (u : UploadJob) : (readChunk s u).flash = s.flash := by
  refine (putJob_flash _ _ _).trans (foldl_same (g := State.flash) (fun s x => ?_) _ s)
  dsimp only
  split <;> rfl

theorem issueChunks_flash (k : Nat) (s : State) : (issueChunks k s).flash = s.flash := by
  induction k generalizing s with
  | zero => rfl
  | succ k ih =>
    unfold issueChunks
    split
    · rfl
    · exact (ih _).trans (readChunk_flash _ _)

theorem takeComp_flash (s : State) (k : Fin 4) : (takeComp s k).flash = s.flash := by
  unfold takeComp
  refine ite_same rfl ?_
  split
  · rfl
  · split <;> rfl

theorem startUploads_flash (s : State) : (startUploads s).flash = s.flash :=
  (foldl_same takeComp_flash _ _).trans (issueChunks_flash _ _)

theorem endUpload_flash (s : State) (u : UploadJob) (st : Status) : (endUpload s u st).flash = s.flash := by
  unfold endUpload
  dsimp only
  split
  · exact startUploads_flash _
  · refine (startUploads_flash _).trans ((foldl_same (fun s c => completeTag_flash s _ _ _ _) _ _).trans ?_)
    exact completeTag_flash _ _ _ _ _

theorem reapUploads_flash (k : Nat) (s : State) : (reapUploads k s).flash = s.flash := by
  induction k generalizing s with
  | zero => rfl
  | succ k ih =>
    unfold reapUploads
    split
    · rfl
    · exact (ih _).trans (endUpload_flash _ _ _)

theorem killUploads_flash (p : UploadJob → Bool) (k : Nat) (s : State) : (killUploads p k s).flash = s.flash := by
  induction k generalizing s with
  | zero => rfl
  | succ k ih =>
    unfold killUploads
    split
    · rfl
    · exact (ih _).trans (endUpload_flash _ _ _)

theorem stopUploads_flash (s : State) (p : UploadJob → Bool) (st : Status) : (stopUploads s p st).flash = s.flash :=
  reapUploads_flash _ _

theorem endLoad_flash (s : State) (j : LoadJob) (st : Status) (p : Pay) : (endLoad s j st p).flash = s.flash :=
  (completeTag_flash _ _ _ _ _).trans (modRef_flash _ _ _)

theorem deleteHeld_flash (s : State) (n : Stall) (keep : Seg → Bool) : (deleteHeld s n keep).flash = s.flash :=
  killUploads_flash _ _ _

theorem changePolder_flash (s : State) (n : Stall) (parcels refArea : List Nat) : (changePolder s n parcels refArea).1.flash = s.flash :=
  deleteHeld_flash _ _ _

theorem applyRetire_flash (s : State) (n : Stall) : (applyRetire s n).flash = s.flash :=
  ite_same (rfl.trans (changePolder_flash s n _ _)) rfl

theorem markEnd_flash (s : State) (n : Stall) (reason : Nat) : (markEnd s n reason).flash = s.flash := rfl

theorem holdSegment_flash (s : State) (n : Stall) (c : Capture) (cause tail : Nat) (endT last : Time) :
    (holdSegment s n c cause tail endT last).flash = s.flash := by
  have stopped (y : List Rec) : (endPlayback (stopEngine (placeHeader s n c.seg.uid c.seg.start y) n) n).flash = s.flash :=
    (endPlayback_flash _ _).trans ((stopEngine_flash _ _).trans (placeHeader_flash _ _ _ _ _))
  have held (f : Engine → Engine) (g : StallState → StallState) (h : Capture → Capture) (y : List Rec) :
      (modCap (modStall (modEng (endPlayback (stopEngine (placeHeader s n c.seg.uid c.seg.start y) n) n) n f) n g) n h).flash = s.flash :=
    stopped y
  unfold holdSegment
  exact ite_same (g := State.flash) ((markEnd_flash _ _ _).trans (held _ _ _ _)) (held _ _ _ _)

theorem closeTyped_flash (s : State) (n : Stall) (cause : Nat) (stop : Time) : (closeTyped s n cause stop).flash = s.flash := by
  have start : (if stop = s.tb.now then walkEnd s n else s).flash = s.flash := ite_same (walkEnd_flash _ _) rfl
  unfold closeTyped
  generalize (if stop = s.tb.now then walkEnd s n else s) = u at start ⊢
  dsimp only
  split
  · exact start
  · next c0 _ =>
    have written : (closeWritten u n c0 (closeTime c0 stop)).flash = s.flash := (closeWritten_flash _ _ _ _).trans start
    split
    · exact written
    · exact (holdSegment_flash _ _ _ _ _ _ _).trans written

theorem closeDense_flash (s : State) (n : Stall) (c : Capture) (cause : Nat) (moment : Time) : (closeDense s n c cause moment).flash = s.flash :=
  (modCap_flash _ _ _).trans ((modEng_flash _ _ _).trans (stopEngine_flash _ _))

theorem closeNow_flash (s : State) (n : Stall) (c : Capture) (cause : Nat) : (closeNow s n c cause).flash = s.flash :=
  ite_same (closeDense_flash _ _ _ _ _) (closeTyped_flash _ _ _ _)

theorem closeFill_flash (s : State) (n : Stall) (c : Capture) : (closeFill s n c).flash = s.flash := by
  unfold closeFill
  split
  · rfl
  · exact ite_same (closeDense_flash _ _ _ _ _) (closeTyped_flash _ _ _ _)

theorem finishArm_flash (s : State) (n : Stall) (c : Capture) (reason : BitVec 8) : (finishArm s n c reason).flash = s.flash := by
  unfold finishArm
  refine (applyRetire_flash _ _).trans ((modStall_flash _ _ _).trans ((stopEngine_flash _ _).trans ?_))
  exact (foldl_same (fun s q => completeTag_flash s _ _ _ _) _ _).trans (ite_same rfl (told_flash (told_of_answersOnly (sendEvent_answers _ _ _))))

theorem tryFinish_flash (s : State) (n : Stall) : (tryFinish s n).flash = s.flash := by
  unfold tryFinish
  split
  · rfl
  · split
    · rfl
    · exact ite_same rfl (finishArm_flash _ _ _ _)

theorem raiseCause_flash (s : State) (n : Stall) (c : Capture) (cause reason : Nat) : (raiseCause s n c cause reason).flash = s.flash := by
  unfold raiseCause
  refine ite_same rfl ?_
  dsimp only
  split
  · rfl
  · exact ite_same rfl rfl

theorem closeCapture_flash (s : State) (n : Stall) (cause : Nat) (reason : Option Nat) : (closeCapture s n cause reason).flash = s.flash := by
  have raised (c : Capture) : (modCap (raiseCause s n c cause (reason.getD 0)) n dropOwed).flash = s.flash := raiseCause_flash _ _ _ _ _
  unfold closeCapture
  dsimp only
  split
  · rfl
  · refine (tryFinish_flash _ _).trans ((markEnd_flash _ _ _).trans ?_)
    exact ite_same (raised _) (ite_same ((closeFill_flash _ _ _).trans (raised _)) ((closeNow_flash _ _ _ _).trans (raised _)))

theorem closeAll_flash (s : State) (cause reason : Nat) : (closeAll s cause reason).flash = s.flash :=
  foldl_same (fun s n => closeCapture_flash s n _ _) _ _

/-! ## The stages -/

theorem shedMarkers_flash (s : State) (stage : Nat) : (shedMarkers s stage).flash = s.flash :=
  foldl_same (g := State.flash) (fun s n => marker_flash s n _ _ _) _ _

theorem shedClose_flash (s : State) (stage cause reason : Nat) : (shedClose s stage cause reason).flash = s.flash :=
  (closeAll_flash _ _ _).trans (foldl_same (g := State.flash) (fun s n => marker_flash s n _ _ _) _ _)

theorem stageOne_flash (s : State) : (stageOne s).flash = s.flash := by
  unfold stageOne
  refine (shedMarkers_flash _ _).trans ((foldl_same (g := State.flash) (fun s j => endLoad_flash s j _ _) _ _).trans ?_)
  exact stopUploads_flash _ _ _

theorem cancelStarts_flash (s : State) (n : Stall) : (cancelStarts s n).flash = s.flash := by
  have fault (s : State) (t : Time) : (refFault s n 3 0 t).flash = s.flash := refFault_flash _ _ _ _ _
  unfold cancelStarts
  dsimp only
  split
  · split
    · exact (fault _ _).trans (fault _ _)
    · exact fault _ _
  · split
    · exact fault _ _
    · rfl

theorem stopChains_flash (s : State) (chains : BitVec 8) : (stopChains s chains).flash = s.flash := rfl

theorem stageTwo_flash (s : State) : (stageTwo s).flash = s.flash := by
  have hstarts : (allStalls.foldl (fun s n => cancelStarts (abortPlayback s n 3) n) s).flash = s.flash :=
    foldl_same (g := State.flash) (fun s n => (cancelStarts_flash _ n).trans (abortPlayback_flash s n 3)) _ _
  exact (shedMarkers_flash _ _).trans ((stopChains_flash _ _).trans hstarts)

theorem stageThree_flash (s : State) (heat : Bool) : (stageThree s heat).flash = s.flash :=
  ite_same (g := State.flash) (shedClose_flash _ _ _ _) (shedClose_flash _ _ _ _)

theorem stageAction_flash (heat : Bool) (s : State) (k : Nat) : (stageAction heat s k).flash = s.flash :=
  ite_same (g := State.flash) (stageOne_flash _) (ite_same (g := State.flash) (stageTwo_flash _) (stageThree_flash _ _))

theorem runStages_flash (s : State) (heat : Bool) : (runStages s heat).flash = s.flash :=
  foldl_same (g := State.flash) (stageAction_flash heat) _ s

end Sys2Proof.Machine
end

section
/-! SUPPORT. Heat: the highest sensor, the stages entered and left, the trip, and the end of a power transition (R505, R521 to R529). -/

namespace Sys2Proof.Machine

/-! ## The highest sensor -/

/-- The hotter of two readings (R524). -/
def hotter (a b : BitVec 16) : BitVec 16 := if a.toInt < b.toInt then b else a

theorem hotter_spec (a b : BitVec 16) : (hotter a b = a ∨ hotter a b = b) ∧ a.toInt ≤ (hotter a b).toInt ∧ b.toInt ≤ (hotter a b).toInt := by
  unfold hotter
  split
  · exact ⟨Or.inr rfl, by omega, by omega⟩
  · exact ⟨Or.inl rfl, by omega, by omega⟩

/-- The hottest of readings is one of them, and none is hotter. -/
theorem foldl_hotter (l : List (BitVec 16)) (a : BitVec 16) : (l.foldl hotter a = a ∨ l.foldl hotter a ∈ l) ∧
    a.toInt ≤ (l.foldl hotter a).toInt ∧ ∀ x ∈ l, x.toInt ≤ (l.foldl hotter a).toInt := by
  induction l generalizing a with
  | nil => exact ⟨Or.inl rfl, le_refl _, nofun⟩
  | cons b l ih =>
    obtain ⟨hone, hall⟩ := hotter_spec a b
    obtain ⟨hmem, hge, hrest⟩ := ih (hotter a b)
    rw [List.foldl_cons]
    refine ⟨?_, hall.1.trans hge, fun x hx => ?_⟩
    · rcases hmem with h | h
      · rw [h]
        rcases hone with e | e <;> rw [e]
        · exact Or.inl rfl
        · exact Or.inr List.mem_cons_self
      · exact Or.inr (List.mem_cons_of_mem _ h)
    · rcases List.mem_cons.1 hx with rfl | h
      · exact hall.2.trans hge
      · exact hrest x h

/-- Tj is the highest sensor's reading (R524). -/
theorem hottest_spec (q : Vector (BitVec 16) 8) :
    (∃ i : Fin 8, hottest q = q[i]) ∧ ∀ i : Fin 8, q[i].toInt ≤ (hottest q).toInt := by
  obtain ⟨hmem, -, hge⟩ := foldl_hotter q.toArray.toList q[0]
  refine ⟨?_, fun i => hge q[i] (by simp)⟩
  rcases hmem with h | h
  · exact ⟨0, h⟩
  · obtain ⟨i, hi, e⟩ := List.mem_iff_getElem.1 h
    exact ⟨⟨i, by simpa using hi⟩, e.symm⟩

/-! ## A stage entered -/

theorem thermalEvent_told (s : State) (cause : Nat) : told s (thermalEvent s cause) := sendRated_told _ _ _ _

theorem shedStage_congr {s t : State} (hs : t.power.supply = s.power.supply) (ht : t.power.thermal = s.power.thermal) :
    shedStage t = shedStage s := by
  unfold shedStage
  rw [hs, ht]

/-- The actions of a stage, with the event before them: the power state notes the event and what is done (R521). -/
theorem runStages_shedEvent (s : State) (src : Nat) (heat : Bool) : ∃ x, (runStages (shedEvent s src) heat).power =
    { s.power with told := shedStage s, done := max s.power.done (min 3 (shedStage s)), stage3At := x } := by
  obtain ⟨x, hx⟩ := runStages_power (shedEvent s src) heat
  rw [shedEvent_stage, shedEvent_power] at hx
  exact ⟨x, hx⟩

/-- A thermal stage is entered: it stands, and its actions are done (R521, R525). -/
theorem enterHeat_power (s : State) (k : Nat) : (enterHeat s k).power.thermal = k ∧ (enterHeat s k).power.tj = s.power.tj ∧
    (enterHeat s k).power.done = max s.power.done (min 3 (shedStage (enterHeat s k))) := by
  unfold enterHeat
  dsimp only
  generalize hv : ({ s with power := { s.power with thermal := k, peakStage := max s.power.peakStage k } } : State) = v
  have hevent := told_power (thermalEvent_told v (if k = 3 then 3 else 1))
  obtain ⟨x, hx⟩ := runStages_shedEvent (thermalEvent v (if k = 3 then 3 else 1)) 4 true
  rw [shedStage_congr (s := thermalEvent v (if k = 3 then 3 else 1)) (by rw [hx]) (by rw [hx]), hx, hevent]
  subst hv
  exact ⟨rfl, rfl, rfl⟩

theorem awake_not_dormant {s : State} (h : awake s = true) : s.power.st ≠ .dormant := by
  unfold awake at h
  rw [Bool.and_eq_true] at h
  simpa using h.2

theorem exec_tjSample_of_awake {s : State} (h : awake s = true) (q : Vector (BitVec 16) 8) (mv : BitVec 16) :
    exec (.tjSample ⟨q, mv⟩) s = .next (if s.power.thermal < heatStage (hottest q).toInt
      then enterHeat { sampleTj s q with power := { (sampleTj s q).power with vdd := mv } } (heatStage (hottest q).toInt)
      else { sampleTj s q with power := { (sampleTj s q).power with vdd := mv } }) := by
  refine congrArg Host.Outcome.next ((if_neg fun ht => awake_not_dormant h ht.2).trans ((if_neg ?_).trans rfl))
  rw [h]
  exact Bool.false_ne_true

/-! ## A stage left -/

theorem le_foldl_max {l : List (Fin 3)} {m : Nat} : m ≤ l.foldl (fun m k => max m (k.val + 1)) m ∧
    ∀ k ∈ l, k.val + 1 ≤ l.foldl (fun m k => max m (k.val + 1)) m := by
  induction l generalizing m with
  | nil => exact ⟨le_refl _, nofun⟩
  | cons a l ih =>
    obtain ⟨hm, hl⟩ := ih (m := max m (a.val + 1))
    rw [List.foldl_cons]
    refine ⟨by omega, fun k hk => ?_⟩
    rcases List.mem_cons.1 hk with rfl | h
    · omega
    · exact hl k h

/-- Above the stage that the heat falls to, every leaving condition is met (R522). -/
theorem cooled_above_heatLeft (s : State) (k : Fin 3) (hk : heatLeft s ≤ k.val) (hlt : k.val < s.power.thermal) : cooled s k = true := by
  by_contra hc
  have hmem : k ∈ (List.finRange 3).filter fun k => decide (k.val < s.power.thermal) && !cooled s k :=
    List.mem_filter.2 ⟨List.mem_finRange k, by simp [hlt, hc]⟩
  have hle : k.val + 1 ≤ heatLeft s := le_foldl_max.2 k hmem
  omega

theorem fallEvents_told (s : State) (old peak : Nat) : told s (fallEvents s old peak) := by
  have hfirst : told s (if 2 ≤ old ∧ s.power.thermal ≤ 1 ∧ 3 ≤ peak then thermalEvent s 4 else s) :=
    told_ite (thermalEvent_told _ _) (told_refl _)
  exact told_trans hfirst (told_ite (thermalEvent_told _ _) (told_refl _))

/-- The heat has fallen to a stage, and what is above it is to be done again (R521, R522). -/
def fallen (s : State) : State := undone { s with power := { s.power with
  thermal := heatLeft s, peakStage := if heatLeft s ≤ 1 then heatLeft s else s.power.peakStage } }

theorem exec_thermalStageLeave_of_left {s : State} (h : heatLeft s < s.power.thermal) (h4 : s.power.thermal ≠ 4) (ha : awake s = true) :
    exec .thermalStageLeave s = .next (shedEvent (fallEvents (fallen s) s.power.thermal s.power.peakStage) 4) := by
  refine congrArg Host.Outcome.next (if_neg ?_)
  rintro (hle | he | hn)
  · exact absurd hle (Nat.not_le.2 h)
  · exact h4 he
  · exact hn ha

theorem thermalStageLeave_power (s : State) (old peak : Nat) :
    (shedEvent (fallEvents (fallen s) old peak) 4).power =
      { (fallen s).power with told := shedStage (fallen s) } := by
  have htold := told_power (fallEvents_told (fallen s) old peak)
  rw [shedEvent_power, htold, shedStage_congr (congrArg Power.supply htold) (congrArg Power.thermal htold)]

/-! ## The trip -/

theorem programmed_power (s : State) (o : FlashOp) (ok : Bool) : (programmed s o ok).power = s.power := by
  unfold programmed
  split
  · exact ite_same (g := State.power) rfl rfl
  · exact ite_same (g := State.power) (ite_same (g := State.power) rfl rfl) rfl

/-- The update at a trip ends without a completion (R446). -/
def updateEnded (s : State) : State := match s.flash.upd with
  | none => s
  | some u => setUpd s (some { u with ended := true })

/-- What the flash's program had come to at a trip (R529). -/
def programEnded (s : State) (fl : FlashAt) : State := match s.flash.ops, fl with
  | o :: _, .recorded => abortUpdate (programmed s o false)
  | o :: _, .committed => if o.work = Work.update then setUpd (programmed s o true) none else abortUpdate (programmed s o true)
  | _, _ => abortUpdate s

theorem tripFlash_eq (s : State) (fl : FlashAt) : tripFlash s fl = { programEnded (updateEnded s) fl with
    flash := { (programEnded (updateEnded s) fl).flash with noMore := true, ops := [] } } := rfl

theorem updateEnded_power (s : State) : (updateEnded s).power = s.power := by
  unfold updateEnded
  split <;> rfl

theorem programEnded_power (s : State) (fl : FlashAt) : (programEnded s fl).power = s.power := by
  have aborted (u : State) : (abortUpdate u).power = u.power := (abortUpdate_upd u).2.1
  unfold programEnded
  split
  · exact (aborted _).trans (programmed_power _ _ _)
  · exact ite_same (g := State.power) (programmed_power _ _ _) ((aborted _).trans (programmed_power _ _ _))
  · exact aborted s

/-- A trip stops the flash and leaves the power state (R529). -/
theorem tripFlash_spec (s : State) (fl : FlashAt) : (tripFlash s fl).power = s.power ∧ (tripFlash s fl).flash.noMore = true ∧
    (tripFlash s fl).flash.ops = [] := by
  rw [tripFlash_eq]
  exact ⟨(programEnded_power _ fl).trans (updateEnded_power s), rfl, rfl⟩

/-- Stage 4 of heat stands at a trip, before its actions (R529). -/
def heated (s : State) (fl : FlashAt) (mv : BitVec 16) : State :=
  { tripFlash s fl with power := { (tripFlash s fl).power with vdd := mv, thermal := 4, peakStage := 4 } }

/-- The actions of a trip's stages, and the links of the ring down (R501, R521, R529). -/
def tripStages (s : State) (fl : FlashAt) (mv : BitVec 16) : State := queraDown (runStages (shedEvent (heated s fl mv) 4) true)

theorem exec_thermalTrip {s : State} (fl : FlashAt) (mv : BitVec 16) (ha : awake s = true) (ht : s.power.tripped = false) :
    exec (.thermalTrip fl mv) s = .next { tripStages s fl mv with
      power := { (tripStages s fl mv).power with tripped := true, target := some { dest := .dormant, when := (tripStages s fl mv).tb.now } }
      sec := { (tripStages s fl mv).sec with recTrip := some (tripStages s fl mv).power.tj }
      pins := { (tripStages s fl mv).pins with thermTrip := true, trigOut := false } } := by
  refine congrArg Host.Outcome.next (if_neg ?_)
  rw [ha, ht]
  exact Bool.false_ne_true

theorem tripStages_spec (s : State) (fl : FlashAt) (mv : BitVec 16) : (tripStages s fl mv).power.thermal = 4 ∧
    (tripStages s fl mv).power.tj = s.power.tj ∧ (tripStages s fl mv).power.done = max s.power.done 3 ∧
    (tripStages s fl mv).flash.noMore = true ∧ (tripStages s fl mv).flash.ops = [] := by
  obtain ⟨hpower, hmore, hops⟩ := tripFlash_spec s fl
  obtain ⟨x, hx⟩ := runStages_shedEvent (heated s fl mv) 4 true
  have hfoot := queraDown_footed (runStages (shedEvent (heated s fl mv) 4) true)
  have hpow : (tripStages s fl mv).power = _ := (congrArg (fun v => v.2.1) hfoot).trans hx
  have hflash : (tripStages s fl mv).flash = (tripFlash s fl).flash :=
    (congrArg (fun v => v.2.2) hfoot).trans ((runStages_flash _ _).trans (told_flash (shedEvent_told _ _)))
  have hthermal : (heated s fl mv).power.thermal = 4 := rfl
  have hstage : min 3 (shedStage (heated s fl mv)) = 3 := by
    unfold shedStage
    rw [hthermal]
    omega
  rw [hpow, hflash]
  refine ⟨rfl, (congrArg Power.tj hpower :), ?_, hmore, hops⟩
  exact (congrArg (max _) hstage).trans (congrArg (fun p => max p.done 3) hpower)

/-! ## The end of a transition -/

section
variable {s : State} {p : PowerTarget} (bad : BitVec 4) (h : s.power.target = some p)
include h

theorem exec_powerTransitionDone_of_tripped (ht : s.power.tripped = true) :
    exec (.powerTransitionDone bad) s = .next (if closuresOver s then finishTrip s else s) := by
  refine congrArg Host.Outcome.next ?_
  rw [h]
  exact if_pos ht

theorem exec_powerTransitionDone_of_entering (ht : s.power.tripped = false) (hd : s.power.st ≠ .dikewatch ∨ p.dest ≠ .run)
    (hm : mayEnter s p.dest = true) : exec (.powerTransitionDone bad) s = .next (enterState (completeLower s p) p bad) := by
  refine congrArg Host.Outcome.next ?_
  rw [h]
  refine (if_neg (ne_true_of_eq_false ht)).trans (if_neg ?_)
  rintro (⟨h1, h2⟩ | hn)
  · exact hd.elim (fun k => k h1) fun k => k h2
  · exact hn hm

end

/-- The state entered is the one the transition was for, and the transition is over (R444, R505). -/
theorem enterState_power (s : State) {p : PowerTarget} (bad : BitVec 4) (h : p.dest ≠ .off) :
    (enterState s p bad).power.st = p.dest ∧ (enterState s p bad).power.target = none := by
  cases hd : p.dest with
  | off => exact absurd hd h
  | dormant =>
    unfold enterState
    rw [hd]
    exact ⟨rfl, rfl⟩
  | dikewatch =>
    unfold enterState
    rw [hd]
    exact ⟨rfl, rfl⟩
  | ready =>
    unfold enterState
    rw [hd]
    exact ⟨rfl, rfl⟩
  | run =>
    have hview := (completeRun_wakeView (enterRun s bad) p).trans (enterRun_wakeView s bad)
    unfold enterState
    rw [hd]
    exact ⟨wakeView_st hview, wakeView_target hview⟩

theorem finishTrip_spec (s : State) : (finishTrip s).power.st = .dormant ∧ (finishTrip s).boot.phase = .inReset ∧
    (finishTrip s).sec.recTrip = s.sec.recTrip ∧ (finishTrip s).dram.mem = [] := ⟨rfl, rfl, rfl, rfl⟩

/-- Settles O57: the highest sensor by induction, a stage entered or left and the trip by what the actions leave of the power state, a transition by
the state it enters. -/
theorem heatAndTransitionsTakeTheirCourse : Obligations.HeatAndTransitionsTakeTheirCourse := by
  intro s
  refine ⟨fun q mv v hv => ⟨hottest_spec q, rfl, rfl, fun ha => ⟨fun hlt => ?enters, fun hle => ?stays⟩, fun ht hst => ?tripped⟩,
    ⟨cooled_above_heatLeft s, fun hlt h4 ha => ?leaves, fun hno => ?keeps⟩, fun fl mv ha ht => ?trip,
    fun p bad hp => ⟨fun ht hc => ?finishes, fun ht hc => ?waits, fun ht hoff hd hm => ?arrives⟩⟩
  case enters =>
    have hrow := (exec_tjSample_of_awake ha q mv).trans (congrArg Host.Outcome.next (if_pos hlt))
    rw [← hv] at hrow
    obtain ⟨hthermal, htj, hdone⟩ := enterHeat_power v (heatStage (hottest q).toInt)
    refine ⟨hrow, _, hrow, hthermal, htj.trans ?_, hdone.trans ?_⟩
    · rw [hv]
      rfl
    · have hold : v.power.done = s.power.done := by
        rw [hv]
        rfl
      rw [hold]
  case stays =>
    rw [exec_tjSample_of_awake ha q mv, if_neg (Nat.not_lt.2 hle), hv]
  case tripped => exact congrArg Host.Outcome.next (if_pos ⟨ht, hst⟩)
  case leaves =>
    have hpower := thermalStageLeave_power s s.power.thermal s.power.peakStage
    refine ⟨_, exec_thermalStageLeave_of_left hlt h4 ha, ?_⟩
    rw [shedStage_congr (s := fallen s) (by rw [hpower]) (by rw [hpower]), hpower]
    exact ⟨rfl, rfl, rfl⟩
  case keeps =>
    refine congrArg Host.Outcome.next (if_pos ?_)
    rcases hno with h | h | h
    · exact Or.inl h
    · exact Or.inr (Or.inl h)
    · exact Or.inr (Or.inr (ne_true_of_eq_false h))
  case trip =>
    obtain ⟨hthermal, htj, hdone, hmore, hops⟩ := tripStages_spec s fl mv
    exact ⟨_, exec_thermalTrip fl mv ha ht, rfl, hthermal, hdone, rfl, rfl, hmore, hops, congrArg some htj, rfl⟩
  case finishes =>
    exact ⟨_, (exec_powerTransitionDone_of_tripped bad hp ht).trans (congrArg Host.Outcome.next (if_pos hc)), finishTrip_spec s⟩
  case waits =>
    exact (exec_powerTransitionDone_of_tripped bad hp ht).trans (congrArg Host.Outcome.next (if_neg (ne_true_of_eq_false hc)))
  case arrives =>
    exact ⟨_, exec_powerTransitionDone_of_entering bad hp ht hd hm, enterState_power _ bad hoff⟩

end Sys2Proof.Machine
end
